-- ==== Sys2Proof/Word.lean ====
section
/-! DEFINITION. The word types of the device and the sparse tables the state is made of. -/

namespace Sys2Proof

/-- A scalar register (R77: 64 bits). -/
abbrev Word := BitVec 64
/-- One byte of memory. -/
abbrev Byte := BitVec 8
/-- A lane of a vector register (R49: 32 bits). -/
abbrev Lane := BitVec 32
/-- A vector register (R77: 512 bits, lane L in bits [32L + 31 : 32L]). -/
abbrev VReg := BitVec 512

/-- A sparse table by number. An unlisted number holds the table's default, which every reader names. -/
abbrev AMap (α : Type) := List (Nat × α)

/-- The entry of a table, or the default `d` where the table lists none. -/
def AMap.get {α : Type} (d : α) : AMap α → Nat → α
  | [], _ => d
  | (k, v) :: t, n => if k = n then v else AMap.get d t n

/-- The table with one entry written; keys stay rising. -/
def AMap.put {α : Type} : AMap α → Nat → α → AMap α
  | [], n, w => [(n, w)]
  | (k, v) :: t, n, w =>
    if k = n then (k, w) :: t
    else if n < k then (n, w) :: (k, v) :: t
    else (k, v) :: AMap.put t n w

/-- Whether the table lists a number. -/
def AMap.has {α : Type} (m : AMap α) (n : Nat) : Bool := m.any (fun e => e.1 == n)

/-- The table without one entry. -/
def AMap.del {α : Type} (m : AMap α) (n : Nat) : AMap α := m.filter (fun e => e.1 != n)

/-- The table with every entry changed by one function of its number and value. -/
def AMap.mapV {α : Type} (m : AMap α) (f : Nat → α → α) : AMap α := m.map (fun e => (e.1, f e.1 e.2))

/-- The first number, rising, whose entry satisfies a test. -/
def AMap.findKey {α : Type} (m : AMap α) (f : Nat → α → Bool) : Option Nat :=
  (m.find? (fun e => f e.1 e.2)).map (·.1)

end Sys2Proof
end

