-- ==== Sys2Proof/Config.lean ====
section
/-! DEFINITION. What an implementation fixes, and the free values of the spec. A constant without a body is a value
the spec leaves open: no proof can see it, so a claim holds whatever it is. -/

namespace Sys2Proof.Config

/-- Number of a memory, mesh or engine latency drawn so far ↦ that latency in cycles (R19 gives none; DESIGN CHOICE, log 2). -/
opaque latency : Nat → Nat

/-- The home L2 slice of a 256-byte unit (R10 gives no hash; DESIGN CHOICE, log 10). -/
opaque sliceOf : Nat → Nat

/-- Whether a combinable operation, by its number, gathers in a U line (R273 says may; DESIGN CHOICE, log 11). -/
opaque gathers : Nat → Bool

/-- Whether two requests, by their numbers, meet in one combining switch (R276 does not place the switches; DESIGN CHOICE, log 11). -/
opaque sameSwitch : Nat → Nat → Bool

/-- Number of a replacement in a PLB or clearance cache ↦ the entry that makes room (R286, R288 give no rule; DESIGN CHOICE, log 12). -/
opaque replaced : Nat → Nat

/-- The CODE of each mailbox message (R416 gives no numbers; DESIGN CHOICE, log 13). -/
opaque mailboxCode : Nat → BitVec 16

/-- SHAKE256 with a 256-bit output (R411, R412 name it; the spec does not define it; DESIGN CHOICE, log 13). -/
opaque shake256 : List Byte → BitVec 256

/-- XMSS: the root of the tree that a signature over a content leads to under a public seed, and the signature of a key pair over a
content at an index (R411, R412; DESIGN CHOICE, log 13). -/
opaque xmssRoot : List Byte → List Byte → List Byte → BitVec 256
opaque xmssSign : List Byte → Nat → List Byte → List Byte

/-- The memory channel of a 256-byte unit of device memory (R10 gives no hash; DESIGN CHOICE, log 10). -/
opaque channelOf : Nat → Nat

/-- A link to a device, by the device and the class, among those that are up, and the body of a request or response
flit (R398 gives no body layout, R407 no routes; DESIGN CHOICE, log 14). -/
opaque route : Nat → Nat → Nat
opaque farBody : Nat → List Byte

/-- A coupled pair's procedure state as bytes 72-127 of its stream entry (R321 gives no layout; DESIGN CHOICE, log 19). -/
opaque pairState : Nat → Nat → List (Nat × Nat) → List Byte

/-- Context, kernel and area (0 core-context records, 1 thread records, 2 groups, 3 spawn, 4 clause slots) ↦ the VA where
that area begins (R319 names the bases, not their values; DESIGN CHOICE, log 19). -/
opaque saveArea : Nat → Nat → Nat → Nat

/-- Device and tenant ↦ the size of the window that device exports to that tenant (R281; the spec does not say how a core
learns it; DESIGN CHOICE, log 14). -/
opaque farWindow : Nat → Nat → Nat

/-- A value the spec leaves open, by the number of such values drawn so far (DESIGN CHOICE, log 18). -/
opaque freeWord : Nat → Word

/-- Which clusters of a G120 are fused off: two draws for each glade (R11; DESIGN CHOICE, log 74). -/
opaque fusedOut : Nat → Nat

/-- Where in host memory the event area lies that the host names (R416 gives no command for it; DESIGN CHOICE, log 7). -/
opaque eventArea : Nat

/-- The host-visible regions of device memory that firmware programs at boot: base and size (R297; DESIGN CHOICE, log 75). -/
opaque hostRegions : List (Nat × Nat)

end Sys2Proof.Config
end

