-- ==== Sys2Proof/Syntax.lean ====
section
/-! DEFINITION. The syntax: one constructor of Instr per row of the opcode table, with operand types that follow the
fields of R86 to R93. Slot A and slot V instructions, engine commands and device events are all rows of that table. -/

namespace Sys2Proof

/-- A scalar register field: 0-31 x, 32-63 h (R78). -/
abbrev SReg := BitVec 6
/-- A vector register field: 0-31 v, 32-63 w (R78). -/
abbrev VRegF := BitVec 6
/-- A predicate p0-p7. -/
abbrev PReg := BitVec 3
/-- A lane mask q0-q7. -/
abbrev QReg := BitVec 3

/-- Branch and compare conditions (R86). -/
inductive Cond where | eq | ne | lt | ge | ltu | geu
deriving DecidableEq, Repr

/-- Scopes (R86). -/
inductive Scope where | core | cluster | die | device | system
deriving DecidableEq, Repr

/-- Access sizes of LD and ST (R86). -/
inductive Size where | n8 | i8 | n16 | i16 | n32 | i32 | b64
deriving DecidableEq, Repr

/-- Access sizes of LR, SC, AMO and CAS (R91: 4-6). -/
inductive ASize where | n32 | i32 | b64
deriving DecidableEq, Repr

/-- Classes of LD (R145). -/
inductive LdClass where | ord | acq | nt | gth
deriving DecidableEq, Repr

/-- Classes of ST (R145). -/
inductive StClass where | ord | rel | nt
deriving DecidableEq, Repr

/-- Access classes of the vector memory instructions (R193). -/
inductive VClass where | ord | nt | gth
deriving DecidableEq, Repr

/-- Directions of the torus (R16), in the order of FN[1:0]. -/
inductive Dir where | n | e | s | w
deriving DecidableEq, Repr

/-- The engine numbers 0-5 (R93). -/
inductive Eng where | mat | cpy | cla0 | cla1 | cla2 | cla3
deriving DecidableEq, Repr

/-- Fence kinds (R155). -/
inductive FenceKind where | acq | rel | full
deriving DecidableEq, Repr

/-- Element types TY 0-14 (R42 to R47). -/
inductive Ty where | f32 | f16 | bf16 | i32 | n32 | i16 | i8 | n8 | e4m3 | e5m2 | e3m2 | e2m3 | e2m1 | mk8 | e8m0
deriving DecidableEq, Repr

/-- The floating-point types TY 0-2. -/
inductive FTy where | f32 | f16 | bf16
deriving DecidableEq, Repr

/-- The integer types TY 3-7. -/
inductive ITy where | i32 | n32 | i16 | i8 | n8
deriving DecidableEq, Repr

/-- Rounding modes RM 0-5 (R50). -/
inductive Rm where | rne | rtz | rdn | rup | rna | sto
deriving DecidableEq, Repr

/-- Rounding modes RM 0-4, for the rows that exclude `sto` (R71, R92). -/
inductive Rm5 where | rne | rtz | rdn | rup | rna
deriving DecidableEq, Repr

/-- VCMP conditions (R92). -/
inductive FCond where | eq | ne | lt | le | gt | ge | uno | ord
deriving DecidableEq, Repr

/-- Reduction operations (R187). -/
inductive RedOp where | add | min | max
deriving DecidableEq, Repr

/-- The lane mask and merge bits of slot V (R89). -/
structure VMask where
  q : QReg
  zero : Bool
deriving DecidableEq, Repr

/-- The count of a vector shift: a register or imm11[5:0] (R177). -/
inductive ShCount where
  | reg (vs2 : VRegF)
  | imm (n : BitVec 6)
deriving DecidableEq, Repr

/-- An engine command word in its four quarters (R93). -/
structure CmdWord where
  q0 : Word
  q1 : Word
  q2 : Word
  q3 : Word
deriving DecidableEq, Repr

/-- Which kind of cache level a residency word or visit names (R268). -/
inductive Level where | l1 | l2 | page
deriving DecidableEq, Repr

/-- What a far request asks of the home device (R280, R281). -/
inductive FarOp where
  | read (bytes : Nat) (gather : Bool)
  | write (data : List Byte)
  | part (bytes mask value : Nat)
  | amo (op : Nat) (size : ASize) (operand : Word) (mul : Nat)
  | cas (size : ASize) (expected new : Word)
  | lr (size : ASize) (thr : Nat)
  | sc (size : ASize) (data : Word) (thr : Nat)
  | xacc (x : Lane) (mul : Nat)
  | xrd (rm : Rm5)
  | xclr
deriving DecidableEq, Repr

/-- A far request as a link delivers it: requesting device, tenant, principal, offset in the window (R281, R398). -/
structure FarReq where
  src : BitVec 18
  tenant : BitVec 6
  prin : BitVec 32
  offset : Nat
  op : FarOp
deriving DecidableEq, Repr

/-- The reply to a far access: its value, whether the home denied it and by which tag (R290), and whether it met
uncorrectable data there (R140, R141). -/
structure FarReply where
  value : BitVec 512
  denied : Bool
  tag : BitVec 16 := 0
  bad : Bool := false
deriving DecidableEq, Repr

/-- What CONTEXT_LOAD loads: a context, and the `.lm` image of its object with its full words (R36). -/
structure LoadOf where
  ctx : Nat
  lm : List Byte
  full : List Bool
deriving DecidableEq, Repr

/-- The manager's answer to a page fault (R291): STATUS, and for a page brought in its new entry (0: the old one with P) and content. -/
structure PageAnswer where
  status : BitVec 2
  pte : BitVec 128 := 0
  content : List Byte := []
deriving DecidableEq, Repr

/-- The outcome of one boot step, as the hardware under test gives it (R408): whether its action succeeds, and its alternative; its
failure code; the units that fail in it (memory channels of step 3, bridges of step 4, links of step 5); the public key and the signature
of the image of step 2 (R411); and the identifier that firmware programs with the links (R407). -/
structure BootResult where
  ok : Bool
  altOk : Bool
  code : BitVec 16
  units : List Nat := []
  key : List Byte := []
  sig : List Byte := []
  device : Option (BitVec 18) := none
deriving DecidableEq, Repr

/-- A link control command of the host mailbox: its tag, and the link (R395, R416). -/
structure LinkCmd where
  tag : BitVec 16
  link : Nat
deriving DecidableEq, Repr

/-- One row of spec/opcode_table.json per constructor. -/
inductive Instr where
  -- slot A: integer (R102 to R107)
  | nop
  | illegalBundle (op : BitVec 8) (slot : Bool)
  | add (d s1 s2 : SReg) | sub (d s1 s2 : SReg) | mul (d s1 s2 : SReg) | mulh (d s1 s2 : SReg) | mulhu (d s1 s2 : SReg)
  | div (d s1 s2 : SReg) | divu (d s1 s2 : SReg) | rem (d s1 s2 : SReg) | remu (d s1 s2 : SReg)
  | and (d s1 s2 : SReg) | or (d s1 s2 : SReg) | xor (d s1 s2 : SReg) | andn (d s1 s2 : SReg)
  | sll (d s1 s2 : SReg) | srl (d s1 s2 : SReg) | sra (d s1 s2 : SReg) | rol (d s1 s2 : SReg)
  | min (d s1 s2 : SReg) | max (d s1 s2 : SReg) | minu (d s1 s2 : SReg) | maxu (d s1 s2 : SReg)
  | addw (d s1 s2 : SReg) | subw (d s1 s2 : SReg) | mulw (d s1 s2 : SReg)
  | lea (d s1 s2 : SReg) (sh : BitVec 3)
  | addi (d s1 : SReg) (imm : BitVec 36) | andi (d s1 : SReg) (imm : BitVec 36)
  | ori (d s1 : SReg) (imm : BitVec 36) | xori (d s1 : SReg) (imm : BitVec 36)
  | slli (d s1 : SReg) (n : BitVec 6) | srli (d s1 : SReg) (n : BitVec 6) | srai (d s1 : SReg) (n : BitVec 6)
  | lih (d s1 : SReg) (imm : BitVec 36)
  | li (d : SReg) (imm : BitVec 64)
  | addwi (d s1 : SReg) (imm : BitVec 36)
  | set (c : Cond) (d s1 s2 : SReg)
  | seti (c : Cond) (d s1 : SReg) (imm : BitVec 33)
  | pset (c : Cond) (pd : PReg) (s1 s2 : SReg)
  | pseti (c : Cond) (pd : PReg) (s1 : SReg) (imm : BitVec 33)
  | plog (pd ps1 ps2 : PReg) (t : BitVec 4)
  | sel (d s1 s2 : SReg) (p : PReg) (neg : Bool)
  | clz (d s1 : SReg) | ctz (d s1 : SReg) | popc (d s1 : SReg) | brev (d s1 : SReg) | bswap (d s1 : SReg)
  | bfx (d s1 : SReg) (pos w1 : BitVec 6) | bfi (d s1 : SReg) (pos w1 : BitVec 6)
  | sext (d s1 : SReg) (k : BitVec 2) | zext (d s1 : SReg) (k : BitVec 2)
  | mfold (d s1 s2 : SReg)
  -- slot A: control (R108 to R110, R305)
  | b (c : Cond) (s1 s2 : SReg) (disp : BitVec 30)
  | bp (p : PReg) (neg : Bool) (disp : BitVec 30)
  | j (disp : BitVec 42)
  | jal (d : SReg) (disp : BitVec 42)
  | jr (d s1 : SReg)
  | dbnz (s1 : SReg) (disp : BitVec 30)
  | trap (code : BitVec 16)
  | pageInRequest
  | enterFaultHold
  | postToHostMailbox
  | brk (code : BitVec 16)
  | eret
  -- slot A: threads, groups, waits, queues (R111 to R133)
  | spawn (d s1 s2 : SReg)
  | exit
  | join (d s1 : SReg) | leave (d s1 : SReg) | gcount (d s1 : SReg)
  | meet (d s1 s2 : SReg) (mid : BitVec 8) (win : BitVec 22)
  | waitm (d : SReg)
  | waitr (d s1 s2 : SReg)
  | waitt (e : Eng) (d s1 : SReg)
  | sleep (d s1 : SReg)
  | migr (d s1 : SReg)
  | send (s1 s2 : SReg)
  | recv (d s1 : SReg)
  | qstat (d : SReg)
  | taskq (d s1 : SReg)
  | taskd (d s1 : SReg)
  | tret
  | dqpush (d s1 s2 : SReg) | dqpop (d : SReg) | dqsplit (d : SReg) | dqsteal (d s1 : SReg)
  | nrd (dir : Dir) (d : SReg) (hn : BitVec 5) (p : PReg)
  | barm (bar : BitVec 7) (s1 s2 : SReg)
  | barr (sc : Scope) (bar : BitVec 7) (remote : Bool) (s1 : SReg)
  | bwait (sc : Scope) (d : SReg) (bar : BitVec 7) (s1 s2 : SReg) (p : PReg)
  | bstat (d : SReg) (bar : BitVec 7) (w : BitVec 2)
  | klaunch (d s1 s2 : SReg)
  | srd (d : SReg) (sel : BitVec 10) (hi : BitVec 2)
  | swr (sel : BitVec 10) (hi : BitVec 2) (s1 : SReg)
  | rand (d : SReg)
  -- slot A: fences, leases, commands (R155 to R171)
  | fence (k : FenceKind) (sc : Scope)
  | rfence
  | lease (e : Eng) (try_ : Bool) (d : SReg)
  | lrel (e : Eng)
  | enq (e : Eng) (d s1 : SReg) (off : BitVec 15)
  | enqi (e : Eng) (d s1 s2 : SReg) (w : CmdWord)
  -- slot A: memory (R143 to R167)
  | ld (sz : Size) (cl : LdClass) (sc : Scope) (d s1 : SReg) (off : BitVec 15) (nd : BitVec 6)
  | st (sz : Size) (cl : StClass) (sc : Scope) (s2 s1 : SReg) (off : BitVec 15) (nd : BitVec 6)
  | ldfe (d s1 : SReg) (off : BitVec 15) (nd : BitVec 6)
  | stfe (s2 s1 : SReg) (off : BitVec 15) (nd : BitVec 6)
  | ldff (d s1 : SReg) (off : BitVec 15) (nd : BitVec 6)
  | feset (full : Bool) (s1 : SReg) (off : BitVec 15) (nd : BitVec 6)
  | pref (sc : Scope) (s1 : SReg) (off : BitVec 15) (nd : BitVec 6)
  | lwb (sc : Scope) (s1 : SReg) (off : BitVec 15) (nd : BitVec 6)
  | linv (sc : Scope) (s1 : SReg) (off : BitVec 15) (nd : BitVec 6)
  | lr (sz : ASize) (sc : Scope) (d s1 : SReg) (off : BitVec 15) (nd : BitVec 6)
  | sc (sz : ASize) (sc : Scope) (d s2 s1 : SReg) (off : BitVec 15) (nd : BitVec 6)
  | amoAdd (sz : ASize) (sc : Scope) (d s2 s1 : SReg) (off : BitVec 15) (nd : BitVec 6)
  | amoMin (sz : ASize) (sc : Scope) (d s2 s1 : SReg) (off : BitVec 15) (nd : BitVec 6)
  | amoMax (sz : ASize) (sc : Scope) (d s2 s1 : SReg) (off : BitVec 15) (nd : BitVec 6)
  | amoAnd (sz : ASize) (sc : Scope) (d s2 s1 : SReg) (off : BitVec 15) (nd : BitVec 6)
  | amoOr (sz : ASize) (sc : Scope) (d s2 s1 : SReg) (off : BitVec 15) (nd : BitVec 6)
  | amoXchg (sz : ASize) (sc : Scope) (d s2 s1 : SReg) (off : BitVec 15) (nd : BitVec 6)
  | amoAddi (sz : ASize) (sc : Scope) (d : SReg) (imm : BitVec 6) (s1 : SReg) (off : BitVec 15) (nd : BitVec 6)
  | cas (sz : ASize) (sc : Scope) (d s2 s1 : SReg) (off : BitVec 15) (nd : BitVec 6)
  | xacc (sc : Scope) (s2 s1 : SReg) (off : BitVec 15) (nd : BitVec 6)
  | xrd (rm : Rm5) (sc : Scope) (d s1 : SReg) (off : BitVec 15) (nd : BitVec 6)
  | xclr (sc : Scope) (s1 : SReg) (off : BitVec 15) (nd : BitVec 6)
  | acopy (d s1 s2 : SReg) (len : BitVec 24)
  | acopys (d s1 : SReg) (bar : BitVec 7) (barOn : Bool)
  | tilest (atomic guard_ : Bool) (d s1 s2 : SReg) (n : BitVec 12)
  | tileld (consistent : Bool) (d s1 s2 : SReg) (n : BitVec 12)
  | wmap (stash : Bool) (d s1 s2 : SReg) (w : BitVec 3) (g : BitVec 7)
  | wunmap (d : SReg) (w : BitVec 3)
  | wsync (d : SReg) (w : BitVec 3)
  | wstat (d : SReg) (w : BitVec 3)
  -- slot V: floating point (R176)
  | vnop
  | vadd (ty : FTy) (rm : Rm) (m : VMask) (vd vs1 vs2 : VRegF)
  | vsub (ty : FTy) (rm : Rm) (m : VMask) (vd vs1 vs2 : VRegF)
  | vmul (ty : FTy) (rm : Rm) (m : VMask) (vd vs1 vs2 : VRegF)
  | vfma (ty : FTy) (rm : Rm) (m : VMask) (vd vs1 vs2 vs3 : VRegF)
  | vfms (ty : FTy) (rm : Rm) (m : VMask) (vd vs1 vs2 vs3 : VRegF)
  | vfnma (ty : FTy) (rm : Rm) (m : VMask) (vd vs1 vs2 vs3 : VRegF)
  | vmin (ty : FTy) (m : VMask) (vd vs1 vs2 : VRegF)
  | vmax (ty : FTy) (m : VMask) (vd vs1 vs2 : VRegF)
  | vabs (ty : FTy) (m : VMask) (vd vs1 : VRegF)
  | vneg (ty : FTy) (m : VMask) (vd vs1 : VRegF)
  | vdiv (ty : FTy) (rm : Rm5) (m : VMask) (vd vs1 vs2 : VRegF)
  | vsqrt (ty : FTy) (rm : Rm5) (m : VMask) (vd vs1 : VRegF)
  | vrcp (ty : FTy) (m : VMask) (vd vs1 : VRegF)
  | vrsq (ty : FTy) (m : VMask) (vd vs1 : VRegF)
  | vexp2 (ty : FTy) (m : VMask) (vd vs1 : VRegF)
  | vlog2 (ty : FTy) (m : VMask) (vd vs1 : VRegF)
  | vtanh (ty : FTy) (m : VMask) (vd vs1 : VRegF)
  | verf (ty : FTy) (m : VMask) (vd vs1 : VRegF)
  -- slot V: integer (R177)
  | viadd (ty : ITy) (m : VMask) (vd vs1 vs2 : VRegF)
  | visub (ty : ITy) (m : VMask) (vd vs1 vs2 : VRegF)
  | vimul (ty : ITy) (m : VMask) (vd vs1 vs2 : VRegF)
  | vimad (ty : ITy) (m : VMask) (vd vs1 vs2 vs3 : VRegF)
  | vand (ty : ITy) (m : VMask) (vd vs1 vs2 : VRegF)
  | vor (ty : ITy) (m : VMask) (vd vs1 vs2 : VRegF)
  | vxor (ty : ITy) (m : VMask) (vd vs1 vs2 : VRegF)
  | vshl (ty : ITy) (m : VMask) (vd vs1 : VRegF) (n : ShCount)
  | vshr (ty : ITy) (m : VMask) (vd vs1 : VRegF) (n : ShCount)
  | vsra (ty : ITy) (m : VMask) (vd vs1 : VRegF) (n : ShCount)
  | vimin (ty : ITy) (m : VMask) (vd vs1 vs2 : VRegF)
  | vimax (ty : ITy) (m : VMask) (vd vs1 vs2 : VRegF)
  | vpopc (ty : ITy) (m : VMask) (vd vs1 : VRegF)
  | vclz (ty : ITy) (m : VMask) (vd vs1 : VRegF)
  | vdot4 (unsigned : Bool) (m : VMask) (vd vs1 vs2 : VRegF)
  | viabs (ty : ITy) (m : VMask) (vd vs1 : VRegF)
  -- slot V: compare, select, movement (R178 to R181)
  | vcmp (ty : FTy) (c : FCond) (m : VMask) (qd : QReg) (vs1 vs2 : VRegF)
  | vicmp (ty : ITy) (c : Cond) (m : VMask) (qd : QReg) (vs1 vs2 : VRegF)
  | vsel (m : VMask) (vd vs1 vs2 : VRegF) (q : QReg)
  | vmov (m : VMask) (vd vs1 : VRegF)
  | vbcast (ty : Ty) (m : VMask) (vd : VRegF) (s : SReg)
  | vins (ty : Ty) (vd : VRegF) (s : SReg) (i : BitVec 6)
  | vext (ty : Ty) (d : SReg) (vs1 : VRegF) (i : BitVec 6)
  | vperm (ty : Ty) (m : VMask) (vd vs1 vs2 : VRegF)
  | vshuf (ty : Ty) (m : VMask) (vd vs1 : VRegF) (pat : BitVec 4)
  | qlog (qd qs1 qs2 : QReg) (t : BitVec 4)
  | qcnt (d : SReg) (qs1 : QReg)
  | viota (m : VMask) (vd : VRegF)
  -- slot V: conversion, quantisation, reduction, sorting (R182 to R191)
  | vcvt (dty sty : Ty) (rm : Rm) (nsat : Bool) (m : VMask) (vd vs1 : VRegF)
  | vqnt (ety : Ty) (rm : Rm) (nsat : Bool) (vd vs1 vs2 : VRegF)
  | vdqnt (fty : FTy) (ety : Ty) (h : Bool) (m : VMask) (vd vs1 : VRegF)
  | vscale (ety : Ty) (vd vs1 vs2 : VRegF)
  | vpack (dty sty : Ty) (part : BitVec 2) (m : VMask) (vd vs1 : VRegF)
  | vunpk (dty sty : Ty) (part : BitVec 2) (m : VMask) (vd vs1 : VRegF)
  | vred (ty : Ty) (op : RedOp) (m : VMask) (d : SReg) (vs1 : VRegF)
  | vscan (ty : Ty) (op : RedOp) (m : VMask) (vd vs1 : VRegF)
  | vsortk (vd vs1 vs2 : VRegF)
  | vmergek (vd vs1 vs2 vs3 : VRegF)
  | qsum (m : VMask) (vd : VRegF) (n : SReg)
  | vargmx (ty : Ty) (m : VMask) (d : SReg) (vs1 : VRegF)
  -- slot V: memory, streams, mesh (R192 to R204)
  | vld (ty : Ty) (cl : VClass) (m : VMask) (vd : VRegF) (s1 : SReg) (off : BitVec 11) (nd : BitVec 6)
  | vst (ty : Ty) (cl : VClass) (m : VMask) (vs2 : VRegF) (s1 : SReg) (off : BitVec 11) (nd : BitVec 6)
  | vgath (ty : Ty) (cl : VClass) (m : VMask) (vd : VRegF) (s1 : SReg) (vs2 : VRegF) (nd : BitVec 6)
  | vscat (ty : Ty) (m : VMask) (vs3 : VRegF) (s1 : SReg) (vs2 : VRegF) (nd : BitVec 6)
  | sbind (vn : BitVec 3) (s : SReg)
  | sunb (vn : BitVec 3)
  | sisect (va vb : BitVec 3)
  | sstat (d : SReg) (vn : BitVec 3)
  | sskip (vn : BitVec 3) (s : SReg)
  | vmaxx (int : Bool) (col : Bool) (vd vs1 : VRegF) (p : PReg)
  | vrand (raw : Bool) (m : VMask) (vd : VRegF)
  | vnrd (dir : Dir) (vd : VRegF) (wn : BitVec 5) (p : PReg)
  -- arrivals, time-outs, deliveries
  | streamElementArrival (thr : Nat) (vn : BitVec 3)
  | loadReturn (op : Nat) (far : Option FarReply)
  | amoReturn (op : Nat) (far : Option FarReply)
  | translationConfirm (op : Nat)
  | copyToken (op : Nat)
  | neighbourTimeout (op : Nat)
  | vmaxxResult (inst : Nat)
  | vmaxxTimeout (op : Nat)
  | bwaitTimeout (thr : Nat)
  | sleepExpiry (thr : Nat)
  | messageArrival (op : Nat)
  | timerExpiry (thr : Nat)
  | upcallDelivery (thr : Nat)
  | meetWindowExpiry (table entry : Nat)
  | meetClose (table entry : Nat)
  | pendingDecrement (op : Nat)
  -- engine commands (R216 to R235)
  | mzero (w : CmdWord) | mloadc (w : CmdWord) | mmac (w : CmdWord) | mstore (w : CmdWord)
  | cacfg (w : CmdWord) | cainf (w : CmdWord) | catrn (w : CmdWord) | card (w : CmdWord) | cawr (w : CmdWord) | caseed (w : CmdWord)
  | cpy (w : CmdWord) | cpyq (w : CmdWord) | cfill (w : CmdWord)
  | enop (w : CmdWord)
  | enopResume
  | emark (w : CmdWord)
  | efence (w : CmdWord)
  | engineCommandCompletion (ec : Nat)
  | leasePassage (unit_ : Nat)
  | grantExpiry (unit_ : Nat)
  -- caches and pages
  | setVisit (lv : Level) (cache set_ : Nat)
  | trustUpdate (lv : Level) (cache tenant : Nat)
  | rperWindowEnd (cc : Nat)
  | pageResidentNotice (va size : Nat) (ans : PageAnswer) (cc : Nat)
  | migrationStart (va : Nat)
  | migrationSwitch (va : Nat) (pte : BitVec 128)
  -- host, links, launches
  | hostWrite (pa : Nat) (data : List Byte)
  | hostRead (pa n : Nat)
  | farRequest (r : FarReq)
  | farAccessTimeout (op : Nat)
  | launchRecordWrite (off : Nat) (data : List Byte)
  | kernelAdmission (ctx q : Nat)
  | clusterGrant (kid : Nat)
  | stagingComplete (kid : Nat)
  | threadPlacement (cc slot : Nat)
  | kernelRetire (kid : Nat)
  | preemption (ctx : Nat)
  | resumption (ctx : Nat)
  | timeshareSwitch (kid g : Nat)
  | hwMigration (cc : Nat)
  | taskStagingComplete (cc : Nat)
  | taskDispatch (cc : Nat)
  | fatalFault (ctx : Nat)
  -- contexts, queues and mailbox commands (tag: the host's TAG, R416)
  | contextBuild (tag : BitVec 16) (ctx : Nat) (rec : BitVec 1024)
  | contextLoad (tag : BitVec 16) (load : LoadOf)
  | contextClose (tag : BitVec 16) (ctx : Nat)
  | teardownComplete (ctx : Nat)
  | queueDrain (tag : BitVec 16) (ctx q : Nat)
  | queueClosed (ctx q : Nat)
  | queueOpen (tag : BitVec 16) (ctx q : Nat)
  | runtimeQueueMark (tag : BitVec 16) (ctx q : Nat)
  | gangStart (kid : Nat)
  | gangRelease (tag : BitVec 16) (kid : Nat)
  | version (tag : BitVec 16) (bitmap : Word)
  | status (tag : BitVec 16)
  | bootrec (tag : BitVec 16)
  | clear (tag : BitVec 16) (stepNo : Nat)
  | accept (tag : BitVec 16)
  | attest (tag : BitVec 16) (nonce : BitVec 256)
  | keyload (tag : BitVec 16) (ctx slot : Nat) (key : BitVec 512)
  | powercap (tag : BitVec 16) (watts : Nat)
  | residencyControlWrite (tag : BitVec 16) (lv : Level) (cache : Nat) (w : Word)
  | tenantWordWrite (tag : BitVec 16) (lv : Level) (cache tenant : Nat) (share : BitVec 8)
  | packageSleep (tag : BitVec 16)
  | eventReturn (consumed : Nat)
  -- links, time, boot, errors, power
  | linkEnable (c : LinkCmd)
  | linkDisable (c : LinkCmd)
  | linkReset (c : LinkCmd)
  | lanesTrained (link lanes : Nat)
  | negotiationComplete (link : Nat) (bitmap : Word) (peer : BitVec 18) (plink : BitVec 5)
  | laneLoss (link : Nat)
  | flitReceive (link : Nat) (flit : List Byte)
  | replayRequest (link : Nat)
  | ackTimeout (link : Nat)
  | timeFlit (link : Nat) (offset : Int)
  | timeLock
  | syncLoss
  | boot (res : List BootResult) (failing : List Nat) (image : List Byte) (ver : Nat)
  | scrubPass (base n : Nat)
  | clockStep (watts : Nat)
  | clusterSleep (c : Nat)
  | clusterWake (c : Nat)
  | packageWake
  | writeAcceptance (op : Nat) (far : Option FarReply)
  | fixedLatencyResult (thr : Nat)
  | unknownEngineCommand (w : CmdWord)
  | unknownMailboxCode (tag code : BitVec 16)
  | pageMap (va : Nat) (pte : BitVec 128) (nodes : List Nat)
  | pageUnmap (va : Nat)
  | protectionShootdown (tag : BitVec 16) (writes : List (Nat × Word)) (ptes : List (Nat × BitVec 128))
  | powerLoss
  | coldPlateTemperatureLimit (atLimit : Bool)
  | exportedWindowSet (tenant base size home : Nat)
  | syncLinkMark (reference : Bool) (links : List Nat)
  | tenantWeightSet (tag : BitVec 16) (tenant : Nat) (weight : BitVec 8)
deriving DecidableEq, Repr

/-- The guard of slot A (R86): p(n), or its negation. -/
structure Guard where
  neg : Bool
  p : PReg
deriving DecidableEq, Repr

/-- One bundle: stall count, guard, slot A, slot V, and its length in bytes (16, or 48 with ENQI) (R85, R88). -/
structure Bundle where
  sc : BitVec 4
  guard : Guard
  a : Instr
  v : Instr
  len : Nat
deriving DecidableEq, Repr

end Sys2Proof
end

