-- ==== Sys2Proof/WellFormed.lean ====
section
/-! DEFINITION. Well-formedness: the field limits of R86 to R92 that the types of Syntax.lean do not already say. -/

namespace Sys2Proof

/-- Elements of a type in a vector register (R172). -/
def Ty.count : Ty → Nat
  | .f32 | .i32 | .n32 => 16
  | .f16 | .bf16 | .i16 => 32
  | .i8 | .n8 | .e4m3 | .e5m2 | .e3m2 | .e2m3 | .e2m1 | .mk8 | .e8m0 => 64

/-- TY 8-13: the element types of block quantisation (R184 to R186). -/
def Ty.isBlock : Ty → Bool
  | .e4m3 | .e5m2 | .e3m2 | .e2m3 | .e2m1 | .mk8 => true
  | _ => false

/-- TY 0-7: the types of reductions (R92). -/
def Ty.isReduce : Ty → Bool
  | .f32 | .f16 | .bf16 | .i32 | .n32 | .i16 | .i8 | .n8 => true
  | _ => false

/-- A register field whose pair partner would not exist (R190: 31 and 63). -/
def pairOk (r : VRegF) : Bool := r ≠ 31 && r ≠ 63

/-- The engines that have leases: mat and cla0-cla3 (R90, R168). -/
def Eng.leased : Eng → Bool
  | .cpy => false
  | _ => true

/-- An instruction whose fields lie in the ranges the encoding admits; MZ is zero where no vector register is written (R89). Rows that have no encoding (events, engine
commands, service rows) are well formed as they stand. -/
def Instr.wf : Instr → Bool
  | .bfx _ _ pos w1 | .bfi _ _ pos w1 => pos.toNat + w1.toNat + 1 ≤ 64
  | .sext _ _ k | .zext _ _ k => k ≠ 3
  | .bp p neg _ => !(neg && p = 0)
  | .srd _ w hi => w.toNat < 0x20 && (hi = 0 || w = 0x1D)
  | .swr w hi _ => w.toNat < 0x20 && (hi = 0 || w = 0x1D) &&
      !(w.toNat < 0x0A || w = 0x0C || (0x1B ≤ w.toNat && w.toNat ≤ 0x1F))
  | .lease e _ _ | .lrel e => e.leased
  | .tilest _ _ _ _ _ n | .tileld _ _ _ _ n => n ≠ 0
  | .wmap _ _ _ _ _ g => 1 ≤ g.toNat && g.toNat ≤ 64
  | .vins ty _ _ i | .vext ty _ _ i => i.toNat < ty.count
  | .vcvt d s _ _ _ _ _ => d ≠ .e8m0 && s ≠ .e8m0
  | .vqnt e _ _ _ _ _ => e.isBlock
  | .vdqnt f e h _ _ _ => e.isBlock && (f = .f32 || !h)
  | .vscale e _ _ _ => e.isBlock
  | .vpack d s p _ _ _ => 16 * p.toNat < d.count && ((d = .e8m0) == (s = .e8m0))
  | .vunpk d s p _ _ _ => 16 * p.toNat < s.count && ((d = .e8m0) == (s = .e8m0))
  | .vred ty _ m _ _ | .vargmx ty m _ _ => ty.isReduce && !m.zero
  | .vscan ty _ _ _ _ => ty.isReduce
  | .vsortk vd _ _ => pairOk vd
  | .vmergek vd _ _ vs3 => pairOk vd && pairOk vs3
  | .sisect va vb => va ≠ vb
  | .vst _ cl m _ _ _ _ => cl ≠ .gth && !m.zero
  | .vscat _ m _ _ _ _ => !m.zero
  | .vgath _ cl _ _ _ _ _ => cl ≠ .nt
  | _ => true

end Sys2Proof
end

