-- ==== Sys2Proof/Decode.lean ====
section
/-! DEFINITION. Decoding bundles (R85 to R92, R95), total on any bytes and rejecting by name, and the encoder from the
same tables. The bit fields are cut once, in AF.split, VF.split and the long-form splits. -/

namespace Sys2Proof

/-- Why bytes are not a bundle the device issues: the bullets of R95. -/
inductive Why where
  | truncated | reservedOpcode | badFormat | mustBeZero | badField | sameDestination | longForm | slotAWithQsum
deriving DecidableEq, Repr

/-- A refused bundle: the reason, and the OP and SLOT fields of its fault word (R309). -/
structure DecodeError where
  why : Why
  op : BitVec 8
  slotV : Bool
deriving DecidableEq, Repr

/-! ## Field codes (R86, R42 to R50, R93) -/

def Cond.code : Cond → Nat
  | .eq => 0 | .ne => 1 | .lt => 2 | .ge => 3 | .ltu => 4 | .geu => 5
def Cond.ofCode : Nat → Option Cond
  | 0 => some .eq | 1 => some .ne | 2 => some .lt | 3 => some .ge | 4 => some .ltu | 5 => some .geu
  | _ => none

def Scope.code : Scope → Nat
  | .core => 0 | .cluster => 1 | .die => 2 | .device => 3 | .system => 4
def Scope.ofCode : Nat → Option Scope
  | 0 => some .core | 1 => some .cluster | 2 => some .die | 3 => some .device | 4 => some .system
  | _ => none

def Size.code : Size → Nat
  | .n8 => 0 | .i8 => 1 | .n16 => 2 | .i16 => 3 | .n32 => 4 | .i32 => 5 | .b64 => 6
def Size.ofCode : Nat → Option Size
  | 0 => some .n8 | 1 => some .i8 | 2 => some .n16 | 3 => some .i16 | 4 => some .n32 | 5 => some .i32 | 6 => some .b64
  | _ => none

def ASize.code : ASize → Nat
  | .n32 => 4 | .i32 => 5 | .b64 => 6
def ASize.ofCode : Nat → Option ASize
  | 4 => some .n32 | 5 => some .i32 | 6 => some .b64
  | _ => none

def LdClass.code : LdClass → Nat
  | .ord => 0 | .acq => 1 | .nt => 2 | .gth => 3
def LdClass.ofCode : Nat → Option LdClass
  | 0 => some .ord | 1 => some .acq | 2 => some .nt | 3 => some .gth
  | _ => none

def StClass.code : StClass → Nat
  | .ord => 0 | .rel => 1 | .nt => 2
def StClass.ofCode : Nat → Option StClass
  | 0 => some .ord | 1 => some .rel | 2 => some .nt
  | _ => none

def VClass.code : VClass → Nat
  | .ord => 0 | .nt => 2 | .gth => 3
def VClass.ofCode : Nat → Option VClass
  | 0 => some .ord | 2 => some .nt | 3 => some .gth
  | _ => none

def Dir.code : Dir → Nat
  | .n => 0 | .e => 1 | .s => 2 | .w => 3
def Dir.ofCode : Nat → Option Dir
  | 0 => some .n | 1 => some .e | 2 => some .s | 3 => some .w
  | _ => none

def Eng.code : Eng → Nat
  | .mat => 0 | .cpy => 1 | .cla0 => 2 | .cla1 => 3 | .cla2 => 4 | .cla3 => 5
def Eng.ofCode : Nat → Option Eng
  | 0 => some .mat | 1 => some .cpy | 2 => some .cla0 | 3 => some .cla1 | 4 => some .cla2 | 5 => some .cla3
  | _ => none

def FenceKind.code : FenceKind → Nat
  | .acq => 0 | .rel => 1 | .full => 2
def FenceKind.ofCode : Nat → Option FenceKind
  | 0 => some .acq | 1 => some .rel | 2 => some .full
  | _ => none

def Ty.code : Ty → Nat
  | .f32 => 0 | .f16 => 1 | .bf16 => 2 | .i32 => 3 | .n32 => 4 | .i16 => 5 | .i8 => 6 | .n8 => 7
  | .e4m3 => 8 | .e5m2 => 9 | .e3m2 => 10 | .e2m3 => 11 | .e2m1 => 12 | .mk8 => 13 | .e8m0 => 14
def Ty.ofCode : Nat → Option Ty
  | 0 => some .f32 | 1 => some .f16 | 2 => some .bf16 | 3 => some .i32 | 4 => some .n32 | 5 => some .i16
  | 6 => some .i8 | 7 => some .n8 | 8 => some .e4m3 | 9 => some .e5m2 | 10 => some .e3m2 | 11 => some .e2m3
  | 12 => some .e2m1 | 13 => some .mk8 | 14 => some .e8m0
  | _ => none

def FTy.code : FTy → Nat
  | .f32 => 0 | .f16 => 1 | .bf16 => 2
def FTy.ofCode : Nat → Option FTy
  | 0 => some .f32 | 1 => some .f16 | 2 => some .bf16
  | _ => none

def ITy.code : ITy → Nat
  | .i32 => 3 | .n32 => 4 | .i16 => 5 | .i8 => 6 | .n8 => 7
def ITy.ofCode : Nat → Option ITy
  | 3 => some .i32 | 4 => some .n32 | 5 => some .i16 | 6 => some .i8 | 7 => some .n8
  | _ => none

def Rm.code : Rm → Nat
  | .rne => 0 | .rtz => 1 | .rdn => 2 | .rup => 3 | .rna => 4 | .sto => 5
def Rm.ofCode : Nat → Option Rm
  | 0 => some .rne | 1 => some .rtz | 2 => some .rdn | 3 => some .rup | 4 => some .rna | 5 => some .sto
  | _ => none

def Rm5.code : Rm5 → Nat
  | .rne => 0 | .rtz => 1 | .rdn => 2 | .rup => 3 | .rna => 4
def Rm5.ofCode : Nat → Option Rm5
  | 0 => some .rne | 1 => some .rtz | 2 => some .rdn | 3 => some .rup | 4 => some .rna
  | _ => none

def FCond.code : FCond → Nat
  | .eq => 0 | .ne => 1 | .lt => 2 | .le => 3 | .gt => 4 | .ge => 5 | .uno => 6 | .ord => 7
def FCond.ofCode : Nat → Option FCond
  | 0 => some .eq | 1 => some .ne | 2 => some .lt | 3 => some .le | 4 => some .gt | 5 => some .ge | 6 => some .uno
  | 7 => some .ord
  | _ => none

def RedOp.code : RedOp → Nat
  | .add => 0 | .min => 1 | .max => 2
def RedOp.ofCode : Nat → Option RedOp
  | 0 => some .add | 1 => some .min | 2 => some .max
  | _ => none

/-! ## Fields of slot A (R86) and slot V (R89) -/

/-- Slot A in its common fields; forms with longer immediates join the last ones. -/
structure AF where
  op : BitVec 8
  grd : BitVec 4
  d : BitVec 6
  s1 : BitVec 6
  s2 : BitVec 6
  fn : BitVec 6
  imm : BitVec 24
deriving DecidableEq, Repr

def AF.join (f : AF) : BitVec 60 := f.op ++ f.grd ++ f.d ++ f.s1 ++ f.s2 ++ f.fn ++ f.imm
def AF.split (b : BitVec 60) : AF :=
  { op := b.extractLsb' 52 8, grd := b.extractLsb' 48 4, d := b.extractLsb' 42 6, s1 := b.extractLsb' 36 6,
    s2 := b.extractLsb' 30 6, fn := b.extractLsb' 24 6, imm := b.extractLsb' 0 24 }

/-- imm36 of form AI: [35:0]. -/
def AF.imm36 (f : AF) : BitVec 36 := f.s2 ++ f.fn ++ f.imm
/-- The condition of form AC: [35:33]. -/
def AF.cond3 (f : AF) : BitVec 3 := f.s2.extractLsb' 3 3
/-- imm33 of form AC: [32:0]. -/
def AF.imm33 (f : AF) : BitVec 33 := f.s2.extractLsb' 0 3 ++ f.fn ++ f.imm
/-- The displacement of form AB: [29:0]. -/
def AF.disp30 (f : AF) : BitVec 30 := f.fn ++ f.imm
/-- The displacement of form AJ: [41:0]. -/
def AF.disp42 (f : AF) : BitVec 42 := f.s1 ++ f.s2 ++ f.fn ++ f.imm
/-- The meet identifier of form AW: [29:22]. -/
def AF.mid (f : AF) : BitVec 8 := f.fn ++ f.imm.extractLsb' 22 2
/-- The window of form AW: [21:0]. -/
def AF.win (f : AF) : BitVec 22 := f.imm.extractLsb' 0 22
/-- SCOPE, CLASS, SIZE and the byte offset of form AM. -/
def AF.scope (f : AF) : BitVec 3 := f.imm.extractLsb' 21 3
def AF.cls (f : AF) : BitVec 3 := f.imm.extractLsb' 18 3
def AF.size (f : AF) : BitVec 3 := f.imm.extractLsb' 15 3
def AF.off (f : AF) : BitVec 15 := f.imm.extractLsb' 0 15

/-- Slot V in its fields. -/
structure VF where
  op : BitVec 8
  mask : BitVec 3
  mz : BitVec 1
  vd : BitVec 6
  vs1 : BitVec 6
  vs2 : BitVec 6
  vs3 : BitVec 6
  fn : BitVec 6
  ty : BitVec 4
  rm : BitVec 3
  imm : BitVec 11
deriving DecidableEq, Repr

def VF.join (f : VF) : BitVec 60 :=
  f.op ++ f.mask ++ f.mz ++ f.vd ++ f.vs1 ++ f.vs2 ++ f.vs3 ++ f.fn ++ f.ty ++ f.rm ++ f.imm
def VF.split (b : BitVec 60) : VF :=
  { op := b.extractLsb' 52 8, mask := b.extractLsb' 49 3, mz := b.extractLsb' 48 1, vd := b.extractLsb' 42 6,
    vs1 := b.extractLsb' 36 6, vs2 := b.extractLsb' 30 6, vs3 := b.extractLsb' 24 6, fn := b.extractLsb' 18 6,
    ty := b.extractLsb' 14 4, rm := b.extractLsb' 11 3, imm := b.extractLsb' 0 11 }
/-- MASK and MZ as one operand. -/
def VF.m (f : VF) : VMask := { q := f.mask, zero := f.mz = 1 }

/-! ## Decoding slot A (R90, R91) -/

abbrev Dec (α : Type) := Except Why α

/-- The instruction, provided the fields that its row requires to be zero are zero. -/
def zeros (ok : Bool) (i : Instr) : Dec Instr := if ok then .ok i else .error .mustBeZero

/-- The instruction, provided its fields lie in the row's ranges. -/
def ranged (i : Instr) : Dec Instr := if i.wf then .ok i else .error .badField

/-- Continue with an enumerated field's value, or reject. -/
def field {α β : Type} (o : Option α) (k : α → Dec β) : Dec β :=
  match o with
  | some a => k a
  | none => .error .badField

/-- A register field that names a predicate or a mask: 0-7 (R78). -/
def small (b : BitVec 6) (k : BitVec 3 → Dec Instr) : Dec Instr :=
  if b.extractLsb' 3 3 = 0 then k (b.extractLsb' 0 3) else .error .badField

/-- A row of form AR with FN and imm24 zero. -/
def AF.ar (f : AF) (i : Instr) : Dec Instr := zeros (f.fn = 0 && f.imm = 0) i
/-- A row of form AR with one source: S2 zero too. -/
def AF.ar1 (f : AF) (i : Instr) : Dec Instr := zeros (f.s2 = 0 && f.fn = 0 && f.imm = 0) i
/-- A row of form AR with a destination only. -/
def AF.ar0 (f : AF) (i : Instr) : Dec Instr := zeros (f.s1 = 0 && f.s2 = 0 && f.fn = 0 && f.imm = 0) i
/-- A row with every field below OP and GRD zero. -/
def AF.none (f : AF) (i : Instr) : Dec Instr := zeros (f.d = 0 && f.s1 = 0 && f.s2 = 0 && f.fn = 0 && f.imm = 0) i

def decA0 (f : AF) : Dec Instr :=
  match f.op.toNat with
  | 0x00 => f.none .nop
  | 0x01 => f.ar (.add f.d f.s1 f.s2)
  | 0x02 => f.ar (.sub f.d f.s1 f.s2)
  | 0x03 => f.ar (.mul f.d f.s1 f.s2)
  | 0x04 => f.ar (.mulh f.d f.s1 f.s2)
  | 0x05 => f.ar (.mulhu f.d f.s1 f.s2)
  | 0x06 => f.ar (.div f.d f.s1 f.s2)
  | 0x07 => f.ar (.divu f.d f.s1 f.s2)
  | 0x08 => f.ar (.rem f.d f.s1 f.s2)
  | 0x09 => f.ar (.remu f.d f.s1 f.s2)
  | 0x0A => f.ar (.and f.d f.s1 f.s2)
  | 0x0B => f.ar (.or f.d f.s1 f.s2)
  | 0x0C => f.ar (.xor f.d f.s1 f.s2)
  | 0x0D => f.ar (.andn f.d f.s1 f.s2)
  | 0x0E => f.ar (.sll f.d f.s1 f.s2)
  | 0x0F => f.ar (.srl f.d f.s1 f.s2)
  | _ => .error .reservedOpcode

def decA1 (f : AF) : Dec Instr :=
  match f.op.toNat with
  | 0x10 => f.ar (.sra f.d f.s1 f.s2)
  | 0x11 => f.ar (.rol f.d f.s1 f.s2)
  | 0x12 => f.ar (.min f.d f.s1 f.s2)
  | 0x13 => f.ar (.max f.d f.s1 f.s2)
  | 0x14 => f.ar (.minu f.d f.s1 f.s2)
  | 0x15 => f.ar (.maxu f.d f.s1 f.s2)
  | 0x16 => f.ar (.addw f.d f.s1 f.s2)
  | 0x17 => f.ar (.subw f.d f.s1 f.s2)
  | 0x18 => f.ar (.mulw f.d f.s1 f.s2)
  | 0x19 => small f.fn fun s => zeros (f.imm = 0) (.lea f.d f.s1 f.s2 s)
  | _ => .error .reservedOpcode

/-- Form AI with a shift count: imm36 in 0-63 (R104). -/
def AF.count (f : AF) (k : BitVec 6 → Instr) : Dec Instr :=
  if f.imm36.extractLsb' 6 30 = 0 then .ok (k (f.imm36.extractLsb' 0 6)) else .error .badField

def decA2 (f : AF) : Dec Instr :=
  match f.op.toNat with
  | 0x20 => .ok (.addi f.d f.s1 f.imm36)
  | 0x21 => .ok (.andi f.d f.s1 f.imm36)
  | 0x22 => .ok (.ori f.d f.s1 f.imm36)
  | 0x23 => .ok (.xori f.d f.s1 f.imm36)
  | 0x24 => f.count (.slli f.d f.s1)
  | 0x25 => f.count (.srli f.d f.s1)
  | 0x26 => f.count (.srai f.d f.s1)
  | 0x27 => .ok (.lih f.d f.s1 f.imm36)
  | 0x28 => .error .longForm
  | 0x29 => .ok (.addwi f.d f.s1 f.imm36)
  | _ => .error .reservedOpcode

/-- Form AX with a bit field: FN = position, imm24[5:0] = width - 1 (R106). -/
def AF.bits (f : AF) (k : BitVec 6 → BitVec 6 → Instr) : Dec Instr :=
  if f.s2 = 0 && f.imm.extractLsb' 6 18 = 0 then ranged (k f.fn (f.imm.extractLsb' 0 6)) else .error .mustBeZero

def decA3 (f : AF) : Dec Instr :=
  match f.op.toNat with
  | 0x30 => field (Cond.ofCode f.fn.toNat) fun c => zeros (f.imm = 0) (.set c f.d f.s1 f.s2)
  | 0x31 => field (Cond.ofCode f.cond3.toNat) fun c => .ok (.seti c f.d f.s1 f.imm33)
  | 0x32 => field (Cond.ofCode f.fn.toNat) fun c => small f.d fun p => zeros (f.imm = 0) (.pset c p f.s1 f.s2)
  | 0x33 => field (Cond.ofCode f.cond3.toNat) fun c => small f.d fun p => .ok (.pseti c p f.s1 f.imm33)
  | 0x34 => small f.d fun pd => small f.s1 fun p1 => small f.s2 fun p2 =>
      zeros (f.fn.extractLsb' 4 2 = 0 && f.imm = 0) (.plog pd p1 p2 (f.fn.extractLsb' 0 4))
  | 0x35 => zeros (f.fn.extractLsb' 4 2 = 0 && f.imm = 0)
      (.sel f.d f.s1 f.s2 (f.fn.extractLsb' 0 3) (f.fn.extractLsb' 3 1 = 1))
  | 0x36 => f.ar1 (.clz f.d f.s1)
  | 0x37 => f.ar1 (.ctz f.d f.s1)
  | 0x38 => f.ar1 (.popc f.d f.s1)
  | 0x39 => f.ar1 (.brev f.d f.s1)
  | 0x3A => f.ar1 (.bswap f.d f.s1)
  | 0x3B => f.bits (.bfx f.d f.s1)
  | 0x3C => f.bits (.bfi f.d f.s1)
  | 0x3D => if f.s2 = 0 && f.imm = 0 && f.fn.extractLsb' 2 4 = 0 then ranged (.sext f.d f.s1 (f.fn.extractLsb' 0 2))
      else .error .mustBeZero
  | 0x3E => if f.s2 = 0 && f.imm = 0 && f.fn.extractLsb' 2 4 = 0 then ranged (.zext f.d f.s1 (f.fn.extractLsb' 0 2))
      else .error .mustBeZero
  | 0x3F => f.ar (.mfold f.d f.s1 f.s2)
  | _ => .error .reservedOpcode

/-- TRAP and BRK: imm24[15:0] = code, all else zero (R110). -/
def AF.code16 (f : AF) (k : BitVec 16 → Instr) : Dec Instr :=
  zeros (f.d = 0 && f.s1 = 0 && f.s2 = 0 && f.fn = 0 && f.imm.extractLsb' 16 8 = 0) (k (f.imm.extractLsb' 0 16))

def decA4 (f : AF) : Dec Instr :=
  match f.op.toNat with
  | 0x40 => field (Cond.ofCode f.d.toNat) fun c => .ok (.b c f.s1 f.s2 f.disp30)
  | 0x41 => if f.d.extractLsb' 4 2 = 0 && f.s1 = 0 && f.s2 = 0
      then ranged (.bp (f.d.extractLsb' 0 3) (f.d.extractLsb' 3 1 = 1) f.disp30) else .error .mustBeZero
  | 0x42 => zeros (f.d = 0) (.j f.disp42)
  | 0x43 => .ok (.jal f.d f.disp42)
  | 0x44 => f.ar1 (.jr f.d f.s1)
  | 0x45 => zeros (f.d = 0 && f.s2 = 0) (.dbnz f.s1 f.disp30)
  | 0x46 => f.code16 .trap
  | 0x47 => f.none .eret
  | 0x48 => f.code16 .brk
  | _ => .error .reservedOpcode

def decA5 (f : AF) : Dec Instr :=
  match f.op.toNat with
  | 0x50 => f.ar (.spawn f.d f.s1 f.s2)
  | 0x51 => f.none .exit
  | 0x52 => f.ar1 (.join f.d f.s1)
  | 0x53 => f.ar1 (.leave f.d f.s1)
  | 0x54 => .ok (.meet f.d f.s1 f.s2 f.mid f.win)
  | 0x55 => f.ar1 (.gcount f.d f.s1)
  | 0x56 => f.ar0 (.waitm f.d)
  | 0x57 => f.ar (.waitr f.d f.s1 f.s2)
  | 0x58 => field (Eng.ofCode f.fn.toNat) fun e => zeros (f.s2 = 0 && f.imm = 0) (.waitt e f.d f.s1)
  | 0x59 => f.ar1 (.sleep f.d f.s1)
  | 0x5A => f.ar1 (.migr f.d f.s1)
  | _ => .error .reservedOpcode

/-- S1 and S2 of BSTAT, S2 of BARR and S1 of a BARR that is not remote, of which R130 says nothing, may hold any value and read no
register (DESIGN CHOICE, log 16). -/
def decA6 (f : AF) : Dec Instr :=
  match f.op.toNat with
  | 0x60 => zeros (f.d = 0 && f.fn = 0 && f.imm = 0) (.send f.s1 f.s2)
  | 0x61 => f.ar1 (.recv f.d f.s1)
  | 0x62 => f.ar0 (.qstat f.d)
  | 0x63 => f.ar1 (.taskq f.d f.s1)
  | 0x64 => f.ar1 (.taskd f.d f.s1)
  | 0x65 => f.none .tret
  | 0x66 => f.ar (.dqpush f.d f.s1 f.s2)
  | 0x67 => f.ar0 (.dqpop f.d)
  | 0x68 => f.ar0 (.dqsplit f.d)
  | 0x69 => f.ar1 (.dqsteal f.d f.s1)
  | 0x6A => field (Dir.ofCode (f.fn.extractLsb' 0 2).toNat) fun x =>
      if f.s2.extractLsb' 5 1 = 1 then
        zeros (f.fn.extractLsb' 2 1 = 0 && f.s1 = 0 && f.imm = 0)
          (.nrd x f.d (f.s2.extractLsb' 0 5) (f.fn.extractLsb' 3 3))
      else .error .badField
  | 0x6B => zeros (f.d = 0 && f.fn = 0 && f.imm.extractLsb' 7 17 = 0) (.barm (f.imm.extractLsb' 0 7) f.s1 f.s2)
  | 0x6C => field (Scope.ofCode f.fn.toNat) fun sc =>
      zeros (f.d = 0 && f.imm.extractLsb' 8 16 = 0)
        (.barr sc (f.imm.extractLsb' 0 7) (f.imm.extractLsb' 7 1 = 1) f.s1)
  | 0x6D => field (Scope.ofCode (f.fn.extractLsb' 0 3).toNat) fun sc =>
      zeros (f.imm.extractLsb' 7 17 = 0) (.bwait sc f.d (f.imm.extractLsb' 0 7) f.s1 f.s2 (f.fn.extractLsb' 3 3))
  | 0x6E => zeros (f.fn = 0 && f.imm.extractLsb' 7 1 = 0 && f.imm.extractLsb' 10 14 = 0)
      (.bstat f.d (f.imm.extractLsb' 0 7) (f.imm.extractLsb' 8 2))
  | 0x6F => f.ar (.klaunch f.d f.s1 f.s2)
  | _ => .error .reservedOpcode

def decA7 (f : AF) : Dec Instr :=
  match f.op.toNat with
  | 0x70 => if f.s1 = 0 && f.s2 = 0 && f.fn = 0 && f.imm.extractLsb' 12 12 = 0
      then ranged (.srd f.d (f.imm.extractLsb' 0 10) (f.imm.extractLsb' 10 2)) else .error .mustBeZero
  | 0x71 => if f.d = 0 && f.s2 = 0 && f.fn = 0 && f.imm.extractLsb' 12 12 = 0
      then ranged (.swr (f.imm.extractLsb' 0 10) (f.imm.extractLsb' 10 2) f.s1) else .error .mustBeZero
  | 0x72 => f.ar0 (.rand f.d)
  | 0x74 => field (FenceKind.ofCode (f.fn.extractLsb' 0 2).toNat) fun k =>
      field (Scope.ofCode (f.fn.extractLsb' 2 3).toNat) fun sc =>
        zeros (f.d = 0 && f.s1 = 0 && f.s2 = 0 && f.imm = 0 && f.fn.extractLsb' 5 1 = 0) (.fence k sc)
  | 0x75 => f.none .rfence
  | 0x77 => field (Eng.ofCode (f.fn.extractLsb' 0 3).toNat) fun e =>
      if f.s1 = 0 && f.s2 = 0 && f.imm = 0 && f.fn.extractLsb' 4 2 = 0
      then ranged (.lease e (f.fn.extractLsb' 3 1 = 1) f.d) else .error .mustBeZero
  | 0x78 => field (Eng.ofCode (f.fn.extractLsb' 0 3).toNat) fun e =>
      if f.d = 0 && f.s1 = 0 && f.s2 = 0 && f.imm = 0 && f.fn.extractLsb' 3 3 = 0
      then ranged (.lrel e) else .error .mustBeZero
  | 0x79 => field (Eng.ofCode f.fn.toNat) fun e =>
      zeros (f.s2 = 0 && f.imm.extractLsb' 15 9 = 0) (.enq e f.d f.s1 (f.imm.extractLsb' 0 15))
  | 0x7A => .error .longForm
  | _ => .error .reservedOpcode

/-- Form AM with SIZE 64-bit, CLASS 0 and SCOPE core: the full/empty rows (R91). -/
def AF.fe (f : AF) (i : Instr) : Dec Instr :=
  if f.size = 6 && f.cls = 0 && f.scope = 0 then .ok i else .error .badField

/-- S2 of LD, LDFE, LDFF and LR, of which R134 says nothing, may hold any value and reads no register (DESIGN CHOICE, log 16). -/
def decA8 (f : AF) : Dec Instr :=
  match f.op.toNat with
  | 0x80 => field (Size.ofCode f.size.toNat) fun z => field (LdClass.ofCode f.cls.toNat) fun cl =>
      field (Scope.ofCode f.scope.toNat) fun sc => .ok (.ld z cl sc f.d f.s1 f.off f.fn)
  | 0x81 => field (Size.ofCode f.size.toNat) fun z => field (StClass.ofCode f.cls.toNat) fun cl =>
      field (Scope.ofCode f.scope.toNat) fun sc => zeros (f.d = 0) (.st z cl sc f.s2 f.s1 f.off f.fn)
  | 0x82 => f.fe (.ldfe f.d f.s1 f.off f.fn)
  | 0x83 => if f.d = 0 then f.fe (.stfe f.s2 f.s1 f.off f.fn) else .error .mustBeZero
  | 0x84 => f.fe (.ldff f.d f.s1 f.off f.fn)
  | 0x85 => if f.size = 6 && f.cls.extractLsb' 1 2 = 0 && f.scope = 0 then
        zeros (f.d = 0 && f.s2 = 0) (.feset (f.cls.extractLsb' 0 1 = 1) f.s1 f.off f.fn)
      else .error .badField
  | 0x86 => field (Scope.ofCode f.scope.toNat) fun sc => if f.size = 6 && f.cls = 0 then
      zeros (f.d = 0 && f.s2 = 0) (.pref sc f.s1 f.off f.fn) else .error .badField
  | 0x87 => field (Scope.ofCode f.scope.toNat) fun sc => if f.size = 6 && f.cls = 0 then
      zeros (f.d = 0 && f.s2 = 0) (.lwb sc f.s1 f.off f.fn) else .error .badField
  | 0x88 => field (Scope.ofCode f.scope.toNat) fun sc => if f.size = 6 && f.cls = 0 then
      zeros (f.d = 0 && f.s2 = 0) (.linv sc f.s1 f.off f.fn) else .error .badField
  | 0x89 => field (ASize.ofCode f.size.toNat) fun z => field (Scope.ofCode f.scope.toNat) fun sc =>
      if f.cls = 0 then .ok (.lr z sc f.d f.s1 f.off f.fn) else .error .badField
  | 0x8A => field (ASize.ofCode f.size.toNat) fun z => field (Scope.ofCode f.scope.toNat) fun sc =>
      if f.cls = 0 then .ok (.sc z sc f.d f.s2 f.s1 f.off f.fn) else .error .badField
  | 0x8B => field (ASize.ofCode f.size.toNat) fun z => field (Scope.ofCode f.scope.toNat) fun sc =>
      match f.cls.toNat with
      | 0 => .ok (.amoAdd z sc f.d f.s2 f.s1 f.off f.fn)
      | 1 => .ok (.amoMin z sc f.d f.s2 f.s1 f.off f.fn)
      | 2 => .ok (.amoMax z sc f.d f.s2 f.s1 f.off f.fn)
      | 3 => .ok (.amoAnd z sc f.d f.s2 f.s1 f.off f.fn)
      | 4 => .ok (.amoOr z sc f.d f.s2 f.s1 f.off f.fn)
      | 5 => .ok (.amoXchg z sc f.d f.s2 f.s1 f.off f.fn)
      | 6 => .ok (.amoAddi z sc f.d f.s2 f.s1 f.off f.fn)
      | _ => .error .badField
  | 0x8C => field (ASize.ofCode f.size.toNat) fun z => field (Scope.ofCode f.scope.toNat) fun sc =>
      if f.cls = 0 then .ok (.cas z sc f.d f.s2 f.s1 f.off f.fn) else .error .badField
  | 0x8D => field (Scope.ofCode f.scope.toNat) fun sc => if f.size = 0 && f.cls = 0 then
      zeros (f.d = 0) (.xacc sc f.s2 f.s1 f.off f.fn) else .error .badField
  | 0x8E => field (Rm5.ofCode f.cls.toNat) fun rm => field (Scope.ofCode f.scope.toNat) fun sc =>
      if f.size = 0 then zeros (f.s2 = 0) (.xrd rm sc f.d f.s1 f.off f.fn) else .error .badField
  | 0x8F => field (Scope.ofCode f.scope.toNat) fun sc => if f.size = 0 && f.cls = 0 then
      zeros (f.d = 0 && f.s2 = 0) (.xclr sc f.s1 f.off f.fn) else .error .badField
  | _ => .error .reservedOpcode

def decA9 (f : AF) : Dec Instr :=
  match f.op.toNat with
  | 0x90 => zeros (f.fn = 0) (.acopy f.d f.s1 f.s2 f.imm)
  | 0x91 => zeros (f.s2 = 0 && f.fn = 0 && f.imm.extractLsb' 8 16 = 0)
      (.acopys f.d f.s1 (f.imm.extractLsb' 0 7) (f.imm.extractLsb' 7 1 = 1))
  | 0x92 => if f.fn.extractLsb' 2 4 = 0 && f.imm.extractLsb' 12 12 = 0 then
        ranged (.tilest (f.fn.extractLsb' 0 1 = 1) (f.fn.extractLsb' 1 1 = 1) f.d f.s1 f.s2 (f.imm.extractLsb' 0 12))
      else .error .mustBeZero
  | 0x93 => if f.fn.extractLsb' 1 5 = 0 && f.imm.extractLsb' 12 12 = 0 then
        ranged (.tileld (f.fn.extractLsb' 0 1 = 1) f.d f.s1 f.s2 (f.imm.extractLsb' 0 12))
      else .error .mustBeZero
  | 0x94 => if f.fn.extractLsb' 4 2 = 0 && f.imm.extractLsb' 7 17 = 0 then
        ranged (.wmap (f.fn.extractLsb' 3 1 = 1) f.d f.s1 f.s2 (f.fn.extractLsb' 0 3) (f.imm.extractLsb' 0 7))
      else .error .mustBeZero
  | 0x95 => small f.fn fun w => zeros (f.s1 = 0 && f.s2 = 0 && f.imm = 0) (.wunmap f.d w)
  | 0x96 => small f.fn fun w => zeros (f.s1 = 0 && f.s2 = 0 && f.imm = 0) (.wsync f.d w)
  | 0x97 => small f.fn fun w => zeros (f.s1 = 0 && f.s2 = 0 && f.imm = 0) (.wstat f.d w)
  | _ => .error .reservedOpcode

/-- Slot A by the groups of R90 (DESIGN CHOICE, log 16). -/
def decodeAF (f : AF) : Dec Instr :=
  if f.grd = 8 then .error .badField else
  match (f.op.extractLsb' 4 4).toNat with
  | 0 => decA0 f
  | 1 => decA1 f
  | 2 => decA2 f
  | 3 => decA3 f
  | 4 => decA4 f
  | 5 => decA5 f
  | 6 => decA6 f
  | 7 => decA7 f
  | 8 => decA8 f
  | 9 => decA9 f
  | _ => .error .reservedOpcode

/-! ## Decoding slot V (R92) -/

/-- Rows in which VS3, FN and imm11 must be zero, and RM is zero. -/
def VF.plain3 (f : VF) (i : Instr) : Dec Instr := zeros (f.fn = 0 && f.imm = 0 && f.rm = 0) i
def VF.plain2 (f : VF) (i : Instr) : Dec Instr := zeros (f.vs3 = 0 && f.fn = 0 && f.imm = 0 && f.rm = 0) i
def VF.plain1 (f : VF) (i : Instr) : Dec Instr := zeros (f.vs2 = 0 && f.vs3 = 0 && f.fn = 0 && f.imm = 0 && f.rm = 0) i

/-- FP rows with a rounding mode. -/
def VF.fp3 (f : VF) (k : FTy → Rm → Instr) : Dec Instr :=
  field (FTy.ofCode f.ty.toNat) fun t => field (Rm.ofCode f.rm.toNat) fun r => zeros (f.fn = 0 && f.imm = 0) (k t r)
def VF.fp2 (f : VF) (k : FTy → Rm → Instr) : Dec Instr :=
  field (FTy.ofCode f.ty.toNat) fun t => field (Rm.ofCode f.rm.toNat) fun r =>
    zeros (f.vs3 = 0 && f.fn = 0 && f.imm = 0) (k t r)

def decV0 (f : VF) : Dec Instr :=
  match f.op.toNat with
  | 0x00 => zeros (f.mask = 0 && f.mz = 0 && f.vd = 0 && f.vs1 = 0 && f.vs2 = 0 && f.vs3 = 0 && f.fn = 0 && f.ty = 0 &&
      f.rm = 0 && f.imm = 0) .vnop
  | 0x01 => f.fp2 fun t r => .vadd t r f.m f.vd f.vs1 f.vs2
  | 0x02 => f.fp2 fun t r => .vsub t r f.m f.vd f.vs1 f.vs2
  | 0x03 => f.fp2 fun t r => .vmul t r f.m f.vd f.vs1 f.vs2
  | 0x04 => f.fp3 fun t r => .vfma t r f.m f.vd f.vs1 f.vs2 f.vs3
  | 0x05 => f.fp3 fun t r => .vfms t r f.m f.vd f.vs1 f.vs2 f.vs3
  | 0x06 => f.fp3 fun t r => .vfnma t r f.m f.vd f.vs1 f.vs2 f.vs3
  | 0x07 => field (FTy.ofCode f.ty.toNat) fun t => f.plain2 (.vmin t f.m f.vd f.vs1 f.vs2)
  | 0x08 => field (FTy.ofCode f.ty.toNat) fun t => f.plain2 (.vmax t f.m f.vd f.vs1 f.vs2)
  | 0x09 => field (FTy.ofCode f.ty.toNat) fun t => f.plain1 (.vabs t f.m f.vd f.vs1)
  | 0x0A => field (FTy.ofCode f.ty.toNat) fun t => f.plain1 (.vneg t f.m f.vd f.vs1)
  | 0x0B => field (FTy.ofCode f.ty.toNat) fun t => field (Rm5.ofCode f.rm.toNat) fun r =>
      zeros (f.vs3 = 0 && f.fn = 0 && f.imm = 0) (.vdiv t r f.m f.vd f.vs1 f.vs2)
  | 0x0C => field (FTy.ofCode f.ty.toNat) fun t => field (Rm5.ofCode f.rm.toNat) fun r =>
      zeros (f.vs2 = 0 && f.vs3 = 0 && f.fn = 0 && f.imm = 0) (.vsqrt t r f.m f.vd f.vs1)
  | _ => .error .reservedOpcode

def decV1 (f : VF) : Dec Instr :=
  match f.op.toNat with
  | 0x10 => field (FTy.ofCode f.ty.toNat) fun t => f.plain1 (.vrcp t f.m f.vd f.vs1)
  | 0x11 => field (FTy.ofCode f.ty.toNat) fun t => f.plain1 (.vrsq t f.m f.vd f.vs1)
  | 0x12 => field (FTy.ofCode f.ty.toNat) fun t => f.plain1 (.vexp2 t f.m f.vd f.vs1)
  | 0x13 => field (FTy.ofCode f.ty.toNat) fun t => f.plain1 (.vlog2 t f.m f.vd f.vs1)
  | 0x14 => field (FTy.ofCode f.ty.toNat) fun t => f.plain1 (.vtanh t f.m f.vd f.vs1)
  | 0x15 => field (FTy.ofCode f.ty.toNat) fun t => f.plain1 (.verf t f.m f.vd f.vs1)
  | _ => .error .reservedOpcode

/-- The count of a vector shift (R177): FN[0] chooses VS2 or imm11[5:0], and the other must be zero. -/
def VF.shift (f : VF) (k : ITy → ShCount → Instr) : Dec Instr :=
  field (ITy.ofCode f.ty.toNat) fun t =>
    if f.fn = 0 then zeros (f.vs3 = 0 && f.rm = 0 && f.imm = 0) (k t (.reg f.vs2))
    else if f.fn = 1 then
      zeros (f.vs2 = 0 && f.vs3 = 0 && f.rm = 0 && f.imm.extractLsb' 6 5 = 0) (k t (.imm (f.imm.extractLsb' 0 6)))
    else .error .mustBeZero

def VF.int2 (f : VF) (k : ITy → Instr) : Dec Instr := field (ITy.ofCode f.ty.toNat) fun t => f.plain2 (k t)
def VF.int1 (f : VF) (k : ITy → Instr) : Dec Instr := field (ITy.ofCode f.ty.toNat) fun t => f.plain1 (k t)

def decV2 (f : VF) : Dec Instr :=
  match f.op.toNat with
  | 0x20 => f.int2 fun t => .viadd t f.m f.vd f.vs1 f.vs2
  | 0x21 => f.int2 fun t => .visub t f.m f.vd f.vs1 f.vs2
  | 0x22 => f.int2 fun t => .vimul t f.m f.vd f.vs1 f.vs2
  | 0x23 => field (ITy.ofCode f.ty.toNat) fun t => f.plain3 (.vimad t f.m f.vd f.vs1 f.vs2 f.vs3)
  | 0x24 => f.int2 fun t => .vand t f.m f.vd f.vs1 f.vs2
  | 0x25 => f.int2 fun t => .vor t f.m f.vd f.vs1 f.vs2
  | 0x26 => f.int2 fun t => .vxor t f.m f.vd f.vs1 f.vs2
  | 0x27 => f.shift fun t n => .vshl t f.m f.vd f.vs1 n
  | 0x28 => f.shift fun t n => .vshr t f.m f.vd f.vs1 n
  | 0x29 => f.shift fun t n => .vsra t f.m f.vd f.vs1 n
  | 0x2A => f.int2 fun t => .vimin t f.m f.vd f.vs1 f.vs2
  | 0x2B => f.int2 fun t => .vimax t f.m f.vd f.vs1 f.vs2
  | 0x2C => f.int1 fun t => .vpopc t f.m f.vd f.vs1
  | 0x2D => f.int1 fun t => .vclz t f.m f.vd f.vs1
  | 0x2E => if f.ty = 3 then
        zeros (f.vs3 = 0 && f.fn.extractLsb' 1 5 = 0 && f.rm = 0 && f.imm = 0)
          (.vdot4 (f.fn.extractLsb' 0 1 = 1) f.m f.vd f.vs1 f.vs2)
      else .error .badField
  | 0x2F => f.int1 fun t => .viabs t f.m f.vd f.vs1
  | _ => .error .reservedOpcode

def decV3 (f : VF) : Dec Instr :=
  match f.op.toNat with
  | 0x30 => field (FTy.ofCode f.ty.toNat) fun t => field (FCond.ofCode f.fn.toNat) fun c => small f.vd fun q =>
      zeros (f.vs3 = 0 && f.rm = 0 && f.imm = 0) (.vcmp t c f.m q f.vs1 f.vs2)
  | 0x31 => field (ITy.ofCode f.ty.toNat) fun t => field (Cond.ofCode f.fn.toNat) fun c => small f.vd fun q =>
      zeros (f.vs3 = 0 && f.rm = 0 && f.imm = 0) (.vicmp t c f.m q f.vs1 f.vs2)
  | 0x32 => small f.fn fun q => zeros (f.ty = 0 && f.vs3 = 0 && f.rm = 0 && f.imm = 0) (.vsel f.m f.vd f.vs1 f.vs2 q)
  | 0x33 => if f.ty = 0 then f.plain1 (.vmov f.m f.vd f.vs1) else .error .badField
  | 0x34 => field (Ty.ofCode f.ty.toNat) fun t => f.plain1 (.vbcast t f.m f.vd f.vs1)
  | 0x35 => field (Ty.ofCode f.ty.toNat) fun t =>
      if f.mask = 0 && f.mz = 0 && f.vs2 = 0 && f.vs3 = 0 && f.fn = 0 && f.rm = 0 && f.imm.extractLsb' 6 5 = 0 then
        ranged (.vins t f.vd f.vs1 (f.imm.extractLsb' 0 6)) else .error .mustBeZero
  | 0x36 => field (Ty.ofCode f.ty.toNat) fun t =>
      if f.mask = 0 && f.mz = 0 && f.vs2 = 0 && f.vs3 = 0 && f.fn = 0 && f.rm = 0 && f.imm.extractLsb' 6 5 = 0 then
        ranged (.vext t f.vd f.vs1 (f.imm.extractLsb' 0 6)) else .error .mustBeZero
  | 0x37 => field (Ty.ofCode f.ty.toNat) fun t => f.plain2 (.vperm t f.m f.vd f.vs1 f.vs2)
  | 0x38 => field (Ty.ofCode f.ty.toNat) fun t => if f.fn.extractLsb' 4 2 = 0 then
        zeros (f.vs2 = 0 && f.vs3 = 0 && f.rm = 0 && f.imm = 0) (.vshuf t f.m f.vd f.vs1 (f.fn.extractLsb' 0 4))
      else .error .badField
  | 0x39 => small f.vd fun qd => small f.vs1 fun q1 => small f.vs2 fun q2 =>
      zeros (f.mask = 0 && f.mz = 0 && f.ty = 0 && f.vs3 = 0 && f.fn.extractLsb' 4 2 = 0 && f.rm = 0 && f.imm = 0)
        (.qlog qd q1 q2 (f.fn.extractLsb' 0 4))
  | 0x3A => small f.vs1 fun q =>
      zeros (f.mask = 0 && f.mz = 0 && f.ty = 0 && f.vs2 = 0 && f.vs3 = 0 && f.fn = 0 && f.rm = 0 && f.imm = 0)
        (.qcnt f.vd q)
  | 0x3B => if f.ty = 3 then
        zeros (f.vs1 = 0 && f.vs2 = 0 && f.vs3 = 0 && f.fn = 0 && f.rm = 0 && f.imm = 0) (.viota f.m f.vd)
      else .error .badField
  | _ => .error .reservedOpcode

/-- The second type, in FN[3:0]. -/
def VF.ty2 (f : VF) : Nat := (f.fn.extractLsb' 0 4).toNat

def decV4 (f : VF) : Dec Instr :=
  match f.op.toNat with
  | 0x40 => field (Ty.ofCode f.ty.toNat) fun d => field (Ty.ofCode f.ty2) fun s => field (Rm.ofCode f.rm.toNat) fun r =>
      if f.fn.extractLsb' 5 1 = 0 && f.vs2 = 0 && f.vs3 = 0 && f.imm = 0 then
        ranged (.vcvt d s r (f.fn.extractLsb' 4 1 = 1) f.m f.vd f.vs1) else .error .mustBeZero
  | 0x41 => field (Ty.ofCode f.ty.toNat) fun e => field (Rm.ofCode f.rm.toNat) fun r =>
      if f.fn.extractLsb' 5 1 = 0 && f.fn.extractLsb' 0 4 = 0 && f.mask = 0 && f.mz = 0 && f.vs3 = 0 && f.imm = 0 then
        ranged (.vqnt e r (f.fn.extractLsb' 4 1 = 1) f.vd f.vs1 f.vs2) else .error .mustBeZero
  | 0x42 => field (FTy.ofCode f.ty.toNat) fun t => field (Ty.ofCode f.ty2) fun e =>
      if f.fn.extractLsb' 4 2 = 0 && f.vs2 = 0 && f.vs3 = 0 && f.rm = 0 && f.imm.extractLsb' 1 10 = 0 then
        ranged (.vdqnt t e (f.imm.extractLsb' 0 1 = 1) f.m f.vd f.vs1) else .error .mustBeZero
  | 0x43 => if f.ty = 14 then field (Ty.ofCode f.ty2) fun e =>
        if f.fn.extractLsb' 4 2 = 0 && f.mask = 0 && f.mz = 0 && f.vs3 = 0 && f.rm = 0 && f.imm = 0 then
          ranged (.vscale e f.vd f.vs1 f.vs2) else .error .mustBeZero
      else .error .badField
  | 0x44 => field (Ty.ofCode f.ty.toNat) fun d => field (Ty.ofCode f.ty2) fun s =>
      if f.fn.extractLsb' 4 2 = 0 && f.vs2 = 0 && f.vs3 = 0 && f.rm = 0 && f.imm.extractLsb' 2 9 = 0 then
        ranged (.vpack d s (f.imm.extractLsb' 0 2) f.m f.vd f.vs1) else .error .mustBeZero
  | 0x45 => field (Ty.ofCode f.ty.toNat) fun d => field (Ty.ofCode f.ty2) fun s =>
      if f.fn.extractLsb' 4 2 = 0 && f.vs2 = 0 && f.vs3 = 0 && f.rm = 0 && f.imm.extractLsb' 2 9 = 0 then
        ranged (.vunpk d s (f.imm.extractLsb' 0 2) f.m f.vd f.vs1) else .error .mustBeZero
  | _ => .error .reservedOpcode

def decV5 (f : VF) : Dec Instr :=
  match f.op.toNat with
  | 0x50 => field (Ty.ofCode f.ty.toNat) fun t => field (RedOp.ofCode f.fn.toNat) fun o =>
      if f.vs2 = 0 && f.vs3 = 0 && f.rm = 0 && f.imm = 0 then ranged (.vred t o f.m f.vd f.vs1) else .error .mustBeZero
  | 0x51 => field (Ty.ofCode f.ty.toNat) fun t => field (RedOp.ofCode f.fn.toNat) fun o =>
      if f.vs2 = 0 && f.vs3 = 0 && f.rm = 0 && f.imm = 0 then ranged (.vscan t o f.m f.vd f.vs1) else .error .mustBeZero
  | 0x52 => if f.mask = 0 && f.mz = 0 && f.ty = 0 && f.vs3 = 0 && f.fn = 0 && f.rm = 0 && f.imm = 0 then
      ranged (.vsortk f.vd f.vs1 f.vs2) else .error .mustBeZero
  | 0x53 => if f.mask = 0 && f.mz = 0 && f.ty = 0 && f.fn = 0 && f.rm = 0 && f.imm = 0 then
      ranged (.vmergek f.vd f.vs1 f.vs2 f.vs3) else .error .mustBeZero
  | 0x54 => if f.ty = 0 then f.plain1 (.qsum f.m f.vd f.vs1) else .error .badField
  | 0x55 => field (Ty.ofCode f.ty.toNat) fun t =>
      if f.vs2 = 0 && f.vs3 = 0 && f.fn = 0 && f.rm = 0 && f.imm = 0 then ranged (.vargmx t f.m f.vd f.vs1)
      else .error .mustBeZero
  | _ => .error .reservedOpcode

def decV6 (f : VF) : Dec Instr :=
  match f.op.toNat with
  | 0x60 => field (Ty.ofCode f.ty.toNat) fun t => field (VClass.ofCode f.rm.toNat) fun c =>
      zeros (f.vs2 = 0 && f.vs3 = 0) (.vld t c f.m f.vd f.vs1 f.imm f.fn)
  | 0x61 => field (Ty.ofCode f.ty.toNat) fun t => field (VClass.ofCode f.rm.toNat) fun c =>
      if f.vd = 0 && f.vs3 = 0 then ranged (.vst t c f.m f.vs2 f.vs1 f.imm f.fn) else .error .mustBeZero
  | 0x62 => field (Ty.ofCode f.ty.toNat) fun t => field (VClass.ofCode f.rm.toNat) fun c =>
      if f.vs3 = 0 && f.imm = 0 then ranged (.vgath t c f.m f.vd f.vs1 f.vs2 f.fn) else .error .mustBeZero
  | 0x63 => field (Ty.ofCode f.ty.toNat) fun t =>
      if f.vd = 0 && f.rm = 0 && f.imm = 0 then ranged (.vscat t f.m f.vs3 f.vs1 f.vs2 f.fn) else .error .mustBeZero
  | _ => .error .reservedOpcode

/-- A register field that names a stream register v24-v31 (R195). -/
def stream (b : BitVec 6) (k : BitVec 3 → Dec Instr) : Dec Instr :=
  if b.extractLsb' 3 3 = 3 then k (b.extractLsb' 0 3) else .error .badField

/-- The fields every stream row requires to be zero. -/
def VF.strm (f : VF) : Bool :=
  f.mask = 0 && f.mz = 0 && f.vs2 = 0 && f.vs3 = 0 && f.fn = 0 && f.ty = 0 && f.rm = 0 && f.imm = 0

def decV7 (f : VF) : Dec Instr :=
  match f.op.toNat with
  | 0x70 => stream f.vd fun n => zeros f.strm (.sbind n f.vs1)
  | 0x71 => stream f.vd fun n => zeros (f.strm && f.vs1 = 0) (.sunb n)
  | 0x72 => stream f.vd fun x => stream f.vs1 fun y =>
      if f.strm then ranged (.sisect x y) else .error .mustBeZero
  | 0x73 => stream f.vs1 fun n => zeros f.strm (.sstat f.vd n)
  | 0x74 => stream f.vd fun n => zeros f.strm (.sskip n f.vs1)
  | _ => .error .reservedOpcode

def decV8 (f : VF) : Dec Instr :=
  match f.op.toNat with
  | 0x80 => if f.ty = 0 || f.ty = 3 then
        zeros (f.mask = 0 && f.mz = 0 && f.vs2 = 0 && f.vs3 = 0 && f.fn.extractLsb' 1 2 = 0 && f.rm = 0 && f.imm = 0)
          (.vmaxx (f.ty = 3) (f.fn.extractLsb' 0 1 = 1) f.vd f.vs1 (f.fn.extractLsb' 3 3))
      else .error .badField
  | 0x81 => if f.ty = 0 || f.ty = 4 then
        zeros (f.vs1 = 0 && f.vs2 = 0 && f.vs3 = 0 && f.fn = 0 && f.rm = 0 && f.imm = 0) (.vrand (f.ty = 4) f.m f.vd)
      else .error .badField
  | 0x82 => field (Dir.ofCode (f.fn.extractLsb' 0 2).toNat) fun x =>
      if f.vs1.extractLsb' 5 1 = 1 then
        zeros (f.mask = 0 && f.mz = 0 && f.ty = 0 && f.vs2 = 0 && f.vs3 = 0 && f.fn.extractLsb' 2 1 = 0 && f.rm = 0 &&
          f.imm = 0) (.vnrd x f.vd (f.vs1.extractLsb' 0 5) (f.fn.extractLsb' 3 3))
      else .error .badField
  | _ => .error .reservedOpcode

/-- Slot V by the groups of R92. -/
def decodeVF (f : VF) : Dec Instr :=
  match (f.op.extractLsb' 4 4).toNat with
  | 0 => decV0 f
  | 1 => decV1 f
  | 2 => decV2 f
  | 3 => decV3 f
  | 4 => decV4 f
  | 5 => decV5 f
  | 6 => decV6 f
  | 7 => decV7 f
  | 8 => decV8 f
  | _ => .error .reservedOpcode

/-! ## Registers an instruction names (R79, R98) -/

/-- An architectural register as an instruction names it. -/
inductive RegName where
  | s (f : SReg) | v (f : VRegF) | p (f : PReg) | q (f : QReg)
deriving DecidableEq, Repr

/-- A predicate field of which 0 names none (R92). -/
def optP (p : PReg) : List RegName := if p = 0 then [] else [.p p]

/-- The second register of a pair (R190). -/
def pairOf (r : VRegF) : VRegF := r + 1

/-- The count register of a vector shift, if it has one. -/
def ShCount.reads : ShCount → List RegName
  | .reg r => [.v r]
  | .imm _ => []

/-- Registers named as destinations; a field both read and written counts (R79). -/
def Instr.writes : Instr → List RegName
  | .add d _ _ => [.s d]
  | .sub d _ _ => [.s d]
  | .mul d _ _ => [.s d]
  | .mulh d _ _ => [.s d]
  | .mulhu d _ _ => [.s d]
  | .div d _ _ => [.s d]
  | .divu d _ _ => [.s d]
  | .rem d _ _ => [.s d]
  | .remu d _ _ => [.s d]
  | .and d _ _ => [.s d]
  | .or d _ _ => [.s d]
  | .xor d _ _ => [.s d]
  | .andn d _ _ => [.s d]
  | .sll d _ _ => [.s d]
  | .srl d _ _ => [.s d]
  | .sra d _ _ => [.s d]
  | .rol d _ _ => [.s d]
  | .min d _ _ => [.s d]
  | .max d _ _ => [.s d]
  | .minu d _ _ => [.s d]
  | .maxu d _ _ => [.s d]
  | .addw d _ _ => [.s d]
  | .subw d _ _ => [.s d]
  | .mulw d _ _ => [.s d]
  | .mfold d _ _ => [.s d]
  | .lea d _ _ _ => [.s d]
  | .addi d _ _ => [.s d]
  | .andi d _ _ => [.s d]
  | .ori d _ _ => [.s d]
  | .xori d _ _ => [.s d]
  | .slli d _ _ => [.s d]
  | .srli d _ _ => [.s d]
  | .srai d _ _ => [.s d]
  | .lih d _ _ => [.s d]
  | .addwi d _ _ => [.s d]
  | .li d _ => [.s d]
  | .set _ d _ _ => [.s d]
  | .seti _ d _ _ => [.s d]
  | .pset _ pd _ _ => [.p pd]
  | .pseti _ pd _ _ => [.p pd]
  | .plog pd _ _ _ => [.p pd]
  | .sel d _ _ _ _ => [.s d]
  | .clz d _ => [.s d]
  | .ctz d _ => [.s d]
  | .popc d _ => [.s d]
  | .brev d _ => [.s d]
  | .bswap d _ => [.s d]
  | .bfx d _ _ _ => [.s d]
  | .bfi d _ _ _ => [.s d]
  | .sext d _ _ => [.s d]
  | .zext d _ _ => [.s d]
  | .jal d _ => [.s d]
  | .jr d _ => [.s d]
  | .dbnz s1 _ => [.s s1]
  | .spawn d _ _ => [.s d]
  | .join d _ => [.s d]
  | .leave d _ => [.s d]
  | .gcount d _ => [.s d]
  | .sleep d _ => [.s d]
  | .migr d _ => [.s d]
  | .recv d _ => [.s d]
  | .taskq d _ => [.s d]
  | .taskd d _ => [.s d]
  | .dqsteal d _ => [.s d]
  | .meet d _ _ _ _ => [.s d]
  | .waitm d => [.s d]
  | .qstat d => [.s d]
  | .dqpop d => [.s d]
  | .dqsplit d => [.s d]
  | .rand d => [.s d]
  | .waitr d _ _ => [.s d]
  | .dqpush d _ _ => [.s d]
  | .klaunch d _ _ => [.s d]
  | .waitt _ d _ => [.s d]
  | .nrd _ d _ p => .s d :: optP p
  | .bwait _ d _ _ _ p => .s d :: optP p
  | .bstat d _ _ => [.s d]
  | .srd d _ _ => [.s d]
  | .lease _ _ d => [.s d]
  | .enq _ d _ _ => [.s d]
  | .enqi _ d _ _ _ => [.s d]
  | .ld _ _ _ d _ _ _ => [.s d]
  | .ldfe d _ _ _ => [.s d]
  | .ldff d _ _ _ => [.s d]
  | .lr _ _ d _ _ _ => [.s d]
  | .sc _ _ d _ _ _ _ => [.s d]
  | .amoAdd _ _ d _ _ _ _ => [.s d]
  | .amoMin _ _ d _ _ _ _ => [.s d]
  | .amoMax _ _ d _ _ _ _ => [.s d]
  | .amoAnd _ _ d _ _ _ _ => [.s d]
  | .amoOr _ _ d _ _ _ _ => [.s d]
  | .amoXchg _ _ d _ _ _ _ => [.s d]
  | .amoAddi _ _ d _ _ _ _ => [.s d]
  | .cas _ _ d _ _ _ _ => [.s d]
  | .xrd _ _ d _ _ _ => [.s d]
  | .acopy d _ _ _ => [.s d]
  | .acopys d _ _ _ => [.s d]
  | .wmap _ d _ _ _ _ => [.s d]
  | .wunmap d _ => [.s d]
  | .wsync d _ => [.s d]
  | .wstat d _ => [.s d]
  | .vadd _ _ _ vd _ _ => [.v vd]
  | .vsub _ _ _ vd _ _ => [.v vd]
  | .vmul _ _ _ vd _ _ => [.v vd]
  | .vdiv _ _ _ vd _ _ => [.v vd]
  | .vfma _ _ _ vd _ _ _ => [.v vd]
  | .vfms _ _ _ vd _ _ _ => [.v vd]
  | .vfnma _ _ _ vd _ _ _ => [.v vd]
  | .vmin _ _ vd _ _ => [.v vd]
  | .vmax _ _ vd _ _ => [.v vd]
  | .viadd _ _ vd _ _ => [.v vd]
  | .visub _ _ vd _ _ => [.v vd]
  | .vimul _ _ vd _ _ => [.v vd]
  | .vand _ _ vd _ _ => [.v vd]
  | .vor _ _ vd _ _ => [.v vd]
  | .vxor _ _ vd _ _ => [.v vd]
  | .vimin _ _ vd _ _ => [.v vd]
  | .vimax _ _ vd _ _ => [.v vd]
  | .vabs _ _ vd _ => [.v vd]
  | .vneg _ _ vd _ => [.v vd]
  | .vrcp _ _ vd _ => [.v vd]
  | .vrsq _ _ vd _ => [.v vd]
  | .vexp2 _ _ vd _ => [.v vd]
  | .vlog2 _ _ vd _ => [.v vd]
  | .vtanh _ _ vd _ => [.v vd]
  | .verf _ _ vd _ => [.v vd]
  | .vpopc _ _ vd _ => [.v vd]
  | .vclz _ _ vd _ => [.v vd]
  | .viabs _ _ vd _ => [.v vd]
  | .vsqrt _ _ _ vd _ => [.v vd]
  | .vimad _ _ vd _ _ _ => [.v vd]
  | .vshl _ _ vd _ _ => [.v vd]
  | .vshr _ _ vd _ _ => [.v vd]
  | .vsra _ _ vd _ _ => [.v vd]
  | .vdot4 _ _ vd _ _ => [.v vd]
  | .vcmp _ _ _ qd _ _ => [.q qd]
  | .vicmp _ _ _ qd _ _ => [.q qd]
  | .vsel _ vd _ _ _ => [.v vd]
  | .vmov _ vd _ => [.v vd]
  | .vbcast _ _ vd _ => [.v vd]
  | .vins _ vd _ _ => [.v vd]
  | .vext _ d _ _ => [.s d]
  | .vperm _ _ vd _ _ => [.v vd]
  | .vshuf _ _ vd _ _ => [.v vd]
  | .qlog qd _ _ _ => [.q qd]
  | .qcnt d _ => [.s d]
  | .viota _ vd => [.v vd]
  | .vcvt _ _ _ _ _ vd _ => [.v vd]
  | .vqnt _ _ _ vd _ _ => [.v vd]
  | .vdqnt _ _ _ _ vd _ => [.v vd]
  | .vscale _ vd _ _ => [.v vd]
  | .vpack _ _ _ _ vd _ => [.v vd]
  | .vunpk _ _ _ _ vd _ => [.v vd]
  | .vred _ _ _ d _ => [.s d]
  | .vscan _ _ _ vd _ => [.v vd]
  | .vsortk vd _ _ => [.v vd, .v (pairOf vd)]
  | .vmergek vd _ _ _ => [.v vd, .v (pairOf vd)]
  | .qsum _ vd n => [.v vd, .s n]
  | .vargmx _ _ d _ => [.s d]
  | .vld _ _ _ vd _ _ _ => [.v vd]
  | .vgath _ _ _ vd _ _ _ => [.v vd]
  | .sstat d _ => [.s d]
  | .vmaxx _ _ vd _ p => .v vd :: optP p
  | .vrand _ _ vd => [.v vd]
  | .vnrd _ vd _ p => .v vd :: optP p
  | _ => []

/-- The mask register, where it is not the constant q0. -/
def VMask.reads (m : VMask) : List RegName := if m.q = 0 then [] else [.q m.q]

/-- Registers an instruction reads (R79). -/
def Instr.reads : Instr → List RegName
  | .add _ s1 s2 => [.s s1, .s s2]
  | .sub _ s1 s2 => [.s s1, .s s2]
  | .mul _ s1 s2 => [.s s1, .s s2]
  | .mulh _ s1 s2 => [.s s1, .s s2]
  | .mulhu _ s1 s2 => [.s s1, .s s2]
  | .div _ s1 s2 => [.s s1, .s s2]
  | .divu _ s1 s2 => [.s s1, .s s2]
  | .rem _ s1 s2 => [.s s1, .s s2]
  | .remu _ s1 s2 => [.s s1, .s s2]
  | .and _ s1 s2 => [.s s1, .s s2]
  | .or _ s1 s2 => [.s s1, .s s2]
  | .xor _ s1 s2 => [.s s1, .s s2]
  | .andn _ s1 s2 => [.s s1, .s s2]
  | .sll _ s1 s2 => [.s s1, .s s2]
  | .srl _ s1 s2 => [.s s1, .s s2]
  | .sra _ s1 s2 => [.s s1, .s s2]
  | .rol _ s1 s2 => [.s s1, .s s2]
  | .min _ s1 s2 => [.s s1, .s s2]
  | .max _ s1 s2 => [.s s1, .s s2]
  | .minu _ s1 s2 => [.s s1, .s s2]
  | .maxu _ s1 s2 => [.s s1, .s s2]
  | .addw _ s1 s2 => [.s s1, .s s2]
  | .subw _ s1 s2 => [.s s1, .s s2]
  | .mulw _ s1 s2 => [.s s1, .s s2]
  | .mfold _ s1 s2 => [.s s1, .s s2]
  | .lea _ s1 s2 _ => [.s s1, .s s2]
  | .addi _ s1 _ => [.s s1]
  | .andi _ s1 _ => [.s s1]
  | .ori _ s1 _ => [.s s1]
  | .xori _ s1 _ => [.s s1]
  | .slli _ s1 _ => [.s s1]
  | .srli _ s1 _ => [.s s1]
  | .srai _ s1 _ => [.s s1]
  | .lih _ s1 _ => [.s s1]
  | .addwi _ s1 _ => [.s s1]
  | .set _ _ s1 s2 => [.s s1, .s s2]
  | .seti _ _ s1 _ => [.s s1]
  | .pset _ _ s1 s2 => [.s s1, .s s2]
  | .pseti _ _ s1 _ => [.s s1]
  | .plog _ p1 p2 _ => [.p p1, .p p2]
  | .sel _ s1 s2 p _ => [.s s1, .s s2, .p p]
  | .clz _ s1 => [.s s1]
  | .ctz _ s1 => [.s s1]
  | .popc _ s1 => [.s s1]
  | .brev _ s1 => [.s s1]
  | .bswap _ s1 => [.s s1]
  | .bfx _ s1 _ _ => [.s s1]
  | .bfi d s1 _ _ => [.s d, .s s1]
  | .sext _ s1 _ => [.s s1]
  | .zext _ s1 _ => [.s s1]
  | .b _ s1 s2 _ => [.s s1, .s s2]
  | .bp p _ _ => [.p p]
  | .jr _ s1 => [.s s1]
  | .dbnz s1 _ => [.s s1]
  | .spawn _ s1 s2 => [.s s1, .s s2]
  | .join _ s1 => [.s s1]
  | .leave _ s1 => [.s s1]
  | .gcount _ s1 => [.s s1]
  | .sleep _ s1 => [.s s1]
  | .migr _ s1 => [.s s1]
  | .recv _ s1 => [.s s1]
  | .taskq _ s1 => [.s s1]
  | .taskd _ s1 => [.s s1]
  | .dqsteal _ s1 => [.s s1]
  | .meet _ s1 s2 _ _ => [.s s1, .s s2]
  | .waitr _ s1 s2 => [.s s1, .s s2]
  | .dqpush _ s1 s2 => [.s s1, .s s2]
  | .klaunch _ s1 s2 => [.s s1, .s s2]
  | .waitt _ _ s1 => [.s s1]
  | .send s1 s2 => [.s s1, .s s2]
  | .barm _ s1 s2 => [.s s1, .s s2]
  | .barr _ _ remote s1 => if remote then [.s s1] else []
  | .bwait _ _ _ s1 s2 _ => [.s s1, .s s2]
  | .swr _ _ s1 => [.s s1]
  | .enq _ _ s1 _ => [.s s1]
  | .enqi _ d s1 s2 _ => [.s d, .s s1, .s s2]
  | .ld _ _ _ _ s1 _ _ => [.s s1]
  | .st _ _ _ s2 s1 _ _ => [.s s2, .s s1]
  | .ldfe _ s1 _ _ => [.s s1]
  | .ldff _ s1 _ _ => [.s s1]
  | .stfe s2 s1 _ _ => [.s s2, .s s1]
  | .feset _ s1 _ _ => [.s s1]
  | .pref _ s1 _ _ => [.s s1]
  | .lwb _ s1 _ _ => [.s s1]
  | .linv _ s1 _ _ => [.s s1]
  | .xclr _ s1 _ _ => [.s s1]
  | .lr _ _ _ s1 _ _ => [.s s1]
  | .sc _ _ _ s2 s1 _ _ => [.s s2, .s s1]
  | .amoAdd _ _ _ s2 s1 _ _ => [.s s2, .s s1]
  | .amoMin _ _ _ s2 s1 _ _ => [.s s2, .s s1]
  | .amoMax _ _ _ s2 s1 _ _ => [.s s2, .s s1]
  | .amoAnd _ _ _ s2 s1 _ _ => [.s s2, .s s1]
  | .amoOr _ _ _ s2 s1 _ _ => [.s s2, .s s1]
  | .amoXchg _ _ _ s2 s1 _ _ => [.s s2, .s s1]
  | .amoAddi _ _ _ _ s1 _ _ => [.s s1]
  | .cas _ _ d s2 s1 _ _ => [.s d, .s s2, .s s1]
  | .xacc _ s2 s1 _ _ => [.s s2, .s s1]
  | .xrd _ _ _ s1 _ _ => [.s s1]
  | .acopy _ s1 s2 _ => [.s s1, .s s2]
  | .acopys _ s1 _ _ => [.s s1]
  | .tilest _ _ d s1 s2 _ => [.s d, .s s1, .s s2]
  | .tileld _ d s1 s2 _ => [.s d, .s s1, .s s2]
  | .wmap _ _ s1 s2 _ _ => [.s s1, .s s2]
  | .vadd _ _ m _ vs1 vs2 => m.reads ++ [.v vs1, .v vs2]
  | .vsub _ _ m _ vs1 vs2 => m.reads ++ [.v vs1, .v vs2]
  | .vmul _ _ m _ vs1 vs2 => m.reads ++ [.v vs1, .v vs2]
  | .vdiv _ _ m _ vs1 vs2 => m.reads ++ [.v vs1, .v vs2]
  | .vfma _ _ m _ vs1 vs2 vs3 => m.reads ++ [.v vs1, .v vs2, .v vs3]
  | .vfms _ _ m _ vs1 vs2 vs3 => m.reads ++ [.v vs1, .v vs2, .v vs3]
  | .vfnma _ _ m _ vs1 vs2 vs3 => m.reads ++ [.v vs1, .v vs2, .v vs3]
  | .vmin _ m _ vs1 vs2 => m.reads ++ [.v vs1, .v vs2]
  | .vmax _ m _ vs1 vs2 => m.reads ++ [.v vs1, .v vs2]
  | .viadd _ m _ vs1 vs2 => m.reads ++ [.v vs1, .v vs2]
  | .visub _ m _ vs1 vs2 => m.reads ++ [.v vs1, .v vs2]
  | .vimul _ m _ vs1 vs2 => m.reads ++ [.v vs1, .v vs2]
  | .vand _ m _ vs1 vs2 => m.reads ++ [.v vs1, .v vs2]
  | .vor _ m _ vs1 vs2 => m.reads ++ [.v vs1, .v vs2]
  | .vxor _ m _ vs1 vs2 => m.reads ++ [.v vs1, .v vs2]
  | .vimin _ m _ vs1 vs2 => m.reads ++ [.v vs1, .v vs2]
  | .vimax _ m _ vs1 vs2 => m.reads ++ [.v vs1, .v vs2]
  | .vabs _ m _ vs1 => m.reads ++ [.v vs1]
  | .vneg _ m _ vs1 => m.reads ++ [.v vs1]
  | .vrcp _ m _ vs1 => m.reads ++ [.v vs1]
  | .vrsq _ m _ vs1 => m.reads ++ [.v vs1]
  | .vexp2 _ m _ vs1 => m.reads ++ [.v vs1]
  | .vlog2 _ m _ vs1 => m.reads ++ [.v vs1]
  | .vtanh _ m _ vs1 => m.reads ++ [.v vs1]
  | .verf _ m _ vs1 => m.reads ++ [.v vs1]
  | .vpopc _ m _ vs1 => m.reads ++ [.v vs1]
  | .vclz _ m _ vs1 => m.reads ++ [.v vs1]
  | .viabs _ m _ vs1 => m.reads ++ [.v vs1]
  | .vsqrt _ _ m _ vs1 => m.reads ++ [.v vs1]
  | .vimad _ m _ vs1 vs2 vs3 => m.reads ++ [.v vs1, .v vs2, .v vs3]
  | .vshl _ m _ vs1 n => m.reads ++ .v vs1 :: n.reads
  | .vshr _ m _ vs1 n => m.reads ++ .v vs1 :: n.reads
  | .vsra _ m _ vs1 n => m.reads ++ .v vs1 :: n.reads
  | .vdot4 _ m vd vs1 vs2 => m.reads ++ [.v vd, .v vs1, .v vs2]
  | .vcmp _ _ m _ vs1 vs2 => m.reads ++ [.v vs1, .v vs2]
  | .vicmp _ _ m _ vs1 vs2 => m.reads ++ [.v vs1, .v vs2]
  | .vsel m _ vs1 vs2 qn => m.reads ++ [.v vs1, .v vs2, .q qn]
  | .vmov m _ vs1 => m.reads ++ [.v vs1]
  | .vbcast _ m _ x => m.reads ++ [.s x]
  | .vins _ vd x _ => [.v vd, .s x]
  | .vext _ _ vs1 _ => [.v vs1]
  | .vperm _ m _ vs1 vs2 => m.reads ++ [.v vs1, .v vs2]
  | .vshuf _ m _ vs1 _ => m.reads ++ [.v vs1]
  | .qlog _ q1 q2 _ => [.q q1, .q q2]
  | .qcnt _ q1 => [.q q1]
  | .viota m _ => m.reads
  | .vcvt _ _ _ _ m _ vs1 => m.reads ++ [.v vs1]
  | .vqnt _ _ _ _ vs1 vs2 => [.v vs1, .v vs2]
  | .vdqnt _ _ _ m _ vs1 => m.reads ++ [.v vs1]
  | .vscale _ _ vs1 vs2 => [.v vs1, .v vs2]
  | .vpack _ _ _ m vd vs1 => m.reads ++ [.v vd, .v vs1]
  | .vunpk _ _ _ m _ vs1 => m.reads ++ [.v vs1]
  | .vred _ _ m _ vs1 => m.reads ++ [.v vs1]
  | .vscan _ _ m _ vs1 => m.reads ++ [.v vs1]
  | .vsortk _ vs1 vs2 => [.v vs1, .v vs2]
  | .vmergek _ vs1 vs2 vs3 => [.v vs1, .v vs2, .v vs3, .v (pairOf vs3)]
  | .qsum m vd n => m.reads ++ [.v vd, .s n]
  | .vargmx _ m _ vs1 => m.reads ++ [.v vs1]
  | .vld _ _ m _ s1 _ _ => m.reads ++ [.s s1]
  | .vst _ _ m vs2 s1 _ _ => m.reads ++ [.v vs2, .s s1]
  | .vgath _ _ m _ s1 vs2 _ => m.reads ++ [.s s1, .v vs2]
  | .vscat _ m vs3 s1 vs2 _ => m.reads ++ [.v vs3, .s s1, .v vs2]
  | .sbind _ x => [.s x]
  | .sskip _ x => [.s x]
  | .vmaxx _ _ _ vs1 _ => [.v vs1]
  | .vrand _ m _ => m.reads
  | _ => []
/-- Slot A is NOP and slot V is not QSUM, or slot A is NOP (R191). -/
def qsumOk (x y : Instr) : Bool :=
  match y with
  | .qsum _ _ _ => x == .nop
  | _ => true

/-- No register is a destination of both slots (R79). -/
def disjointWrites (x y : Instr) : Bool := x.writes.all (fun r => !y.writes.contains r)

/-! ## Bundles (R85, R88) -/

/-- The little-endian number a list of bytes holds (R4). -/
def leNat : List Byte → Nat
  | [] => 0
  | x :: t => x.toNat + 256 * leNat t

/-- The n low bytes of a number, lowest first. -/
def leBytes : Nat → Nat → List Byte
  | 0, _ => []
  | k + 1, n => BitVec.ofNat 8 n :: leBytes k (n / 256)

/-- A bundle's bits, from its 16 bytes. -/
def bundleBits (bs : List Byte) : BitVec 128 := BitVec.ofNat 128 (leNat (bs.take 16))

def Guard.ofBits (x : BitVec 4) : Guard := { neg := x.extractLsb' 3 1 = 1, p := x.extractLsb' 0 3 }
def Guard.bits (g : Guard) : BitVec 4 := (if g.neg then 1#1 else 0#1) ++ g.p

/-- A data bundle: FMT 0b10, and [127:124] and [121:120] zero (R88). -/
def isData (x : BitVec 128) : Bool := x.extractLsb' 124 4 = 0 && x.extractLsb' 122 2 = 2 && x.extractLsb' 120 2 = 0

/-- The command word of an ENQI from the low 16 bits of its first bundle and the two data bundles (R88). -/
def CmdWord.ofParts (top : BitVec 16) (lo hi : BitVec 120) : CmdWord :=
  let w : BitVec 256 := top ++ hi ++ lo
  { q0 := w.extractLsb' 0 64, q1 := w.extractLsb' 64 64, q2 := w.extractLsb' 128 64, q3 := w.extractLsb' 192 64 }
def CmdWord.bits (w : CmdWord) : BitVec 256 := w.q3 ++ w.q2 ++ w.q1 ++ w.q0

def decErr {α : Type} (y : Why) (op : BitVec 8) (slotV : Bool := false) : Except DecodeError α :=
  .error { why := y, op := op, slotV := slotV }

/-- A bundle of FMT 0b00: both slots, then the rules over the pair. -/
def decodeShort (x : BitVec 128) : Except DecodeError Bundle :=
  let af := AF.split (x.extractLsb' 60 60)
  let vf := VF.split (x.extractLsb' 0 60)
  match decodeAF af with
  | .error y => decErr y af.op
  | .ok ia =>
    match decodeVF vf with
    | .error y => decErr y vf.op true
    | .ok iv =>
      if !qsumOk ia iv then decErr .slotAWithQsum vf.op true
      else if !disjointWrites ia iv then decErr .sameDestination af.op
      else .ok { sc := x.extractLsb' 124 4, guard := Guard.ofBits af.grd, a := ia, v := iv, len := 16 }

/-- A bundle of FMT 0b01: LI, or ENQI with its two data bundles (R88). -/
def decodeLong (x : BitVec 128) (rest : List Byte) : Except DecodeError Bundle :=
  let op : BitVec 8 := x.extractLsb' 112 8
  let grd : BitVec 4 := x.extractLsb' 108 4
  let d : BitVec 6 := x.extractLsb' 102 6
  if grd = 8 then decErr .badField op
  else if op = 0x28 then
    if x.extractLsb' 64 38 = 0 then
      .ok { sc := x.extractLsb' 124 4, guard := Guard.ofBits grd, a := .li d (x.extractLsb' 0 64), v := .vnop, len := 16 }
    else decErr .mustBeZero op
  else if op = 0x7A then
    match Eng.ofCode (x.extractLsb' 86 4).toNat with
    | none => decErr .badField op
    | some e =>
      if x.extractLsb' 64 22 = 0 && x.extractLsb' 16 48 = 0 then
        if rest.length < 32 then decErr .truncated op
        else
          let y := bundleBits rest
          let z := bundleBits (rest.drop 16)
          if isData y && isData z then
            .ok { sc := x.extractLsb' 124 4, guard := Guard.ofBits grd,
                  a := .enqi e d (x.extractLsb' 96 6) (x.extractLsb' 90 6)
                    (CmdWord.ofParts (x.extractLsb' 0 16) (y.extractLsb' 0 120) (z.extractLsb' 0 120)),
                  v := .vnop, len := 48 }
          else decErr .longForm op
      else decErr .mustBeZero op
  else decErr .longForm op

/-- Decoding the bytes at a pc: total on any bytes. -/
def decode (bs : List Byte) : Except DecodeError Bundle :=
  let x := bundleBits bs
  let op : BitVec 8 := x.extractLsb' 112 8
  if bs.length < 16 then decErr .truncated 0
  else if x.extractLsb' 120 2 ≠ 0 then decErr .mustBeZero op
  else match (x.extractLsb' 122 2).toNat with
    | 0 => decodeShort x
    | 1 => decodeLong x (bs.drop 16)
    | _ => decErr .badFormat op

/-- Whether the bytes begin an ENQI, whose two data bundles the core reads too (R88). -/
def needsData (bs : List Byte) : Bool :=
  let x := bundleBits bs
  x.extractLsb' 120 2 = 0 && x.extractLsb' 122 2 = 1 && x.extractLsb' 112 8 = 0x7A

/-- The instruction a decoded bundle stands for when it is asked for as one row: slot V's where slot A is NOP. -/
def Bundle.row (u : Bundle) : Instr :=
  match u.a, u.v with
  | .nop, .vnop => .nop
  | .nop, y => y
  | x, _ => x

/-- The instruction the decoder reads from nbits of an instruction, the rest of three bundles zero. -/
def decodeTableWord (nbits w : Nat) : Option Instr :=
  match decode (leBytes 48 (w % 2 ^ nbits)) with
  | .ok u => some u.row
  | .error _ => none

/-! ## The encoder -/

/-- A row's slot A fields, from OP, D, S1, S2, FN and imm24. -/
def mkA (op : BitVec 8) (d s1 s2 fn : BitVec 6) (imm : BitVec 24) : AF :=
  { op := op, grd := 0, d := d, s1 := s1, s2 := s2, fn := fn, imm := imm }

/-- Form AI. -/
def mkAI (op : BitVec 8) (d s1 : BitVec 6) (x : BitVec 36) : AF :=
  mkA op d s1 (x.extractLsb' 30 6) (x.extractLsb' 24 6) (x.extractLsb' 0 24)
/-- Form AC. -/
def mkAC (op : BitVec 8) (d s1 : BitVec 6) (c : BitVec 3) (x : BitVec 33) : AF :=
  mkA op d s1 (c ++ x.extractLsb' 30 3) (x.extractLsb' 24 6) (x.extractLsb' 0 24)
/-- Form AB. -/
def mkAB (op : BitVec 8) (d s1 s2 : BitVec 6) (x : BitVec 30) : AF :=
  mkA op d s1 s2 (x.extractLsb' 24 6) (x.extractLsb' 0 24)
/-- Form AJ. -/
def mkAJ (op : BitVec 8) (d : BitVec 6) (x : BitVec 42) : AF :=
  mkA op d (x.extractLsb' 36 6) (x.extractLsb' 30 6) (x.extractLsb' 24 6) (x.extractLsb' 0 24)
/-- Form AM. -/
def mkAM (op : BitVec 8) (d s1 s2 nd : BitVec 6) (scope cls size : Nat) (off : BitVec 15) : AF :=
  mkA op d s1 s2 nd (BitVec.ofNat 3 scope ++ BitVec.ofNat 3 cls ++ BitVec.ofNat 3 size ++ off)

/-- One bit of a flag operand. -/
def bit (x : Bool) : BitVec 1 := if x then 1#1 else 0#1

/-- A 3-bit register name in a 6-bit field. -/
def six (x : BitVec 3) : BitVec 6 := 0#3 ++ x

/-- The slot A fields of an instruction; NOP's where it has none. GRD is the bundle's. -/
def encodeAF : Instr → AF
  | .add d s1 s2 => mkA 0x01 d s1 s2 0 0
  | .sub d s1 s2 => mkA 0x02 d s1 s2 0 0
  | .mul d s1 s2 => mkA 0x03 d s1 s2 0 0
  | .mulh d s1 s2 => mkA 0x04 d s1 s2 0 0
  | .mulhu d s1 s2 => mkA 0x05 d s1 s2 0 0
  | .div d s1 s2 => mkA 0x06 d s1 s2 0 0
  | .divu d s1 s2 => mkA 0x07 d s1 s2 0 0
  | .rem d s1 s2 => mkA 0x08 d s1 s2 0 0
  | .remu d s1 s2 => mkA 0x09 d s1 s2 0 0
  | .and d s1 s2 => mkA 0x0A d s1 s2 0 0
  | .or d s1 s2 => mkA 0x0B d s1 s2 0 0
  | .xor d s1 s2 => mkA 0x0C d s1 s2 0 0
  | .andn d s1 s2 => mkA 0x0D d s1 s2 0 0
  | .sll d s1 s2 => mkA 0x0E d s1 s2 0 0
  | .srl d s1 s2 => mkA 0x0F d s1 s2 0 0
  | .sra d s1 s2 => mkA 0x10 d s1 s2 0 0
  | .rol d s1 s2 => mkA 0x11 d s1 s2 0 0
  | .min d s1 s2 => mkA 0x12 d s1 s2 0 0
  | .max d s1 s2 => mkA 0x13 d s1 s2 0 0
  | .minu d s1 s2 => mkA 0x14 d s1 s2 0 0
  | .maxu d s1 s2 => mkA 0x15 d s1 s2 0 0
  | .addw d s1 s2 => mkA 0x16 d s1 s2 0 0
  | .subw d s1 s2 => mkA 0x17 d s1 s2 0 0
  | .mulw d s1 s2 => mkA 0x18 d s1 s2 0 0
  | .lea d s1 s2 n => mkA 0x19 d s1 s2 (six n) 0
  | .addi d s1 x => mkAI 0x20 d s1 x
  | .andi d s1 x => mkAI 0x21 d s1 x
  | .ori d s1 x => mkAI 0x22 d s1 x
  | .xori d s1 x => mkAI 0x23 d s1 x
  | .slli d s1 n => mkAI 0x24 d s1 (0#30 ++ n)
  | .srli d s1 n => mkAI 0x25 d s1 (0#30 ++ n)
  | .srai d s1 n => mkAI 0x26 d s1 (0#30 ++ n)
  | .lih d s1 x => mkAI 0x27 d s1 x
  | .addwi d s1 x => mkAI 0x29 d s1 x
  | .set c d s1 s2 => mkA 0x30 d s1 s2 (BitVec.ofNat 6 c.code) 0
  | .seti c d s1 x => mkAC 0x31 d s1 (BitVec.ofNat 3 c.code) x
  | .pset c p s1 s2 => mkA 0x32 (six p) s1 s2 (BitVec.ofNat 6 c.code) 0
  | .pseti c p s1 x => mkAC 0x33 (six p) s1 (BitVec.ofNat 3 c.code) x
  | .plog pd p1 p2 t => mkA 0x34 (six pd) (six p1) (six p2) (0#2 ++ t) 0
  | .sel d s1 s2 p n => mkA 0x35 d s1 s2 (0#2 ++ bit n ++ p) 0
  | .clz d s1 => mkA 0x36 d s1 0 0 0
  | .ctz d s1 => mkA 0x37 d s1 0 0 0
  | .popc d s1 => mkA 0x38 d s1 0 0 0
  | .brev d s1 => mkA 0x39 d s1 0 0 0
  | .bswap d s1 => mkA 0x3A d s1 0 0 0
  | .bfx d s1 pos w1 => mkA 0x3B d s1 0 pos (0#18 ++ w1)
  | .bfi d s1 pos w1 => mkA 0x3C d s1 0 pos (0#18 ++ w1)
  | .sext d s1 k => mkA 0x3D d s1 0 (0#4 ++ k) 0
  | .zext d s1 k => mkA 0x3E d s1 0 (0#4 ++ k) 0
  | .mfold d s1 s2 => mkA 0x3F d s1 s2 0 0
  | .b c s1 s2 x => mkAB 0x40 (BitVec.ofNat 6 c.code) s1 s2 x
  | .bp p n x => mkAB 0x41 (0#2 ++ bit n ++ p) 0 0 x
  | .j x => mkAJ 0x42 0 x
  | .jal d x => mkAJ 0x43 d x
  | .jr d s1 => mkA 0x44 d s1 0 0 0
  | .dbnz s1 x => mkAB 0x45 0 s1 0 x
  | .trap c => mkA 0x46 0 0 0 0 (0#8 ++ c)
  | .eret => mkA 0x47 0 0 0 0 0
  | .brk c => mkA 0x48 0 0 0 0 (0#8 ++ c)
  | .spawn d s1 s2 => mkA 0x50 d s1 s2 0 0
  | .exit => mkA 0x51 0 0 0 0 0
  | .join d s1 => mkA 0x52 d s1 0 0 0
  | .leave d s1 => mkA 0x53 d s1 0 0 0
  | .meet d s1 s2 m x => mkA 0x54 d s1 s2 (m.extractLsb' 2 6) (m.extractLsb' 0 2 ++ x)
  | .gcount d s1 => mkA 0x55 d s1 0 0 0
  | .waitm d => mkA 0x56 d 0 0 0 0
  | .waitr d s1 s2 => mkA 0x57 d s1 s2 0 0
  | .waitt e d s1 => mkA 0x58 d s1 0 (BitVec.ofNat 6 e.code) 0
  | .sleep d s1 => mkA 0x59 d s1 0 0 0
  | .migr d s1 => mkA 0x5A d s1 0 0 0
  | .send s1 s2 => mkA 0x60 0 s1 s2 0 0
  | .recv d s1 => mkA 0x61 d s1 0 0 0
  | .qstat d => mkA 0x62 d 0 0 0 0
  | .taskq d s1 => mkA 0x63 d s1 0 0 0
  | .taskd d s1 => mkA 0x64 d s1 0 0 0
  | .tret => mkA 0x65 0 0 0 0 0
  | .dqpush d s1 s2 => mkA 0x66 d s1 s2 0 0
  | .dqpop d => mkA 0x67 d 0 0 0 0
  | .dqsplit d => mkA 0x68 d 0 0 0 0
  | .dqsteal d s1 => mkA 0x69 d s1 0 0 0
  | .nrd x d n p => mkA 0x6A d 0 (1#1 ++ n) (p ++ 0#1 ++ BitVec.ofNat 2 x.code) 0
  | .barm n s1 s2 => mkA 0x6B 0 s1 s2 0 (0#17 ++ n)
  | .barr sc n r s1 => mkA 0x6C 0 s1 0 (BitVec.ofNat 6 sc.code) (0#16 ++ bit r ++ n)
  | .bwait sc d n s1 s2 p => mkA 0x6D d s1 s2 (p ++ BitVec.ofNat 3 sc.code) (0#17 ++ n)
  | .bstat d n k => mkA 0x6E d 0 0 0 (0#14 ++ k ++ 0#1 ++ n)
  | .klaunch d s1 s2 => mkA 0x6F d s1 s2 0 0
  | .srd d n hi => mkA 0x70 d 0 0 0 (0#12 ++ hi ++ n)
  | .swr n hi s1 => mkA 0x71 0 s1 0 0 (0#12 ++ hi ++ n)
  | .rand d => mkA 0x72 d 0 0 0 0
  | .fence k sc => mkA 0x74 0 0 0 (0#1 ++ BitVec.ofNat 3 sc.code ++ BitVec.ofNat 2 k.code) 0
  | .rfence => mkA 0x75 0 0 0 0 0
  | .lease e t d => mkA 0x77 d 0 0 (0#2 ++ bit t ++ BitVec.ofNat 3 e.code) 0
  | .lrel e => mkA 0x78 0 0 0 (0#3 ++ BitVec.ofNat 3 e.code) 0
  | .enq e d s1 off => mkA 0x79 d s1 0 (BitVec.ofNat 6 e.code) (0#9 ++ off)
  | .ld z cl sc d s1 off nd => mkAM 0x80 d s1 0 nd sc.code cl.code z.code off
  | .st z cl sc s2 s1 off nd => mkAM 0x81 0 s1 s2 nd sc.code cl.code z.code off
  | .ldfe d s1 off nd => mkAM 0x82 d s1 0 nd 0 0 6 off
  | .stfe s2 s1 off nd => mkAM 0x83 0 s1 s2 nd 0 0 6 off
  | .ldff d s1 off nd => mkAM 0x84 d s1 0 nd 0 0 6 off
  | .feset t s1 off nd => mkAM 0x85 0 s1 0 nd 0 (if t then 1 else 0) 6 off
  | .pref sc s1 off nd => mkAM 0x86 0 s1 0 nd sc.code 0 6 off
  | .lwb sc s1 off nd => mkAM 0x87 0 s1 0 nd sc.code 0 6 off
  | .linv sc s1 off nd => mkAM 0x88 0 s1 0 nd sc.code 0 6 off
  | .lr z sc d s1 off nd => mkAM 0x89 d s1 0 nd sc.code 0 z.code off
  | .sc z sc d s2 s1 off nd => mkAM 0x8A d s1 s2 nd sc.code 0 z.code off
  | .amoAdd z sc d s2 s1 off nd => mkAM 0x8B d s1 s2 nd sc.code 0 z.code off
  | .amoMin z sc d s2 s1 off nd => mkAM 0x8B d s1 s2 nd sc.code 1 z.code off
  | .amoMax z sc d s2 s1 off nd => mkAM 0x8B d s1 s2 nd sc.code 2 z.code off
  | .amoAnd z sc d s2 s1 off nd => mkAM 0x8B d s1 s2 nd sc.code 3 z.code off
  | .amoOr z sc d s2 s1 off nd => mkAM 0x8B d s1 s2 nd sc.code 4 z.code off
  | .amoXchg z sc d s2 s1 off nd => mkAM 0x8B d s1 s2 nd sc.code 5 z.code off
  | .amoAddi z sc d s2 s1 off nd => mkAM 0x8B d s1 s2 nd sc.code 6 z.code off
  | .cas z sc d s2 s1 off nd => mkAM 0x8C d s1 s2 nd sc.code 0 z.code off
  | .xacc sc s2 s1 off nd => mkAM 0x8D 0 s1 s2 nd sc.code 0 0 off
  | .xrd r sc d s1 off nd => mkAM 0x8E d s1 0 nd sc.code r.code 0 off
  | .xclr sc s1 off nd => mkAM 0x8F 0 s1 0 nd sc.code 0 0 off
  | .acopy d s1 s2 n => mkA 0x90 d s1 s2 0 n
  | .acopys d s1 n on => mkA 0x91 d s1 0 0 (0#16 ++ bit on ++ n)
  | .tilest x y d s1 s2 n => mkA 0x92 d s1 s2 (0#4 ++ bit y ++ bit x) (0#12 ++ n)
  | .tileld x d s1 s2 n => mkA 0x93 d s1 s2 (0#5 ++ bit x) (0#12 ++ n)
  | .wmap x d s1 s2 k g => mkA 0x94 d s1 s2 (0#2 ++ bit x ++ k) (0#17 ++ g)
  | .wunmap d k => mkA 0x95 d 0 0 (six k) 0
  | .wsync d k => mkA 0x96 d 0 0 (six k) 0
  | .wstat d k => mkA 0x97 d 0 0 (six k) 0
  | _ => mkA 0 0 0 0 0 0

/-- A row's slot V fields. -/
def mkV (op : BitVec 8) (m : VMask) (vd vs1 vs2 vs3 fn : BitVec 6) (ty rm : Nat) (imm : BitVec 11) : VF :=
  { op := op, mask := m.q, mz := bit m.zero, vd := vd, vs1 := vs1, vs2 := vs2, vs3 := vs3, fn := fn,
    ty := BitVec.ofNat 4 ty, rm := BitVec.ofNat 3 rm, imm := imm }

/-- MASK and MZ of the unmasked rows (R173). -/
def unmasked : VMask := { q := 0, zero := false }

/-- VS2 and imm11 of a vector shift, and its FN. -/
def ShCount.fields : ShCount → BitVec 6 × BitVec 6 × BitVec 11
  | .reg r => (r, 0, 0)
  | .imm n => (0, 1, 0#5 ++ n)

/-- A stream register v24-v31 in a register field. -/
def streamReg (n : BitVec 3) : BitVec 6 := 3#3 ++ n

/-- The slot V fields of an instruction; VNOP's where it has none. -/
def encodeVF : Instr → VF
  | .vadd t r m vd x y => mkV 0x01 m vd x y 0 0 t.code r.code 0
  | .vsub t r m vd x y => mkV 0x02 m vd x y 0 0 t.code r.code 0
  | .vmul t r m vd x y => mkV 0x03 m vd x y 0 0 t.code r.code 0
  | .vfma t r m vd x y z => mkV 0x04 m vd x y z 0 t.code r.code 0
  | .vfms t r m vd x y z => mkV 0x05 m vd x y z 0 t.code r.code 0
  | .vfnma t r m vd x y z => mkV 0x06 m vd x y z 0 t.code r.code 0
  | .vmin t m vd x y => mkV 0x07 m vd x y 0 0 t.code 0 0
  | .vmax t m vd x y => mkV 0x08 m vd x y 0 0 t.code 0 0
  | .vabs t m vd x => mkV 0x09 m vd x 0 0 0 t.code 0 0
  | .vneg t m vd x => mkV 0x0A m vd x 0 0 0 t.code 0 0
  | .vdiv t r m vd x y => mkV 0x0B m vd x y 0 0 t.code r.code 0
  | .vsqrt t r m vd x => mkV 0x0C m vd x 0 0 0 t.code r.code 0
  | .vrcp t m vd x => mkV 0x10 m vd x 0 0 0 t.code 0 0
  | .vrsq t m vd x => mkV 0x11 m vd x 0 0 0 t.code 0 0
  | .vexp2 t m vd x => mkV 0x12 m vd x 0 0 0 t.code 0 0
  | .vlog2 t m vd x => mkV 0x13 m vd x 0 0 0 t.code 0 0
  | .vtanh t m vd x => mkV 0x14 m vd x 0 0 0 t.code 0 0
  | .verf t m vd x => mkV 0x15 m vd x 0 0 0 t.code 0 0
  | .viadd t m vd x y => mkV 0x20 m vd x y 0 0 t.code 0 0
  | .visub t m vd x y => mkV 0x21 m vd x y 0 0 t.code 0 0
  | .vimul t m vd x y => mkV 0x22 m vd x y 0 0 t.code 0 0
  | .vand t m vd x y => mkV 0x24 m vd x y 0 0 t.code 0 0
  | .vor t m vd x y => mkV 0x25 m vd x y 0 0 t.code 0 0
  | .vxor t m vd x y => mkV 0x26 m vd x y 0 0 t.code 0 0
  | .vimin t m vd x y => mkV 0x2A m vd x y 0 0 t.code 0 0
  | .vimax t m vd x y => mkV 0x2B m vd x y 0 0 t.code 0 0
  | .vimad t m vd x y z => mkV 0x23 m vd x y z 0 t.code 0 0
  | .vshl t m vd x n => mkV 0x27 m vd x n.fields.1 0 n.fields.2.1 t.code 0 n.fields.2.2
  | .vshr t m vd x n => mkV 0x28 m vd x n.fields.1 0 n.fields.2.1 t.code 0 n.fields.2.2
  | .vsra t m vd x n => mkV 0x29 m vd x n.fields.1 0 n.fields.2.1 t.code 0 n.fields.2.2
  | .vpopc t m vd x => mkV 0x2C m vd x 0 0 0 t.code 0 0
  | .vclz t m vd x => mkV 0x2D m vd x 0 0 0 t.code 0 0
  | .viabs t m vd x => mkV 0x2F m vd x 0 0 0 t.code 0 0
  | .vdot4 n m vd x y => mkV 0x2E m vd x y 0 (0#5 ++ bit n) 3 0 0
  | .vcmp t c m q x y => mkV 0x30 m (six q) x y 0 (BitVec.ofNat 6 c.code) t.code 0 0
  | .vicmp t c m q x y => mkV 0x31 m (six q) x y 0 (BitVec.ofNat 6 c.code) t.code 0 0
  | .vsel m vd x y q => mkV 0x32 m vd x y 0 (six q) 0 0 0
  | .vmov m vd x => mkV 0x33 m vd x 0 0 0 0 0 0
  | .vbcast t m vd x => mkV 0x34 m vd x 0 0 0 t.code 0 0
  | .vins t vd x i => mkV 0x35 unmasked vd x 0 0 0 t.code 0 (0#5 ++ i)
  | .vext t d x i => mkV 0x36 unmasked d x 0 0 0 t.code 0 (0#5 ++ i)
  | .vperm t m vd x y => mkV 0x37 m vd x y 0 0 t.code 0 0
  | .vshuf t m vd x n => mkV 0x38 m vd x 0 0 (0#2 ++ n) t.code 0 0
  | .qlog qd x y t => mkV 0x39 unmasked (six qd) (six x) (six y) 0 (0#2 ++ t) 0 0 0
  | .qcnt d x => mkV 0x3A unmasked d (six x) 0 0 0 0 0 0
  | .viota m vd => mkV 0x3B m vd 0 0 0 0 3 0 0
  | .vcvt d s r n m vd x => mkV 0x40 m vd x 0 0 (0#1 ++ bit n ++ BitVec.ofNat 4 s.code) d.code r.code 0
  | .vqnt e r n vd x y => mkV 0x41 unmasked vd x y 0 (0#1 ++ bit n ++ 0#4) e.code r.code 0
  | .vdqnt t e h m vd x => mkV 0x42 m vd x 0 0 (0#2 ++ BitVec.ofNat 4 e.code) t.code 0 (0#10 ++ bit h)
  | .vscale e vd x y => mkV 0x43 unmasked vd x y 0 (0#2 ++ BitVec.ofNat 4 e.code) 14 0 0
  | .vpack d s n m vd x => mkV 0x44 m vd x 0 0 (0#2 ++ BitVec.ofNat 4 s.code) d.code 0 (0#9 ++ n)
  | .vunpk d s n m vd x => mkV 0x45 m vd x 0 0 (0#2 ++ BitVec.ofNat 4 s.code) d.code 0 (0#9 ++ n)
  | .vred t o m d x => mkV 0x50 m d x 0 0 (BitVec.ofNat 6 o.code) t.code 0 0
  | .vscan t o m vd x => mkV 0x51 m vd x 0 0 (BitVec.ofNat 6 o.code) t.code 0 0
  | .vsortk vd x y => mkV 0x52 unmasked vd x y 0 0 0 0 0
  | .vmergek vd x y z => mkV 0x53 unmasked vd x y z 0 0 0 0
  | .qsum m vd n => mkV 0x54 m vd n 0 0 0 0 0 0
  | .vargmx t m d x => mkV 0x55 m d x 0 0 0 t.code 0 0
  | .vld t c m vd x off nd => mkV 0x60 m vd x 0 0 nd t.code c.code off
  | .vst t c m y x off nd => mkV 0x61 m 0 x y 0 nd t.code c.code off
  | .vgath t c m vd x y nd => mkV 0x62 m vd x y 0 nd t.code c.code 0
  | .vscat t m z x y nd => mkV 0x63 m 0 x y z nd t.code 0 0
  | .sbind n x => mkV 0x70 unmasked (streamReg n) x 0 0 0 0 0 0
  | .sunb n => mkV 0x71 unmasked (streamReg n) 0 0 0 0 0 0 0
  | .sisect x y => mkV 0x72 unmasked (streamReg x) (streamReg y) 0 0 0 0 0 0
  | .sstat d n => mkV 0x73 unmasked d (streamReg n) 0 0 0 0 0 0
  | .sskip n x => mkV 0x74 unmasked (streamReg n) x 0 0 0 0 0 0
  | .vmaxx i c vd x p => mkV 0x80 unmasked vd x 0 0 (p ++ 0#2 ++ bit c) (if i then 3 else 0) 0 0
  | .vrand r m vd => mkV 0x81 m vd 0 0 0 0 (if r then 4 else 0) 0 0
  | .vnrd x vd n p => mkV 0x82 unmasked vd (1#1 ++ n) 0 0 (p ++ 0#1 ++ BitVec.ofNat 2 x.code) 0 0 0
  | _ => mkV 0 unmasked 0 0 0 0 0 0 0 0

/-- A bundle of FMT 0b00 in its 128 bits. -/
def encodeShort (u : Bundle) : BitVec 128 :=
  u.sc ++ 0#2 ++ 0#2 ++ ({ encodeAF u.a with grd := u.guard.bits } : AF).join ++ (encodeVF u.v).join

/-- The bytes of a bundle, lowest address first: 16, or 48 for ENQI (R85, R88). -/
def encode (u : Bundle) : List Byte :=
  match u.a with
  | .li d x => leBytes 16 (u.sc ++ 1#2 ++ 0#2 ++ 0x28#8 ++ u.guard.bits ++ d ++ 0#38 ++ x : BitVec 128).toNat
  | .enqi e d s1 s2 w =>
    leBytes 16 (u.sc ++ 1#2 ++ 0#2 ++ 0x7A#8 ++ u.guard.bits ++ d ++ s1 ++ s2 ++ BitVec.ofNat 4 e.code ++ 0#22 ++ 0#48 ++
      w.bits.extractLsb' 240 16 : BitVec 128).toNat ++
    leBytes 16 (0#4 ++ 2#2 ++ 0#2 ++ w.bits.extractLsb' 0 120 : BitVec 128).toNat ++
    leBytes 16 (0#4 ++ 2#2 ++ 0#2 ++ w.bits.extractLsb' 120 120 : BitVec 128).toNat
  | _ => leBytes 16 (encodeShort u).toNat

/-- Whether a row is an instruction of slot A. -/
def Instr.isSlotA (i : Instr) : Bool :=
  match i with
  | .nop | .li _ _ | .enqi _ _ _ _ _ => true
  | _ => (encodeAF i).op ≠ 0

/-- Whether a row is an instruction of slot V. -/
def Instr.isSlotV (i : Instr) : Bool := i == .vnop || (encodeVF i).op ≠ 0

/-- Whether a slot A instruction takes a bundle of its own (R88). -/
def Instr.isLong : Instr → Bool
  | .li _ _ | .enqi _ _ _ _ _ => true
  | _ => false

/-- A bundle the encoder accepts: fields in range, guard not p0 negated, no register written by both slots. -/
def Bundle.wf (u : Bundle) : Bool :=
  u.a.isSlotA && u.v.isSlotV && u.a.wf && u.v.wf && !(u.guard.neg && u.guard.p = 0) &&
    qsumOk u.a u.v && disjointWrites u.a u.v && (!u.a.isLong || u.v == .vnop) &&
    u.len == (match u.a with | .enqi _ _ _ _ _ => 48 | _ => 16)

end Sys2Proof
end

