-- ==== Sys2Proof/Machine/Num.lean ====
section
/-! DEFINITION. Number formats, exact values, rounding and the helper functions of 03_numbers.md (R42 to R76). A value is
computed exactly and rounded once. -/

namespace Sys2Proof

/-! ## Exact values -/

/-- An exact value: NaN (and whether it carries an invalid operation), an infinity, or ±(n / d) × 2^e. -/
inductive Val where
  | nan (invalid : Bool)
  | inf (neg : Bool)
  | fin (neg : Bool) (n d : Nat) (e : Int)
deriving DecidableEq, Repr

def Val.isNan : Val → Bool | .nan _ => true | _ => false
def Val.invalid : Val → Bool | .nan v => v | _ => false
def Val.isZero : Val → Bool | .fin _ n _ _ => n == 0 | _ => false
def Val.neg? : Val → Bool | .nan _ => false | .inf s => s | .fin s _ _ _ => s

/-- The value of an integer. -/
def Val.ofInt (i : Int) : Val := .fin (i < 0) i.natAbs 1 0

/-- n × 2^k for a k of either sign, as a pair of numerator and denominator factors. -/
def scalePair (n d : Nat) (k : Int) : Nat × Nat :=
  if 0 ≤ k then (n <<< k.toNat, d) else (n, d <<< (-k).toNat)

/-- ⌊log2 (n / d)⌋ for n > 0. -/
def floorLog (n d : Nat) : Int :=
  let k : Int := (Nat.log2 n : Int) - Nat.log2 d
  let (a, b) := scalePair n d (-k)
  if b ≤ a then k else k - 1

/-! ## Formats (R42 to R48) -/

/-- A floating-point format by the codes of its magnitudes: fraction bits, bias, largest finite code, infinity, NaN. -/
structure Fmt where
  width : Nat
  f : Nat
  bias : Int
  maxCode : Nat
  inf : Option Nat
  nan : Option Nat
  mk8 : Bool := false
deriving DecidableEq, Repr

def fmtF32 : Fmt := { width := 32, f := 23, bias := 127, maxCode := 0x7F7F_FFFF, inf := some 0x7F80_0000, nan := some 0x7FC0_0000 }
def fmtF16 : Fmt := { width := 16, f := 10, bias := 15, maxCode := 0x7BFF, inf := some 0x7C00, nan := some 0x7E00 }
def fmtBf16 : Fmt := { width := 16, f := 7, bias := 127, maxCode := 0x7F7F, inf := some 0x7F80, nan := some 0x7FC0 }
def fmtE4m3 : Fmt := { width := 8, f := 3, bias := 7, maxCode := 0x7E, inf := none, nan := some 0x7F }
def fmtE5m2 : Fmt := { width := 8, f := 2, bias := 15, maxCode := 0x7B, inf := some 0x7C, nan := some 0x7E }
def fmtE3m2 : Fmt := { width := 6, f := 2, bias := 3, maxCode := 0x1F, inf := none, nan := none }
def fmtE2m3 : Fmt := { width := 6, f := 3, bias := 1, maxCode := 0x1F, inf := none, nan := none }
def fmtE2m1 : Fmt := { width := 4, f := 1, bias := 1, maxCode := 0x7, inf := none, nan := none }
def fmtMk8 : Fmt := { width := 8, f := 4, bias := 3, maxCode := 0x7F, inf := none, nan := some 0x80, mk8 := true }

/-- The floating-point format of a type; f32 for the types that have none. -/
def Ty.fmt : Ty → Fmt
  | .f16 => fmtF16 | .bf16 => fmtBf16 | .e4m3 => fmtE4m3 | .e5m2 => fmtE5m2 | .e3m2 => fmtE3m2
  | .e2m3 => fmtE2m3 | .e2m1 => fmtE2m1 | .mk8 => fmtMk8
  | _ => fmtF32

def FTy.ty : FTy → Ty | .f32 => .f32 | .f16 => .f16 | .bf16 => .bf16
def ITy.ty : ITy → Ty | .i32 => .i32 | .n32 => .n32 | .i16 => .i16 | .i8 => .i8 | .n8 => .n8
def FTy.fmt (t : FTy) : Fmt := Ty.fmt t.ty

/-- Width of an element in bits (R42 to R47). -/
def Ty.width : Ty → Nat
  | .f32 | .i32 | .n32 => 32
  | .f16 | .bf16 | .i16 => 16
  | .i8 | .n8 | .e4m3 | .e5m2 | .mk8 | .e8m0 => 8
  | .e3m2 | .e2m3 => 6
  | .e2m1 => 4

/-- Width of the register field an element stands in (R49). -/
def Ty.cell (t : Ty) : Nat := if t.width < 8 then 8 else t.width

def Ty.isInt : Ty → Bool | .i32 | .n32 | .i16 | .i8 | .n8 => true | _ => false
def Ty.signed : Ty → Bool | .i32 | .i16 | .i8 => true | _ => false

/-- Row p of the MK8 table (R47): exponent-field width, fraction width, bias. -/
def mk8Row : Nat → Nat × Nat × Int
  | 6 => (2, 4, 3) | 5 => (2, 3, 7) | 4 => (2, 2, 11) | 3 => (2, 1, 15) | 2 => (2, 0, 19) | 1 => (1, 0, 21)
  | _ => (0, 0, 22)

/-- mk8_value (R47). -/
def mk8Value (code : Nat) : Val :=
  let s := code / 128 % 2 = 1
  let c := code % 128
  if c = 0 then (if s then .nan false else .fin false 0 1 0)
  else
    let p := Nat.log2 c
    let (_, f, b) := mk8Row p
    let low := c - 2 ^ p
    let field := low >>> f
    let frac := low % 2 ^ f
    .fin s (2 ^ f + frac) 1 ((field : Int) - b - f)

/-- The value of a code of a floating-point format (R42 to R44). -/
def fmtValue (m : Fmt) (code : Nat) : Val :=
  if m.mk8 then mk8Value code else
  let s := code >>> (m.width - 1) % 2 = 1
  let c := code % 2 ^ (m.width - 1)
  if m.maxCode < c then
    match m.inf with
    | some i => if c = i then .inf s else .nan (c >>> (m.f - 1) % 2 = 0 && m.width ≠ 8)
    | none => if m.nan.isSome then .nan false else .fin s 0 1 0
  else
    let ex := c >>> m.f
    let fr := c % 2 ^ m.f
    if ex = 0 then .fin s fr 1 (1 - m.bias - m.f) else .fin s (2 ^ m.f + fr) 1 ((ex : Int) - m.bias - m.f)

/-- The value of an element code of any type (R42 to R47, R45 for e8m0). -/
def tyValue (t : Ty) (code : Nat) : Val :=
  match t with
  | .e8m0 => if code = 0xFF then .nan false else .fin false 1 1 ((code : Int) - 127)
  | .i32 => Val.ofInt (BitVec.ofNat 32 code).toInt
  | .i16 => Val.ofInt (BitVec.ofNat 16 code).toInt
  | .i8 => Val.ofInt (BitVec.ofNat 8 code).toInt
  | .n32 => Val.ofInt (code % 2 ^ 32)
  | .n8 => Val.ofInt (code % 2 ^ 8)
  | _ => fmtValue t.fmt code

/-! ## Flags (R58): nv, dz, of, uf, nx in the order of %stat (R82) -/

abbrev Fl := BitVec 5
def flNV : Fl := 1
def flDZ : Fl := 2
def flOF : Fl := 4
def flUF : Fl := 8
def flNX : Fl := 16

/-! ## Rounding (R50 to R57) -/

/-- Whether a value between lo and hi goes to hi: rem / den is the part of the gap above lo (R50, R52). -/
def goesUp (rm : Rm) (neg : Bool) (rnd : Nat) (odd : Bool) (rem den : Nat) : Bool :=
  if rem = 0 then false else
  match rm with
  | .rtz => false
  | .rdn => neg
  | .rup => !neg
  | .rne => decide (den < 2 * rem) || (2 * rem == den && odd)
  | .rna => decide (den ≤ 2 * rem)
  | .sto => decide (den * 65536 ≤ rem * 65536 + rnd * den)

/-- The code at or below a magnitude n / d × 2^e, n > 0, and the part of the gap above it. Codes go on above the
largest finite one as with an unbounded exponent (R53). -/
def codeFloor (m : Fmt) (n d : Nat) (e : Int) : Nat × Nat × Nat :=
  let k := floorLog n d + e
  let at_ (q : Int) : Nat × Nat × Nat :=
    let (a, b) := scalePair n d (e - q)
    (a / b, a % b, b)
  if m.mk8 then
    if k < -22 then let (a, b) := scalePair n d (e + 22); (a / b, a % b, b)
    else
      let p : Nat := if -3 ≤ k then 6 else if -7 ≤ k then 5 else if -11 ≤ k then 4 else if -15 ≤ k then 3
        else if -19 ≤ k then 2 else if -21 ≤ k then 1 else 0
      let (_, f, b) := mk8Row p
      let (sig, r, den) := at_ (k - f)
      (2 ^ p + (k + b).toNat * 2 ^ f + (sig - 2 ^ f), r, den)
  else if k + m.bias < 1 then at_ (1 - m.bias - m.f)
  else
    let (sig, r, den) := at_ (k - m.f)
    ((k + m.bias).toNat * 2 ^ m.f + (sig - 2 ^ m.f), r, den)

/-- Tiny after rounding with an unbounded exponent (R58); for MK8, a result of zero (DEDUCED, log 25). -/
def isTiny (m : Fmt) (rm : Rm) (neg : Bool) (rnd : Nat) (n d : Nat) (e : Int) (c : Nat) : Bool :=
  if m.mk8 then c == 0 else
  let k := floorLog n d + e
  if 1 - m.bias ≤ k then false
  else if k < -m.bias then true
  else
    let (a, b) := scalePair n d (e - (k - m.f))
    let sig := a / b
    let up := goesUp rm neg rnd (sig % 2 == 1) (a % b) b
    decide ((if up then sig + 1 else sig) < 2 ^ (m.f + 1))

/-- A code with its sign; an MK8 zero has none (R51). -/
def withSign (m : Fmt) (neg : Bool) (c : Nat) : Nat :=
  if m.mk8 && c == 0 then 0 else if neg then c + 2 ^ (m.width - 1) else c

/-- An overflow (R53): the delivered code. -/
def overflowCode (m : Fmt) (rm : Rm) (sat neg : Bool) : Nat :=
  let maxF := withSign m neg m.maxCode
  let directed := match rm with | .rtz => true | .rdn => !neg | .rup => neg | _ => false
  if sat || directed then maxF else
  match m.inf with
  | some i => withSign m neg i
  | none => m.nan.getD maxF

/-- round of R64 to a floating-point format: the code and the flags. -/
def roundF (m : Fmt) (rm : Rm) (sat : Bool) (rnd : Nat) (x : Val) : Nat × Fl :=
  match x with
  | .nan iv =>
    match m.nan with
    | some c => (c, if iv then flNV else 0)
    | none => (0, flNV)
  | .inf neg =>
    if sat then (withSign m neg m.maxCode, flNX) else
    match m.inf, m.nan with
    | some i, _ => (withSign m neg i, 0)
    | none, some c => (c, flNV)
    | none, none => (withSign m neg m.maxCode, flNX)
  | .fin neg n d e =>
    if n = 0 then (withSign m neg 0, 0) else
    let (c, r, den) := codeFloor m n d e
    let c' := if goesUp rm neg rnd (c % 2 == 1) r den then c + 1 else c
    if m.maxCode < c' then (overflowCode m rm sat neg, flOF ||| flNX)
    else
      let fl : Fl := if r = 0 then 0 else flNX ||| (if isTiny m rm neg rnd n d e c' then flUF else 0)
      (withSign m neg c', fl)

/-- Least and greatest value of an integer type (R46). -/
def intMin (t : Ty) : Int := if t.signed then -(2 ^ (t.width - 1)) else 0
def intMax (t : Ty) : Int := if t.signed then 2 ^ (t.width - 1) - 1 else 2 ^ t.width - 1

/-- sat of R64. -/
def clampInt (x lo hi : Int) : Int := if x < lo then lo else if hi < x then hi else x

/-- round of R64 to an integer type (R55): the code and the flags. -/
def roundI (t : Ty) (rm : Rm) (rnd : Nat) (x : Val) : Nat × Fl :=
  let code (i : Int) : Nat := (i % 2 ^ t.width).toNat
  match x with
  | .nan _ => (0, flNV)
  | .inf neg => (code (if neg then intMin t else intMax t), flNV)
  | .fin neg n d e =>
    let (a, b) := scalePair n d e
    let up := goesUp rm neg rnd (a / b % 2 == 1) (a % b) b
    let mag : Int := if up then a / b + 1 else a / b
    let v := if neg then -mag else mag
    let c := clampInt v (intMin t) (intMax t)
    (code c, if c ≠ v then flNV else if a % b ≠ 0 then flNX else 0)

/-- round of R64 to any element type but e8m0, to which nothing rounds (R45). -/
def roundTo (t : Ty) (rm : Rm) (sat : Bool) (rnd : Nat) (x : Val) : Nat × Fl :=
  if t.isInt then roundI t rm rnd x else roundF t.fmt rm sat rnd x

/-! ## Exact arithmetic (R59 to R62) -/

/-- Sum of two dyadic values as integers over a common power of two. -/
def addFin (rm : Rm) (s1 : Bool) (n1 : Nat) (e1 : Int) (s2 : Bool) (n2 : Nat) (e2 : Int) : Val :=
  let e := min e1 e2
  let a : Int := (n1 <<< (e1 - e).toNat : Nat)
  let b : Int := (n2 <<< (e2 - e).toNat : Nat)
  let t := (if s1 then -a else a) + (if s2 then -b else b)
  if t = 0 then .fin (if s1 == s2 then s1 else rm == .rdn) 0 1 0 else .fin (t < 0) t.natAbs 1 e

def fAdd (rm : Rm) (x y : Val) : Val :=
  match x, y with
  | .nan a, .nan b => .nan (a || b)
  | .nan a, _ => .nan a
  | _, .nan b => .nan b
  | .inf a, .inf b => if a == b then .inf a else .nan true
  | .inf a, _ => .inf a
  | _, .inf b => .inf b
  | .fin s1 n1 _ e1, .fin s2 n2 _ e2 => addFin rm s1 n1 e1 s2 n2 e2

def fNeg : Val → Val
  | .nan a => .nan a
  | .inf s => .inf (!s)
  | .fin s n d e => .fin (!s) n d e

def fMul (x y : Val) : Val :=
  match x, y with
  | .nan a, .nan b => .nan (a || b)
  | .nan a, _ => .nan a
  | _, .nan b => .nan b
  | .inf a, .inf b => .inf (a != b)
  | .inf a, .fin b n _ _ => if n = 0 then .nan true else .inf (a != b)
  | .fin a n _ _, .inf b => if n = 0 then .nan true else .inf (a != b)
  | .fin a n1 _ e1, .fin b n2 _ e2 => .fin (a != b) (n1 * n2) 1 (e1 + e2)

/-- x × y + z with one rounding to come (R61): ∞ × 0 is invalid whatever z is. -/
def fFma (rm : Rm) (x y z : Val) : Val :=
  match fMul x y, z with
  | .nan a, .nan b => .nan (a || b)
  | p, z => fAdd rm p z

/-- The quotient, and whether it divides a nonzero finite number by zero. -/
def fDiv (x y : Val) : Val × Bool :=
  match x, y with
  | .nan a, .nan b => (.nan (a || b), false)
  | .nan a, _ => (.nan a, false)
  | _, .nan b => (.nan b, false)
  | .inf _, .inf _ => (.nan true, false)
  | .inf a, .fin b _ _ _ => (.inf (a != b), false)
  | .fin a _ _ _, .inf b => (.fin (a != b) 0 1 0, false)
  | .fin a n1 _ e1, .fin b n2 _ e2 =>
    if n2 = 0 then (if n1 = 0 then (.nan true, false) else (.inf (a != b), true))
    else (.fin (a != b) n1 n2 (e1 - e2), false)

/-- The integer square root, bit by bit from 2^k down. -/
def isqrtFrom : Nat → Nat → Nat → Nat
  | 0, _, r => r
  | k + 1, n, r =>
    let t := r + 2 ^ k
    isqrtFrom k n (if t * t ≤ n then t else r)
def isqrt (n : Nat) : Nat := isqrtFrom (Nat.log2 n / 2 + 1) n 0

/-- A magnitude known to lie strictly between m and m + 1 units of 2^e, or at m: one more bit says which. -/
def sticky (neg : Bool) (m : Nat) (e : Int) (exact : Bool) : Val :=
  .fin neg (2 * m + (if exact then 0 else 1)) 1 (e - 1)

/-- √(n × 2^e), to 128 bits and a sticky bit. -/
def sqrtFin (n : Nat) (e : Int) : Val :=
  let odd := e % 2 ≠ 0
  let n := (if odd then 2 * n else n) <<< 256
  let e := (if odd then e - 1 else e) - 256
  let r := isqrt n
  sticky false r (e / 2) (r * r == n)

def fSqrt : Val → Val
  | .nan a => .nan a
  | .inf s => if s then .nan true else .inf false
  | .fin s n _ e => if n = 0 then .fin s 0 1 0 else if s then .nan true else sqrtFin n e

/-- Order of two values that are not NaN: -1, 0 or 1, with -0 equal to +0. -/
def cmpVal (x y : Val) : Int :=
  let q (v : Val) : Int × Int × Int :=   -- infinity class, signed mantissa, exponent
    match v with
    | .nan _ => (0, 0, 0)
    | .inf s => (if s then -1 else 1, 0, 0)
    | .fin s n _ e => (0, if s then -(n : Int) else n, e)
  let (i1, a, e1) := q x
  let (i2, b, e2) := q y
  if i1 ≠ i2 then (if i1 < i2 then -1 else 1)
  else if i1 ≠ 0 then 0
  else
    let e := min e1 e2
    let a := a * 2 ^ (e1 - e).toNat
    let b := b * 2 ^ (e2 - e).toNat
    if a < b then -1 else if a = b then 0 else 1

/-- minimumNumber and maximumNumber, with -0 below +0 (R60). -/
def fMinMax (isMax : Bool) (x y : Val) : Val :=
  match x, y with
  | .nan a, .nan b => .nan (a || b)
  | .nan _, v => v
  | v, .nan _ => v
  | x, y =>
    let c := cmpVal x y
    let xFirst := if c = 0 then (if isMax then !x.neg? else x.neg?) else (if isMax then c > 0 else c < 0)
    if xFirst then x else y

/-! ## Elementary functions (R62), by series in fixed point with 600 fraction bits (DEDUCED, log 15) -/

def fixP : Nat := 600
def fixOne : Nat := 2 ^ fixP

/-- Σ z^(2k+1) / (2k+1) from a term t = z^(2k+1), with z² given: atanh z. -/
def atanhSum : Nat → Nat → Nat → Nat → Nat
  | 0, _, _, _ => 0
  | k + 1, t, z2, i => if t = 0 then 0 else t / i + atanhSum k (t * z2 / fixOne) z2 (i + 2)
def fixAtanh (z : Nat) : Nat := atanhSum 800 z (z * z / fixOne) 1

/-- ln 2. -/
def fixLn2 : Nat := 2 * fixAtanh (fixOne / 3)

/-- Σ t × x^k / k!: e^x for 0 ≤ x < 1. -/
def expSum : Nat → Nat → Nat → Nat → Nat
  | 0, _, _, _ => 0
  | k + 1, t, x, i => if t = 0 then 0 else t + expSum k (t * x / fixOne / i) x (i + 1)
def fixExp (x : Nat) : Nat := expSum 200 fixOne x 1

/-- Σ (-1)^k z^(2k+1) / (2k+1): atan of 1 / q. -/
def atanSum : Nat → Int → Nat → Nat → Int
  | 0, _, _, _ => 0
  | k + 1, t, q2, i => if t = 0 then 0 else t / i + atanSum k (-(t / q2)) q2 (i + 2)
/-- π = 16 atan(1/5) - 4 atan(1/239). -/
def fixPi : Nat :=
  (16 * atanSum 300 (fixOne / 5) 25 1 - 4 * atanSum 300 (fixOne / 239) (239 * 239) 1).toNat

/-- A dyadic value as a fixed-point integer, toward zero: magnitude only. -/
def toFix (n : Nat) (e : Int) : Nat := let (a, b) := scalePair n 1 (e + fixP); a / b

/-- 2^x for x = ±n × 2^e (R62). -/
def exp2Fin (s : Bool) (n : Nat) (e : Int) : Val :=
  let ip : Int := let (a, b) := scalePair n 1 (min e 20); (min (a / b) 4000 : Nat)
  let (a, b) := scalePair n 1 e
  if e ≤ 20 && decide (a / b < 4000) then
    let frac := toFix n e % fixOne
    let exact := a % b == 0
    let i : Int := if s then (if frac = 0 && exact then -ip else -ip - 1) else ip
    let fr := if s && !(frac = 0 && exact) then fixOne - frac else frac
    if exact then .fin false 1 1 i
    else if frac = 0 then  -- |x| below one unit: 2^x is 1 and a part of x ln 2
      sticky false (if s then fixOne - 1 else fixOne) (-(fixP : Int)) false
    else sticky false (fixExp (fr * fixLn2 / fixOne)) (i - fixP) false
  else sticky false 1 (if s then -4000 else 4000) false

/-- log2 of n × 2^e, n > 0 (R62). -/
def log2Fin (n : Nat) (e : Int) : Val :=
  let l := Nat.log2 n
  let k : Int := e + l
  if n = 2 ^ l then Val.ofInt k
  else
    let m := (n <<< fixP) >>> l     -- in [1, 2), exact for a code's mantissa
    let z := (m - fixOne) * fixOne / (m + fixOne)
    let lg := 2 * fixAtanh z * fixOne / fixLn2
    let t : Int := k * fixOne + lg
    sticky (t < 0) (if t < 0 then t.natAbs - 1 else t.natAbs) (-(fixP : Int)) false

/-- x - x³/3 for a small x, strictly below x in magnitude. -/
def cubicBelow (s : Bool) (n : Nat) (e : Int) (num den : Nat) : Val :=
  -- n (1 - x²/3) × num / den, with x² = n² 2^(2e)
  let (a, b) := scalePair (n * n) 3 (2 * e)
  .fin s (n * (b - a) * num) (b * den) e

/-- tanh of ±n × 2^e, n > 0 (R62). -/
def tanhFin (s : Bool) (n : Nat) (e : Int) : Val :=
  let k := floorLog n 1 + e
  if k < -40 then cubicBelow s n e 1 1
  else if 6 ≤ k then sticky s (2 ^ 200 - 1) (-200) false
  else
    -- e^(2x) = 2^(2x / ln 2)
    let y := 2 * toFix n e * fixOne / fixLn2
    let i := y / fixOne
    let t := fixExp ((y % fixOne) * fixLn2 / fixOne) * 2 ^ i
    sticky s ((t - fixOne) * fixOne / (t + fixOne)) (-(fixP : Int)) false

/-- Σ (-1)^k x^(2k+1) / (k! (2k+1)). -/
def erfSum : Nat → Int → Nat → Nat → Int
  | 0, _, _, _ => 0
  | k + 1, t, x2, i => if t = 0 then 0 else t / (2 * i + 1) + erfSum k (-(t * x2 / fixOne / (i + 1 : Nat))) x2 (i + 1)

/-- 2 / √π. -/
def fixTwoOverSqrtPi : Nat := 2 * fixOne * fixOne / isqrt (fixPi * fixOne)

/-- erf of ±n × 2^e, n > 0 (R62). -/
def erfFin (s : Bool) (n : Nat) (e : Int) : Val :=
  let k := floorLog n 1 + e
  if k < -40 then cubicBelow s n e fixTwoOverSqrtPi fixOne
  else if 3 ≤ k then sticky s (2 ^ 200 - 1) (-200) false
  else
    let x := toFix n e
    let t := (erfSum 900 (x : Int) (x * x / fixOne) 0).toNat
    sticky s (t * fixTwoOverSqrtPi / fixOne) (-(fixP : Int)) false

/-- The six functions with their special cases (R62): the exact value, and whether dz is set. -/
def fRcp : Val → Val × Bool
  | .nan a => (.nan a, false)
  | .inf s => (.fin s 0 1 0, false)
  | .fin s n _ e => if n = 0 then (.inf s, true) else (.fin s 1 n (-e), false)
def fRsq : Val → Val × Bool
  | .nan a => (.nan a, false)
  | .inf s => if s then (.nan true, false) else (.fin false 0 1 0, false)
  | .fin s n _ e =>
    if n = 0 then (.inf s, true)
    else if s then (.nan true, false)
    else
      -- 1 / √(n 2^e) = √(2^(-e) / n): an integer root of 2^512 / n, sticky unless exact
      let odd := e % 2 ≠ 0
      let num : Nat := (if odd then 2 else 1) <<< 512
      let ex : Int := (-(if odd then e + 1 else e)) / 2
      let r := isqrt (num / n)
      (sticky false r (ex - 256) (r * r * n == num), false)
def fExp2 : Val → Val × Bool
  | .nan a => (.nan a, false)
  | .inf s => (if s then .fin false 0 1 0 else .inf false, false)
  | .fin s n _ e => (if n = 0 then .fin false 1 1 0 else exp2Fin s n e, false)
def fLog2 : Val → Val × Bool
  | .nan a => (.nan a, false)
  | .inf s => (if s then .nan true else .inf false, false)
  | .fin s n _ e => if n = 0 then (.inf true, true) else if s then (.nan true, false) else (log2Fin n e, false)
def fTanh : Val → Val × Bool
  | .nan a => (.nan a, false)
  | .inf s => (.fin s 1 1 0, false)
  | .fin s n _ e => (if n = 0 then .fin s 0 1 0 else tanhFin s n e, false)
def fErf : Val → Val × Bool
  | .nan a => (.nan a, false)
  | .inf s => (.fin s 1 1 0, false)
  | .fin s n _ e => (if n = 0 then .fin s 0 1 0 else erfFin s n e, false)

/-! ## Helper functions (R64) and draws (R72 to R76) -/

def fold16 (h : BitVec 16) (v : Word) : BitVec 16 :=
  h.rotateLeft 5 ^^^ (v.extractLsb' 0 16 ^^^ v.extractLsb' 16 16 ^^^ v.extractLsb' 32 16 ^^^ v.extractLsb' 48 16)

def mix64 (z : Word) : Word :=
  let z := z + 0x6A09_E667_F3BC_C909
  let z := (z ^^^ (z >>> 32)) * 0xD134_2543_DE82_EF95
  let z := (z ^^^ (z >>> 29)) * 0xA076_1D64_78BD_642F
  z ^^^ (z >>> 32)

def draw (k n : Word) : Word := mix64 (k ^^^ mix64 n)

/-- The draw of vector lane l (R73). -/
def laneDraw (k n : Word) (l : Nat) : Word := draw (k ^^^ (BitVec.ofNat 64 l <<< 56)) n

/-- The 16 bits of a lane's draw that its element e takes (R52). -/
def drawBits (d : Word) (e : Nat) : Nat := (d >>> (48 - 16 * e)).toNat % 65536

/-- The uniform f32 of a draw (R76). -/
def uniformF32 (d : Word) : Lane := BitVec.ofNat 32 (roundF fmtF32 .rne false 0 (.fin false (d >>> 40).toNat 1 (-24))).1

/-! ## Scalar division (R63) -/

def divS (a b : Word) : Word := if b = 0 then -1 else a.sdiv b
def remS (a b : Word) : Word := if b = 0 then a else a.srem b
def divU (a b : Word) : Word := if b = 0 then -1 else a / b
def remU (a b : Word) : Word := if b = 0 then a else a % b

/-! ## Exact cells (R69 to R71) -/

def cellNan : BitVec 512 := 1#512 <<< 511

/-- The product m × x × 2^149 of R70, or none for NaN and infinities. -/
def xaccTerm (x : Lane) (m : Nat) : Option Int :=
  match tyValue .f32 x.toNat with
  | .fin s n _ e => let v : Int := (m * (n <<< (e + 149).toNat) : Nat); some (if s then -v else v)
  | _ => none

/-- A cell after adding an exact term, or after a NaN or infinity (R70). -/
def cellAdd (cell : BitVec 512) (t : Option Int) : BitVec 512 :=
  if cell = cellNan then cell else
  match t with
  | none => cellNan
  | some t =>
    let n := cell.toInt + t
    if 2 ^ 511 ≤ n.natAbs then cellNan else BitVec.ofInt 512 n

/-- xrd (R71): the f32 code and the flags. -/
def cellRead (cell : BitVec 512) (rm : Rm) : Nat × Fl :=
  if cell = cellNan then (0x7FC0_0000, flNV) else
  let n := cell.toInt
  if 2 ^ 277 ≤ n.natAbs then (withSign fmtF32 (n < 0) 0x7F80_0000, flOF ||| flNX)
  else
    let (c, fl) := roundF fmtF32 rm false 0 (.fin (n < 0) n.natAbs 1 (-149))
    (c, fl)

/-! ## Window accumulation (R65 to R68) -/

/-- The exponent of a nonzero dyadic value. -/
def Val.expo : Val → Int
  | .fin _ n _ e => floorLog n 1 + e
  | _ => 0

/-- trunc_to of R64 by a power of two 2^g, as a multiple of 2^g. -/
def truncTo (x : Val) (g : Int) : Int :=
  match x with
  | .fin s n _ e => let (a, b) := scalePair n 1 (e - g); if s then -((a / b : Nat) : Int) else (a / b : Nat)
  | _ => 0

/-- chunk_update (R66): the f32 code of C after a chunk; scales are e8m0 codes. -/
def chunkUpdate (c : Nat) (ab : List (Val × Val)) (sa sb : Nat) : Nat :=
  if sa = 0xFF || sb = 0xFF then 0x7FC0_0000 else
  let ps := ab.map fun (a, b) => fMul a b
  let isInf (neg : Bool) (v : Val) : Bool := match v with | .inf s => s == neg | _ => false
  if ps.any Val.isNan then 0x7FC0_0000
  else if ps.any (isInf false) && ps.any (isInf true) then 0x7FC0_0000
  else
    let cv := tyValue .f32 c
    if ps.any (isInf false) then (roundF fmtF32 .rne false 0 (fAdd .rne cv (.inf false))).1
    else if ps.any (isInf true) then (roundF fmtF32 .rne false 0 (fAdd .rne cv (.inf true))).1
    else
      let nz := ps.filter (fun v => !v.isZero)
      match nz with
      | [] => c
      | v :: t =>
        let emax := t.foldl (fun m x => max m x.expo) v.expo
        let g := emax - 96
        let sum : Int := nz.foldl (fun acc x => acc + truncTo x g) 0
        let sv : Val := .fin (sum < 0) sum.natAbs 1 (g + ((sa : Int) - 127) + ((sb : Int) - 127))
        let sv := if sum = 0 then Val.fin false 0 1 0 else sv
        (roundF fmtF32 .rne false 0 (fAdd .rne cv sv)).1

end Sys2Proof
end

