-- ==== Sys2Proof/Machine/Flags.lean ====
section
/-! DEFINITION. Every flag and condition computation: branch and compare conditions (R86, R178), the floating-point
element operations with their flags (R58 to R62, R176), the integer element operations (R177), and %stat (R82). -/

namespace Sys2Proof

/-! ## Conditions -/

/-- A condition of R86 on two words of one width. -/
def condHolds {n : Nat} (c : Cond) (a b : BitVec n) : Bool :=
  match c with
  | .eq => a == b
  | .ne => a != b
  | .lt => a.slt b
  | .ge => !a.slt b
  | .ltu => a.ult b
  | .geu => !a.ult b

/-- A VCMP condition on two element values, and its flags (R178). -/
def fcondHolds (c : FCond) (x y : Val) : Bool × Fl :=
  let nan := x.isNan || y.isNan
  let sig : Fl := if x.invalid || y.invalid then flNV else 0
  let ordered : Fl := if nan then flNV else 0
  let r := cmpVal x y
  match c with
  | .eq => (!nan && r = 0, sig)
  | .ne => (nan || r ≠ 0, sig)
  | .lt => (!nan && r < 0, ordered)
  | .le => (!nan && r ≤ 0, ordered)
  | .gt => (!nan && r > 0, ordered)
  | .ge => (!nan && r ≥ 0, ordered)
  | .uno => (nan, sig)
  | .ord => (!nan, sig)

/-! ## Floating-point elements -/

/-- The operations of R176 that round. -/
inductive FOp where | add | sub | mul | fma | fms | fnma | min | max | div | sqrt | rcp | rsq | exp2 | log2 | tanh | erf
deriving DecidableEq, Repr

/-- The exact result, and whether dz is set. -/
def FOp.exact (o : FOp) (rm : Rm) (x y z : Val) : Val × Bool :=
  match o with
  | .add => (fAdd rm x y, false)
  | .sub => (fAdd rm x (fNeg y), false)
  | .mul => (fMul x y, false)
  | .fma => (fFma rm x y z, false)
  | .fms => (fFma rm x y (fNeg z), false)
  | .fnma => (fFma rm (fNeg x) y z, false)
  | .min => (fMinMax false x y, false)
  | .max => (fMinMax true x y, false)
  | .div => fDiv x y
  | .sqrt => (fSqrt x, false)
  | .rcp => fRcp x
  | .rsq => fRsq x
  | .exp2 => fExp2 x
  | .log2 => fLog2 x
  | .tanh => fTanh x
  | .erf => fErf x

/-- One element of a rounding operation: code and flags. A signalling operand sets nv even where a number results. -/
def fpElem (o : FOp) (t : FTy) (rm : Rm) (rnd a b c : Nat) : Nat × Fl :=
  let x := fmtValue t.fmt a
  let y := fmtValue t.fmt b
  let z := fmtValue t.fmt c
  let (v, dz) := o.exact rm x y z
  let (code, fl) := roundF t.fmt rm false rnd v
  let sig := match o with | .min | .max => x.invalid || y.invalid | _ => false
  (code, fl ||| (if dz then flDZ else 0) ||| (if sig then flNV else 0))

/-- VABS and VNEG (R176): the sign bit alone, and the canonical NaN for a NaN. -/
def signElem (negate : Bool) (t : FTy) (a : Nat) : Nat :=
  let m := t.fmt
  let half := 2 ^ (m.width - 1)
  if (fmtValue m a).isNan then m.nan.getD 0
  else if negate then (a + half) % 2 ^ m.width else a % half

/-! ## Integer elements (R177) -/

inductive IOp where | add | sub | mul | mad | and | or | xor | shl | shr | sra | min | max | popc | clz | abs
deriving DecidableEq, Repr

/-- The signed value of an element of a type, or its unsigned value for an n type. -/
def intValue (t : Ty) (a : Nat) : Int :=
  if t.signed then (BitVec.ofNat t.width a).toInt else (a % 2 ^ t.width : Nat)

/-- Set bits of a number below 2^w. -/
def popCount : Nat → Nat → Nat
  | 0, _ => 0
  | w + 1, n => n % 2 + popCount w (n / 2)

/-- Leading zeros of a w-bit number. -/
def leadingZeros (w n : Nat) : Nat := if n = 0 then w else w - 1 - Nat.log2 n

/-- One element of an integer operation, modulo 2^w; b is the count of a shift. -/
def intElem (o : IOp) (t : Ty) (a b c : Nat) : Nat :=
  let w := t.width
  let x := BitVec.ofNat w a
  let y := BitVec.ofNat w b
  match o with
  | .add => (x + y).toNat
  | .sub => (x - y).toNat
  | .mul => (x * y).toNat
  | .mad => (x * y + BitVec.ofNat w c).toNat
  | .and => (x &&& y).toNat
  | .or => (x ||| y).toNat
  | .xor => (x ^^^ y).toNat
  | .shl => (x <<< (b % w)).toNat
  | .shr => (x >>> (b % w)).toNat
  | .sra => (x.sshiftRight (b % w)).toNat
  | .min => if intValue t a ≤ intValue t b then x.toNat else y.toNat
  | .max => if intValue t a ≤ intValue t b then y.toNat else x.toNat
  | .popc => popCount w x.toNat
  | .clz => leadingZeros w x.toNat
  | .abs => if t.signed then (intValue t a).natAbs % 2 ^ w else x.toNat

/-! ## %stat (R82) -/

def statRangeNeg : Word := 0x20
def statOrderBad : Word := 0x40
def statRngWrap : Word := 0x80
def statMeetFull : Word := 0x100
def statBarUnder : Word := 0x200

/-- %stat with FP flags added. -/
def statFlags (st : Word) (f : Fl) : Word := st ||| f.zeroExtend 64

/-- %stat with n denials counted, saturating at 65,535. -/
def statDeny (st : Word) (n : Nat) : Word :=
  let c := min 65535 ((st >>> 16).toNat % 65536 + n)
  (st &&& 0xFFFF) ||| (BitVec.ofNat 64 c <<< 16)

/-- %stat after an SWR: each bit written as 1 clears, and any 1 in [31:16] clears the whole count. -/
def statClear (st w : Word) : Word :=
  let low := st &&& ~~~w &&& 0x3FF
  if w.extractLsb' 16 16 = 0 then low ||| (st &&& 0xFFFF_0000) else low

end Sys2Proof
end

