-- ==== Sys2Proof/Machine/State.lean ====
section
/-! DEFINITION. The state of one Mirroth G128 device: every piece of state the spec names, as plain data, and the state
after reset. Tables are sparse (AMap): a number that is not listed holds its record's reset value. -/

namespace Sys2Proof.Machine

/-- Bytes by address: addresses rising, no entry equal to 0, which an unlisted byte reads as (DESIGN CHOICE, log 4). -/
abbrev Memory := List Host.Cell

/-- The canonical form of a memory. -/
def Memory.wf : Memory → Bool
  | [] => true
  | [c] => c.2 ≠ 0
  | c :: d :: t => c.2 ≠ 0 && decide (c.1 < d.1) && Memory.wf (d :: t)

/-- Why a run stops. -/
inductive Fault where
  /-- Raised by step alone: the device has no power and no input restarts it. Safe: nothing happens without power. -/
  | poweredOff
deriving DecidableEq, Repr

/-- Why an instruction or an event has no meaning here. -/
inductive Refusal where
  /-- Raised by exec for a row of the opcode table that has no meaning yet. Safe. -/
  | notModelled (mnemonic : String)
  /-- Raised by the meaning of a device event that cannot take place in the present state (an arrival for an access that
  is not outstanding, a grant of a kernel that does not wait for one). Safe: the run stops, nothing is invented (DESIGN CHOICE, log 9). -/
  | eventNotEnabled (event : String)
deriving DecidableEq, Repr

/-! ## Threads -/

/-- The modes a tenant's thread runs in (R304); firmware mode belongs to the management cores. -/
inductive Mode where | user | runtime
deriving DecidableEq, Repr

/-- Where a thread stands: never started, in its slot, waiting for its slot (R339), or ended (R112, R118). -/
inductive Life where | absent | resident | waiting | ended
deriving DecidableEq, Repr

/-- Private registers of a thread (R77). -/
structure Regs where
  x : Vector Word 32
  v : Vector VReg 32
  p : Vector Bool 8
  q : Vector (BitVec 16) 8
deriving DecidableEq, Repr

def Regs.zero : Regs :=
  { x := Vector.replicate 32 0, v := Vector.replicate 32 0, p := Vector.replicate 8 false, q := Vector.replicate 8 0 }

/-- The source registers of a bundle as they stand at the start of its issue cycle (R79). -/
structure Latch where
  regs : Regs
  h : Vector Word 32
  w : Vector VReg 32
deriving DecidableEq, Repr

/-- A record of the fault frame (R139). -/
structure FaultRec where
  va : Word
  data : Word
  data2 : Word
  info : Word
deriving DecidableEq, Repr

/-- Where an access goes (R135, R136): global memory by VA, a word of an LM, or far space. -/
inductive Place where
  | glob (va : Nat)
  | lm (cc off : Nat)
  | far (va : Nat)
deriving DecidableEq, Repr

/-- Who a range of memory is reached for: the context whose domain judges it, the principal, the core-context whose stash serves it
(none for an engine), its ND and %rper, and whether its home denies all of it (R280, R290). -/
structure Who where
  ctx : Nat
  prin : BitVec 32
  own : Option Nat
  nd : BitVec 6 := 63
  rper : Nat := 0
  no : Bool := false
deriving DecidableEq, Repr

/-- A range that passed its checks: the address that names it, its place, for whom, its bytes, whether it is written, and
whether it was named through far space. -/
structure Span where
  a : Nat
  place : Place
  who : Who
  n : Nat
  write : Bool
  far : Bool
  /-- far requests for it ask for G in place of R (R210) -/
  gather : Bool := false
deriving DecidableEq, Repr

/-- A tile instruction after its checks (R162, R163): the slot runs (range, first unit, units), the other range, the header, and
VERSION as read. `sent` says that its payload is written; `ops` are its writes to another device that have not ended. -/
structure TileOp where
  runs : List (Span × Nat × Nat)
  mem : Span
  head : Span
  version : Word
  sent : Bool := false
  ops : List Nat := []
  /-- its denial record is made: one an instruction (R137) -/
  told : Bool := false
deriving DecidableEq, Repr

/-- One part of a vector access (R192, R49): n bytes at a place, w bits from bit `bit` of them, register bit `pos`. -/
structure Piece where
  place : Place
  n : Nat
  bit : Nat
  w : Nat
  pos : Nat
deriving DecidableEq, Repr

/-- A fixed-latency result not yet written (R96, R97). -/
structure Late where
  due : Nat
  reg : RegName
  w : Word
  vv : VReg
  /-- bits written, for a vector register (R172) -/
  mask : VReg
  issued : Nat
  /-- the stores that carry it to a write stream (R197) -/
  push : List Nat := []
deriving DecidableEq, Repr

/-- One stream register v24-v31 (R195 to R201). -/
structure Stream where
  bound : Bool := false
  desc : BitVec 512 := 0
  pos : Nat := 0
  partner : Option (BitVec 3) := none
  /-- va of a coupled pair, which pops; vb shows the batch last popped -/
  lead : Bool := false
  orderError : Bool := false
  /-- raise ORDER at the next pop (R201) -/
  orderDue : Bool := false
  /-- elements of the next pop already fetched -/
  fetched : Option VReg := none
  /-- the elements of the next pop met uncorrectable data, or a page that no page-in could make resident (R197) -/
  bad : Bool := false
  /-- cause and address of a check of R135 that an element of the next pop failed -/
  fail : Option (Nat × Word) := none
  /-- the first denied byte of the next pop: its address, the tag, the context whose domain judged it, and far space -/
  denied : Option (Word × BitVec 16 × Nat × Bool) := none
  /-- cycle at which the next elements arrive -/
  due : Nat := 0
  /-- procedure state of a coupled pair: positions i and j, coordinates read, pairs emitted and not popped -/
  i : Nat := 0
  j : Nat := 0
  seenA : AMap Nat := []
  seenB : AMap Nat := []
  pairs : List (Nat × Nat) := []
  ended : Bool := false
  shown : VReg := 0
  /-- elements on another device: the read that is out and its position, what has come (none: uncorrectable data), and those that the
  home denied, with the tag it judged by -/
  asked : Option (Nat × Nat) := none
  far : AMap (Option Nat) := []
  farNo : AMap (BitVec 16) := []
deriving DecidableEq, Repr

/-- A part of a block operand on another device: the read that is out for it, and the reply: bytes, or none for
uncorrectable data. -/
structure FarBlock where
  op : Nat
  got : Option (Option (List Byte)) := none
deriving DecidableEq, Repr

/-- A receive-queue entry (R333). -/
structure Msg where
  payload : BitVec 512
  hdr : Word
deriving DecidableEq, Repr

/-- What a parked thread waits for (R98, R100, R142). -/
inductive Wait where
  /-- its bundle issues again each turn and judges its condition anew -/
  | poll
  /-- the same, in a completing instruction: no upcall is delivered before it ends (R100) -/
  | hold
  | sleep (tick : Nat)
  | bwait (bar : BitVec 7) (deadline : Option Nat)
  | meet (lc entry : Nat)
  | fullEmpty
  | message (op : Nat)
  | recv
  | waitm
  | qsum
  | taskd
  | access (op : Nat)
  /-- a page at the memory manager; the bundle issues again each turn (R306, R119) -/
  | page (va : Nat)
  /-- WAITR: its bundle issues again each turn (R119) -/
  | waitr (va : Nat)
  /-- LEASE, ENQ or ENQI waiting for a lease: its bundle issues again each turn (R168) -/
  | lease (unit_ : Nat)
deriving DecidableEq, Repr

/-- A bundle whose slot A has been issued and whose SBIND follows an access of slot A that is still in flight: its sources, where it
continues, and slot V (R236). -/
structure Half where
  latch : Latch
  npc : Word
  vn : BitVec 3
  x : SReg
  sc : BitVec 4
deriving DecidableEq, Repr

/-- A thread: private registers, saved special registers (R81), and what R317 to R321 save of it. -/
structure Thread where
  kid : Nat := 0
  ctx : Nat := 0
  life : Life := .absent
  regs : Regs := Regs.zero
  /-- source registers as they stood at the start of the bundle in issue (R79) -/
  latch : Option Latch := none
  pc : Word := 0
  /-- where the bundle in issue continues -/
  npc : Word := 0
  /-- the rest of a bundle whose slot A has been issued -/
  half : Option Half := none
  mode : Mode := .user
  tid : BitVec 32 := 0
  mul : BitVec 48 := 1
  core : Nat := 0
  slot : Nat := 0
  prin : BitVec 32 := 0
  rper : BitVec 4 := 0
  rperSet : Bool := false
  tmcmp : Word := 0xFFFF_FFFF_FFFF_FFFF
  upvec : Word := 0
  upc : Word := 0
  ucause : BitVec 8 := 0
  umask : BitVec 6 := 0
  fva : Word := 0
  finfo : Word := 0
  rkey : Word := 0
  rctr : Word := 0
  nto : Word := 65536
  glo : BitVec 32 := 0
  ghi : BitVec 32 := 0
  stat : Word := 0
  /-- bits and denials that entered %stat in cycle `statAt` - 1, which a clearing write of that cycle leaves (R82) -/
  statNew : Word := 0
  statAt : Nat := 0
  modeReg : BitVec 5 := 0
  /-- pending causes 7-13, bit by cause number (R308), and what each will report in %finfo and %fva -/
  pend : BitVec 14 := 0
  info : AMap (Word × Word) := []
  resv : Option Nat := none
  /-- the cycle in which it was set (R150) -/
  resvAt : Nat := 0
  /-- the granule of its last LR, and the cycle of the first of the LRs to it that follow one another closely (R150) -/
  resvKey : Nat := 0
  resvFrom : Nat := 0
  frame : List FaultRec := []
  /-- the accesses behind the records of the frame, and behind those handed to the runtime since its last ERET (R111, R139) -/
  owed : List Nat := []
  xpf : BitVec 32 := 0
  xde : BitVec 32 := 0
  vde : BitVec 32 := 0
  tok : AMap Nat := []
  streams : AMap Stream := []
  late : List Late := []
  groups : List (BitVec 16) := []
  wait : Option Wait := none
  /-- what woke the thread: the value its parked instruction returns -/
  reply : Option Word := none
  /-- the word that the reply of an LDFE or LDFF gives met uncorrectable data (R141) -/
  replyBad : Bool := false
  /-- the entry a parked RECV or QSUM took from its queue (R310) -/
  got : Option Msg := none
  next : Nat := 0
  /-- the tick at which its bundle last parked (R343) -/
  parkedAt : Nat := 0
  fromTask : Bool := false
  /-- it holds a task record with a footprint, whose windows its end unmaps (R331) -/
  footed : Bool := false
  /-- bundles issued so far; orders the results of one slot (R80) -/
  issued : Nat := 0
  /-- the first bundle waits for these earlier accesses of the parent (R111) -/
  after : List Nat := []
  /-- granules the manager could not make resident for this thread's parked access (R291) -/
  noPage : List Nat := []
  /-- parts of block operands on another device, by address -/
  blocks : AMap FarBlock := []
  /-- the transfer phase of a TILEST.atomic (R162) -/
  tile : Option TileOp := none
deriving DecidableEq, Repr

/-! ## Accesses in flight -/

/-- What an access or a reply in flight does when it performs. -/
inductive OpKind where
  | load (signed : Bool)
  | lr (signed : Bool)
  | store
  | sc
  | amo (op : Nat) (sz : ASize)
  | cas (sz : ASize)
  | xacc
  | xrd (rm : Rm5)
  | xclr
  | vload
  | vstore
  /-- a value already known, on its way to its register: F/E replies, RECV, SPAWN, QSUM (R98) -/
  | reply
  | nrd (dir : Dir) (n : BitVec 5)
  | vnrd (dir : Dir) (n : BitVec 5)
  | vmaxx (inst : Nat)
  /-- a copy token (R375) -/
  | token (ec num : Nat)
  /-- a SEND on its way (R121), and a notice of the memory manager (R291) -/
  | message (cc : Nat) (payload : BitVec 512) (hdr : Word)
  /-- bytes of a copied line counted at a barrier (R234) -/
  | decrement (cc : Nat) (bar : BitVec 7) (n : Nat)
  /-- an arrival at a barrier of another core (R374) -/
  | arrive (cc : Nat) (bar : BitVec 7)
  /-- an FESET of another core's LM word (R146) -/
  | feset (full : Bool)
  /-- a read of another device's memory for a block operand of the instruction in issue, for the element at a position of a
  stream, or for an engine-context; and an engine's write of such memory (R210, R402) -/
  | block
  /-- a DQSTEAL, and an LDFE, STFE or LDFF, on its way to another core (R128, R147) -/
  | steal (cc : Nat)
  | feReq (cc word kind : Nat)
  | elem (n pos : Nat)
  | fetch (ec : Nat)
  | engWrite (ec : Nat)
deriving DecidableEq, Repr

/-- An access, reply or message in flight. -/
structure Op where
  id : Nat
  thr : Nat
  cc : Nat
  kind : OpKind
  place : Place := .glob 0
  va : Nat := 0
  n : Nat := 0
  dst : Option RegName := none
  pred : PReg := 0
  data : Word := 0
  data2 : Word := 0
  info : Word := 0
  vdata : VReg := 0
  pieces : List Piece := []
  /-- bits of a vector destination that it writes (R172) -/
  mask : VReg := 0
  mul : Nat := 1
  prin : BitVec 32 := 0
  nd : BitVec 6 := 63
  /-- %rper of the thread at issue (R261) -/
  rper : Nat := 0
  /-- a combining switch merged it into another request (R276) -/
  joined : Bool := false
  acq : Bool := false
  /-- allocates in the L1 (class nt does not) -/
  alloc : Bool := true
  /-- the translation is confirmed (R138) -/
  conf : Bool := false
  /-- waits for the memory manager (R140, R194, R306) -/
  pwait : Bool := false
  runtime : Bool := false
  /-- the bundle that issued it, for the fault record of R313 -/
  pc : Word := 0
  /-- a far access to this device itself: a page that is not present only delays it (R140) -/
  far : Bool := false
  /-- the tag that judged it, for the record of a far denial -/
  tag : BitVec 16 := 0
  due : Nat := 0
  slot : Nat := 0
  issued : Nat := 0
  deadline : Nat := 0
  /-- the stores that carry its result to a write stream (R197) -/
  push : List Nat := []
  /-- a pushed store: results it still waits for (R197) -/
  waits : Nat := 0
  /-- operations that end before it: the far writes of a copied line (R249), a written payload (R122), an acquiring load of its own
  bundle (R145) -/
  needs : List Nat := []
  /-- the request of a far access that has not been sent yet: it waits for its data, or for an earlier access (R145, R242) -/
  unsent : Option FarOp := none
  /-- another part of the same vector load met uncorrectable data (R194) -/
  failed : Bool := false
  /-- a denial of its instruction is recorded: one record an instruction (R137) -/
  told : Bool := false
  /-- lanes of a gather or scatter that it serves, each with its address: a denial is recorded for each (R194) -/
  perLane : List (Nat × Nat) := []
deriving DecidableEq, Repr

/-! ## Core-contexts -/

/-- A barrier (R369). -/
structure Bar where
  expected : BitVec 32 := 0
  arrived : BitVec 32 := 0
  pending : Word := 0
  phase : Bool := false
deriving DecidableEq, Repr

/-- A line of a stash window: 1 clean, 2 written (R258); DUE; TAG taken at fill (R257). -/
structure StashLine where
  st : Nat
  due : BitVec 20
  tag : BitVec 16 := 0
deriving DecidableEq, Repr

/-- A window (R164 to R167). -/
structure Win where
  mapped : Bool := false
  stash : Bool := false
  staged : Bool := false
  gran : BitVec 7 := 0
  lmg : BitVec 6 := 0
  bound : Nat := 0
  /-- the far address of this device that a stash was bound by, whose local address is `bound`; else 0 (R164, R280) -/
  name : Nat := 0
  lines : AMap StashLine := []
  /-- lines of a staged footprint whose pin in the L2 was taken (R267) -/
  pins : List Nat := []
deriving DecidableEq, Repr

/-- A queued task record and its multiplicity (R124, R125). -/
structure Task where
  record : BitVec 256
  mul : BitVec 48
deriving DecidableEq, Repr

/-- A request waiting on a full/empty word (R147): 0 LDFE, 1 STFE, 2 LDFF. -/
structure FeReq where
  thr : Nat
  word : Nat
  kind : Nat
  data : Word
  cycle : Nat := 0
deriving DecidableEq, Repr

/-- Who last wrote a shared register: cycle, slot, issue number (R80), and the register as it stood before that cycle, which the
bundles and the neighbour reads of the cycle see (R79, R129). -/
structure Writer where
  cycle : Nat
  slot : Nat
  issued : Nat
  was : VReg := 0
deriving DecidableEq, Repr

/-- A core-context: the shared registers and units of one kernel on one logical core (R77, R317)
(DESIGN CHOICE, log 5). -/
structure CoreCtx where
  h : Vector Word 32 := Vector.replicate 32 0
  w : Vector VReg 32 := Vector.replicate 32 0
  writers : AMap Writer := []
  dq : List Word := []
  /-- one more than the cycle of the deque's last operation (R128) -/
  dqAt : Nat := 0
  rq : List Msg := []
  tq : List Task := []
  /-- the record at the task unit: staged, or ready -/
  task : Option Task := none
  taskReady : Bool := false
  taskDue : Nat := 0
  bars : AMap Bar := []
  wins : AMap Win := []
  lm : Memory := []
  /-- words whose full/empty bit is full -/
  full : AMap Bool := []
  feq : List FeReq := []
  rowCount : Nat := 0
  colCount : Nat := 0
  memOps : Nat := 0
  /-- its banks stand in its save area (R215) -/
  spilled : Bool := false
  winStart : Nat := 0
  /-- one more than the cycle of the last entry appended to the receive queue (R333) -/
  rqAt : Nat := 0
  /-- granules the manager could not make resident for this core's stash fills and write-backs (R140) -/
  noPage : List Nat := []
  rper : BitVec 4 := 0
  /-- one more than the cycle of the last hardware migration from this core (R345) -/
  movedAt : Nat := 0
  /-- upcalls held for the next thread: cause, %finfo, %fva (R212) -/
  held : List (Nat × Word × Word) := []
deriving DecidableEq, Repr

/-! ## Caches (R257 to R279) -/

/-- A line in a cache: 1 S, 2 E, 3 M, 4 U (R258), and its metadata (R257). -/
structure Line where
  addr : Nat
  /-- the VA of the access that filled it, for its page's PDUE (R293) -/
  va : Nat := 0
  st : Nat
  tag : BitVec 16 := 0
  /-- the filling tenant; none for a host or peer fill, which counts towards no tenant (R262) -/
  ten : Option Nat := none
  due : BitVec 20 := 0
  rcy : BitVec 2 := 0
  claim : Bool := false
  pin : BitVec 8 := 0
  /-- L2 directory: cores that hold the line S, cores that hold it U, and the core-context whose stash holds it -/
  sharers : List Nat := []
  users : List Nat := []
  stash : Option Nat := none
deriving DecidableEq, Repr

/-- A set-associative cache: set number to ways; its sets as they stood when cycle `startAt` began (R266); and when each
set was last visited (R263). -/
structure Cache where
  sets : AMap (List (Option Line)) := []
  start : AMap (List (Option Line)) := []
  startAt : Nat := 0
  visits : AMap Nat := []
  /-- residency control word (R268): DEFD 64, AGE 256 -/
  ctl : Word := 0x0000_0000_1000_0040
deriving DecidableEq, Repr

/-- A word of a U line: KIND and partial (R273). -/
structure UWord where
  kind : Nat
  part : BitVec 64
deriving DecidableEq, Repr

/-- A U line of an L1: its words by number 0-15 (32-bit words by half), or exact sums by cell. -/
structure ULine where
  loc : Nat
  pa : Nat
  /-- the VA and the context of the operation that began it -/
  va : Nat := 0
  ctx : Nat := 0
  words : AMap UWord := []
  cells : AMap (BitVec 512) := []
deriving DecidableEq, Repr

/-- A PLB entry (R286). -/
structure Plb where
  ctx : Nat
  gran : Nat
  r : Bool
  w : Bool
  x : Bool
  g : Bool
  tag : BitVec 16
deriving DecidableEq, Repr

/-- A cached clearance word (R288). -/
structure Clr where
  ctx : Nat
  prin : Nat
  idx : Nat
  addr : Nat
deriving DecidableEq, Repr

/-- A physical core: L1, U lines, PLB, clearance cache, and the L1's tenant words (R269). -/
structure PCore where
  l1 : Cache := {}
  ulines : AMap ULine := []
  plb : List Plb := []
  clr : List Clr := []
  tenants : AMap Word := []
  /-- one more than the cycle of its last bundle (R19) -/
  issuedAt : Nat := 0
deriving DecidableEq, Repr

/-! ## Engines -/

/-- What an accepted command is: a command word, or an asynchronous copy of a thread (R158, R159). -/
inductive Work where
  | word (w : CmdWord)
  | acopy (dst src len : Nat)
  | acopys (block : BitVec 512) (bar : Option (BitVec 7))
deriving DecidableEq, Repr

/-- An accepted command with what it carries from its thread (R209). -/
structure Cmd where
  num : Nat
  work : Work
  thr : Nat
  cc : Nat
  kid : Nat
  tid : BitVec 32
  prin : BitVec 32
  rper : BitVec 4
  /-- the resume word, accepted in the stopped state (R213) -/
  resume : Bool := false
deriving DecidableEq, Repr

/-- An engine-context (R205, R206, R212). -/
structure EngCtx where
  accepted : Nat := 0
  completed : Nat := 0
  queue : List Cmd := []
  /-- the status word and failing address of a stopped engine-context -/
  stopped : Option (Word × Word) := none
  /-- the command at the head has performed its writes, or will run at this cycle -/
  ran : Bool := false
  due : Nat := 0
  pwait : Option Nat := none
  /-- bytes it may not reach because no page-in could serve them -/
  badPage : List Nat := []
  /-- of the command at its head: the ranges that have passed (R209), the block it has read (R229, R220), the lines whose denial
  is logged (R211) -/
  passed : List (List Span) := []
  block : Option (List Byte) := none
  denied : List Nat := []
  /-- parts of another device's memory that its command has read (none: uncorrectable data), by address; and the address of
  a write to such memory that failed -/
  far : AMap (Option (List Byte)) := []
  farBad : Option Nat := none
deriving DecidableEq, Repr

/-- A request in an engine's arbitration (R168): thread, core-context, priority, arrival. -/
structure LeaseReq where
  thr : Nat
  cc : Nat
  prio : Nat
  seq : Nat
deriving DecidableEq, Repr

/-- A leased engine (R168, R169, R214). -/
structure EngUnit where
  holder : Option Nat := none
  arb : List LeaseReq := []
  granted : Nat := 0
  since : Nat := 0
  /-- the grant has ended (R169) -/
  expired : Bool := false
  /-- between an LREL and the end of the passage (R168), for the outgoing core-context -/
  passing : Option Nat := none
  /-- cycle at which the passage can end -/
  due : Nat := 0
  /-- the core-context whose state it holds (R215) -/
  loaded : Option Nat := none
deriving DecidableEq, Repr

/-- Clause state of a context on an array (R215, R220, R224). -/
structure Clause where
  configured : Bool := false
  c : Nat := 0
  f : Nat := 0
  k : Nat := 0
  t : Nat := 0
  emptyInf : Bool := false
  ti1 : Nat := 0
  ti0 : Nat := 0
  tiz : Nat := 0
  tii : Nat := 0
  table : AMap (BitVec 8) := []
  init : BitVec 8 := 0
  cells : AMap (BitVec 8) := []
  seed : Word := 0
  ctr : Word := 0
  wrap : Bool := false
  /-- it stands in its slot of the save area (R215) -/
  spilled : Bool := false
deriving DecidableEq, Repr

/-! ## Kernels, contexts, queues -/

/-- Kernel states (R335). -/
inductive KState where | queued | admitted | staging | running | preempted | draining | retired | faulted
deriving DecidableEq, Repr

/-- A group record (R352). -/
structure Group where
  count : BitVec 48 := 0
  live : Bool := false
deriving DecidableEq, Repr

/-- A thread waiting in a local meet entry: its hash and its live mask (R115, R116). -/
structure Waiter where
  thr : Nat
  hash : BitVec 16
  live : BitVec 32
deriving DecidableEq, Repr

/-- A meet-table entry, local or home (R356), and the threads waiting in a local one. -/
structure Meet where
  closing : Bool
  home : Bool
  gid : BitVec 16
  mid : BitVec 8
  gen : BitVec 16
  win : BitVec 22
  /-- local: %time at opening -/
  opened : Nat
  need : Nat
  arr : Nat
  /-- local: waiting threads -/
  waiters : List Waiter
  /-- local and closing: the cycle at which the close arrives -/
  due : Nat
deriving DecidableEq, Repr

/-- A VMAXX instance (R202): contributions by core, members served. -/
structure Vmx where
  vals : AMap VReg := []
deriving DecidableEq, Repr

/-- A kernel (R335 to R346). -/
structure Kernel where
  st : KState := .queued
  ctx : Nat := 0
  q : Nat := 0
  record : BitVec 512 := 0
  accepted : Nat := 0
  prio : Nat := 0
  headAt : Nat := 0
  startedAt : Nat := 0
  suspendedAt : Nat := 0
  clusters : List Nat := []
  /-- granted cluster by position ↦ the logical cluster resident on it and since when (R343) -/
  turns : AMap (Nat × Nat) := []
  /-- its slot of save descriptors (R318) -/
  saveSlot : Nat := 0
  /-- admitted from a runtime queue (R349) -/
  runtime : Bool := false
  /-- footprint ranges: base and granules (R338) -/
  foot : List (Nat × Nat) := []
  /-- every footprint line is filled (R338) -/
  staged : Bool := false
  nthread : Nat := 0
  stagingDue : Nat := 0
  gangHeld : Bool := false
  /-- its completion report is posted and DONE has advanced (R346, R328) -/
  told : Bool := false
  groups : AMap Group := []
  meets : AMap Meet := []
  gens : AMap (BitVec 16) := []
  vmx : AMap Vmx := []
  /-- pre-empted, or the part of it that is not resident: its records as the device wrote them, by address; what differs from them in
  memory is read back (R322, R344) -/
  saved : AMap (List Byte) := []
  /-- one more than the cycle in which the records of its non-resident part were last compared (R344) -/
  syncAt : Nat := 0
deriving DecidableEq, Repr

/-- A queued launch record: the record, ACCEPTED at its acceptance, the tick it became head. -/
structure Launch where
  record : BitVec 512
  accepted : Nat
deriving DecidableEq, Repr

/-- A launch queue (R324 to R330): STATE 0 disabled, 1 open, 2 full, 3 draining, 4 closed. -/
structure LQueue where
  st : Nat := 0
  recs : List Launch := []
  accepted : Word := 0
  done : Word := 0
  runtime : Bool := false
  headAt : Nat := 0
  /-- one more than the cycle of the last record accepted (R330) -/
  acceptAt : Nat := 0
  /-- drained by fault-hold: nothing further admitted (R329) -/
  frozen : Bool := false
deriving DecidableEq, Repr

/-- A fatal fault (R313): its record, with %time as it was raised, and the cycle after, when the context enters fault-hold. -/
structure Fatal where
  tid : BitVec 32
  cause : Nat
  inner : Nat
  fva : Word
  pc : Word
  time : Word := 0
  due : Nat := 0
deriving DecidableEq, Repr

/-- A context: its record (R302) and what the device holds of it. -/
structure Ctx where
  /-- STATE 0; PMARGIN 4 at reset -/
  record : BitVec 1024 := 0x4_0000
  queues : AMap LQueue := []
  /-- a fatal fault to be taken in the next cycle -/
  fatal : Option Fatal := none
  /-- held PEER notices: count and the latest faulted context with its cause (R318) -/
  peers : Option (Nat × Nat × Nat) := none
  /-- pre-empted or in fault-hold, and its images not yet written: only what R317 completes still issues -/
  stop : Bool := false
  /-- clause arrays leased, in order of first lease (R318) -/
  arrays : List Nat := []
  /-- the `.lm` image of the object the context runs, and its words that are full (R36) -/
  lmImage : Memory := []
  lmFull : AMap Bool := []
  teardown : Bool := false
deriving DecidableEq, Repr

/-! ## Links, boot, mailbox -/

/-- A flit kept for replay: its bytes, when it was sent, how often it was resent. -/
structure Replay where
  seq : BitVec 16
  flit : List Byte
  sentAt : Nat
  resent : Nat
deriving DecidableEq, Repr

/-- A device link (R396 to R399). STATE 0 down, 1 training, 2 negotiating, 3 up, 4 degraded, 5 failed. -/
structure Link where
  st : Nat := 0
  lanes : Nat := 0
  ver : BitVec 8 := 0
  peer : BitVec 18 := 0
  plink : BitVec 5 := 0
  sync : Bool := false
  retry : BitVec 16 := 0
  attempts : Nat := 0
  replay : List Replay := []
  nextSeq : BitVec 16 := 0
  lastRx : BitVec 16 := 0xFFFF
  /-- flits that wait for room in the replay buffer -/
  waiting : List (List Byte) := []
  /-- stays down until firmware enables it (R408 step 5) -/
  held : Bool := false
deriving DecidableEq, Repr

/-- A boot record entry (R409). -/
structure BootEntry where
  out : BitVec 2 := 0
  fails : BitVec 8 := 0
  code : BitVec 16 := 0
  start : BitVec 32 := 0
deriving DecidableEq, Repr

/-- A far request served or under way at this device as home. -/
structure FarDone where
  req : FarReq
  reply : FarReply
deriving DecidableEq, Repr

/-- A physical cluster (R11, R341, R417). -/
structure Cluster where
  excluded : Bool := false
  fused : Bool := false
  holder : Option Nat := none
  asleep : Bool := false
  freeSince : Nat := 0
deriving DecidableEq, Repr

/-- What a host access that waits does: a write, a read of some bytes, a launch record. -/
inductive HostWhat where
  | write
  | read (n : Nat)
  | launch
deriving DecidableEq, Repr

/-- A host access that waits (R252, R295): a write held by a migrating page, whose place a new walk finds when it performs; or one
behind it in order, at its own address (`free`). `at_` is the cycle of its arrival. -/
structure HeldWrite where
  va : Nat
  data : List Byte
  free : Bool := false
  what : HostWhat := .write
  at_ : Nat := 0
deriving DecidableEq, Repr

/-- A far request that waits at this home, with the cycle of its arrival (R295). -/
structure FarWait where
  req : FarReq
  at_ : Nat := 0
deriving DecidableEq, Repr

/-- What the device sends out and nobody inside reads: MSI-X vectors, read data, DMWr outcomes, link flits. -/
inductive Out where
  | msix (vector : Nat)
  | readData (data : List Byte)
  | dmwr (result : Nat)
  | flit (link : Nat) (flit : List Byte)
  | replayRequest (link : Nat)
  | farRequest (dev : Nat) (r : FarReq)
  | farReply (d : FarDone)
deriving DecidableEq, Repr

/-- Power states of the package (R410, R417). -/
inductive Power where | off | started | recovery | active | asleep
deriving DecidableEq, Repr

/-- A trap an instruction raised at its bundle: cause (R307), %finfo, %fva, %upc; `fatal` for causes 14-18. -/
structure Trap where
  cause : Nat
  info : Word
  fva : Word
  upc : Word
deriving DecidableEq, Repr

/-- How the bundle in issue ended. -/
inductive Issue where
  | done
  | parked
  | trapped (t : Trap)
deriving DecidableEq, Repr

/-- The device. -/
structure State where
  -- memory side
  mem : Memory
  hostMem : Memory
  ecc : AMap Nat
  ops : List Op
  ptRoot : Nat
  faultReqs : List (Nat × Nat)
  heldWrites : List HeldWrite
  hostRegions : List (Nat × Nat)
  slices : AMap Cache
  glades : AMap (AMap Word)
  pageCtl : Word
  /-- lines that home slices have served a request for in cycle `servedAt` (R279) -/
  served : List Nat
  servedAt : Nat
  /-- the manager's page records: tick of the last walk, by the place of the leaf (R294) -/
  walks : AMap Nat
  -- agents
  threads : AMap Thread
  ccs : AMap CoreCtx
  cores : AMap PCore
  clusters : AMap Cluster
  units : AMap EngUnit
  engs : AMap EngCtx
  banks : AMap (AMap Lane)
  clauses : AMap Clause
  kernels : AMap Kernel
  ctxs : AMap Ctx
  weights : AMap Nat
  rrPtr : Nat
  rrGranted : Nat
  windows : AMap (Nat × Nat)
  homes : AMap Nat
  /-- reservations of far requests: device, its thread, granule (R149) -/
  farResv : List (Nat × Nat × Nat)
  /-- far requests that wait at this home for a page (R140, R295) -/
  farWait : List FarWait
  /-- the next cycle in which the dispatcher tries a head record that waited for a page -/
  schedAt : Nat
  -- time and power
  cycle : Nat
  time : Word
  frac : Nat
  /-- %time in the cycle before (R404) -/
  lastTime : Word
  mhz : Nat
  stepAt : Nat
  capWatts : Nat
  hot : Bool
  capReported : Bool
  power : Power
  -- links and identity
  deviceId : BitVec 18
  links : AMap Link
  isReference : Bool
  locked : Bool
  /-- changes of `locked`, newest first: tick and new value (R405) -/
  lockChanges : List (Nat × Bool)
  timeSet : Bool
  offset : Int
  within : Option Nat
  /-- from when the time base may be slewed by one tick more (R403) -/
  slewAt : Nat
  /-- the last SYNC path is lost, and not yet reported (R403) -/
  pathLost : Bool
  /-- the link that each route has taken (R397, R401) -/
  routes : AMap (Option Nat)
  -- boot and security
  bootRec : AMap BootEntry
  excludedMask : BitVec 128
  starts : BitVec 32
  skuG120 : Bool
  rootDigest : BitVec 256
  rollback : BitVec 32
  imageVersion : BitVec 32
  imageDigest : BitVec 256
  xmssIndex : Nat
  /-- the device's identity key pair with its certificate, made at manufacture (R411, R412) -/
  identity : List Byte
  /-- die-to-die bridges that run at half width, and memory channels whose memory is not offered (R408, R410) -/
  halfBridges : List Nat
  badChannels : List Nat
  /-- the last scrub of every LM, and of device memory (R414) -/
  lmScrubAt : Nat
  memScrubAt : Nat
  keys : AMap (BitVec 512)
  -- mailbox
  version : Nat
  areaBase : Nat
  writeIdx : Nat
  returned : Nat
  heldEvents : List (BitVec 512)
  droppedEvents : Nat
  out : List Out
  -- what the outside does next
  input : List Instr
  -- the model's own fields (DESIGN CHOICE, log 8)
  cur : Nat
  issue : Issue
  nextId : Nat
  drawn : Nat
deriving DecidableEq, Repr

/-- The device after reset: started and not booted; nothing in memory, no context, no thread. Values the spec does not
give are those of logs 4 to 8. -/
def State.reset : State :=
  { mem := [], hostMem := [], ecc := [], ops := [], ptRoot := 0, faultReqs := [], heldWrites := [],
    hostRegions := [], slices := [], glades := [], pageCtl := 0x0000_0000_1000_0040, served := [], servedAt := 0, walks := [],
    threads := [], ccs := [], cores := [], clusters := [], units := [], engs := [], banks := [], clauses := [],
    kernels := [], ctxs := [], weights := [], rrPtr := 0, rrGranted := 0, windows := [], homes := [], farResv := [], farWait := [], schedAt := 0,
    cycle := 0, time := 0, frac := 0, lastTime := 0, mhz := 1400, stepAt := 0, capWatts := 3200, hot := false, capReported := false,
    power := .started,
    deviceId := 0, links := [], isReference := false, locked := false, lockChanges := [], timeSet := false, offset := 0, within := none,
    slewAt := 0, pathLost := false, routes := [], identity := [], halfBridges := [], badChannels := [], lmScrubAt := 0, memScrubAt := 0,
    bootRec := [], excludedMask := 0, starts := 0, skuG120 := false, rootDigest := 0, rollback := 0, imageVersion := 0,
    imageDigest := 0, xmssIndex := 0, keys := [],
    version := 0, areaBase := 0, writeIdx := 0, returned := 0, heldEvents := [], droppedEvents := 0, out := [],
    input := [], cur := 0, issue := .done, nextId := 0, drawn := 0 }

/-- The outcome of one step of this machine. -/
abbrev Res := Host.Outcome State Fault Refusal

end Sys2Proof.Machine
end

