-- ==== Sys2Proof/Machine/Base.lean ====
section
/-! DEFINITION. The named operations over threads, registers and memory bytes, the shape of a launch, and translation. -/

namespace Sys2Proof.Machine

/-! ## Bytes -/

/-- The byte at an address; an unlisted byte reads as 0 (DESIGN CHOICE, log 4). -/
def Memory.get : Memory → Nat → Byte
  | [], _ => 0
  | (k, v) :: t, a => if k = a then v else Memory.get t a

/-- An entry placed at its address; addresses stay rising. -/
def Memory.enter : Memory → Nat → Byte → Memory
  | [], a, b => [(a, b)]
  | (k, v) :: t, a, b =>
    if k = a then (a, b) :: t
    else if a < k then (a, b) :: (k, v) :: t
    else (k, v) :: Memory.enter t a b

/-- The memory with one byte written; writing 0 removes the entry. -/
def Memory.put (m : Memory) (a : Nat) (b : Byte) : Memory := if b = 0 then m.filter (fun c => c.1 != a) else m.enter a b

/-- n bytes from an address. -/
def Memory.read (m : Memory) (a : Nat) : Nat → List Byte
  | 0 => []
  | n + 1 => m.get a :: Memory.read m (a + 1) n

/-- Bytes written from an address up. -/
def Memory.write (m : Memory) (a : Nat) : List Byte → Memory
  | [] => m
  | b :: t => Memory.write (m.put a b) (a + 1) t

/-- Every byte of [a, a + n) as 0: the entries inside the range removed. -/
def Memory.clear (m : Memory) (a n : Nat) : Memory := m.filter (fun c => c.1 < a || a + n ≤ c.1)

/-- A little-endian word of w bits from bytes. -/
def wordOf (w : Nat) (bs : List Byte) : BitVec w := BitVec.ofNat w (leNat bs)

/-! ## Threads -/

def State.thread (s : State) (k : Nat) : Thread := s.threads.get {} k
def State.setThread (s : State) (k : Nat) (t : Thread) : State := { s with threads := s.threads.put k t }
/-- The thread whose bundle is in issue. -/
def State.me (s : State) : Thread := s.thread s.cur
def State.setMe (s : State) (t : Thread) : State := s.setThread s.cur t

def State.kernel (s : State) (k : Nat) : Kernel := s.kernels.get {} k
def State.setKernel (s : State) (k : Nat) (v : Kernel) : State := { s with kernels := s.kernels.put k v }
def State.ctx (s : State) (c : Nat) : Ctx := s.ctxs.get {} c
def State.setCtx (s : State) (c : Nat) (v : Ctx) : State := { s with ctxs := s.ctxs.put c v }
def State.coreCtx (s : State) (k : Nat) : CoreCtx := s.ccs.get {} k
def State.setCoreCtx (s : State) (k : Nat) (v : CoreCtx) : State := { s with ccs := s.ccs.put k v }
/-- A refusal of the memory manager has been used for the pages that f names: the next access to one asks again (R140). -/
def State.heard (s : State) (k : Nat) (f : Nat → Bool) : State :=
  let c := s.coreCtx k
  if c.noPage.any f then s.setCoreCtx k { c with noPage := c.noPage.filter (fun g => !f g) } else s
def State.core (s : State) (k : Nat) : PCore := s.cores.get {} k
def State.setCore (s : State) (k : Nat) (v : PCore) : State := { s with cores := s.cores.put k v }

/-- The number of thread t of kernel k. -/
def threadKey (kid : Nat) (tid : Nat) : Nat := kid * 2 ^ 32 + tid
/-- The number of the core-context of kernel k on logical core c. -/
def ccKey (kid : Nat) (core : Nat) : Nat := kid * 1024 + core
/-- The core-context a thread runs in. -/
def Thread.cc (t : Thread) : Nat := ccKey t.kid t.core
/-- %tick now, as a number. -/
def State.tick (s : State) : Nat := s.time.toNat

/-- A new operation number. -/
def State.fresh (s : State) : Nat × State := (s.nextId, { s with nextId := s.nextId + 1 })

/-- A cycle a free latency from now, at least one (R19; DESIGN CHOICE, log 2). -/
def State.later (s : State) : Nat × State := (s.cycle + 1 + Config.latency s.drawn, { s with drawn := s.drawn + 1 })

/-- A cycle a free latency from now for an access or an answer of the memory system: with the two stages of an access, within
the 65,536 ticks of R254 at the lowest clock (DEDUCED, log 2). -/
def State.soon (s : State) : Nat × State := (s.cycle + 1 + Config.latency s.drawn % 512, { s with drawn := s.drawn + 1 })

/-- An operation put in flight, due a free latency from now; it carries its thread's %rper (R261). -/
def State.launch (s : State) (o : Op) : State :=
  { s with
    ops := s.ops ++ [{ o with id := s.nextId, due := s.cycle + 1 + Config.latency s.drawn % 512, rper := (s.thread o.thr).rper.toNat }]
    nextId := s.nextId + 1
    drawn := s.drawn + 1 }

def State.dropOp (s : State) (id : Nat) : State := { s with ops := s.ops.filter (fun o => o.id != id) }
def State.findOp (s : State) (id : Nat) : Option Op := s.ops.find? (fun o => o.id == id)
def State.mapOps (s : State) (f : Op → Op) : State := { s with ops := s.ops.map f }

/-! ## Registers (R77 to R80) -/

/-- The number of a shared register, or none for a private one (R78). -/
def isShared (f : BitVec 6) : Bool := f.extractLsb' 5 1 = 1
def low5 (f : BitVec 6) : Fin 32 := (f.extractLsb' 0 5).toFin

/-- The registers the bundle in issue reads: those of its start (R79). -/
def Thread.src (t : Thread) : Regs := match t.latch with | some l => l.regs | none => t.regs

/-- A scalar register of thread k, as it stands (R77: x0 reads 0). -/
def State.xOf (s : State) (k : Nat) (f : SReg) : Word :=
  let t := s.thread k
  if isShared f then (s.coreCtx t.cc).h[low5 f]
  else if f = 0 then 0 else t.regs.x[low5 f]

/-- A source register of the bundle in issue (R79). -/
def State.rx (s : State) (f : SReg) : Word :=
  let t := s.me
  if isShared f then
    match t.latch with
    | some l => l.h[low5 f]
    | none => (s.coreCtx t.cc).h[low5 f]
  else if f = 0 then 0 else t.src.x[low5 f]

/-- A vector source register. -/
def State.rv (s : State) (f : VRegF) : VReg :=
  let t := s.me
  if isShared f then
    match t.latch with
    | some l => l.w[low5 f]
    | none => (s.coreCtx t.cc).w[low5 f]
  else t.src.v[low5 f]

/-- A predicate source: p0 reads 1. -/
def State.rp (s : State) (p : PReg) : Bool := if p = 0 then true else s.me.src.p[p.toFin]

/-- A lane-mask source: q0 reads all ones. -/
def State.rq (s : State) (q : QReg) : BitVec 16 := if q = 0 then 0xFFFF else s.me.src.q[q.toFin]

/-- Bit i of a 32-bit mark set or cleared. -/
def setMark (m : BitVec 32) (i : Fin 32) (b : Bool) : BitVec 32 :=
  if b then m ||| (1#32 <<< i.val) else m &&& ~~~(1#32 <<< i.val)

/-- Whether a write to a shared register takes effect over the one already made in this cycle (R80). -/
def wins (old : Option Writer) (new : Writer) : Bool :=
  match old with
  | none => true
  | some o => o.cycle ≠ new.cycle || new.slot < o.slot || (new.slot == o.slot && o.issued ≤ new.issued)

def lookupWriter (m : AMap Writer) (k : Nat) : Option Writer := (m.find? (fun e => e.1 == k)).map (·.2)

/-- A shared register as it stood when a cycle began (R79): what stands there, or what stood before that cycle's writes. -/
def startOf (m : AMap Writer) (cycle n : Nat) (now : VReg) : VReg :=
  match lookupWriter m n with
  | some w => if w.cycle = cycle then w.was else now
  | none => now
def CoreCtx.hAt (c : CoreCtx) (cycle : Nat) : Vector Word 32 :=
  Vector.ofFn (fun i : Fin 32 => (startOf c.writers cycle i.val ((c.h[i]).zeroExtend 512)).truncate 64)
def CoreCtx.wAt (c : CoreCtx) (cycle : Nat) : Vector VReg 32 := Vector.ofFn (fun i : Fin 32 => startOf c.writers cycle (i.val + 32) c.w[i])

/-- Write of a shared scalar register for thread k, attributed to its slot and the bundle that produced it (R80). -/
def State.setH (s : State) (cc : Nat) (f : SReg) (w : Word) (slot issued : Nat) : State :=
  let c := s.coreCtx cc
  let n := (low5 f).val
  let me : Writer := { cycle := s.cycle, slot := slot, issued := issued, was := startOf c.writers s.cycle n ((c.h[low5 f]).zeroExtend 512) }
  if wins (lookupWriter c.writers n) me then
    s.setCoreCtx cc { c with h := c.h.set n w, writers := c.writers.put n me }
  else s

/-- Write of a shared vector register (R80). -/
def State.setW (s : State) (cc : Nat) (f : VRegF) (w : VReg) (slot issued : Nat) : State :=
  let c := s.coreCtx cc
  let n := (low5 f).val
  let me : Writer := { cycle := s.cycle, slot := slot, issued := issued, was := startOf c.writers s.cycle (n + 32) c.w[low5 f] }
  if wins (lookupWriter c.writers (n + 32)) me then
    s.setCoreCtx cc { c with w := c.w.set n w, writers := c.writers.put (n + 32) me }
  else s

/-- Write of scalar register f of thread k: x0 discards, a private write clears the register's marks (R77, R139). -/
def State.putX (s : State) (k : Nat) (f : SReg) (w : Word) (issued : Nat) : State :=
  let t := s.thread k
  if isShared f then s.setH t.cc f w t.slot issued
  else if f = 0 then s
  else
    let n := low5 f
    s.setThread k { t with
      regs := { t.regs with x := t.regs.x.set n w }
      xpf := setMark t.xpf n false
      xde := setMark t.xde n false
      tok := t.tok.del n.val }

/-- Write of vector register f of thread k. -/
def State.putV (s : State) (k : Nat) (f : VRegF) (w : VReg) (issued : Nat) : State :=
  let t := s.thread k
  if isShared f then s.setW t.cc f w t.slot issued
  else
    let n := low5 f
    s.setThread k { t with regs := { t.regs with v := t.regs.v.set n w }, vde := setMark t.vde n false }

/-- Write of predicate p: p0 discards. -/
def State.putP (s : State) (k : Nat) (p : PReg) (b : Bool) : State :=
  let t := s.thread k
  if p = 0 then s else s.setThread k { t with regs := { t.regs with p := t.regs.p.set p.toNat b } }

/-- Write of lane mask q: q0 discards. -/
def State.putQ (s : State) (k : Nat) (q : QReg) (b : BitVec 16) : State :=
  let t := s.thread k
  if q = 0 then s else s.setThread k { t with regs := { t.regs with q := t.regs.q.set q.toNat b } }

/-- Writes by the bundle in issue: a result of one turn is written at the issue cycle, so that an older result of 2 to 4 turns
due at the next turn is written after it (R96; DESIGN CHOICE, log 79). -/
def State.wx (s : State) (f : SReg) (w : Word) : State := s.putX s.cur f w s.me.issued
def State.wv (s : State) (f : VRegF) (w : VReg) : State := s.putV s.cur f w s.me.issued
def State.wp (s : State) (p : PReg) (b : Bool) : State := s.putP s.cur p b
def State.wq (s : State) (q : QReg) (b : BitVec 16) : State := s.putQ s.cur q b

/-- A result of latency L turns: written at the issue cycle + 16 L (R96); x0 discards it (R77). -/
def State.wxLate (s : State) (f : SReg) (w : Word) (turns : Nat) : State :=
  if f = 0 then s else
  let t := s.me
  s.setMe { t with late := t.late ++ [{ due := s.cycle + 16 * turns, reg := .s f, w := w, vv := 0, mask := 0, issued := t.issued }] }
def State.wvLate (s : State) (f : VRegF) (w mask : VReg) (turns : Nat) : State :=
  let t := s.me
  s.setMe { t with late := t.late ++ [{ due := s.cycle + 16 * turns, reg := .v f, w := 0, vv := w, mask := mask, issued := t.issued }] }

/-- What entered %stat of a thread in a cycle. -/
def Thread.newStat (t : Thread) (cycle : Nat) : Word := if t.statAt = cycle + 1 then t.statNew else 0

/-- Sticky bits, or denials, that enter %stat in a cycle. -/
def Thread.stick (t : Thread) (cycle : Nat) (f : Word → Word) : Thread :=
  { t with stat := f t.stat, statNew := f (t.newStat cycle), statAt := cycle + 1 }

/-- A clearing write to %stat (R82): what entered it in the same cycle stays. -/
def Thread.clearStat (t : Thread) (cycle : Nat) (w : Word) : Thread :=
  let old := statClear t.stat w
  let new := t.newStat cycle
  let deny (x : Word) : Word := x &&& 0xFFFF_0000
  { t with stat := ((old ||| new) &&& 0xFFFF) ||| (if (deny old).ult (deny new) then deny new else deny old) }

/-- %stat with bits or flags added, by thread. -/
def State.orStat (s : State) (k : Nat) (b : Word) : State := s.setThread k ((s.thread k).stick s.cycle (· ||| b))
def State.addFlags (s : State) (f : Fl) : State := if f = 0 then s else s.setMe (s.me.stick s.cycle (statFlags · f))

/-! ## The shape of a launch (R13 to R16) -/

/-- Rows and columns of a kernel, from its launch record (R327). -/
def Kernel.nrow (k : Kernel) : Nat := (k.record.extractLsb' 128 8).toNat
def Kernel.ncol (k : Kernel) : Nat := (k.record.extractLsb' 136 8).toNat
/-- %ncore (R14). -/
def Kernel.ncore (k : Kernel) : Nat := k.nrow * k.ncol
/-- Logical clusters of the shape (R15). -/
def Kernel.lclusters (k : Kernel) : Nat :=
  if k.nrow ≤ 2 && k.ncol ≤ 4 then 1 else (k.nrow / 2) * (k.ncol / 4)
/-- The logical cluster of a logical core, and its position in it (R15, which gives it for shapes beyond 2 x 4; a smaller one is
counted by the same row and column: DESIGN CHOICE, log 89). -/
def Kernel.lcOf (k : Kernel) (c : Nat) : Nat :=
  if k.nrow ≤ 2 && k.ncol ≤ 4 then 0
  else let y := c / k.ncol; let x := c % k.ncol; (y / 2) * (k.ncol / 4) + x / 4
def Kernel.posOf (k : Kernel) (c : Nat) : Nat :=
  let n := max k.ncol 1
  (c / n % 2) * 4 + c % n % 4
/-- The torus neighbour of a logical core (R16). -/
def Kernel.neighbour (k : Kernel) (d : Dir) (c : Nat) : Nat :=
  let r := max k.nrow 1
  let n := max k.ncol 1
  let y := c / n
  let x := c % n
  match d with
  | .n => ((y + r - 1) % r) * n + x
  | .s => ((y + 1) % r) * n + x
  | .e => y * n + (x + 1) % n
  | .w => y * n + (x + n - 1) % n

/-- Flags of a launch record (R327). -/
def Kernel.det (k : Kernel) : Bool := k.record.getLsbD 8
def Kernel.mig (k : Kernel) : Bool := k.record.getLsbD 9
def Kernel.gang (k : Kernel) : Bool := k.record.getLsbD 10
def Kernel.strict (k : Kernel) : Bool := k.record.getLsbD 11
def Kernel.shr (k : Kernel) : Bool := k.record.getLsbD 144
def Kernel.gtick (k : Kernel) : Word := k.record.extractLsb' 320 64
/-- Migration is enabled only with MIG, without DET and SHR (R345). -/
def Kernel.migOn (k : Kernel) : Bool := k.mig && !k.det && !k.shr

/-- The physical cluster a logical cluster runs on (R343), and the physical core of a thread. -/
def Kernel.physCluster (k : Kernel) (lc : Nat) : Nat :=
  match k.clusters with
  | [] => 0
  | cs => cs.getD (lc % cs.length) 0
def State.clusterOf (s : State) (t : Thread) : Nat := let k := s.kernel t.kid; k.physCluster (k.lcOf t.core)
def State.physCore (s : State) (t : Thread) : Nat := s.clusterOf t * 8 + (s.kernel t.kid).posOf t.core

/-! ## Fields of the context record (R302) -/

def Ctx.state (c : Ctx) : Nat := (c.record.extractLsb' 0 4).toNat
def Ctx.tenant (c : Ctx) : Nat := (c.record.extractLsb' 4 6).toNat
def Ctx.pmargin (c : Ctx) : Nat := (c.record.extractLsb' 16 5).toNat
def Ctx.nlq (c : Ctx) : Nat := (c.record.extractLsb' 21 3).toNat
def Ctx.clrcnt (c : Ctx) : Nat := (c.record.extractLsb' 32 32).toNat
def Ctx.protroot (c : Ctx) : Nat := (c.record.extractLsb' 64 64).toNat
def Ctx.clrbase (c : Ctx) : Nat := (c.record.extractLsb' 128 64).toNat
def Ctx.logbase (c : Ctx) : Nat := (c.record.extractLsb' 192 64).toNat
def Ctx.logn (c : Ctx) : Nat := (c.record.extractLsb' 256 5).toNat
def Ctx.logctl (c : Ctx) : Nat := (c.record.extractLsb' 320 64).toNat
def Ctx.savebase (c : Ctx) : Nat := (c.record.extractLsb' 384 64).toNat
def Ctx.keybase (c : Ctx) : Nat := (c.record.extractLsb' 448 10).toNat
def Ctx.keycnt (c : Ctx) : Nat := (c.record.extractLsb' 458 10).toNat
def Ctx.msixBase (c : Ctx) : Nat := (c.record.extractLsb' 468 12).toNat
def Ctx.nmsix (c : Ctx) : Nat := (c.record.extractLsb' 480 3).toNat
def Ctx.peer (c : Ctx) (i : Nat) : Nat := (c.record.extractLsb' (512 + 10 * i) 10).toNat
def Ctx.peerv (c : Ctx) (i : Nat) : Bool := c.record.getLsbD (592 + i)
/-- The record with another STATE. -/
def Ctx.setState (c : Ctx) (n : Nat) : Ctx :=
  { c with record := (c.record &&& ~~~(0xF : BitVec 1024)) ||| BitVec.ofNat 1024 (n % 16) }

def ctxFree : Nat := 0
def ctxBuilt : Nat := 1
def ctxResident : Nat := 2
def ctxRunning : Nat := 3
def ctxSuspended : Nat := 4
def ctxHold : Nat := 5
def ctxClosing : Nat := 6

/-! ## Translation (R282 to R284) -/

/-- Where a walk ends: a leaf and where it stands in memory, no leaf, or a malformed entry. -/
inductive Walk where
  | leaf (pte : BitVec 128) (at_ : Nat)
  | none
  | bad
deriving DecidableEq, Repr

def pteP (e : BitVec 128) : Bool := e.getLsbD 0
def pteSize (e : BitVec 128) : Nat := (e.extractLsb' 1 2).toNat
def pteLoc (e : BitVec 128) : Nat := (e.extractLsb' 3 2).toNat
def ptePin (e : BitVec 128) : Bool := e.getLsbD 7
def pteMig (e : BitVec 128) : Bool := e.getLsbD 8
def ptePa (e : BitVec 128) : Nat := (e.extractLsb' 16 52).toNat
def pteTag (e : BitVec 128) : BitVec 16 := e.extractLsb' 68 16
def pteKey (e : BitVec 128) : Nat := (e.extractLsb' 84 10).toNat
def ptePdue (e : BitVec 128) : BitVec 20 := e.extractLsb' 94 20
/-- Bytes of a page of SIZE 1, 2 or 3 (R283). -/
def pageBytes (size : Nat) : Nat := if size = 1 then 2 ^ 16 else if size = 2 then 2 ^ 21 else 2 ^ 30

/-- Where the page of a leaf begins: for a peer's page the peer and the offset in its exported window (R283). -/
def pteBase (e : BitVec 128) : Nat :=
  if pteLoc e = 3 then ptePa e / 2 ^ 34 * 2 ^ 44 + ptePa e % 2 ^ 28 * 2 ^ 16 else ptePa e

/-- PA bits of a leaf that must be zero: those below its page, and bits [33:28] of a peer's (R283, R284; DEDUCED, log 86). -/
def pteAligned (e : BitVec 128) : Bool :=
  pteBase e % pageBytes (pteSize e) = 0 && (pteLoc e ≠ 3 || ptePa e / 2 ^ 28 % 2 ^ 6 = 0)

/-- The levels of a walk below and with the root: index shift, index bits, leaf SIZE allowed (0: none), root (R282). -/
def walkLevels : List (Nat × Nat × Nat × Bool) :=
  [(48, 8, 0, true), (39, 9, 0, false), (30, 9, 3, false), (21, 9, 2, false), (16, 5, 1, false)]

def walkFrom (s : State) (va : Nat) : List (Nat × Nat × Nat × Bool) → Nat → Walk
  | [], _ => .none
  | (sh, bits, leaf, root) :: rest, node =>
    let at_ := node + (va >>> sh) % 2 ^ bits * 16
    let e : BitVec 128 := wordOf 128 (s.mem.read at_ 16)
    if e.extractLsb' 12 4 ≠ 0 || e.extractLsb' 114 14 ≠ 0 then .bad
    else if pteSize e = 0 then
      if pteP e then
        (match rest with
        | [] => .bad
        | (_, b, _, _) :: _ => if ptePa e % (2 ^ b * 16) = 0 then walkFrom s va rest (ptePa e) else .bad)
      else if root || rest.isEmpty then .none else .bad
    else if pteSize e ≠ leaf || !pteAligned e then .bad
    else if pteLoc e = 0 && pteKey e ≠ 0 && !s.keys.has (pteKey e) then .bad
    else .leaf e at_

/-- The walk of a local VA. -/
def State.walk (s : State) (va : Nat) : Walk := walkFrom s va walkLevels s.ptRoot

/-- Where a byte is: present at LOC and physical address, on a page that is not present, or behind a malformed entry. -/
inductive Where where
  | at_ (loc pa : Nat)
  | absent
  | bad
deriving DecidableEq, Repr

def State.locate (s : State) (va : Nat) : Where :=
  match s.walk va with
  | .leaf e _ => if pteP e then .at_ (pteLoc e) (pteBase e + va % pageBytes (pteSize e)) else .absent
  | .none => .absent
  | .bad => .bad

/-- The tag of the page of a local VA; 0 where no leaf exists (R286). -/
def State.tagOf (s : State) (va : Nat) : BitVec 16 :=
  match s.walk va with
  | .leaf e _ => pteTag e
  | _ => 0

/-! ## Bytes of global memory by VA -/

/-- What a read of global memory meets. -/
inductive Got where
  | bytes (bs : List Byte)
  | absent (va : Nat)
  | dataError (va : Nat)
deriving DecidableEq, Repr

/-- The pieces of [va, va + n) that do not cross a 64 KiB boundary. -/
def granules : Nat → Nat → Nat → List (Nat × Nat)
  | 0, _, _ => []
  | k + 1, va, n =>
    let m := min n (65536 - va % 65536)
    if n = 0 then [] else (va, m) :: granules k (va + m) (n - m)

/-- Where a page of LOC 1 to 3 stands in the memory outside the device: a peer's page apart from host memory (R283; DESIGN CHOICE, log 4). -/
def extAddr (loc pa : Nat) : Nat := if loc = 3 then 2 ^ 63 + pa else pa

/-- Bytes at a physical place: LPDDR6 of the device for LOC 0, else the memory outside it (R283). -/
def State.readPa (s : State) (loc pa n : Nat) : List Byte :=
  if loc = 0 then s.mem.read pa n else s.hostMem.read (extAddr loc pa) n

/-- An uncorrectable error in [pa, pa + n) (R414): marks are kept by 8-byte word, 1 correctable, 2 uncorrectable. -/
def State.eccBad (s : State) (pa n : Nat) : Bool :=
  s.ecc.any (fun e => e.2 == 2 && e.1 * 8 < pa + n && pa < e.1 * 8 + 8)

/-- Where the marks of an LM word stand among those of State.ecc: above every physical address (DESIGN CHOICE, log 88). -/
def lmPa (cc off : Nat) : Nat := 2 ^ 60 + cc * 2 ^ 18 + off

/-- An uncorrectable error in [off, off + n) of an LM (R414). -/
def State.lmBad (s : State) (cc off n : Nat) : Bool := s.eccBad (lmPa cc off) n

/-- Marks of the words that a write covers end. -/
def State.mended (s : State) (pa n : Nat) : State := { s with ecc := s.ecc.filter (fun e => !(pa ≤ e.1 * 8 && e.1 * 8 + 8 ≤ pa + n)) }

/-- A read within one granule. -/
def State.readPiece (s : State) (va n : Nat) : Got :=
  match s.locate va with
  | .absent => .absent va
  | .bad => .dataError va
  | .at_ loc pa =>
    if loc = 0 && s.eccBad pa n then .dataError va else .bytes (s.readPa loc pa n)

/-- A read of n bytes at a local VA: the first page or word that stops it, or the bytes. -/
def State.readVa (s : State) (va n : Nat) : Got :=
  (granules (n / 65536 + 2) va n).foldl (fun acc p =>
    match acc with
    | .bytes bs => (match s.readPiece p.1 p.2 with | .bytes b => .bytes (bs ++ b) | g => g)
    | g => g) (.bytes [])

/-- The key of a 128-byte granule, for reservations (R149): by physical place of global memory, or by LM offset. -/
def globKey (loc pa : Nat) : Nat := 2 * (loc * 2 ^ 50 + pa / 128)
def lmKey (cc off : Nat) : Nat := 2 * (cc * 2048 + off / 128) + 1

/-- Reservations of one granule lost to a write (R149). -/
def State.loseResv (s : State) (key : Nat) : State :=
  let s := if s.farResv.isEmpty then s else { s with farResv := s.farResv.filter (fun r => r.2.2 != key) }
  if s.threads.any (fun e => e.2.resv == some key) then
    { s with threads := s.threads.mapV (fun _ t => if t.resv == some key then { t with resv := none } else t) }
  else s

/-- The granules that [a, a + n) touches. -/
def lines (a n : Nat) : List Nat := (List.range ((a % 128 + n + 127) / 128)).map (fun i => a / 128 + i)

/-- Bytes written at a physical place: reservations and cached clearance words of those bytes are lost (R149, R288). -/
def State.writePa (s : State) (loc pa : Nat) (bs : List Byte) : State :=
  let s1 := if loc = 0 then { s.mended pa bs.length with mem := s.mem.write pa bs }
    else { s with hostMem := s.hostMem.write (extAddr loc pa) bs }
  let s2 := if s1.cores.any (fun c => c.2.clr.any (fun w => w.addr < pa + bs.length && pa < w.addr + 8)) then
      { s1 with cores := s1.cores.mapV (fun _ c =>
          { c with clr := c.clr.filter (fun w => !(w.addr < pa + bs.length && pa < w.addr + 8)) }) }
    else s1
  (lines pa bs.length).foldl (fun s l => s.loseResv (globKey loc (l * 128))) s2

/-- A write within one granule; none where no page stands there or its entry is malformed. -/
def State.writePiece (s : State) (va : Nat) (bs : List Byte) : Option State :=
  match s.locate va with
  | .at_ loc pa => some (s.writePa loc pa bs)
  | _ => none

/-- Bytes written at a local VA; bytes on pages that are not present are dropped. -/
def State.writeVa (s : State) (va : Nat) (bs : List Byte) : State :=
  (granules (bs.length / 65536 + 2) va bs.length).foldl (fun s p =>
    (s.writePiece p.1 ((bs.drop (p.1 - va)).take p.2)).getD s) s

/-- Whether every byte of [va, va + n) is present. -/
def State.present (s : State) (va n : Nat) : Bool :=
  (granules (n / 65536 + 2) va n).all (fun p => match s.locate p.1 with | .at_ _ _ => true | _ => false)

/-! ## How a bundle ends -/

/-- The bundle parks: it stays where it is and waits (R98, R100). -/
def State.park (s : State) (w : Wait) : State :=
  { s.setMe { s.me with wait := some w } with issue := .parked }

/-- The bundle raises a trap before any effect. -/
def State.trap (s : State) (t : Trap) : State := { s with issue := .trapped t }

/-- An instruction that ends with its effect. -/
def done (s : State) : Res := .next s

end Sys2Proof.Machine
end

