-- ==== Sys2Proof/Machine/Operands.lean ====
section
/-! DEFINITION. The operand forms: sign extension of immediates, elements and lanes of vector registers (R49, R172), and
masked writes. -/

namespace Sys2Proof.Machine

/-- A signed immediate as 64 bits. -/
def sx {n : Nat} (b : BitVec n) : Word := b.signExtend 64
/-- A zero-extended immediate. -/
def zx {n : Nat} (b : BitVec n) : Word := b.zeroExtend 64

/-! ## Lanes and elements -/

def laneGet (v : VReg) (l : Nat) : Lane := v.extractLsb' (32 * l) 32

/-- Element i of a register read as type ty (R49): its w bits, unsigned. -/
def elemGet (t : Ty) (v : VReg) (i : Nat) : Nat := (v.extractLsb' (t.cell * i) t.width).toNat

/-- A register built from n elements of cells of c bits, each value w bits wide; the rest of every cell is 0. -/
def ofCells (c w : Nat) (xs : List Nat) : VReg :=
  BitVec.ofNat 512 (xs.foldr (fun x acc => x % 2 ^ w + acc * 2 ^ c) 0)

/-- A register from its elements in rising order (R49). -/
def ofElems (t : Ty) (xs : List Nat) : VReg := ofCells t.cell t.width xs
/-- All elements of a register. -/
def elems (t : Ty) (v : VReg) : List Nat := (List.range t.count).map (elemGet t v)

/-- A register from its lanes. -/
def ofLanes (f : Nat → Nat) : VReg := ofCells 32 32 ((List.range 16).map f)

/-- The elements of one lane: how many, and the lane of an element. -/
def perLane (t : Ty) : Nat := t.count / 16
def laneOf (t : Ty) (i : Nat) : Nat := i / perLane t

/-- The bits of the lanes a mask names. -/
def laneBits (q : BitVec 16) : VReg := ofLanes (fun l => if q.getLsbD l then 0xFFFF_FFFF else 0)

/-- vwrite of R172: active lanes take the new value, inactive ones keep the old one or become 0. -/
def mergeLanes (q : BitVec 16) (zero : Bool) (old new : VReg) : VReg :=
  (new &&& laneBits q) ||| (if zero then 0 else old &&& ~~~(laneBits q))

/-- The bits of VD that a masked write changes. -/
def writtenBits (q : BitVec 16) (zero : Bool) : VReg := if zero then ~~~0 else laneBits q

/-- Masked write of a vector register by the bundle in issue. -/
def State.wvm (s : State) (m : VMask) (vd : VRegF) (new : VReg) : State :=
  s.wv vd (mergeLanes (s.rq m.q) m.zero (s.rv vd) new)

/-- Masked write of latency L turns. -/
def State.wvmLate (s : State) (m : VMask) (vd : VRegF) (new : VReg) (turns : Nat) : State :=
  s.wvLate vd (new &&& laneBits (s.rq m.q)) (writtenBits (s.rq m.q) m.zero) turns

/-! ## Results by element -/

/-- One element operation over the active lanes: codes and the union of the flags of active lanes (R58, R172). -/
def mapElems (t : Ty) (q : BitVec 16) (f : Nat → Nat × Fl) : VReg × Fl :=
  let rs := (List.range t.count).map (fun i => if q.getLsbD (laneOf t i) then f i else (0, 0))
  (ofElems t (rs.map (·.1)), rs.foldl (fun a r => a ||| r.2) 0)

/-- The same without flags. -/
def mapPlain (t : Ty) (f : Nat → Nat) : VReg := ofElems t ((List.range t.count).map f)

/-! ## Draws (R73 to R75) -/

/-- %rctr advanced once; wrapping sets RNGWRAP (R74, R75). -/
def State.advance (s : State) : State :=
  let n := s.me.rctr + 1
  let t := { s.me with rctr := n }
  s.setMe (if n = 0 then t.stick s.cycle (· ||| statRngWrap) else t)

/-- The random bits of element e of lane l under the thread's stream (R52, R74). -/
def State.bits (s : State) (l e : Nat) : Nat := drawBits (laneDraw s.me.rkey s.me.rctr l) e

end Sys2Proof.Machine
end

