-- ==== Sys2Proof/Machine/Report.lean ====
section
/-! DEFINITION. Reports of the device to the host: the mailbox event area (R416), MSI-X vectors, error records (R415), and
page-in requests to the firmware memory manager (R291). -/

namespace Sys2Proof.Machine

/-- The messages of the device, by the number that Config.mailboxCode gives a CODE (DESIGN CHOICE, log 13). -/
inductive MsgKind where
  | response | contextState | contextField | faultRecord | errorRecord | linkState | gangReport | admission | completion
  | hostAccess | malformedPage | runtimePost | heldWrite | syncLoss | power | migration | bootRecord | unknown
deriving DecidableEq, Repr

def MsgKind.num : MsgKind → Nat
  | .response => 0 | .contextState => 1 | .contextField => 2 | .faultRecord => 3 | .errorRecord => 4 | .linkState => 5
  | .gangReport => 6 | .admission => 7 | .completion => 8 | .hostAccess => 9 | .malformedPage => 10 | .runtimePost => 11
  | .heldWrite => 12 | .syncLoss => 13 | .power => 14 | .migration => 15 | .bootRecord => 16 | .unknown => 17

/-- A 64-byte mailbox message: CODE, TAG, STATUS, operands from byte 8 (R416). -/
def message (code tag : BitVec 16) (status : Nat) (body : List Byte) : BitVec 512 :=
  BitVec.ofNat 512 (code.toNat + tag.toNat * 2 ^ 16 + status % 2 ^ 32 * 2 ^ 32 + leNat (body.take 56) * 2 ^ 64)

/-- The area takes nothing: 256 entries are not returned (R416). -/
def State.areaFull (s : State) : Bool := s.returned + 256 ≤ s.writeIdx

/-- One entry written, the write index advanced, MSI-X vector 0 raised. -/
def State.postEntry (s : State) (m : BitVec 512) : State :=
  { s with
    hostMem := s.hostMem.write (s.areaBase + s.writeIdx % 256 * 64) (leBytes 64 m.toNat)
    writeIdx := s.writeIdx + 1
    out := s.out ++ [.msix 0] }

/-- A message that waits while the area is full, in order (R416). -/
def State.post (s : State) (m : BitVec 512) : State :=
  if s.areaFull || !s.heldEvents.isEmpty then { s with heldEvents := s.heldEvents ++ [m] } else s.postEntry m

/-- A report of one kind. -/
def State.report (s : State) (k : MsgKind) (body : List Byte) : State := s.post (message (Config.mailboxCode k.num) 0 0 body)

/-- Held messages posted, in order, as far as the area takes them. -/
def State.drainHeld : Nat → State → State
  | 0, s => s
  | n + 1, s =>
    match s.heldEvents with
    | [] => s
    | m :: rest => if s.areaFull then s else State.drainHeld n { s.postEntry m with heldEvents := rest }

/-- The response to a command: STATUS 0 done, 1 refused, 2 unknown code, 3 exhausted (R416). -/
def State.respond (s : State) (tag : BitVec 16) (status : Nat) (body : List Byte) : State :=
  s.post (message (Config.mailboxCode MsgKind.response.num) tag status body)

/-- The classes of an error record (R415). -/
def errCorrectable : Nat := 0
def errAccess : Nat := 1
def errScrub : Nat := 2
def errLink : Nat := 3
def errBoot : Nat := 4

/-- The unit an error record names: the home slice of a line of device memory, or 128 more than the core whose LM it is
(R415 numbers no units; DESIGN CHOICE, log 90). -/
def errUnit (pa : Nat) : Nat :=
  if 2 ^ 60 ≤ pa then 128 + (pa - 2 ^ 60) / 2 ^ 18 % 1024 else Config.sliceOf (pa / 256) % 128

/-- Words of State.ecc in ascending order of unit, as the errors of one cycle are posted (R415). -/
def insertUnit (e : Nat × Nat) : List (Nat × Nat) → List (Nat × Nat)
  | [] => [e]
  | x :: t => if errUnit (e.1 * 8) ≤ errUnit (x.1 * 8) then e :: x :: t else x :: insertUnit e t
def byUnit (l : List (Nat × Nat)) : List (Nat × Nat) := l.foldr insertUnit []

/-- An error record (R415): correctable ones are counted and dropped while the area is full. -/
def State.errorRecord (s : State) (cls unit pa ctx : Nat) : State :=
  let body := leBytes 8 s.tick ++ leBytes 2 cls ++ leBytes 2 unit ++ leBytes 4 0 ++ leBytes 8 pa ++ leBytes 2 ctx ++ leBytes 6 0
  if cls = errCorrectable && s.areaFull then { s with droppedEvents := s.droppedEvents + 1 }
  else s.report .errorRecord body

/-- An access to [pa, pa + n) corrects the words there with a correctable error, each counted and reported (R414, R415). -/
def State.correct (s : State) (ctx pa n : Nat) : State :=
  let hit (e : Nat × Nat) : Bool := e.2 == 1 && decide (e.1 * 8 < pa + n) && decide (pa < e.1 * 8 + 8)
  let found := s.ecc.filter hit
  if found.isEmpty then s else
  (byUnit found).foldl (fun s e => s.errorRecord errCorrectable (errUnit (e.1 * 8)) (e.1 * 8) ctx) { s with ecc := s.ecc.filter (fun e => !hit e) }
def State.correctVa (s : State) (ctx va n : Nat) : State :=
  match s.locate va with
  | .at_ 0 pa => s.correct ctx pa n
  | _ => s

/-- An access that met uncorrectable data at a VA: the record, or the report of a malformed entry (R141, R284, R415). A page that
stands nowhere, or on another device, has no physical address here (DESIGN CHOICE, log 90). -/
def State.reportData (s : State) (ctx va : Nat) : State :=
  if 2 ^ 62 ≤ va then s.errorRecord errAccess 0 0 ctx
  else if 2 ^ 60 ≤ va then s.errorRecord errAccess (errUnit va) va ctx else
  match s.locate va with
  | .bad => s.report .malformedPage (leBytes 8 va)
  | .at_ _ pa => s.errorRecord errAccess (errUnit pa) pa ctx
  | .absent => s.errorRecord errAccess 0 0 ctx

/-- The malformed entries that the device itself meets in [va, va + n), reported (R284). -/
def State.noteBad (s : State) (va n : Nat) : State :=
  (granules (n / 65536 + 2) va n).foldl (fun s p => if s.locate p.1 = .bad then s.reportData 0xFFFF p.1 else s) s

/-- An MSI-X vector of a context (R302, R328). -/
def State.msix (s : State) (ctx i : Nat) : State :=
  let c := s.ctx ctx
  { s with out := s.out ++ [.msix (c.msixBase + min i c.nmsix)] }

/-- What asks for a page where no core does: the dispatcher, a completion, a far request served here
(DESIGN CHOICE, log 62). -/
def noCore : Nat := 2 ^ 64

/-- The page of a VA asked for at the memory manager, for the core of a core-context (R291, R140). -/
def State.faultReq (s : State) (va cc : Nat) : State :=
  let q := (va / 65536 * 65536, cc)
  if s.faultReqs.contains q then s else { s with faultReqs := s.faultReqs ++ [q] }

end Sys2Proof.Machine
end

