-- ==== Sys2Proof/Machine/Lines.lean ====
section
/-! DEFINITION. Lines (10_line.md): due times, victims, shares and trust of the L1s and L2 slices, update-only lines and
their combination at the home, and the recall of stash copies. No result depends on the residency data (R256). -/

namespace Sys2Proof.Machine

/-! ## Due times (R260 to R263) -/

/-- The number of a 128-byte line of physical memory. -/
def lineKey (loc pa : Nat) : Nat := loc * 2 ^ 45 + pa / 128

def ctlDefd (w : Word) : Nat := (w.extractLsb' 0 18).toNat
def ctlAge (w : Word) : Nat := (w.extractLsb' 20 18).toNat

/-- now >> 8, modulo 2^20. -/
def State.now8 (s : State) : BitVec 20 := BitVec.ofNat 20 (s.tick / 256)

/-- The distance D of a next-use field (R260). -/
def reuse (nd : BitVec 6) (defd : Nat) : Nat :=
  let k := nd.toNat
  if k = 0 then 0 else if 62 ≤ k then defd else (4 + (k - 1) % 4) * 2 ^ ((k - 1) / 4)

/-- due_of (R261). -/
def dueOf (now d rper t : Nat) : BitVec 20 := BitVec.ofNat 20 ((now + min (d * 2 ^ rper * t) ((2 ^ 19 - 1) * 256)) / 256)

/-- earlier (R261). -/
def earlier (a b : BitVec 20) : Bool := let d := (b - a).toNat; 1 ≤ d && d < 2 ^ 19

/-- The due an access stores at a level, with the fill of ND 0 already expired (R262). -/
def State.dueFor (s : State) (ctl : Word) (nd : BitVec 6) (rper t : Nat) : BitVec 20 :=
  if nd = 0 then s.now8 - BitVec.ofNat 20 (ctlAge ctl) - 1 else dueOf s.tick (reuse nd (ctlDefd ctl)) rper t

/-- Expired (R263). -/
def State.expired (s : State) (ctl : Word) (d : BitVec 20) : Bool := earlier d (s.now8 - BitVec.ofNat 20 (ctlAge ctl))

/-! ## Tenant words (R269 to R271) -/

def twTlog (w : Word) : Nat := (w.extractLsb' 0 3).toNat
def twShare (w : Word) : Nat := (w.extractLsb' 8 8).toNat
def twIns (w : Word) : Nat := (w.extractLsb' 16 16).toNat
def twHon (w : Word) : Nat := (w.extractLsb' 32 16).toNat
def twExp (w : Word) : Nat := (w.extractLsb' 48 16).toNat
def twMake (tlog share ins hon exp : Nat) : Word :=
  BitVec.ofNat 64 (tlog + share * 2 ^ 8 + ins % 2 ^ 16 * 2 ^ 16 + min hon 65535 * 2 ^ 32 + min exp 65535 * 2 ^ 48)

def twHit (w : Word) : Word := twMake (twTlog w) (twShare w) (twIns w) (twHon w + 1) (twExp w)
def twExpired (w : Word) : Word := twMake (twTlog w) (twShare w) (twIns w) (twHon w) (twExp w + 1)
def twFill (w : Word) : Word := twMake (twTlog w) (twShare w) (twIns w + 1) (twHon w) (twExp w)

/-- TLOG after a trust update, from the counts held (R271). -/
def twTrust (w : Word) : Nat :=
  let n := twHon w + twExp w
  let t := twTlog w
  if n = 0 then t else if 2 * twHon w < n then min (t + 1) 4 else if 7 * n < 8 * twHon w then t - 1 else t

/-- A fill counted for a tenant in a cycle. When INS wraps, the new TLOG is found from the counts then held, they are
cleared, and entry 64 + t of the table holds the new TLOG with its cycle until the next cycle, where it applies (R271). -/
def fillCount (words : AMap Word) (cycle t : Nat) : AMap Word :=
  let w := twFill (words.get 0 t)
  if twIns w = 0 then
    (words.put t (twMake (twTlog w) (twShare w) 0 0 0)).put (64 + t) (BitVec.ofNat 64 ((cycle + 1) * 8 + twTrust w))
  else words.put t w
/-- A new TLOG waits for its cycle. -/
def trustDue (words : AMap Word) (cycle t : Nat) : Bool :=
  let w := (words.get 0 (64 + t)).toNat
  decide (w ≠ 0) && decide (w / 8 ≤ cycle)
/-- The new TLOG taken over. -/
def trustTake (words : AMap Word) (t : Nat) : AMap Word :=
  let w := words.get 0 t
  (words.put t (twMake ((words.get 0 (64 + t)).toNat % 8) (twShare w) (twIns w) (twHon w) (twExp w))).del (64 + t)

/-! ## Sets and victims (R264 to R266) -/

abbrev Ways := List (Option Line)

/-- The line at way w touched; every other valid line ages (R264). -/
def waysTouch (ws : Ways) (w : Nat) : Ways :=
  ws.mapIdx (fun i l => l.map (fun l => if i = w then { l with rcy := 0 } else { l with rcy := if l.rcy = 3 then 3 else l.rcy + 1 }))

/-- The line of a set that a test holds for, with its way. -/
def waysFind (ws : Ways) (addr : Nat) : Option (Nat × Line) :=
  (ws.zipIdx.find? (fun e => match e.1 with | some l => l.addr == addr | none => false)).bind (fun e => e.1.map (fun l => (e.2, l)))

/-- Of two candidates, whether the second goes before the first: `far` asks for the furthest DUE, else the earliest;
ties go to the larger RCY, then to the lowest way. -/
def goesFirst (far : Bool) (x y : Nat × Line) : Bool :=
  if x.2.due = y.2.due then decide (x.2.rcy < y.2.rcy)
  else if far then earlier x.2.due y.2.due else earlier y.2.due x.2.due

def pickBest (far : Bool) (c : List (Nat × Line)) : Option Nat :=
  (c.foldl (fun b y => match b with | none => some y | some x => if goesFirst far x y then some y else some x) none).map (·.1)

/-- The way that makes room (R265); none when every way is pinned. -/
def victim (expired : BitVec 20 → Bool) (above : Nat → Bool) (ws : Ways) : Option Nat :=
  match ws.findIdx? (·.isNone) with
  | some w => some w
  | none =>
    let c := (ws.zipIdx.filterMap (fun e => e.1.map (fun l => (e.2, l)))).filter (fun e => e.2.pin = 0)
    let e := c.filter (fun x => expired x.2.due)
    let a := c.filter (fun x => match x.2.ten with | some t => above t | none => false)
    if e ≠ [] then pickBest false e else if a ≠ [] then pickBest true a else pickBest true c

/-- A set changed in a cycle; the sets as they stood at its start are kept (R266). -/
def Cache.setWays (c : Cache) (cycle set : Nat) (ws : Ways) : Cache :=
  let c := if c.startAt = cycle then c else { c with start := c.sets, startAt := cycle }
  { c with sets := c.sets.put set ws }

/-- The sets a victim choice of a cycle looks at. -/
def Cache.atStart (c : Cache) (cycle : Nat) : AMap Ways := if c.startAt = cycle then c.start else c.sets

/-- The ways a victim choice sees: those that still hold the line they held when the cycle began show its values of then. -/
def seenWays (now start : Ways) : Ways :=
  now.mapIdx (fun i l =>
    match l, (start[i]?).join with
    | some x, some y => if x.addr = y.addr && (x.st = 4) == (y.st = 4) then some { x with due := y.due, rcy := y.rcy } else some x
    | l, _ => l)

/-- Lines of a tenant in the sets of a cache. -/
def heldIn (sets : AMap Ways) (ten : Nat) : Nat :=
  (sets.map (fun e => (e.2.filter (fun l => match l with | some l => l.ten == some ten | none => false)).length)).sum

/-- Above its share (R270), by the occupancy at the start of the cycle (R266). -/
def aboveShare (sets : AMap Ways) (words : AMap Word) (cap ten : Nat) : Bool :=
  let sh := twShare (words.get 0 ten)
  sh ≠ 0 && sh * cap / 256 < heldIn sets ten

/-- Claims of a set found expired are counted and cleared (R270). -/
def settleClaims (expired : BitVec 20 → Bool) (ws : Ways) (words : AMap Word) : Ways × AMap Word :=
  ws.foldr (fun l acc =>
    match l with
    | some l =>
      if l.claim && expired l.due then
        (some { l with claim := false } :: acc.1,
          match l.ten with | some t => acc.2.put t (twExpired (acc.2.get 0 t)) | none => acc.2)
      else (some l :: acc.1, acc.2)
    | none => (none :: acc.1, acc.2)) ([], words)

/-- A hit: recency, the claim counted once, DUE refreshed where the level does so (R262, R264, R270). -/
def cacheHit (cycle : Nat) (now8 : BitVec 20) (c : Cache) (words : AMap Word) (set w : Nat) (l : Line) (refresh : Option (BitVec 20))
    (st : Nat) : Cache × AMap Word :=
  let ws := c.sets.get [] set
  let words := match l.ten with
    | some t => if l.claim && !earlier l.due now8 then words.put t (twHit (words.get 0 t)) else words
    | none => words
  let l := { l with claim := false, due := refresh.getD l.due, st := st }
  (c.setWays cycle set (waysTouch (ws.set w (some l)) w), words)

/-- The way a fill of a set takes. -/
def Cache.room (c : Cache) (cycle : Nat) (expired : BitVec 20 → Bool) (cap ways : Nat) (words : AMap Word) (set : Nat) : Option Nat :=
  let old := c.atStart cycle
  victim expired (aboveShare old words cap) (seenWays (c.sets.get (List.replicate ways none) set) (old.get [] set))

/-- A fill: victim, claims, occupancy and the tenant's fill count; none where every way is pinned. The line that made
room is returned. -/
def cacheFill (cycle : Nat) (expired : BitVec 20 → Bool) (cap ways : Nat) (c : Cache) (words : AMap Word) (set : Nat) (l : Line) :
    Option (Cache × AMap Word × Option Line) :=
  let ws0 := c.sets.get (List.replicate ways none) set
  match c.room cycle expired cap ways words set with
  | none => none
  | some w =>
    let full := ws0.all (·.isSome)
    let (ws, words) := if full then settleClaims expired ws0 words else (ws0, words)
    let out := (ws0.getD w none)
    let words := match l.ten with | some t => fillCount words cycle t | none => words
    some (c.setWays cycle set (waysTouch (ws.set w (some l)) w), words, out)

/-- A line dropped from a cache. -/
def Cache.drop (c : Cache) (cycle set addr : Nat) : Cache :=
  match c.sets.find? (fun e => e.1 == set) with
  | none => c
  | some (_, ws) => c.setWays cycle set (ws.map (fun l => match l with | some l => if l.addr = addr then none else some l | none => none))

/-- Set of a line in an L1 (512 lines, 4 ways) and in an L2 slice (24,576 lines, 16 ways; DESIGN CHOICE, log 10). -/
def l1Set (key : Nat) : Nat := key % 128
def l2Set (key : Nat) : Nat := key % 1536

/-! ## Update-only lines (R273 to R275) -/

/-- Combination of one word of a U line with memory (R273): kinds 1, 2 add; 3, 4 min signed and unsigned, 5, 6 max, of
32 bits; 7 to 10 the same of 64 bits. -/
def combine (kind : Nat) (a b : BitVec 64) : BitVec 64 :=
  let a32 := a.truncate 32
  let b32 := b.truncate 32
  let pick (c : Bool) : BitVec 64 := if c then a else b
  match kind with
  | 1 => (a32 + b32).zeroExtend 64
  | 2 => a + b
  | 3 => pick (a32.slt b32)
  | 4 => pick (a32.ult b32)
  | 5 => pick (b32.slt a32)
  | 6 => pick (b32.ult a32)
  | 7 => pick (a.slt b)
  | 8 => pick (a.ult b)
  | 9 => pick (b.slt a)
  | 10 => pick (b.ult a)
  | _ => b

/-- Bytes of an operand of a kind. -/
def kindBytes (kind : Nat) : Nat := if kind = 1 || (3 ≤ kind && kind ≤ 6) then 4 else 8

/-! ## Home slices -/

/-- The home slice of a line, hashed in units of 256 bytes, on a die-local page among the 32 slices of its die (R10). -/
def State.sliceFor (s : State) (va key : Nat) : Nat :=
  match s.walk va with
  | .leaf e _ =>
    if e.getLsbD 9 then (e.extractLsb' 10 2).toNat * 32 + Config.sliceOf (key / 2) % 32 else Config.sliceOf (key / 2) % 128
  | _ => Config.sliceOf (key / 2) % 128

def State.slice (s : State) (n : Nat) : Cache := s.slices.get {} n
def State.glade (s : State) (n : Nat) : AMap Word := s.glades.get [] n

/-- The L2 line of a VA changed, where the L2 holds it. -/
def State.l2Mark (s : State) (va : Nat) (f : Line → Line) : State :=
  match s.locate va with
  | .at_ loc pa =>
    let key := lineKey loc pa
    let sl := s.sliceFor va key
    let c := s.slice sl
    match waysFind (c.sets.get [] (l2Set key)) key with
    | some (w, l) =>
      { s with slices := s.slices.put sl (c.setWays s.cycle (l2Set key) ((c.sets.get [] (l2Set key)).set w (some (f l)))) }
    | none => s
  | _ => s

/-- Bits A and D of the page of a VA, set by the walker, and the manager's record of the walk (R283, R294). -/
def State.markPage (s : State) (va : Nat) (write : Bool) : State :=
  match s.walk va with
  | .leaf e at_ =>
    let s := { s with walks := s.walks.put at_ s.tick }
    let b := ((e ||| 0x20) ||| (if write then 0x40 else 0)).extractLsb' 0 8
    if b = e.extractLsb' 0 8 then s else { s with mem := s.mem.put at_ b }
  | _ => s

/-- PDUE of the page of a VA, at the eviction of a line (R293). -/
def State.pageDue (s : State) (va : Nat) (d : BitVec 20) : State :=
  match s.walk va with
  | .leaf e at_ =>
    if earlier (ptePdue e) d then
      let e' : BitVec 128 := (e &&& ~~~((0xFFFFF : BitVec 128) <<< 94)) ||| (d.zeroExtend 128 <<< 94)
      { s with mem := s.mem.write at_ (leBytes 16 e'.toNat) }
    else s
  | _ => s

/-- The S copies of a line in the L1s of all cores but one, invalidated, and the cached clearance words of that line, which its home
tracks as it tracks the L1s (R288). -/
def State.dropCopies (s : State) (but : Option Nat) (key : Nat) : State :=
  let word (e : Clr) : Bool := e.addr / 128 == key % 2 ^ 45
  if s.cores.any (fun c => c.2.l1.sets.any (fun e => e.1 == l1Set key) || c.2.clr.any word) then
    { s with cores := s.cores.mapV (fun n c =>
        if but = some n then c else
        let c := { c with clr := c.clr.filter (fun e => !word e) }
        if c.ulines.has key then c else { c with l1 := c.l1.drop s.cycle (l1Set key) key }) }
  else s

/-! ## U copies returned (R273, R274, R278) -/

/-- Bytes combined at the home; an uncorrectable word is left and reported (R141). -/
def State.combineBytes (s : State) (u : ULine) (off n : Nat) (f : Nat → Nat) : State :=
  if u.loc = 0 && s.eccBad (u.pa + off) n then s.reportData u.ctx (u.va / 128 * 128 + off)
  else s.writePa u.loc (u.pa + off) (leBytes n (f (leNat (s.readPa u.loc (u.pa + off) n))))

/-- A returned U line combined at the home (R273). -/
def State.combineLine (s : State) (u : ULine) : State :=
  let s := u.words.foldl (fun s e => s.combineBytes u (4 * e.1) (kindBytes e.2.kind) (fun old => (combine e.2.kind (BitVec.ofNat 64 old) e.2.part).toNat)) s
  u.cells.foldl (fun s e => s.combineBytes u (64 * e.1) 64 (fun old =>
    (cellAdd (BitVec.ofNat 512 old) (if e.2 = cellNan then none else some e.2.toInt)).toNat)) s

/-- The U copy of one core returned to the home: the line is dirty there, and its holder leaves the directory. -/
def State.returnU (s : State) (pc key : Nat) : State :=
  match (s.core pc).ulines.find? (fun e => e.1 == key) with
  | none => s
  | some (_, u) =>
    let s := ((s.combineLine u).dropCopies (some pc) key).l2Mark u.va (fun l => { l with st := 3, users := l.users.filter (· != pc) })
    let c := s.core pc
    s.setCore pc { c with ulines := c.ulines.del key, l1 := c.l1.drop s.cycle (l1Set key) key }

/-- Every U copy of a line recalled, in ascending order of physical core (R274). -/
def State.recallU (s : State) (key : Nat) : State :=
  s.cores.foldl (fun s c => if c.2.ulines.has key then s.returnU c.1 key else s) s

/-- Whether any core holds a line in U. -/
def State.heldU (s : State) (key : Nat) : Bool := s.cores.any (fun c => c.2.ulines.has key)

/-! ## Stash copies (R165) -/

/-- The VA range a window binds. -/
def Win.covers (w : Win) (va : Nat) : Bool := w.mapped && w.stash && w.bound ≤ va && va < w.bound + w.gran.toNat * 4096
/-- LM offset of a bound VA. -/
def Win.offset (w : Win) (va : Nat) : Nat := w.lmg.toNat * 4096 + (va - w.bound)

/-- The stash window of a core-context that covers a VA. -/
def CoreCtx.stashOf (c : CoreCtx) (va : Nat) : Option (Nat × Win) := c.wins.find? (fun e => e.2.covers va)

/-- Line i of window w of core-context cc written to memory (its data stays), where its page is present; uncorrectable data in it
is reported and not written (R141). -/
def State.stashWrite (s : State) (cc : Nat) (w : Win) (i : Nat) : State :=
  let va := w.bound + 128 * i
  if s.lmBad cc (w.offset va) 128 then s.reportData (s.kernel (cc / 1024)).ctx va else
  (s.noteBad va 128).writeVa va ((s.coreCtx cc).lm.read (w.offset va) 128)

/-- Line i of window n of core-context cc recalled: a written copy returns its data, and the line leaves the stash. -/
def State.recallStash (s : State) (cc n i : Nat) : State :=
  match (s.coreCtx cc).wins.find? (fun e => e.1 == n) with
  | none => s
  | some (_, w) =>
    match w.lines.find? (fun e => e.1 == i) with
    | none => s
    | some (_, l) =>
      let s := if l.st = 2 then s.stashWrite cc w i else s
      let s := s.l2Mark (w.bound + 128 * i) (fun x => { x with st := if l.st = 2 then 3 else 1, stash := none, due := l.due })
      let c := s.coreCtx cc
      let w := c.wins.get {} n
      s.setCoreCtx cc { c with wins := c.wins.put n { w with lines := w.lines.del i } }

/-- Every stash copy of the line at a physical place, recalled. -/
def State.recallStashes (s : State) (key : Nat) : State :=
  s.ccs.foldl (fun s c =>
    c.2.wins.foldl (fun s w =>
      w.2.lines.foldl (fun s l =>
        match s.locate (w.2.bound + 128 * l.1) with
        | .at_ loc pa => if lineKey loc pa = key then s.recallStash c.1 w.1 l.1 else s
        | _ => s) s) s) s

/-- The copies of a line that its home recalls before it serves another agent: a stash copy first, then U copies. No
line has both: a U grant recalls the stash and a stash fill recalls U. -/
def State.recallLine (s : State) (key : Nat) : State := (s.recallStashes key).recallU key

/-- Before an agent reads or writes [va, va + n): the home recalls every U copy and every stash copy of the lines it
touches (R165, R240, R274). For an XCLR too the U lines come first, so that it clears what they hold (R154; DESIGN CHOICE, log 85). -/
def State.settle (s : State) (va n : Nat) : State :=
  if n = 0 then s else
  (lines va n).foldl (fun s l =>
    match s.locate (l * 128) with
    | .at_ loc pa => s.recallLine (lineKey loc pa)
    | _ => s) s

/-! ## Residency data of the L2 and L1 (R257, R262, R277, R278, R293) -/

/-- The DUE that a stash holding the line at a physical place reports with its recall (R262). -/
def State.stashDue (s : State) (key : Nat) : Option (BitVec 20) :=
  s.ccs.findSome? (fun c => c.2.wins.findSome? (fun w => w.2.lines.findSome? (fun l =>
    match s.locate (w.2.bound + 128 * l.1) with
    | .at_ loc pa => if lineKey loc pa = key then some l.2.due else none
    | _ => none)))

/-- Eviction of an L2 line (R259): L1 copies invalidated, the stash copy recalled with the DUE it reports, U copies combined, PDUE
noted (R262, R293). -/
def State.evictL2 (s : State) (l : Line) : State :=
  ((s.dropCopies none l.addr).recallLine l.addr).pageDue l.va ((s.stashDue l.addr).getD l.due)

/-- What an access asks of a level: the tenant it counts for (none: host or peer), ND, %rper. `joined` says that a
combining switch merged it into a request the home already serves (R276). -/
structure Want where
  ten : Option Nat
  nd : BitVec 6
  rper : Nat
  joined : Bool := false
deriving DecidableEq, Repr

/-- What a host or another device asks (R262). -/
def outsideWant : Want := { ten := none, nd := 63, rper := 0 }

/-- What reaches a home slice: a read; an operation that refreshes DUE and writes nothing (a failing CAS or SC); the grant
of a U line; a write (R262, R278). -/
inductive Reach where | read | touch | grant | write
deriving DecidableEq, Repr

/-- A home slice has served a request for a line in this cycle (R279). -/
def State.serve (s : State) (key : Nat) : State :=
  { s with served := (if s.servedAt = s.cycle then s.served else []) ++ [key], servedAt := s.cycle }
def State.busyLine (s : State) (key : Nat) : Bool := s.servedAt == s.cycle && s.served.contains key

/-- The trust factor of a tenant by its word. -/
def trustOf (words : AMap Word) (ten : Option Nat) : Nat := match ten with | some n => 2 ^ twTlog (words.get 0 n) | none => 1

/-- The way that a fill of the L2 line of va would take, with the line that stands there. -/
def State.l2Room (s : State) (va key : Nat) : Option (Option Line) :=
  let sl := s.sliceFor va key
  let c := s.slice sl
  (c.room s.cycle (s.expired c.ctl) 24576 16 (s.glade (sl / 32)) (l2Set key)).map (fun w => ((c.sets.get [] (l2Set key))[w]?).join)

/-- An access that reaches the home slice of the line of va at (loc, pa) (R262, R278); whether the L2 holds it after. -/
def State.l2Access (s : State) (va loc pa : Nat) (how : Reach) (core : Option Nat) (k : Want) : State × Bool :=
  let key := lineKey loc pa
  let s := if k.joined then s else s.serve key
  let sl := s.sliceFor va key
  let c := s.slice sl
  let words := s.glade (sl / 32)
  let set := l2Set key
  let due := match k.ten with | some _ => s.dueFor c.ctl k.nd k.rper (trustOf words k.ten) | none => dueOf s.tick (ctlDefd c.ctl) 0 1
  let write := how = .write
  let save (s : State) (c : Cache) (words : AMap Word) : State :=
    { s with slices := s.slices.put sl c, glades := s.glades.put (sl / 32) words }
  let join (l : List Nat) : List Nat := match core with | some n => if l.contains n then l else l ++ [n] | none => l
  let enter (l : Line) : Line :=
    match how with
    | .read => { l with sharers := join l.sharers }
    | .touch => l
    | .grant => { l with sharers := [], users := join l.users }
    | .write => { l with sharers := l.sharers.filter (fun n => core == some n), st := 3 }
  let drop (s : State) : State :=
    match how with | .write => s.dropCopies core key | .grant => s.dropCopies none key | _ => s
  match waysFind (c.sets.get [] set) key with
  | some (w, l) =>
    let l := enter l
    if k.joined then (save s (c.setWays s.cycle set ((c.sets.get [] set).set w (some l))) words, true) else
    let (c, words) := cacheHit s.cycle s.now8 c words set w l (if how ≠ .read && k.ten.isSome then some due else none) l.st
    (drop (save s c words), true)
  | none =>
    let s := drop (s.markPage va (how = .write || how = .grant))
    let l : Line := enter { addr := key, va := va, st := if write then 3 else 1, tag := s.tagOf va, ten := k.ten, due := due,
                            claim := k.ten.isSome && 1 ≤ k.nd.toNat && k.nd.toNat ≤ 61 }
    match cacheFill s.cycle (s.expired c.ctl) 24576 16 c words set l with
    | none => (s, false)
    | some (c, words, out) =>
      let s := save s c words
      (match out with | some v => s.evictL2 v | none => s, true)

/-- A line filled into an L1 (R265, R277); a U line that makes room is returned to its home. -/
def State.l1Fill (s : State) (pc : Nat) (l : Line) : State :=
  let p := s.core pc
  match cacheFill s.cycle (s.expired p.l1.ctl) 512 4 p.l1 p.tenants (l1Set l.addr) l with
  | none => s
  | some (c, words, out) =>
    let s := s.setCore pc { p with l1 := c, tenants := words }
    match out with
    | some v => if v.st = 4 then s.returnU pc v.addr else s
    | none => s

/-- The line an access of a core fills into its L1. -/
def State.l1Line (s : State) (pc va key st : Nat) (k : Want) : Line :=
  let p := s.core pc
  { addr := key, va := va, st := st, tag := s.tagOf va, ten := k.ten, due := s.dueFor p.l1.ctl k.nd k.rper (trustOf p.tenants k.ten)
    claim := 1 ≤ k.nd.toNat && k.nd.toNat ≤ 61 }

/-- A hit in an L1, with DUE refreshed or as it was; none where the line does not stand there. -/
def State.l1Hit (s : State) (pc key : Nat) (refresh : Bool) (k : Want) : Option State :=
  let p := s.core pc
  (waysFind (p.l1.sets.get [] (l1Set key)) key).map (fun e =>
    let due := s.dueFor p.l1.ctl k.nd k.rper (trustOf p.tenants k.ten)
    let (c, words) := cacheHit s.cycle s.now8 p.l1 p.tenants (l1Set key) e.1 e.2 (if refresh then some due else none) e.2.st
    s.setCore pc { p with l1 := c, tenants := words })

/-- A load, LR, gather (`refresh`) or PREF of a core that hits or misses in its L1 (R262, R277). -/
def State.l1Load (s : State) (pc va loc pa : Nat) (alloc refresh : Bool) (k : Want) : State :=
  let key := lineKey loc pa
  match s.l1Hit pc key refresh k with
  | some s => s
  | none =>
    let (s, ok) := s.l2Access va loc pa .read (if alloc then some pc else none) k
    if ok && alloc then s.l1Fill pc (s.l1Line pc va key 1 k) else s

/-- A write of a core, or a CAS or SC that writes nothing: an L1 copy is updated and refreshed, never allocated (R144, R262). -/
def State.l1Store (s : State) (pc va loc pa : Nat) (how : Reach) (k : Want) : State :=
  let s := (s.l1Hit pc (lineKey loc pa) true k).getD s
  (s.l2Access va loc pa how (some pc) k).1

/-- U granted to a core for a line: stash copies recalled, S copies dropped, the directory told; or a hit of the U line the
core holds (R273, R277). Whether it holds U after: not where the L2 cannot hold the line (R265). -/
def State.grantU (s : State) (pc ctx va loc pa : Nat) (k : Want) : State × Bool :=
  let key := lineKey loc pa
  if (s.core pc).ulines.has key then ((s.l1Hit pc key true k).getD s, true) else
  let (s, ok) := (s.recallStashes key).l2Access va loc pa .grant (some pc) k
  if !ok then (s, false) else
  let s := s.l1Fill pc (s.l1Line pc va key 4 k)
  let c := s.core pc
  (s.setCore pc { c with ulines := c.ulines.put key { loc := loc, pa := pa / 128 * 128, va := va, ctx := ctx, words := [], cells := [] } }, true)

/-- Whether a line stands readable in an L1 (R138: a hit confirms the translation). -/
def State.l1Has (s : State) (pc loc pa : Nat) : Bool :=
  match waysFind ((s.core pc).l1.sets.get [] (l1Set (lineKey loc pa))) (lineKey loc pa) with
  | some (_, l) => l.st = 1
  | none => false

/-- PIN of the L2 line of a VA raised or lowered by one (R267); whether the pin was recorded. -/
def State.pinLine (s : State) (va : Nat) (up : Bool) : State × Bool :=
  match s.locate va with
  | .at_ loc pa =>
    let key := lineKey loc pa
    let sl := s.sliceFor va key
    let c := s.slice sl
    match waysFind (c.sets.get [] (l2Set key)) key with
    | some (w, l) =>
      if up && l.pin = 255 then (s, false)
      else if !up && l.pin = 0 then (s, false)
      else
        let l := { l with pin := if up then l.pin + 1 else l.pin - 1 }
        let c := { c with sets := c.sets.put (l2Set key) ((c.sets.get [] (l2Set key)).set w (some l)) }
        ({ s with slices := s.slices.put sl c }, true)
    | none => (s, false)
  | _ => (s, false)

/-- Lines of a cache that a test names, dropped. -/
def Cache.dropAll (c : Cache) (cycle : Nat) (f : Line → Bool) : Cache :=
  let c := if c.startAt = cycle then c else { c with start := c.sets, startAt := cycle }
  { c with sets := c.sets.map (fun e => (e.1, e.2.map (fun l => match l with | some l => if f l then none else some l | none => none))) }

/-- A visit of one set (R263): dues 2^18 units or more behind are rewritten; claims found expired are counted. -/
def visitWays (now8 : BitVec 20) (ws : Ways) : Ways :=
  ws.map (fun l => l.map (fun l =>
    let d := (now8 - l.due).toNat
    if 2 ^ 18 ≤ d && d < 2 ^ 19 then { l with due := now8 - BitVec.ofNat 20 (2 ^ 18) } else l))

/-! ## Reads and writes by the device itself -/

/-- What an agent other than a core's L1 asks of the homes of the lines of [va, va + n). -/
def State.reachLines (s : State) (va n : Nat) (how : Reach) (k : Want) : State :=
  (lines va n).foldl (fun s l =>
    match s.locate (max va (l * 128)) with
    | .at_ loc pa => (s.l2Access (max va (l * 128)) loc pa how none k).1
    | _ => s) s

/-- Bytes the hardware reads at a local VA, after the recalls of R274. -/
def State.peek (s : State) (va n : Nat) : Got × State := let s := s.settle va n; (s.readVa va n, s)
/-- Bytes the hardware writes at a local VA, after the recalls of R274; a malformed entry is reported (R284). -/
def State.poke (s : State) (va : Nat) (bs : List Byte) : State :=
  (((s.settle va bs.length).noteBad va bs.length).reachLines va bs.length .write outsideWant).writeVa va bs

end Sys2Proof.Machine
end

