-- ==== Sys2Proof/Machine/Ops.lean ====
section
/-! DEFINITION. TAKING AN EXCEPTION: one shared operation for every upcall (R110, R306, R308) and one for a fatal fault (R313), with
the return from an upcall; over the operations of Base.lean, and the lines of the save area that PAGE writes. -/

namespace Sys2Proof.Machine

/-! ## The causes of R307 -/

def causeTRAP : Nat := 0
def causeBREAK : Nat := 1
def causeILLEGAL : Nat := 2
def causeSTALL : Nat := 3
def causeADDRESS : Nat := 4
def causeALIGN : Nat := 5
def causeDATAERR : Nat := 6
def causePAGE : Nat := 7
def causeTIMER : Nat := 8
def causeMESSAGE : Nat := 9
def causeRANGE : Nat := 10
def causeORDER : Nat := 11
def causeENGINE : Nat := 12
def causePEER : Nat := 13
def causeACCESS : Nat := 14
def causeMULT : Nat := 15
def causeINRUN : Nat := 16
def causeNOVEC : Nat := 17
def causeHOLD : Nat := 18

/-- OP and SLOT of an instruction in a fault word (R309). -/
def opWord (i : Instr) : Word :=
  match i with
  | .li _ _ => 0x28
  | .enqi _ _ _ _ _ => 0x7A
  | _ => if i.isSlotA then (encodeAF i).op.zeroExtend 64 else (encodeVF i).op.zeroExtend 64 ||| 0x100

/-- A fault word with LANEV and LANE (R309). -/
def laneWord (i : Instr) (lane : Nat) : Word := opWord i ||| 0x200 ||| (BitVec.ofNat 64 (lane % 16) <<< 10)

/-! ## Taking an exception -/

/-- A fatal fault noted for the context; it is taken in the next cycle (R313). The first one stands. `fva` is word 2 of
its record: %fva, or the reason of HOLD. -/
def State.fatal (s : State) (k : Nat) (cause inner : Nat) (fva pc : Word) : State :=
  let t := s.thread k
  let c := s.ctx t.ctx
  let f : Fatal := { tid := t.tid, cause := cause, inner := inner, fva := fva, pc := pc, time := s.time, due := s.cycle + 1 }
  { s.setCtx t.ctx { c with fatal := some (c.fatal.getD f) } with
    threads := s.threads.put k { t with wait := some .poll, fva := if cause = causeHOLD then t.fva else fva } }

/-- The entry itself (R110, R308): save the return address, the cause and its word; runtime mode; to %upvec. The LR
reservation is dropped and a parked instruction is abandoned. -/
def enter (t : Thread) (cause : Nat) (info : Word) (fva : Option Word) (upc : Word) : Thread :=
  { t with upc := upc, ucause := BitVec.ofNat 8 cause, finfo := info, fva := fva.getD t.fva, mode := .runtime,
           pc := t.upvec &&& ~~~0xF, npc := t.upvec &&& ~~~0xF, resv := none, wait := none, reply := none,
           blocks := [], tile := none }

/-- LRs of a thread still on their way lose the reservation they would set (R149). -/
def State.cutLr (s : State) (k : Nat) : State :=
  s.mapOps (fun o => if o.thr = k then (match o.kind with | .lr sg => { o with kind := .load sg } | _ => o) else o)

/-- %fva of a precise cause: the address for 4 and 5, 0 for 2, 3 and 6, unchanged for the rest (R309). -/
def fvaOf (cause : Nat) (fva : Word) : Option Word :=
  if cause = 4 || cause = 5 || cause = 12 || cause = 14 then some fva
  else if cause = 2 || cause = 3 || cause = 6 then some 0 else none

/-- An access of a thread whose translation is not yet confirmed: a reservation of its fault frame (R138). -/
def Op.reserves (o : Op) : Bool :=
  match o.kind with
  | .load _ | .lr _ | .store | .sc | .amo _ _ | .cas _ | .xacc | .xrd _ | .xclr => !o.conf
  | _ => false

/-- An access to another device's memory (R281). -/
def Op.isFar (o : Op) : Bool := match o.place with | .far _ => true | _ => o.pieces.any (fun p => match p.place with | .far _ => true | _ => false)

def State.reservations (s : State) (k : Nat) : Nat := (s.ops.filter (fun o => o.thr == k && o.reserves)).length

/-- Where a thread's fault frame lies in its save area: byte 2,464 of its record (R139, R320). -/
def frameAddr (t : Thread) : Nat := Config.saveArea t.ctx t.kid 1 + (t.core * 16 + t.slot) * 4160 + 2464

/-- A fault-frame record as 32 bytes (R139). -/
def FaultRec.bytes (r : FaultRec) : List Byte :=
  leBytes 8 r.va.toNat ++ leBytes 8 r.data.toNat ++ leBytes 8 r.data2.toNat ++ leBytes 8 r.info.toNat

/-- PAGE (R139): the records go to the save area, as any write to its lines does (R274), the frame empties, and %finfo says how many
there were. -/
def State.takePage (s : State) (k : Nat) (upc : Word) : State :=
  let t := s.thread k
  let n := t.frame.length
  if t.upvec = 0 then s.fatal k causeNOVEC 0 t.fva upc
  else
    let s1 := (s.cutLr k).poke (frameAddr t) (t.frame.flatMap FaultRec.bytes)
    s1.setThread k { enter (s1.thread k) causePAGE (BitVec.ofNat 64 n) none upc with frame := [], pend := t.pend &&& ~~~(0x80 : BitVec 14) }

/-- TAKING AN EXCEPTION (R110, R306 to R308, R312). Thread k takes cause `t.cause` at its present bundle:
a fatal cause, any precise cause in runtime mode (INRUN) and a missing vector (NOVEC) are fatal to the context; entry
waits for the thread's reservations; a fault frame that then holds records makes it PAGE at the bundle itself
(DEDUCED, log 57). -/
def State.takeTrap (s : State) (k : Nat) (t : Trap) : State :=
  let th := s.thread k
  let fva := (fvaOf t.cause t.fva).getD th.fva
  if 14 ≤ t.cause then s.fatal k t.cause 0 (if t.cause = causeHOLD then t.fva else fva) th.pc
  else if th.mode = .runtime then s.fatal k causeINRUN t.cause fva th.pc
  else if s.reservations k ≠ 0 then s.setThread k { th with wait := some .poll }
  else if !th.frame.isEmpty || t.cause = causePAGE then s.takePage k th.pc
  else if th.upvec = 0 then s.fatal k causeNOVEC 0 fva th.pc
  else (s.cutLr k).setThread k (enter th t.cause t.info (fvaOf t.cause t.fva) t.upc)

/-- The bundle in issue raises a trap and takes it at once: no other part of the bundle has an effect. -/
def State.raise (s : State) (t : Trap) : State := (s.takeTrap s.cur t).trap t

/-- An illegal instruction at the bundle in issue (R95). -/
def State.illegal (s : State) (i : Instr) : State :=
  s.raise { cause := causeILLEGAL, info := opWord i, fva := 0, upc := s.me.pc }

/-- THE RETURN (R110): user mode, at %upc with bits [3:0] zero. -/
def State.returnFrom (s : State) (k : Nat) : State :=
  let t := s.thread k
  let dest := t.upc &&& ~~~(0xF : Word)
  s.setThread k { t with mode := .user, pc := dest, npc := dest }

end Sys2Proof.Machine
end

