-- ==== Sys2Proof/Machine/Access.lean ====
section
/-! DEFINITION. The access path: the checks of R135 in their order, the PLB (R285, R286), the tag check and its log (R287 to
R290), and reads and writes of global memory, stash windows and local memories as an agent makes them. -/

namespace Sys2Proof.Machine

/-! ## Rights (R285, R286) -/

structure Rights where
  r : Bool := false
  w : Bool := false
  x : Bool := false
  g : Bool := false
deriving DecidableEq, Repr

/-- The walk of a protection table: index shifts of its levels. -/
def protFrom (m : Memory) (va : Nat) : List Nat → Nat → Rights
  | [], _ => {}
  | sh :: rest, node =>
    let e : BitVec 64 := wordOf 64 (m.read (node + (va >>> sh) % 1024 * 8) 8)
    if !e.getLsbD 0 || e.extractLsb' 6 7 ≠ 0 || e.extractLsb' 52 12 ≠ 0 then {}
    else if e.getLsbD 1 then
      (match rest with | [] => {} | _ => protFrom m va rest ((e.extractLsb' 13 39).toNat * 8192))
    else { r := e.getLsbD 2, w := e.getLsbD 3, x := e.getLsbD 4, g := e.getLsbD 5 }

def State.protRights (s : State) (ctx va : Nat) : Rights := protFrom s.mem va [46, 36, 26, 16] (s.ctx ctx).protroot

/-- The PLB's view of a granule: the entry it holds, or what a walk gives (R286). -/
def State.plbView (s : State) (pc ctx va : Nat) : Plb :=
  match (s.core pc).plb.find? (fun e => e.ctx == ctx && e.gran == va / 65536) with
  | some e => e
  | none =>
    let r := s.protRights ctx va
    { ctx := ctx, gran := va / 65536, r := r.r, w := r.w, x := r.x, g := r.g, tag := s.tagOf va }

/-- A list of at most `cap` entries with one more, the replaced one open (DESIGN CHOICE, log 12). -/
def cacheIn {α : Type} (cap n : Nat) (l : List α) (e : α) : List α :=
  if l.length < cap then l ++ [e] else (l.eraseIdx (Config.replaced n % cap)) ++ [e]

/-- The PLB after a check of a granule. -/
def State.plbFill (s : State) (pc ctx va : Nat) : State :=
  let c := s.core pc
  if c.plb.any (fun e => e.ctx == ctx && e.gran == va / 65536) then s
  else
    { s.setCore pc { c with plb := cacheIn 1024 s.drawn c.plb (s.plbView pc ctx va) } with drawn := s.drawn + 1 }

/-! ## The checks of R135 -/

/-- What an access does, for check 6. -/
inductive Need where | read | write | rmw | exec | gather
deriving DecidableEq, Repr

/-- An access that passed the checks: its place, the tag and clearance it is judged by, and whether it names far space. -/
structure Acc where
  place : Place
  tag : BitVec 16 := 0
  ctx : Nat := 0
  far : Bool := false
  /-- denied by the home that this device is to its own far address: by the rights of the home domain, or where it has no byte
  (R280, R290) -/
  no : Bool := false
deriving DecidableEq, Repr

/-- The cause and the address of a failing check. -/
abbrev Chk (α : Type) := Except (Nat × Word) α

def scratchBase : Nat := 0x00FC_0000_0000_0000
def selfBase : Nat := 0x00FD_0000_0000_0000
def lmBase : Nat := 0x00FE_0000_0000_0000
/-- The apertures of R136. -/
def apertures : List (Nat × Nat) :=
  [(scratchBase, scratchBase + 0x20_0000), (selfBase, selfBase + 0x10_0000), (lmBase, lmBase + 0x4000_0000)]
def inAperture (la : Nat) : Bool := apertures.any (fun p => p.1 ≤ la && la < p.2)

/-- A canonical local address (R135 checks 1 and 2, R280). -/
def isLocal (a : Nat) : Bool := a < 2 ^ 56
def isFar (a : Nat) : Bool := 2 ^ 62 ≤ a && a < 2 ^ 63

/-- LM bytes that back a mapped window. -/
def CoreCtx.backs (c : CoreCtx) (off n : Nat) : Bool :=
  c.wins.any (fun e => e.2.mapped && decide (off < (e.2.lmg.toNat + e.2.gran.toNat) * 4096) && decide (e.2.lmg.toNat * 4096 < off + n))

/-- Scratch bytes [la, la + n): every byte inside a mapped scratch window. -/
def CoreCtx.scratchOk (c : CoreCtx) (la n : Nat) : Bool :=
  (granules 10 la n).all (fun p =>
    let w := c.wins.get {} ((p.1 - scratchBase) / 0x4_0000)
    w.mapped && !w.stash && (p.1 - scratchBase) % 0x4_0000 + p.2 ≤ w.gran.toNat * 4096)

/-- The number of no kernel. -/
def noKernel : Nat := 2 ^ 32
/-- The place of a local address for a thread's launch; none where check 5 fails (R136). -/
def State.placeOf (s : State) (kid core la n : Nat) : Option Place :=
  let cc := ccKey kid core
  if !inAperture la then some (.glob la)
  else if kid = noKernel then none
  else if la < selfBase then
    let c := s.coreCtx cc
    let w := c.wins.get {} ((la - scratchBase) / 0x4_0000)
    if c.scratchOk la n then some (.lm cc (w.lmg.toNat * 4096 + (la - scratchBase) % 0x4_0000)) else none
  else if la < lmBase then
    let off := la - selfBase
    if off + n ≤ 0x4_0000 && !(s.coreCtx cc).backs off n then some (.lm cc off) else none
  else
    let c := (la - lmBase) / 0x10_0000
    let off := (la - lmBase) % 0x10_0000
    if c < (s.kernel kid).ncore && off + n ≤ 0x4_0000 && !(s.coreCtx (ccKey kid c)).backs off n then some (.lm (ccKey kid c) off)
    else none

/-- The kernel whose LM apertures a context shows to far requests: its first that is staged, in fault-hold too (R314; DESIGN CHOICE,
log 14), until the context's teardown (R315). -/
def State.shownKernel (s : State) (ctx : Nat) : Nat :=
  if (s.ctx ctx).teardown then noKernel else (s.kernels.findKey (fun _ k => k.ctx == ctx && (k.st == .running || k.st == .preempted || k.st == .draining || k.st == .faulted))).getD noKernel

/-- Whether a right covers a need. -/
def Rights.covers (r w x g : Bool) (far : Bool) : Need → Bool
  | .read => r
  | .write => w
  | .rmw => r && w
  | .exec => x
  | .gather => if far then g else r

/-- Checks 1 to 3: the local address behind an address, and the context whose domain judges it (none: another device). -/
def State.checkRange (s : State) (t : Thread) (a : Int) (n : Nat) : Chk (Option (Nat × Nat × Bool)) :=
  let fva : Word := BitVec.ofInt 64 a
  let bad {β : Type} : Chk β := .error (causeADDRESS, fva)
  if a < 0 || 2 ^ 64 ≤ a then bad else
  let a := a.toNat
  let split (la : Nat) : Bool := apertures.any (fun p => la < p.2 && p.1 < la + n && !(p.1 ≤ la && la + n ≤ p.2))
  if isFar a then
    let dev := (a >>> 44) % 2 ^ 18
    let off := a % 2 ^ 44
    let ten := (s.ctx t.ctx).tenant
    if dev = s.deviceId.toNat then
      let (base, size) := s.windows.get (0, 0) ten
      if size < off + n || off = size then bad else
      if split (base + off) then bad else .ok (some (base + off, s.homes.get t.ctx ten, true))
    else if min (Config.farWindow dev ten) (2 ^ 44) < off + n then bad else .ok none
  else if !isLocal a then bad
  else if 2 ^ 56 < a + n || split a then bad
  else .ok (some (a, t.ctx, false))

/-- Check 6 over every granule of [la, la + n) (R158). -/
def State.rightsOk (s : State) (pc ctx la n : Nat) (far : Bool) (need : Need) : Bool :=
  (granules (n / 65536 + 2) la (max n 1)).all (fun p =>
    let e := s.plbView pc ctx p.1
    Rights.covers e.r e.w e.x e.g far need)

/-- THE CHECKS of R135 in order, for thread t at address a, n bytes, aligned to `al` (1: no alignment). What the home's rights forbid
through far space is no fault but a denial, on this device as on another (R280, R290, R402). -/
def State.check (s : State) (t : Thread) (a : Int) (n al : Nat) (need : Need) : Chk Acc :=
  let fva : Word := BitVec.ofInt 64 a
  match s.checkRange t a n with
  | .error e => .error e
  | .ok tgt =>
    if al ≠ 0 && a % al ≠ 0 then .error (causeALIGN, fva) else
    match tgt with
    | none => .ok { place := .far a.toNat, ctx := t.ctx, far := true }
    | some (la, ctx, far) =>
      let kid := if far then s.shownKernel ctx else t.kid
      let pc := s.physCore t
      let tag (p : Place) : BitVec 16 := match p with | .glob _ => (s.plbView pc ctx la).tag | _ => 0
      match s.placeOf kid t.core la n with
      | none => if far then .ok { place := .glob la, ctx := ctx, far := true, no := true } else .error (causeACCESS, fva)
      | some pl =>
        if s.rightsOk pc ctx la n far need then .ok { place := pl, tag := tag pl, ctx := ctx, far := far }
        else if far then .ok { place := .glob la, tag := tag pl, ctx := ctx, far := true, no := true }
        else .error (causeACCESS, fva)

/-- The PLB entries a passed check leaves behind. -/
def State.checked (s : State) (t : Thread) (r : Acc) : State :=
  match r.place with
  | .glob va => s.plbFill (s.physCore t) r.ctx va
  | _ => s

/-! ## Reads and writes by the device itself -/

/-- Bytes read at their homes, after the recalls of R274. -/
def State.homeRead (s : State) (va n : Nat) (k : Want) : Got × State :=
  let s := s.settle va n
  match s.readVa va n with
  | .bytes bs => (.bytes bs, (s.correctVa 0xFFFF va n).reachLines va n .read k)
  | g => (g, s)

/-- Bytes of one line written at their home; none where they meet uncorrectable data (R141). -/
def State.homeWrite (s : State) (va : Nat) (bs : List Byte) (k : Want) : Got × State :=
  let s := s.settle va bs.length
  match s.locate va with
  | .at_ loc pa =>
    if loc = 0 && s.eccBad pa bs.length then (.dataError va, s)
    else (.bytes [], (s.reachLines va bs.length .write k).writeVa va bs)
  | .absent => (.absent va, s)
  | .bad => (.dataError va, s)

/-! ## Permission tags (R287 to R290) -/

/-- The address of the clearance word of a principal and tag. -/
def clrAddr (c : Ctx) (prin tag : Nat) : Nat := c.clrbase + prin * 8192 + tag / 64 * 8

/-- The tag check (R287). A clearance word on a page that is not present, or that meets uncorrectable data, has an open value
(DESIGN CHOICE, log 18). -/
def State.allowed (s : State) (ctx : Nat) (prin : BitVec 32) (tag : BitVec 16) : Bool :=
  let c := s.ctx ctx
  if tag = 0 then true
  else if c.clrcnt ≤ prin.toNat then false
  else
    let a := clrAddr c prin.toNat tag.toNat
    let w : Word := match (s.settle a 8).readVa a 8 with | .bytes bs => wordOf 64 bs | _ => Config.freeWord a
    w.getLsbD (tag.toNat % 64)

/-- An access that passed the checks is admitted: its home does not deny it, and the tag check lets it through (R287, R290). -/
def State.lets (s : State) (r : Acc) (prin : BitVec 32) : Bool := !r.no && s.allowed r.ctx prin r.tag

/-- A clearance word that meets uncorrectable data, or a malformed entry, is reported (R141, R284). -/
def State.clrReport (s : State) (ctx a : Nat) : State :=
  match s.readVa a 8 with
  | .dataError a => s.reportData ctx a
  | _ => s

/-- The state after a tag check of an engine or of a home: the word is read through its home. -/
def State.clrSettle (s : State) (ctx : Nat) (prin : BitVec 32) (tag : BitVec 16) : State :=
  let c := s.ctx ctx
  if tag = 0 || c.clrcnt ≤ prin.toNat then s else
  let a := clrAddr c prin.toNat tag.toNat
  (s.settle a 8).clrReport ctx a

/-- The state after a core's tag check: the word comes through the home and stands in the clearance cache (R288). -/
def State.clrFill (s : State) (pc ctx : Nat) (prin : BitVec 32) (tag : BitVec 16) : State :=
  let c := s.ctx ctx
  if tag = 0 || c.clrcnt ≤ prin.toNat then s else
  let a := clrAddr c prin.toNat tag.toNat
  let s := (s.settle a 8).clrReport ctx a
  let p := s.core pc
  if p.clr.any (fun e => e.ctx == ctx && e.prin == prin.toNat && e.idx == tag.toNat / 64) then s
  else match s.locate a with
    | .at_ _ pa =>
      { s.setCore pc { p with clr := cacheIn 256 s.drawn p.clr { ctx := ctx, prin := prin.toNat, idx := tag.toNat / 64, addr := pa } } with
        drawn := s.drawn + 1 }
    | _ => s

/-- One denial record (R289). -/
def State.logDenial (s : State) (ctx : Nat) (va : Word) (tid prin : BitVec 32) (tag : BitVec 16) (kind : Nat) : State :=
  let c := s.ctx ctx
  if c.logctl = 0 then s else
  match s.peek c.logctl 32 with
  | (.bytes ctl, s) =>
    let widx : Word := wordOf 64 (ctl.take 8)
    let ridx : Word := wordOf 64 ((ctl.drop 8).take 8)
    let ovf : Word := wordOf 64 ((ctl.drop 16).take 8)
    let slot := c.logbase + widx.toNat % 2 ^ c.logn * 32
    if s.locate slot = .bad then s.noteBad slot 32
    else if (widx - ridx).toNat = 2 ^ c.logn || !s.present slot 32 then s.poke (c.logctl + 16) (leBytes 8 (ovf + 1).toNat)
    else
      let rec_ : BitVec 256 := 0#24 ++ BitVec.ofNat 8 kind ++ 0#6 ++ BitVec.ofNat 10 ctx ++ tag ++ prin ++ tid ++ va ++ s.time
      (s.poke slot (leBytes 32 rec_.toNat)).poke c.logctl (leBytes 8 (widx + 1).toNat)
  | (.dataError a, s) => s.reportData ctx a
  | (_, s) => s

/-- The local address behind a far address of this device, in the window of a tenant (R280); another address is itself. -/
def State.homeVa (s : State) (ten : Nat) (va : Word) : Word :=
  if isFar va.toNat then BitVec.ofNat 64 ((s.windows.get (0, 0) ten).1 + va.toNat % 2 ^ 44) else va

/-- A denied instruction of thread k: one record and %stat.DENIED + 1; through far space to this device also the home's
record of KIND 4 (R137, R289, R290). -/
def State.deny (s : State) (k : Nat) (va : Word) (a : Acc) (kind : Nat) : State :=
  let t := s.thread k
  let s := s.setThread k (t.stick s.cycle (statDeny · 1))
  let s := s.logDenial t.ctx va t.tid t.prin a.tag kind
  if a.far then s.logDenial a.ctx (s.homeVa (s.ctx t.ctx).tenant va) 0xFFFF_FFFF t.prin a.tag 4 else s

/-! ## Local memories -/

/-- Whether the context of a core-context is in fault-hold (R314). -/
def State.heldCc (s : State) (cc : Nat) : Bool := (s.ctx (s.kernel (cc / 1024)).ctx).state = ctxHold

/-- A write to the LM, or an arrival at a barrier, of a context in fault-hold is dropped and reported (R314, R374). -/
def State.dropHeld (s : State) (cc off : Nat) : State :=
  s.report .heldWrite (leBytes 2 (s.kernel (cc / 1024)).ctx ++ leBytes 2 (cc % 1024) ++ leBytes 4 off)

/-- Bytes put into an LM: the words they cover are sound (R414). -/
def State.lmPut (s : State) (cc off : Nat) (bs : List Byte) : State :=
  let c := s.coreCtx cc
  (s.mended (lmPa cc off) bs.length).setCoreCtx cc { c with lm := c.lm.write off bs }

/-- An access that met uncorrectable data in an LM, reported to its context (R141, R415). -/
def State.reportLm (s : State) (cc off : Nat) : State := s.reportData (s.kernel (cc / 1024)).ctx (lmPa cc off)

/-- Bytes written to an LM; reservations of their granules are lost; in fault-hold the write is dropped and
reported (R314; DEDUCED, log 67); so is one that meets a word with an uncorrectable error (R141). -/
def State.lmWrite (s : State) (cc off : Nat) (bs : List Byte) : State :=
  if s.heldCc cc then s.dropHeld cc off
  else if s.lmBad cc off bs.length then s.reportLm cc off else
  let s := s.lmPut cc off bs
  (lines off bs.length).foldl (fun s l => s.loseResv (lmKey cc (l * 128))) s

def State.lmRead (s : State) (cc off n : Nat) : List Byte := (s.coreCtx cc).lm.read off n

/-- Words of an LM read are corrected where they can be (R414). -/
def State.lmCorrect (s : State) (cc off n : Nat) : State := s.correct (s.kernel (cc / 1024)).ctx (lmPa cc off) n

/-- Bytes of an LM, or what an uncorrectable error in them gives. -/
def State.lmGot (s : State) (cc off n : Nat) : Got × State :=
  if s.lmBad cc off n then (.dataError (lmPa cc off), s) else (.bytes (s.lmRead cc off n), s.lmCorrect cc off n)

/-! ## Global memory as a core-context sees it -/

/-- The stash line of a VA for a core-context: window and line number. -/
def State.stashLine (s : State) (cc va : Nat) : Option (Nat × Win × Nat) :=
  ((s.coreCtx cc).stashOf va).map (fun e => (e.1, e.2, (va - e.2.bound) / 128))

/-- What serves an access of a core-context: its stash, the home, or nothing. -/
inductive Touch where
  | stash
  | home
  | stop (g : Got)
deriving DecidableEq, Repr

/-- One touch of a stash line by its core-context: filled on the first (R165), with due set (R262). Where the L2 cannot hold
the line, the access is served from memory (R265). -/
def State.stashTouch (s : State) (cc va : Nat) (write : Bool) (k : Want) : Touch × State :=
  match s.stashLine cc va with
  | none => (.home, s)
  | some (n, w, i) =>
    let la := w.bound + 128 * i
    match s.locate la with
    | .absent => if w.lines.has i then (.stash, s) else (.stop (.absent la), s)
    | .bad => (.stop (.dataError la), s)
    | .at_ loc pa =>
      let sl := s.sliceFor la (lineKey loc pa)
      let due := s.dueFor (s.slice sl).ctl k.nd k.rper (trustOf (s.glade (sl / 32)) k.ten)
      let mark (s : State) (old : StashLine) : State :=
        let c := s.coreCtx cc
        let w := c.wins.get {} n
        s.setCoreCtx cc { c with wins := c.wins.put n { w with lines := w.lines.put i { old with st := if write then 2 else old.st, due := due } } }
      match w.lines.find? (fun e => e.1 == i) with
      | some (_, l) => (.stash, mark s l)
      | none =>
        let s := s.settle la 128
        match s.readVa la 128 with
        | .bytes bs =>
          let (s, ok) := s.l2Access la loc pa .read none k
          if !ok then (.home, s) else
          let s := (s.dropCopies none (lineKey loc pa)).l2Mark la (fun x => { x with st := 2, stash := some cc, due := due, sharers := [] })
          let s := s.lmPut cc (w.offset la) bs
          (.stash, mark s { st := 1, due := due, tag := s.tagOf la })
        | g => (.stop g, s)

/-- Bytes of one line read by a core-context: from its stash, or from the home after the recalls of R274. -/
def State.gread (s : State) (cc va n : Nat) (k : Want) : Got × State :=
  match s.stashTouch cc va false k with
  | (.stop g, s) => (g, s)
  | (.stash, s) =>
    let off := ((s.coreCtx cc).stashOf va).elim 0 (fun e => e.2.offset va)
    if s.lmBad cc off n then (.dataError va, s) else (.bytes (s.lmRead cc off n), s.lmCorrect cc off n)
  | (.home, s) =>
    let s := s.settle va n
    match s.readVa va n with
    | .bytes bs => (.bytes bs, s.correctVa (s.kernel (cc / 1024)).ctx va n)
    | g => (g, s)

/-- Bytes of one line written by a core-context; none of it where something stops it. -/
def State.gwrite (s : State) (cc va : Nat) (bs : List Byte) (k : Want) : Got × State :=
  match s.stashTouch cc va true k with
  | (.stop g, s) => (g, s)
  | (.stash, s) =>
    let off := ((s.coreCtx cc).stashOf va).elim 0 (fun e => e.2.offset va)
    if s.lmBad cc off bs.length then (.dataError va, s) else
    let s := s.lmPut cc off bs
    let s := match s.locate va with | .at_ loc pa => s.loseResv (globKey loc pa) | _ => s
    (.bytes [], s)
  | (.home, s) =>
    let s := s.settle va bs.length
    match s.locate va with
    | .at_ loc pa => if loc = 0 && s.eccBad pa bs.length then (.dataError va, s) else (.bytes [], s.writeVa va bs)
    | .absent => (.absent va, s)
    | .bad => (.dataError va, s)

/-- Whether the page of a VA is migrating (R295). -/
def State.migratingAt (s : State) (va : Nat) : Bool := match s.walk va with | .leaf e _ => pteMig e && pteP e | _ => false

/-- What an access of the thread in issue counts for at the caches. -/
def State.wantOf (s : State) (t : Thread) (nd : BitVec 6) : Want :=
  { ten := some (s.ctx t.ctx).tenant, nd := nd, rper := t.rper.toNat }

/-- What an access in flight counts for: its thread's tenant, and the %rper it carries from its issue (R261). -/
def State.opWant (s : State) (o : Op) : Want :=
  { ten := some (s.ctx (s.thread o.thr).ctx).tenant, nd := o.nd, rper := o.rper, joined := o.joined }

/-- How an access of a core treats its L1: a load that allocates or not, a read or an operation that its home performs
(an XRD; a failing CAS or SC), a write (R262, R277). -/
inductive L1Use where
  | load (alloc : Bool)
  | cell
  | touch
  | write
deriving DecidableEq, Repr

/-- Whether the stash of a core-context holds the line of a VA. -/
def State.stashHolds (s : State) (cc va : Nat) : Bool := ((s.coreCtx cc).stashOf va).any (fun e => e.2.lines.has ((va - e.2.bound) / 128))

/-- The home of a line has served a request for it in this cycle, and an access of a core that neither its stash nor its L1 serves waits
for its turn there (R279). -/
def State.homeWaits (s : State) (cc pc va : Nat) : Bool :=
  !s.stashHolds cc va && (match s.locate va with | .at_ loc pa => s.busyLine (lineKey loc pa) && !s.l1Has pc loc pa | _ => false)

/-- The residency data after a core's access to one line of global memory; a stash keeps its own (R262). -/
def State.lineTouch (s : State) (cc pc va : Nat) (u : L1Use) (k : Want) : State :=
  if s.stashHolds cc va then s else
  match s.locate va with
  | .at_ loc pa =>
    match u with
    | .load alloc => s.l1Load pc va loc pa alloc true k
    | .cell => (s.l2Access va loc pa .read none k).1
    | .touch => s.l1Store pc va loc pa .touch k
    | .write => s.l1Store pc va loc pa .write k
  | _ => s

/-! ## Raising a check's fault -/

/-- A failing check at the instruction in issue: precise, before any effect of either slot (R135, R309). -/
def State.failCheck (s : State) (info : Word) (e : Nat × Word) : State :=
  s.raise { cause := e.1, info := info, fva := e.2, upc := s.me.pc }

end Sys2Proof.Machine
end

