-- ==== Sys2Proof/Machine/Flits.lean ====
section
/-! DEFINITION. Flits of the device links (R398, R399): their bytes and CRC, the replay buffer, and the choice of a link. -/

namespace Sys2Proof.Machine

/-! ## CRC-64 with the ECMA-182 polynomial (R398) -/

/-- Eight steps of the remainder for one byte, most significant bit first (PRESUMED, log 31). -/
def crcByte (r : BitVec 64) (b : Byte) : BitVec 64 :=
  (List.range 8).foldl (fun r _ => if r.getLsbD 63 then (r <<< 1) ^^^ 0x42F0_E1EB_A9EA_3693 else r <<< 1) (r ^^^ (b.zeroExtend 64 <<< 56))
def crc64 (bs : List Byte) : BitVec 64 := bs.foldl crcByte 0

/-! ## Flits -/

/-- A flit of 256 bytes from its fields. -/
def flitBytes (type cls : Nat) (seq ack : BitVec 16) (dst src tenant prin : Nat) (body : List Byte) : List Byte :=
  let bs := leBytes 1 type ++ leBytes 1 cls ++ leBytes 2 seq.toNat ++ leBytes 2 ack.toNat ++ leBytes 3 (dst % 2 ^ 18) ++ leBytes 3 (src % 2 ^ 18) ++
    leBytes 1 (tenant % 64) ++ leBytes 3 0 ++ leBytes 4 prin ++ (body ++ List.replicate 228 0).take 228
  bs ++ leBytes 8 (crc64 bs).toNat

/-- A little-endian field of a flit. -/
def flitField (f : List Byte) (at_ n : Nat) : Nat := leNat ((f.drop at_).take n)

/-- Received correctly: its CRC matches and its reserved fields hold zero (R398). -/
def flitOk (f : List Byte) : Bool :=
  f.length = 256 && crc64 (f.take 248) = BitVec.ofNat 64 (flitField f 248 8) && decide (flitField f 0 1 ≤ 4) && decide (flitField f 1 1 ≤ 1) &&
    decide (flitField f 6 3 < 2 ^ 18) && decide (flitField f 9 3 < 2 ^ 18) && decide (flitField f 12 1 < 64) && flitField f 13 3 = 0

/-! ## Links -/

def State.link (s : State) (l : Nat) : Link := s.links.get {} l
def State.setLink (s : State) (l : Nat) (k : Link) : State := { s with links := s.links.put l k }

def linkDown : Nat := 0
def linkTraining : Nat := 1
def linkNegotiating : Nat := 2
def linkUp : Nat := 3
def linkDegraded : Nat := 4
def linkFailed : Nat := 5

/-- A link that carries flits. -/
def Link.carries (k : Link) : Bool := k.st == linkUp || k.st == linkDegraded
/-- Links that carry flits (R397). -/
def State.upLinks (s : State) : List Nat := (s.links.filter (fun l => l.2.carries)).map (·.1)

/-- A flit with the SEQ and ACK of the moment in which it is sent, and its CRC (R398). -/
def stampFlit (f : List Byte) (seq ack : BitVec 16) : List Byte :=
  let bs := f.take 2 ++ leBytes 2 seq.toNat ++ leBytes 2 ack.toNat ++ (f.drop 6).take 242
  bs ++ leBytes 8 (crc64 bs).toNat

/-- A flit sent on a link under the next SEQ, and kept for replay. -/
def State.emitFlit (s : State) (l : Nat) (f : List Byte) : State :=
  let k := s.link l
  let f := stampFlit f k.nextSeq k.lastRx
  { s.setLink l { k with nextSeq := k.nextSeq + 1, replay := k.replay ++ [{ seq := k.nextSeq, flit := f, sentAt := s.tick, resent := 0 }] } with
    out := s.out ++ [.flit l f] }

/-- A flit sent on a link, or waiting while 256 flits are unacknowledged (R399; DESIGN CHOICE, log 53); a link-control flit does not wait
(R400). -/
def State.sendFlit (s : State) (l type cls dst src tenant prin : Nat) (body : List Byte) : State :=
  let k := s.link l
  let f := flitBytes type cls 0 0 dst src tenant prin body
  if type = 4 || (k.replay.length < 256 && k.waiting.isEmpty) then s.emitFlit l f
  else s.setLink l { k with waiting := k.waiting ++ [f] }

/-- Waiting flits sent as far as the replay buffer has room. -/
def State.feedLink (l : Nat) : Nat → State → State
  | 0, s => s
  | n + 1, s =>
    let k := s.link l
    match k.waiting with
    | f :: rest => if k.replay.length < 256 then State.feedLink l n ((s.setLink l { k with waiting := rest }).emitFlit l f) else s
    | [] => s

/-- The route of a source, a destination and a class (R401). -/
def routeKey (dst src cls : Nat) : Nat := (dst % 2 ^ 18 * 2 ^ 18 + src % 2 ^ 18) * 2 + cls % 2

/-- The link of a route: the one taken so far while it is up, so that traffic never leaves it (R397, R401); else one that is up. The
routing tables are not architected (R407; DESIGN CHOICE, log 14). -/
def State.routeLink (s : State) (dst src cls : Nat) : Option Nat :=
  let last := s.routes.get none (routeKey dst src cls)
  if last.any (fun l => (s.link l).carries) then last else s.upLinks[Config.route dst cls % s.upLinks.length]?

/-- A flit sent on the route of its source, destination and class. -/
def State.route (s : State) (type cls dst src tenant prin : Nat) (body : List Byte) : State :=
  match s.routeLink dst src cls with
  | some l =>
    let s : State := { s with drawn := s.drawn + 1, routes := s.routes.put (routeKey dst src cls) (some l) }
    s.sendFlit l type cls dst src tenant prin body
  | none => s

end Sys2Proof.Machine
end

