-- ==== Sys2Proof/Machine/Blocks.lean ====
section
/-! DEFINITION. What instructions that touch memory share at issue: acquires and releases outstanding (R138, R145, R155,
R156), the count of memory instructions (R272), and block operands read or written in the issue cycle. -/

namespace Sys2Proof.Machine

/-- An instruction goes on, or ends here with this state (parked or trapped). -/
abbrev Go (α : Type) := Except State α

/-- The outcome of a meaning that may have ended early. -/
def ends (r : Go State) : Res := match r with | .ok s => done s | .error s => done s

/-! ## Accesses of a thread in flight -/

/-- An access to memory, as fences count them (R155). -/
def OpKind.isAccess : OpKind → Bool
  | .load _ | .lr _ | .store | .sc | .amo _ _ | .cas _ | .xacc | .xrd _ | .xclr | .vload | .vstore | .feset _ => true
  | _ => false
/-- An operation whose result returns to the thread (R155 acq). -/
def OpKind.isReturn : OpKind → Bool
  | .load _ | .lr _ | .sc | .amo _ _ | .cas _ | .xrd _ | .vload | .reply => true
  | _ => false
/-- An operation that writes memory. -/
def OpKind.isWrite : OpKind → Bool
  | .store | .sc | .amo _ _ | .cas _ | .xacc | .xclr | .vstore | .feset _ => true
  | _ => false
/-- An operation that counts for the limit of 4 loads in flight (R98, R193). Which operations beside LD, VLD and VGATH do is the
model's choice (DESIGN CHOICE, log 80). -/
def OpKind.isLoad : OpKind → Bool
  | .load _ | .lr _ | .xrd _ | .vload => true
  | _ => false

/-- A place n bytes on. -/
def Place.plus (p : Place) (n : Nat) : Place :=
  match p with
  | .lm cc off => .lm cc (off + n)
  | .far a => .far (a + n)
  | .glob va => .glob (va + n)

/-- The 128-byte lines an access touches, each with the memory it is of. -/
def placeLines (p : Place) (n : Nat) : List (Nat × Nat) :=
  match p with
  | .glob va => (lines va n).map (fun l => (0, l))
  | .lm cc off => (lines off n).map (fun l => (1 + cc, l))
  | .far va => (lines va n).map (fun l => (0, l))

/-- The lines of an operation in flight: a vector access touches those of its pieces. -/
def Op.lines (o : Op) : List (Nat × Nat) :=
  if !o.kind.isAccess then [] else
  match o.kind with
  | .vload | .vstore => if o.pieces.isEmpty && o.isFar then placeLines o.place (max o.n 1) else o.pieces.flatMap (fun p => placeLines p.place p.n)
  | _ => placeLines o.place (max o.n 1)

/-- The granules of an access, as reservations name them. -/
def State.granulesOf (s : State) (o : Op) : List Nat :=
  if o.isFar then [] else
  o.lines.filterMap (fun l =>
    if l.1 ≠ 0 then some (lmKey (l.1 - 1) (128 * l.2)) else match s.locate (128 * l.2) with | .at_ loc pa => some (globKey loc pa) | _ => none)

/-- Another agent than k keeps a granule for its SC (R150): while no other access of it is in flight, for the 16 bundles that may
follow its LR and the SC's own way, 6,400 cycles in all; LRs that follow one another renew that time only after as long a pause, so
that a thread that polls by LR holds no write back for ever (R254; DESIGN CHOICE, log 76). -/
def State.keeps (s : State) (k key : Nat) : Bool :=
  s.threads.any (fun e => e.1 != k && e.2.resv == some key && e.2.life == .resident &&
    decide (s.cycle < e.2.resvFrom + 6400) &&
    s.ops.all (fun o => o.thr != e.1 || !o.kind.isAccess || (o.kind == .sc && (s.granulesOf o).contains key)))

/-- The number of an agent that is no thread (R150). -/
def noThreadKey : Nat := 2 ^ 128

/-- The granule of a line, as reservations name it; none for a line of another device. -/
def State.lineGranule (s : State) (l : Nat × Nat) : Option Nat :=
  if l.1 ≠ 0 then some (lmKey (l.1 - 1) (128 * l.2)) else match s.locate (128 * l.2) with | .at_ loc pa => some (globKey loc pa) | _ => none

/-- A line that another agent than k keeps (R150). -/
def State.keptLines (s : State) (k : Nat) (ls : List (Nat × Nat)) : Bool :=
  s.threads.any (fun e => e.2.resv.isSome) && ls.any (fun l => (s.lineGranule l).any (s.keeps k))

/-- An access of an earlier bundle of thread k to one of these lines is still in flight, or one that its core has sent to a line of
another core's LM (R138, R242, R246); or another thread keeps one (R150), or its home serves another request this cycle (R279). -/
def State.linesBusy (s : State) (k : Nat) (ls : List (Nat × Nat)) : Bool :=
  let t := s.thread k
  s.ops.any (fun o => o.kind.isAccess && !(o.thr == k && o.issued == t.issued) &&
    o.lines.any (fun l => ls.contains l && (o.thr == k || (o.cc == t.cc && l.1 ≠ 0 && l.1 ≠ 1 + t.cc)))) ||
    s.keptLines k ls || ls.any (fun l => l.1 = 0 && s.homeWaits t.cc (s.physCore t) (128 * l.2))

/-- A load with acquire of an earlier bundle has not returned (R145). -/
def State.acquiring (s : State) (k : Nat) : Bool := s.ops.any (fun o => o.thr == k && o.acq && o.issued != (s.thread k).issued)

/-- The bundle waits for its turn to come again. -/
def State.again (s : State) : State := s.park .poll

/-! ## Scopes (R243) -/

/-- An agent that observes memory: a thread, the transfer unit of a core-context, an engine, the host, a peer device. -/
inductive Agent where
  | thread (k : Nat)
  | transfer (cc : Nat)
  | engine (unit_ : Nat)
  | host
  | peer
deriving DecidableEq, Repr

/-- Whether an agent is an observer within a scope of thread k (R243); clusters that time-share count as the logical one. -/
def State.observes (s : State) (k : Nat) (scp : Scope) (a : Agent) : Bool :=
  let t := s.thread k
  let c := s.physCore t / 8
  let core := match a with
    | .thread j => let x := s.thread j; x.ctx == t.ctx && x.cc == t.cc
    | .transfer cc => cc == t.cc
    | _ => false
  let cluster := core || (match a with
    | .thread j => let x := s.thread j; x.kid == t.kid && (s.kernel t.kid).lcOf x.core == (s.kernel t.kid).lcOf t.core
    | .transfer cc => cc / 1024 == t.kid && (s.kernel t.kid).lcOf (cc % 1024) == (s.kernel t.kid).lcOf t.core
    | .engine u => decide (u < 256) && u % 128 == c
    | _ => false)
  let die := cluster || (match a with
    | .thread j => s.physCore (s.thread j) / 256 == c / 32
    | .transfer cc => let k := s.kernel (cc / 1024); k.physCluster (k.lcOf (cc % 1024)) / 32 == c / 32
    | .engine u => (if u < 256 then u % 128 / 32 else (u - 256) / 4) == c / 32
    | _ => false)
  match scp with
  | .core => core
  | .cluster => cluster
  | .die => die
  | .device => (match a with | .host | .peer => false | _ => true)
  | .system => true

/-- A write in flight into another core's LM, or with a part there (R157). -/
def Op.remoteWrite (o : Op) : Bool :=
  o.kind.isWrite && ((match o.place with | .lm cc _ => cc != o.cc | _ => false) ||
    o.pieces.any (fun p => match p.place with | .lm cc _ => cc != o.cc | _ => false))

/-- An access in flight that is performed at core scope already: one to another core's LM, which its core has sent (R241). -/
def Op.sent (o : Op) : Bool :=
  o.remoteWrite && o.pieces.all (fun p => match p.place with | .lm cc _ => cc != o.cc | _ => false) && o.waits == 0

/-- RELEASE at a scope (R156, R241, R244): the thread's reservations are confirmed, a fault record becomes PAGE, and every
earlier access is performed at the scope. From cluster scope up it is performed at every scope (DEDUCED, log 69). -/
def State.release (s : State) (scp : Scope) : Go State :=
  let k := s.cur
  let t := s.me
  if s.reservations k ≠ 0 then .error (s.park .hold)
  else if t.mode = .user && !t.frame.isEmpty then .error (s.raise { cause := causePAGE, info := 0, fva := 0, upc := t.pc })
  else if s.ops.any (fun o => o.thr == k && (o.kind.isAccess || o.acq) && !(scp = .core && o.sent)) then .error (s.park .hold)
  else .ok s

/-- A far request sent, in the ordered class (R401, R402). -/
def State.sendFar (s : State) (ctx a : Nat) (prin : BitVec 32) (op : FarOp) : State :=
  let dev := (a >>> 44) % 2 ^ 18
  let ten := (s.ctx ctx).tenant
  let s : State := { s with out := s.out ++ [Out.farRequest dev
      { src := s.deviceId, tenant := BitVec.ofNat 6 ten, prin := prin, offset := a % 2 ^ 44, op := op }] }
  s.route 1 0 dev s.deviceId.toNat ten prin.toNat (Config.farBody s.drawn)

/-- A piece byte by byte. -/
def Piece.bytes (p : Piece) : List Piece :=
  (List.range p.n).filterMap (fun j =>
    let lo := max (8 * j) p.bit
    let hi := min (8 * j + 8) (p.bit + p.w)
    if lo < hi then some { place := p.place.plus j, n := 1, bit := lo - 8 * j, w := hi - lo, pos := p.pos + (lo - p.bit) } else none)

/-- Pieces on another device by aligned 8-byte part, the unit that is single-copy atomic (R193, R237): address, bytes, and
the pieces with their bits counted from that address. -/
def farGroups (ps : List Piece) : List (Nat × Nat × List Piece) :=
  let bs := (ps.flatMap Piece.bytes).filterMap (fun p => match p.place with | .far a => some (a, p) | _ => none)
  ((bs.map (fun e => e.1 / 8)).dedup).map (fun k =>
    let g := bs.filter (fun e => e.1 / 8 == k)
    let lo := g.foldl (fun m e => min m e.1) (8 * k + 7)
    let hi := g.foldl (fun m e => max m e.1) (8 * k)
    (lo, hi + 1 - lo, g.map (fun e => { e.2 with place := .far lo, n := hi + 1 - lo, bit := 8 * (e.1 - lo) + e.2.bit })))

/-- What a far store of pieces of a register asks: whole bytes, or some bits of them; a later piece stands over an earlier. -/
def farStore (n : Nat) (v : VReg) (ps : List Piece) : FarOp :=
  let m := ps.foldl (fun m p => m ||| (2 ^ p.w - 1) * 2 ^ p.bit) 0
  let x := ps.foldl (fun x p => (x - x / 2 ^ p.bit % 2 ^ p.w * 2 ^ p.bit) + (v >>> p.pos).toNat % 2 ^ p.w * 2 ^ p.bit) 0
  if m = 2 ^ (8 * n) - 1 then .write (leBytes n x) else .part n m x

/-- An access of thread k whose end a far access of the bundle in issue waits for before it is sent: an acquiring load of its own
bundle (R145, R244). -/
def State.acquirers (s : State) (k : Nat) : List Nat := (s.ops.filter (fun x => x.thr == k && x.acq)).map (·.id)

/-- A far access put in flight: its request is sent at once, unless it still waits for its data, for an acquiring load of its bundle, or
for an earlier access to its line that is not sent itself (R145, R242, R253). -/
def State.launchReq (s : State) (ctx a : Nat) (op : FarOp) (o : Op) : State :=
  let first := s.acquirers o.thr
  if o.waits ≠ 0 || first ≠ [] || s.ops.any (fun x => x.thr == o.thr && x.unsent.isSome && x.lines.any (fun l => o.lines.contains l)) then
    s.launch { o with unsent := some op, needs := o.needs ++ first }
  else (s.sendFar ctx a o.prin op).launch { o with deadline := s.tick + 2 ^ 20 }

/-- A result reaches a pushed store that waits for it: its bits join the data, and with the last of them the store is on its
way. -/
def State.fillOne (s : State) (bits : VReg) (id : Nat) : State :=
  match s.findOp id with
  | none => s
  | some o =>
    let o := { o with vdata := o.vdata ||| bits, waits := o.waits - 1 }
    if o.waits ≠ 0 then s.mapOps (fun x => if x.id = id then o else x)
    else
      let (due, s) := s.soon
      s.mapOps (fun x => if x.id = id then { o with due := due } else x)
def State.fillPush (s : State) (p : List Nat) (bits : VReg) : State := p.foldl (fun s n => s.fillOne bits n) s

/-- Pushed stores whose data never comes: their elements are not written. -/
def State.dropPush (s : State) (p : List Nat) : State := p.foldl (fun s n => s.dropOp n) s

/-- One memory instruction more of the core-context's window of 4,096 (R272). -/
def State.countMem (s : State) : State :=
  let cc := s.me.cc
  let c := s.coreCtx cc
  s.setCoreCtx cc { c with memOps := c.memOps + 1 }

/-! ## Pages an instruction itself waits for -/

/-- A page the instruction in issue needs is not present: PAGE at its bundle in user mode; in runtime mode the thread parks
until the page is resident, and a page that cannot be is fatal (R170, R306). -/
def State.needPage (s : State) (va : Nat) : State :=
  let t := s.me
  let s := s.faultReq va t.cc
  if t.mode = .user then s.raise { cause := causePAGE, info := 0, fva := 0, upc := t.pc }
  else if t.noPage.contains (va / 65536) then
    (s.fatal s.cur causeINRUN causePAGE (BitVec.ofNat 64 va) t.pc).trap { cause := causeINRUN, info := 0, fva := BitVec.ofNat 64 va, upc := t.pc }
  else s.park (.page va)

/-- The parts of [a, a + n) on another device that one read asks for: 64 bytes, aligned (DESIGN CHOICE, log 14). -/
def farCut : Nat → Nat → Nat → List (Nat × Nat)
  | 0, _, _ => []
  | k + 1, a, n =>
    let m := min n (64 - a % 64)
    if n = 0 then [] else (a, m) :: farCut k (a + m) (n - m)
/-- The key of a part of another device's memory, by its address and its length (at most 64 bytes). -/
def farKey (a n : Nat) : Nat := a * 128 + n
def farParts (a n : Nat) : List (Nat × Nat) := farCut (n / 64 + 2) a n

/-- A request of the instruction in issue to another device, whose reply its thread keeps under a number. -/
def State.askFar (s : State) (key a n : Nat) (op : FarOp) : State :=
  let t := s.me
  ((s.setMe { t with blocks := t.blocks.put key { op := s.nextId } }).sendFar t.ctx a t.prin op).launch
    { id := 0, thr := s.cur, cc := t.cc, kind := .block, place := .far key, va := a, n := n, prin := t.prin, conf := true, slot := t.slot,
      issued := t.issued, deadline := s.tick + 2 ^ 20 }

/-- Parts on another device that the instruction in issue needs: all of them, or the state with reads out for those that are
missing (R281, R402). -/
def State.farAsk (s : State) (ps : List (Nat × Nat)) (gather : Bool) : Go State :=
  let missing := ps.filter (fun p => !s.me.blocks.has p.1)
  if missing ≠ [] then .error ((missing.foldl (fun s p => s.askFar p.1 p.1 p.2 (.read p.2 gather)) s).again)
  else if ps.any (fun p => (s.me.blocks.get { op := 0 } p.1).got.isNone) then .error s.again
  else .ok s

/-- The bytes of a part that has come; none for uncorrectable data. -/
def State.farGot (s : State) (k : Nat) (a : Nat) : Option (List Byte) := (((s.thread k).blocks.get { op := 0 } a).got).join

/-- A block operand of at most 64 bytes on another device: its reply is taken once. -/
def State.farBlock (s : State) (i : Instr) (a n : Nat) (gather : Bool) : Go (List Byte × State) := do
  let s ← s.farAsk [(a, n)] gather
  let t := s.me
  let s' := s.setMe { t with blocks := t.blocks.del a }
  match s.farGot s.cur a with
  | some bs => .ok (bs.take n, s')
  | none => .error (s'.raise { cause := causeDATAERR, info := opWord i, fva := 0, upc := t.pc })

/-- A block of n bytes read by the instruction in issue, under the checks and tag rules of a load; denied bytes read as
zero (R121, R125, R131, R159, R170; DEDUCED, log 26; DEDUCED, log 27). -/
def State.readBlock (s : State) (i : Instr) (a : Int) (n al : Nat) : Go (List Byte × State) :=
  let t := s.me
  match s.check t a n al .read with
  | .error e => .error (s.failCheck (opWord i) e)
  | .ok r =>
    let s := s.checked t r
    if s.acquiring s.cur || s.linesBusy s.cur (placeLines r.place n) then .error s.again else
    match r.place with
    | .lm cc off =>
      if s.lmBad cc off n then .error ((s.reportLm cc off).raise { cause := causeDATAERR, info := opWord i, fva := 0, upc := t.pc })
      else .ok (s.lmRead cc off n, s.lmCorrect cc off n)
    | .far fa => s.farBlock i fa n false
    | .glob va =>
      let s := s.clrFill (s.physCore t) r.ctx t.prin r.tag
      if !s.lets r t.prin then .ok (List.replicate n 0, s.deny s.cur (BitVec.ofInt 64 a) r 0)
      else match s.gread t.cc va n (s.wantOf t 63) with
        | (.bytes bs, s) => .ok (bs, s.lineTouch t.cc (s.physCore t) va (.load true) (s.wantOf t 63))
        | (.absent va, s) => .error (s.needPage va)
        | (.dataError va, s) =>
          .error ((s.reportData t.ctx va).raise { cause := causeDATAERR, info := opWord i, fva := 0, upc := t.pc })

/-- A block of n bytes that the instruction in issue will write, checked as a store (R122, R127); on a page that is not present it asks
for the page before anything is taken from a queue (DEDUCED, log 26). -/
def State.destBlock (s : State) (i : Instr) (a : Int) (n al : Nat) : Go (Acc × State) :=
  let t := s.me
  match s.check t a n al .write with
  | .error e => .error (s.failCheck (opWord i) e)
  | .ok r =>
    let s := s.checked t r
    if s.acquiring s.cur || s.linesBusy s.cur (placeLines r.place n) then .error s.again else
    match r.place with
    | .glob va =>
      if !s.lets r t.prin then .ok (r, s)
      else match s.locate va with
        | .bad => .error ((s.reportData t.ctx va).raise { cause := causeDATAERR, info := opWord i, fva := 0, upc := t.pc })
        | .absent => .error (s.needPage va)
        | .at_ _ _ => if s.migratingAt va then .error s.again else .ok (r, s)
    | _ => .ok (r, s)

/-- The block written: a denied write is dropped and logged (R137); one to another device is sent, and ends with its reply. -/
def State.putBlock (s : State) (r : Acc) (a : Word) (bs : List Byte) : State :=
  let t := s.me
  match r.place with
  | .lm cc off => s.lmWrite cc off bs
  | .far fa =>
    (s.sendFar t.ctx fa t.prin (.write bs)).launch
      { id := 0, thr := s.cur, cc := t.cc, kind := .vstore, place := .far fa, va := fa, n := bs.length, prin := t.prin, conf := true, slot := t.slot,
        issued := t.issued, deadline := s.tick + 2 ^ 20 }
  | .glob va =>
    let s := s.clrFill (s.physCore t) r.ctx t.prin r.tag
    if !s.lets r t.prin then s.deny s.cur a r 1
    else match s.gwrite t.cc va bs (s.wantOf t 63) with
      | (.bytes _, s) => s.lineTouch t.cc (s.physCore t) va .write (s.wantOf t 63)
      | (.absent _, s) => s
      | (.dataError va, s) => s.reportData t.ctx va

end Sys2Proof.Machine
end

