-- ==== Sys2Proof/Machine/Image.lean ====
section
/-! DEFINITION. The save area of a context (R318 to R321): thread records, stream entries, kernel save descriptors, and the
spawn area, as bytes; where they lie is Config.saveArea (DESIGN CHOICE, log 19). -/

namespace Sys2Proof.Machine

/-- The areas of a kernel in its context's save area: 0 core-contexts, 1 threads, 2 groups, 3 spawned, 4 clause slots. -/
def Kernel.area (k : Kernel) (kid n : Nat) : Nat := Config.saveArea k.ctx kid n

/-! ## Records (R320, R321) -/

/-- A stream entry of 192 bytes; zero for an unbound register. -/
def Stream.image (st : Stream) : List Byte :=
  if !st.bound then List.replicate 192 0 else
  let flags := 1 + (if st.partner.isSome then 2 else 0) + (if st.orderError then 4 else 0) + (st.partner.getD 0).toNat * 8
  leBytes 64 st.desc.toNat ++ leBytes 6 st.pos ++ leBytes 2 flags ++
    (if st.partner.isSome then (Config.pairState st.i st.j st.pairs ++ List.replicate 56 0).take 56 else List.replicate 56 0) ++
    leBytes 64 (st.fetched.getD 0).toNat

/-- Marks of copy numbers that await their token. -/
def Thread.tokWord (t : Thread) : Nat := (t.tok.map (fun e => 2 ^ e.1)).sum

/-- A thread record; `meet` is bit 1 of PC, a wait in a DET meet. -/
def Thread.image (t : Thread) (meet : Bool) : List Byte :=
  let w (x : Word) : List Byte := leBytes 8 x.toNat
  let pc := (t.pc &&& ~~~0xF) ||| (if t.mode = .runtime then 1 else 0) ||| (if meet then 2 else 0)
  let pbits := ((List.range 8).map (fun i => if i ≠ 0 && t.regs.p[i % 8]! then 2 ^ i else 0)).sum
  w pc ++ (t.regs.x.toList.drop 1).flatMap w ++ t.regs.v.toList.flatMap (fun v => leBytes 64 v.toNat) ++
    leBytes 1 pbits ++ leBytes 1 (t.rper.toNat + if t.rperSet then 128 else 0) ++
    (t.regs.q.toList.drop 1).flatMap (fun q => leBytes 2 q.toNat) ++
    leBytes 4 t.tid.toNat ++ leBytes 4 t.prin.toNat ++ leBytes 8 t.mul.toNat ++
    [t.tmcmp, t.upvec, t.upc, t.fva, t.finfo, t.rkey, t.rctr, t.nto].flatMap w ++
    leBytes 4 t.glo.toNat ++ leBytes 4 t.ghi.toNat ++ leBytes 4 t.ucause.toNat ++ leBytes 4 (t.umask.toNat * 2 ^ 8) ++
    leBytes 4 t.stat.toNat ++ leBytes 4 t.modeReg.toNat ++ leBytes 8 (t.pend.toNat + t.frame.length * 2 ^ 32) ++
    leBytes 8 t.xpf.toNat ++ leBytes 8 t.xde.toNat ++ leBytes 8 t.vde.toNat ++ leBytes 8 t.tokWord ++
    (t.frame.flatMap FaultRec.bytes ++ List.replicate 128 0).take 128 ++
    (List.range 8).flatMap (fun n => (t.streams.get {} n).image) ++ List.replicate 32 0

/-! ## Descriptors and the spawn area (R319, R339) -/

/-- Waiting spawned threads of a kernel, in %tid order. -/
def State.spawned (s : State) (kid : Nat) : List Thread :=
  let n := ((s.kernel kid).record.extractLsb' 32 32).toNat
  (s.threads.filter (fun e => e.2.kid == kid && e.2.life == .waiting && decide (n ≤ e.2.tid.toNat))).map (·.2)

/-- A kernel save descriptor; `valid` is FLAGS[0]. -/
def State.descriptor (s : State) (kid : Nat) (valid : Bool) : List Byte :=
  let k := s.kernel kid
  let n := (s.ctx k.ctx).arrays.length
  let flags := (if valid then 1 else 0) + (if k.det then 2 else 0) + (if k.mig then 4 else 0) + (if k.shr then 8 else 0)
  leBytes 1 k.nrow ++ leBytes 1 k.ncol ++ leBytes 1 flags ++ leBytes 1 n ++ leBytes 4 0 ++
    leBytes 8 (k.area kid 0) ++ leBytes 8 (k.area kid 1) ++ leBytes 8 (k.area kid 2) ++ leBytes 8 (k.area kid 2 + 0x8_0000) ++
    leBytes 8 (k.area kid 3) ++ leBytes 4 (s.spawned kid).length ++ leBytes 4 0 ++
    leBytes 8 (if n = 0 then 0 else Config.saveArea k.ctx 0 4)

/-- Where a kernel's descriptor lies in the header of its context's save area. -/
def State.descAddr (s : State) (kid : Nat) : Nat := let k := s.kernel kid; (s.ctx k.ctx).savebase + 64 + 64 * k.saveSlot

/-- Whether a kernel has a descriptor: from its grant until it retires or faults. -/
def Kernel.described (k : Kernel) : Bool := k.st == .staging || k.st == .running || k.st == .preempted || k.st == .draining

/-- The descriptor of a kernel written (R319). -/
def State.writeDesc (s : State) (kid : Nat) (valid : Bool) : State := s.poke (s.descAddr kid) (s.descriptor kid valid)

/-- The spawn area and its count brought up to date. -/
def State.noteSpawn (s : State) (kid : Nat) : State :=
  if !(s.kernel kid).described then s else
  (s.poke ((s.kernel kid).area kid 3) ((s.spawned kid).flatMap (fun t => t.image false))).writeDesc kid true

/-- A clause array leased by a context for the first time gets a spill slot, and every descriptor counts it (R318). -/
def State.noteArray (s : State) (ctx u : Nat) : State :=
  let c := s.ctx ctx
  if u < 256 || c.arrays.contains u then s else
  let s := s.setCtx ctx { c with arrays := c.arrays ++ [u] }
  s.kernels.foldl (fun s k => if k.2.ctx = ctx && k.2.described then s.writeDesc k.1 true else s) s

/-! ## Records read back (R322) -/

/-- Bytes o to o + n - 1 of a record, as a word of w bits. -/
def recAt (w : Nat) (bs : List Byte) (o n : Nat) : BitVec w := wordOf w ((bs.drop o).take n)

/-- A record of the save area: none where some of it cannot be read. -/
def State.savedBytes (s : State) (va n : Nat) : Option (List Byte) × State :=
  match s.peek va n with
  | (.bytes bs, s) => (some bs, s)
  | (_, s) => (none, s)

/-- A record written for a pre-empted kernel, and remembered as written. -/
def State.saveRecord (s : State) (kid va : Nat) (bs : List Byte) : State :=
  let s := s.poke va bs
  let k := s.kernel kid
  s.setKernel kid { k with saved := k.saved.put va bs }

/-- A record of a pre-empted kernel that was changed since it was written, as it stands now; none where it is unchanged. -/
def State.changedRecord (s : State) (kid va n : Nat) : Option (List Byte) × State :=
  match s.savedBytes va n with
  | (some bs, s) => (if (s.kernel kid).saved.get [] va = bs then none else some bs, s)
  | (none, s) => (none, s)

/-- A stream entry read back; what the entry does not hold stays as the device kept it (DESIGN CHOICE, log 54). -/
def Stream.restored (st : Stream) (bs : List Byte) : Stream :=
  let fl : BitVec 16 := recAt 16 bs 70 2
  if !fl.getLsbD 0 then {} else
  { st with
    bound := true, desc := recAt 512 bs 0 64, pos := (recAt 48 bs 64 6).toNat, orderError := fl.getLsbD 2
    partner := if fl.getLsbD 1 then some (fl.extractLsb' 3 3) else none
    fetched := st.fetched.map (fun _ => recAt 512 bs 128 64) }

def FaultRec.restored (bs : List Byte) (o : Nat) : FaultRec :=
  { va := recAt 64 bs o 8, data := recAt 64 bs (o + 8) 8, data2 := recAt 64 bs (o + 16) 8, info := recAt 64 bs (o + 24) 8 }

/-- A thread as its record holds it. -/
def Thread.restored (t : Thread) (bs : List Byte) : Thread :=
  let w (o : Nat) : Word := recAt 64 bs o 8
  let h (o : Nat) : BitVec 32 := recAt 32 bs o 4
  let pbits : BitVec 8 := recAt 8 bs 2304 1
  let rp : BitVec 8 := recAt 8 bs 2305 1
  let regs : Regs :=
    { x := Vector.ofFn (fun i : Fin 32 => if i.val = 0 then t.regs.x[0] else w (8 * i.val))
      v := Vector.ofFn (fun i : Fin 32 => recAt 512 bs (256 + 64 * i.val) 64)
      p := Vector.ofFn (fun i : Fin 8 => if i.val = 0 then t.regs.p[0] else pbits.getLsbD i.val)
      q := Vector.ofFn (fun i : Fin 8 => if i.val = 0 then t.regs.q[0] else recAt 16 bs (2304 + 2 * i.val) 2) }
  let tok := (w 2456)
  { t with
    regs := regs, pc := w 0 &&& ~~~0xF, mode := if (w 0).getLsbD 0 then .runtime else .user
    rper := rp.truncate 4, rperSet := rp.getLsbD 7
    tid := h 2320, prin := h 2324, mul := (w 2328).truncate 48
    tmcmp := w 2336, upvec := w 2344, upc := w 2352, fva := w 2360, finfo := w 2368, rkey := w 2376, rctr := w 2384, nto := w 2392
    glo := h 2400, ghi := h 2404, ucause := recAt 8 bs 2408 1, umask := (h 2412).extractLsb' 8 6
    stat := zx (h 2416), modeReg := (h 2420).truncate 5, pend := (w 2424).truncate 14 &&& 0x3F80
    xpf := h 2432, xde := h 2440, vde := h 2448
    tok := ((List.range 32).filter (fun i => i ≠ 0 && tok.getLsbD i)).map (fun i => (i, (w (8 * i)).toNat))
    frame := (List.range (min ((w 2424).extractLsb' 32 3).toNat 4)).map (fun i => FaultRec.restored bs (2464 + 32 * i))
    streams := ((List.range 8).map (fun n => (n, (t.streams.get {} n).restored (bs.drop (2592 + 192 * n))))).filter (fun e => e.2.bound) }

/-- A waiting spawned thread starts from its record in the spawn area (R319, R322), where there is one. -/
def State.readSpawned (s : State) (kid k : Nat) : State :=
  let kn := s.kernel kid
  if !kn.described then s else
  match (s.spawned kid).findIdx? (fun t => t.tid == (s.thread k).tid) with
  | none => s
  | some i =>
    match s.savedBytes (kn.area kid 3 + 4160 * i) 4160 with
    | (some bs, s) => if bs = (s.thread k).image false then s else s.setThread k { (s.thread k).restored bs with tok := [] }
    | (none, s) => s

end Sys2Proof.Machine
end

