-- ==== Sys2Proof/Machine/Threads.lean ====
section
/-! DEFINITION. Slot A: threads, groups, meets, SLEEP and MIGR (R111 to R120, R352 to R365), with the device events that
release, place and interrupt threads. -/

namespace Sys2Proof.Machine

/-- An event the device cannot take now (DESIGN CHOICE, log 9). -/
def notNow (name : String) : Res := .refused (.eventNotEnabled name)

/-! ## Slots and placement (R111, R339, R345) -/

/-- Whether a slot of a logical core of a kernel holds a thread. -/
def State.slotUsed (s : State) (kid core slot : Nat) : Bool :=
  s.threads.any (fun e => e.2.kid == kid && e.2.life == .resident && e.2.core == core && e.2.slot == slot)
/-- The lowest free slot of a logical core for which no thread waits. -/
def State.freeSlot (s : State) (kid core : Nat) : Option Nat :=
  (List.range 16).find? (fun n => !s.slotUsed kid core n &&
    !s.threads.any (fun e => e.2.kid == kid && e.2.life == .waiting && e.2.core == core && e.2.slot == n))
/-- Ready threads of a logical core: resident and not parked (R345). -/
def State.readyCount (s : State) (kid core : Nat) : Nat :=
  (s.threads.filter (fun e => e.2.kid == kid && e.2.life == .resident && e.2.core == core && e.2.wait.isNone)).length
/-- The logical core at a position of a logical cluster, where the shape has one (R15). -/
def Kernel.coreAt (k : Kernel) (lc pos : Nat) : Option Nat :=
  (List.range k.ncore).find? (fun c => k.lcOf c == lc && k.posOf c == pos)
/-- %load: byte i holds the ready count of position i (R345). -/
def State.loadWord (s : State) (kid lc : Nat) : Word :=
  let k := s.kernel kid
  BitVec.ofNat 64 (leNat ((List.range 8).map (fun p =>
    match k.coreAt lc p with | some c => BitVec.ofNat 8 (s.readyCount kid c) | none => 0)))

/-- A kernel whose last thread is gone starts draining (R335). -/
def State.lastThread (s : State) (kid : Nat) : State :=
  let k := s.kernel kid
  if k.st = .running && !s.threads.any (fun e => e.2.kid == kid && (e.2.life == .resident || e.2.life == .waiting)) then
    s.setKernel kid { k with st := .draining }
  else s

/-! ## Meets (R356 to R362) -/

/-- Entries in use in the meet table of a logical cluster, and the lowest free one. -/
def meetKey (lc n : Nat) : Nat := lc * 256 + n
def Kernel.freeMeet (k : Kernel) (lc : Nat) : Option Nat := (List.range 256).find? (fun n => !k.meets.has (meetKey lc n))
/-- The open entry of (g, M) in a cluster's table, local or home. -/
def Kernel.findMeet (k : Kernel) (lc : Nat) (home : Bool) (g : BitVec 16) (m : BitVec 8) : Option Nat :=
  k.meets.findKey (fun n e => n / 256 == lc && e.home == home && e.gid == g && e.mid == m && (!home || !e.closing))
def Kernel.homeOf (k : Kernel) (g : BitVec 16) : Nat := g.toNat % max k.lclusters 1
def genKey (g : BitVec 16) (m : BitVec 8) : Nat := g.toNat * 256 + m.toNat

/-- Two waiting threads are equal (R116); M is the entry's. -/
def sameState (s : State) (x y : Waiter) : Bool :=
  let a := s.thread x.thr
  let b := s.thread y.thr
  x.hash == y.hash && a.pc == b.pc && x.live == y.live &&
    (List.range 32).all (fun i => !x.live.getLsbD i || s.xOf x.thr (BitVec.ofNat 6 i) == s.xOf y.thr (BitVec.ofNat 6 i)) &&
    (List.range 8).all (fun i => i = 0 || a.regs.p[i % 8]! == b.regs.p[i % 8]!) &&
    a.groups.all (fun g => b.groups.contains g) && b.groups.all (fun g => a.groups.contains g)

/-- A waiting thread released with D. -/
def State.wake (s : State) (k : Nat) (v : Word) : State :=
  let t := s.thread k
  s.setThread k { t with wait := none, reply := some v }

/-- Operations of a thread that ends: loads and replies are discarded, writes and pushes still perform (R112, R118, R199). -/
def State.orphan (s : State) (k : Nat) : State :=
  let keep (o : Op) : Bool :=
    o.thr != k || !o.push.isEmpty || (match o.kind with | .store | .sc | .amo _ _ | .cas _ | .xacc | .xclr | .vstore | .feset _ | .decrement _ _ _ | .arrive _ _ | .fetch _ | .engWrite _ => true | _ => false)
  { s with ops := (s.ops.filter keep).map (fun o => if o.thr = k then { o with dst := none, pred := 0, acq := false } else o) }

/-- When a thread that is placed in this cycle may first issue: not in the cycle itself, and one turn later on a core that was idle
(R417; DEDUCED, log 93). -/
def State.startAt (s : State) (kid core : Nat) : Nat :=
  let pc := s.physCore { kid := kid, core := core }
  if s.threads.any (fun e => e.2.life == .resident && s.physCore e.2 == pc) then s.cycle + 1 else s.cycle + 16

/-- An access that something waits for: in flight, or faulted and not yet executed again by the runtime (R111, R139;
DEDUCED, log 100). -/
def State.awaits (s : State) (n : Nat) : Bool := s.ops.any (fun o => o.id == n) || s.threads.any (fun e => e.2.owed.contains n)

/-- A thread out of its slot. -/
def State.endThread (s : State) (k : Nat) : State :=
  let s := s.orphan k
  let t := s.thread k
  s.setThread k { t with life := .ended, resv := none, frame := [], owed := [], streams := [], pend := 0, groups := [], wait := none }

/-- One class of equal threads, the lowest %tid first, released (R118). -/
def State.releaseClass (s : State) (c : List Waiter) : State :=
  match c with
  | [] => s
  | [w] => s.wake w.thr 0
  | w :: rest =>
    let sum := (c.map (fun x => (s.thread x.thr).mul.toNat)).sum
    if 2 ^ 48 ≤ sum then
      let s := c.foldl (fun s x => s.wake x.thr 0) s
      s.fatal w.thr causeMULT 0 (s.thread w.thr).fva (s.thread w.thr).pc
    else
      let t := s.thread w.thr
      let s := (s.setThread w.thr { t with mul := BitVec.ofNat 48 sum }).wake w.thr 1
      rest.foldl (fun s x => s.endThread x.thr) s

/-- The equality classes of waiting threads, in order of %tid. -/
def classes (s : State) : List Waiter → List (List Waiter)
  | [] => []
  | w :: rest =>
    let cs := classes s rest
    match cs.findIdx? (fun c => c.any (fun x => sameState s w x)) with
    | some i => cs.modify i (fun c => w :: c)
    | none => [w] :: cs

def insertTid (s : State) (w : Waiter) : List Waiter → List Waiter
  | [] => [w]
  | x :: t => if (s.thread w.thr).tid ≤ (s.thread x.thr).tid then w :: x :: t else x :: insertTid s w t

/-- A local entry closed: its waiters released, the entry freed, and the home entry with the generation's last (R359). -/
def State.closeLocal (s : State) (kid entry : Nat) : State :=
  let k := s.kernel kid
  match k.meets.find? (fun e => e.1 == entry) with
  | none => s
  | some (_, e) =>
    let meets := k.meets.del entry
    let more := meets.any (fun x => !x.2.home && x.2.gid == e.gid && x.2.mid == e.mid && x.2.gen == e.gen)
    let meets := if more then meets else meets.filter (fun x => !(x.2.home && x.2.gid == e.gid && x.2.mid == e.mid && x.2.gen == e.gen))
    let s := s.setKernel kid { k with meets := meets }
    let ws := e.waiters.foldr (insertTid s) []
    ((classes s ws).foldl State.releaseClass s).lastThread kid

/-- The completion test of every open generation of g (R358); closes are on their way to the local entries (R359). -/
def State.testMeets (s : State) (kid : Nat) (g : BitVec 16) : State :=
  let k := s.kernel kid
  k.meets.foldl (fun s e =>
    if e.2.home && !e.2.closing && e.2.gid = g && e.2.need ≤ e.2.arr then
      let (due, s) := s.later
      let k := s.kernel kid
      s.setKernel kid { k with meets := k.meets.mapV (fun n x =>
        if n = e.1 then { x with closing := true }
        else if !x.home && x.gid = g && x.mid = e.2.mid && x.gen = e.2.gen then { x with closing := true, due := due }
        else x) }
    else s) s

/-- ARR or NEED of every open generation of g raised (R358). -/
def State.countMeets (s : State) (kid : Nat) (g : BitVec 16) (arr need : Nat) : State :=
  let k := s.kernel kid
  (s.setKernel kid { k with meets := k.meets.mapV (fun _ x =>
    if x.home && !x.closing && x.gid = g then { x with arr := x.arr + arr, need := x.need + need } else x) }).testMeets kid g

/-! ## Group records (R352 to R355) -/

def Kernel.group (k : Kernel) (g : BitVec 16) : Group := k.groups.get {} g.toNat
/-- A group record in its 8 bytes. -/
def Group.bytes (r : Group) : List Byte := leBytes 8 (r.count.toNat + if r.live then 2 ^ 48 else 0)
/-- A record changed, in the meet unit and in the group area: the unit's copy affects timing only (DESIGN CHOICE, log 94). -/
def State.setGroup (s : State) (kid : Nat) (g : BitVec 16) (r : Group) : State :=
  let k := s.kernel kid
  let s := s.setKernel kid { k with groups := k.groups.put g.toNat r }
  if k.described then s.poke (k.area kid 2 + 8 * g.toNat) r.bytes else s

/-- LEAVE or EXIT of a member with multiplicity m. -/
def State.leaveGroup (s : State) (kid : Nat) (g : BitVec 16) (m : BitVec 48) : State :=
  let r := (s.kernel kid).group g
  let c := r.count - m
  (s.setGroup kid g (if c = 0 then {} else { r with count := c })).countMeets kid g m.toNat 0

/-- EXIT (R112): groups left, the thread retired, its kernel perhaps draining. -/
def State.exitThread (s : State) (k : Nat) : State :=
  let t := s.thread k
  ((t.groups.foldl (fun s g => s.leaveGroup t.kid g t.mul) s).endThread k).lastThread t.kid

def groupOf (w : Word) : BitVec 16 := w.extractLsb' 0 16

/-- JOIN (R113, R354; DESIGN CHOICE, log 24). -/
def execJoin (d s1 : SReg) (s : State) : Res :=
  let t := s.me
  let g := groupOf (s.rx s1)
  let r := (s.kernel t.kid).group g
  if t.groups.contains g then done (s.wx d (zx r.count))
  else if 4 ≤ t.groups.length then done (s.wx d 0)
  else if 2 ^ 48 ≤ r.count.toNat + t.mul.toNat then
    done (s.raise { cause := causeMULT, info := opWord (.join d s1), fva := t.fva, upc := t.pc })
  else
    let c := r.count + t.mul
    let s := (s.setGroup t.kid g { count := c, live := true }).countMeets t.kid g 0 t.mul.toNat
    done ((s.setMe { s.me with groups := t.groups ++ [g] }).wx d (zx c))

/-- LEAVE (R113, R354). -/
def execLeave (d s1 : SReg) (s : State) : Res :=
  let t := s.me
  let g := groupOf (s.rx s1)
  if !t.groups.contains g then done (s.wx d (-1))
  else
    let c := ((s.kernel t.kid).group g).count - t.mul
    let s := s.setMe { t with groups := t.groups.filter (· != g) }
    done ((s.leaveGroup t.kid g t.mul).wx d (zx c))

def execGcount (d s1 : SReg) (s : State) : Res :=
  done (s.wx d (zx ((s.kernel s.me.kid).group (groupOf (s.rx s1))).count))

/-! ## MEET (R114 to R118, R357) -/

/-- The hash of a meet over the declared registers and the pc (R115). -/
def State.meetHash (s : State) (mid : BitVec 8) (live : BitVec 32) : BitVec 16 :=
  let h := (List.range 32).foldl (fun h i => if live.getLsbD i then fold16 h (s.rx (BitVec.ofNat 6 i)) else h) (mid.zeroExtend 16)
  h.rotateLeft 5 ^^^ s.me.pc.extractLsb' 4 16

/-- arrive (R357): none where a table is full (DESIGN CHOICE, log 24). -/
def State.arrive (s : State) (g : BitVec 16) (m : BitVec 8) (win : BitVec 22) (live : BitVec 32) (h : BitVec 16) :
    Option (State × Nat) :=
  let t := s.me
  let k := s.kernel t.kid
  let lc := k.lcOf t.core
  let hc := k.homeOf g
  let w : Waiter := { thr := s.cur, hash := h, live := live }
  let blank (home : Bool) (gen : BitVec 16) (need : Nat) : Meet :=
    { closing := false, home := home, gid := g, mid := m, gen := gen, win := if home then 0 else win,
      opened := if home then 0 else s.tick, need := need, arr := 0, waiters := [], due := 0 }
  match k.findMeet lc false g m with
  | some le =>
    let e := k.meets.get (blank false 0 0) le
    let meets := k.meets.put le { e with waiters := e.waiters ++ [w] }
    let meets := meets.mapV (fun _ x =>
      if x.home && x.gid = g && x.mid = m && x.gen = e.gen then { x with arr := x.arr + t.mul.toNat } else x)
    some (s.setKernel t.kid { k with meets := meets }, le)
  | none =>
    match k.freeMeet lc with
    | none => none
    | some n =>
      let le := meetKey lc n
      match k.findMeet hc true g m with
      | some he =>
        let x := k.meets.get (blank true 0 0) he
        let meets := (k.meets.put he { x with arr := x.arr + t.mul.toNat }).put le { blank false x.gen 0 with waiters := [w] }
        some (s.setKernel t.kid { k with meets := meets }, le)
      | none =>
        let gen := k.gens.get 0 (genKey g m) + 1
        let k1 := { k with meets := k.meets.put le { blank false gen 0 with waiters := [w] } }
        match k1.freeMeet hc with
        | none => none
        | some h =>
          let home := { blank true gen (k.group g).count.toNat with arr := t.mul.toNat }
          some (s.setKernel t.kid { k1 with meets := k1.meets.put (meetKey hc h) home, gens := k1.gens.put (genKey g m) gen }, le)

def execMeet (d s1 s2 : SReg) (mid : BitVec 8) (win : BitVec 22) (s : State) : Res :=
  let t := s.me
  match t.reply with
  | some v => done (s.wx d v)
  | none =>
    let g := groupOf (s.rx s1)
    let live : BitVec 32 := (s.rx s2).extractLsb' 0 32 &&& 0xFFFF_FFFE
    if s.reservations s.cur ≠ 0 && t.mode = .user then done s.again
    else if t.mode = .user && (!t.frame.isEmpty || live &&& t.xpf ≠ 0) then
      done (s.raise { cause := causePAGE, info := 0, fva := 0, upc := t.pc })
    else if !t.groups.contains g then done (s.wx d 0)
    else if (List.range 32).any (fun i => live.getLsbD i && s.ops.any (fun o => o.thr == s.cur && o.dst == some (.s (BitVec.ofNat 6 i)))) then
      done s.again
    else
      match s.arrive g mid win live (s.meetHash mid live) with
      | none => done ((s.orStat s.cur statMeetFull).wx d 0)
      | some (s, le) =>
        let k := s.kernel t.kid
        let s := s.park (.meet (k.lcOf t.core) le)
        let s := s.testMeets t.kid g
        done (if win = 0 && !k.det then s.closeLocal t.kid le else s)

/-- A local entry's window reached (R359); `table` is kernel × 1,024 + logical cluster. -/
def State.windowDue (s : State) (kid entry : Nat) : Bool :=
  let k := s.kernel kid
  !k.det && k.meets.any (fun e => e.1 == entry && !e.2.home && !e.2.closing && decide (e.2.opened + e.2.win.toNat ≤ s.tick))
def execMeetWindowExpiry (table entry : Nat) (s : State) : Res :=
  let n := meetKey (table % 1024) entry
  if s.windowDue (table / 1024) n then done (s.closeLocal (table / 1024) n) else notNow "MEET_WINDOW_EXPIRY"
/-- A close from the home reaches a local entry (R359). -/
def execMeetClose (table entry : Nat) (s : State) : Res :=
  let n := meetKey (table % 1024) entry
  if (s.kernel (table / 1024)).meets.any (fun e => e.1 == n && !e.2.home && e.2.closing) then done (s.closeLocal (table / 1024) n)
  else notNow "MEET_CLOSE"

/-! ## SPAWN (R111) -/

/-- A thread record of a kernel for %tid t, waiting for its slot (R111, R126, R339; DESIGN CHOICE, log 6). -/
def State.newThread (s : State) (kid : Nat) (tid : Nat) : Thread :=
  let k := s.kernel kid
  let core := tid / 16 % max k.ncore 1
  { kid := kid, ctx := k.ctx, life := .waiting, tid := BitVec.ofNat 32 tid, core := core, slot := tid % 16,
    rper := (s.coreCtx (ccKey kid core)).rper, rkey := mix64 (BitVec.ofNat 64 tid),
    modeReg := (if k.mig then 8 else 0) ||| (if k.det then 16 else 0) }

/-- %nthread of a kernel. -/
def noThread : Word := 0xFFFF_FFFF_FFFF_FFFF

/-- A value on its way to the register D of the bundle in issue (R98). -/
def State.replyLater (s : State) (d : SReg) (w : Word) : State :=
  let t := s.me
  s.launch { id := 0, thr := s.cur, cc := t.cc, kind := .reply, dst := some (.s d), data := w, slot := t.slot, issued := t.issued }

def execSpawn (d s1 s2 : SReg) (s : State) : Res :=
  let t := s.me
  let e := s.rx s1
  let i : Instr := .spawn d s1 s2
  if e.toNat % 16 ≠ 0 then done (s.failCheck (opWord i) (causeALIGN, e))
  else if !isLocal e.toNat then done (s.failCheck (opWord i) (causeADDRESS, e))
  else
    let k := s.kernel t.kid
    if k.nthread = 2 ^ 32 - 1 then done (s.replyLater d noThread)
    else
      let n := k.nthread
      let c := s.newThread t.kid n
      let regs := { Regs.zero with x := (Regs.zero.x.set 1 (s.rx s2)).set 2 (zx t.tid) }
      let c := { c with pc := e, npc := e, regs := regs, mul := t.mul, prin := t.prin, rper := t.rper, modeReg := t.modeReg,
                        nto := t.nto, umask := t.umask, upvec := t.upvec, tmcmp := 0, rkey := t.rkey ^^^ mix64 (BitVec.ofNat 64 n),
                        after := (s.ops.filter (fun o => o.thr == s.cur && o.kind.isAccess)).map (·.id) ++ t.owed }
      let s := s.setKernel t.kid { k with nthread := n + 1 }
      done (((s.setThread (threadKey t.kid n) c).replyLater d (BitVec.ofNat 64 n)).noteSpawn t.kid)

/-- A cause set pending in a thread with what it will report (R308). -/
def State.pendCause (s : State) (k cause : Nat) (info fva : Word) : State :=
  let t := s.thread k
  s.setThread k { t with pend := t.pend ||| (1#14 <<< cause), info := t.info.put cause (info, fva) }

/-- The word of a PEER cause (R307). -/
def peerWord (ctx cause : Nat) : Word := BitVec.ofNat 64 (ctx % 2 ^ 10 + cause % 2 ^ 8 * 2 ^ 16)

/-- A PEER notice that the save area header holds goes to the next thread dispatched that enables it (R316, R318). -/
def State.givePeer (s : State) (k : Nat) : State :=
  let t := s.thread k
  let c := s.ctx t.ctx
  match c.peers with
  | some (_, ctx, cause) =>
    if t.umask.getLsbD 5 then
      ((s.setCtx t.ctx { c with peers := none }).poke (c.savebase + 32) (leBytes 32 0)).pendCause k causePEER (peerWord ctx cause) 0
    else s
  | none => s

/-- Upcalls a core-context and a context hold go to the next thread dispatched there (R212, R316). -/
def State.giveHeld (s : State) (k : Nat) : State :=
  let cc := (s.thread k).cc
  let c := s.coreCtx cc
  (c.held.foldl (fun s h => s.pendCause k h.1 h.2.1 h.2.2) (s.setCoreCtx cc { c with held := [] })).givePeer k

/-- A waiting thread starts in its freed slot: the lowest %tid first (R339). -/
def State.placeable (s : State) (cc slot : Nat) : Option Nat :=
  let kid := cc / 1024
  if (s.kernel kid).st = .running && !s.slotUsed kid (cc % 1024) slot then
    s.threads.findKey (fun _ t => t.kid == kid && t.life == .waiting && t.core == cc % 1024 && t.slot == slot)
  else none
def execThreadPlacement (cc slot : Nat) (s : State) : Res :=
  match s.placeable cc slot with
  | none => notNow "THREAD_PLACEMENT"
  | some k =>
    let s := s.readSpawned (cc / 1024) k
    done (((s.setThread k { s.thread k with life := .resident, next := s.startAt (cc / 1024) (cc % 1024) }).giveHeld k).noteSpawn (cc / 1024))

/-! ## SLEEP and MIGR (R119, R120) -/

def execSleep (d s1 : SReg) (s : State) : Res :=
  match s.me.reply with
  | some v => done (s.wx d v)
  | none =>
    if s.rx s1 = 0 then done (s.wx d s.time) else done (s.park (.sleep (s.tick + (s.rx s1).toNat)))

def State.sleepDue (s : State) (k : Nat) : Bool :=
  let t := s.thread k
  t.life == .resident && (match t.wait with | some (.sleep n) => decide (n ≤ s.tick) | _ => false)
def execSleepExpiry (thr : Nat) (s : State) : Res :=
  if s.sleepDue thr then done (s.wake thr s.time) else notNow "SLEEP_EXPIRY"

/-- A thread moved to another core of its cluster (R120, R345). -/
def State.moveThread (s : State) (k core slot : Nat) : State :=
  let s := s.cutLr k
  let t := s.thread k
  s.setThread k { t with core := core, slot := slot, resv := none }

/-- The core with the lowest ready count of a cluster: the lowest position among equals, positions that hold no core apart (DESIGN
CHOICE, log 65). -/
def State.idlest (s : State) (kid lc : Nat) : Option Nat :=
  let k := s.kernel kid
  ((List.range 8).filterMap (k.coreAt lc)).foldl (fun b c =>
    match b with | none => some c | some x => if s.readyCount kid c < s.readyCount kid x then some c else some x) none

def execMigr (d s1 : SReg) (s : State) : Res :=
  let t := s.me
  let k := s.kernel t.kid
  let w := s.rx s1
  if 1024 ≤ w.toNat && w ≠ noThread then done (s.failCheck (opWord (.migr d s1)) (causeADDRESS, w))
  else
    let dest := if w = noThread then s.idlest t.kid (k.lcOf t.core) else some w.toNat
    let ok := match dest with
      | some c => k.migOn && t.modeReg.getLsbD 3 && decide (c < k.ncore) && k.lcOf c == k.lcOf t.core && c != t.core && (s.freeSlot t.kid c).isSome &&
          !t.streams.any (fun e => e.2.bound)
      | none => false
    if !ok then done (s.wx d 0)
    else if s.ops.any (fun o => o.thr == s.cur && o.kind.isReturn) then done (s.park .hold)
    else
      let c := dest.getD 0
      done ((s.moveThread s.cur c ((s.freeSlot t.kid c).getD 0)).wx d 1)

/-! ## Upcalls of a thread (R308, R311) and fixed-latency results (R96) -/

/-- The lowest enabled pending cause (R308); PAGE is always enabled. -/
def Thread.enabledCause (t : Thread) : Option Nat :=
  (List.range 14).find? (fun c => 7 ≤ c && t.pend.getLsbD c && (c == 7 || t.umask.getLsbD (c - 8)))

/-- A boundary: the thread waits for nothing, or in an instruction that an upcall abandons; a SEND is one only while its
message waits at a full queue (R100, R121, R142). -/
def State.atBoundary (s : State) (t : Thread) : Bool :=
  t.reply.isNone && (match t.wait with
    | some .hold | some (.meet _ _) | some (.access _) | some (.page _) => false
    | some (.message n) => s.ops.any (fun o => o.id == n && decide (o.due ≤ s.cycle) &&
        (match o.kind with | .message cc _ _ => decide (64 ≤ (s.coreCtx cc).rq.length) | _ => false))
    | _ => true)
/-- An upcall is due at the thread's next boundary: it issues no further bundle (R306, R308). -/
def State.upcallDue (s : State) (t : Thread) : Bool :=
  t.life == .resident && t.mode == .user && t.enabledCause.isSome && s.atBoundary t

/-- Whether an upcall is to be delivered at the next boundary of thread k. -/
def State.deliverable (s : State) (k : Nat) : Bool :=
  s.upcallDue (s.thread k) && s.reservations k == 0

/-- A parked instruction abandoned without any effect: its waiting request withdrawn (R100, R142). -/
def State.abandon (s : State) (k : Nat) : State :=
  let t := s.thread k
  let s := match t.wait with
    | some .fullEmpty =>
      { s with
        ops := s.ops.filter (fun o => !(o.thr == k && (match o.kind with | .feReq _ _ _ => true | _ => false)))
        ccs := s.ccs.mapV (fun _ c => if c.feq.any (fun q => q.thr == k) then { c with feq := c.feq.filter (fun q => q.thr != k) } else c) }
    | some (.message id) => s.dropOp id
    | some (.lease u) =>
      let e : EngUnit := AMap.get {} s.units u
      { s with units := s.units.put u { e with arb := e.arb.filter (fun r => r.thr != k) } }
    | _ => s
  s.setThread k { s.thread k with wait := none, reply := none, got := none, blocks := [], tile := none }

/-- deliver (R308): PAGE in place of the cause while the frame holds records (R306). -/
def State.deliver (s : State) (k c : Nat) : State :=
  let s := (s.abandon k).cutLr k
  let t := s.thread k
  if !t.frame.isEmpty || c = 7 then
    s.takePage k t.pc
  else
    let t := { t with pend := t.pend &&& ~~~(1#14 <<< c) }
    if t.upvec = 0 then (s.setThread k t).fatal k causeNOVEC 0 t.fva t.pc
    else
      let r := t.info.get (0, t.fva) c
      let info := if c = causeMESSAGE then BitVec.ofNat 64 (s.coreCtx t.cc).rq.length else r.1
      let t := if c = causeTIMER then { t with tmcmp := 0xFFFF_FFFF_FFFF_FFFF } else t
      s.setThread k (enter t c info (fvaOf c r.2) t.pc)

def execUpcallDelivery (thr : Nat) (s : State) : Res :=
  match (s.thread thr).enabledCause with
  | some c => if s.deliverable thr then done (s.deliver thr c) else notNow "UPCALL_DELIVERY"
  | none => notNow "UPCALL_DELIVERY"

def State.timerDue (s : State) (k : Nat) : Bool :=
  let t := s.thread k
  t.life == .resident && !t.pend.getLsbD causeTIMER && decide (t.tmcmp ≤ s.time)
def execTimerExpiry (thr : Nat) (s : State) : Res :=
  if s.timerDue thr then done (s.pendCause thr causeTIMER s.time 0) else notNow "TIMER_EXPIRY"

/-- One fixed-latency result written (DEDUCED, log 59). -/
def State.writeLate (s : State) (k : Nat) (l : Late) : State :=
  match l.reg with
  | .s f => s.putX k f l.w l.issued
  | .v f =>
    let t := s.thread k
    let old := if isShared f then (s.coreCtx t.cc).w[low5 f] else t.regs.v[low5 f]
    let new := (l.vv &&& l.mask) ||| (old &&& ~~~l.mask)
    (s.putV k f new l.issued).fillPush l.push (l.vv &&& l.mask)
  | _ => s
def State.lateDue (s : State) (k : Nat) : Bool := (s.thread k).late.any (fun l => l.due ≤ s.cycle)
def execFixedLatencyResult (thr : Nat) (s : State) : Res :=
  if s.lateDue thr then
    let t := s.thread thr
    let s := s.setThread thr { t with late := t.late.filter (fun l => !(l.due ≤ s.cycle)) }
    done ((t.late.filter (fun l => l.due ≤ s.cycle)).foldl (fun s l => s.writeLate thr l) s)
  else notNow "FIXED_LATENCY_RESULT"

end Sys2Proof.Machine
end

