-- ==== Sys2Proof/Machine/Windows.lean ====
section
/-! DEFINITION. Slot A: windows (R164 to R167), and the task unit that stages footprints into windows 6 and 7 (R126, R331). -/

namespace Sys2Proof.Machine

def State.win (s : State) (cc n : Nat) : Win := (s.coreCtx cc).wins.get {} n
def State.setWin (s : State) (cc n : Nat) (w : Win) : State :=
  let c := s.coreCtx cc
  s.setCoreCtx cc { c with wins := c.wins.put n w }

/-- Two windows' LM ranges, or two stash ranges, overlap. -/
def overlaps (a n b m : Nat) : Bool := decide (a < b + m) && decide (b < a + n)

/-- The address a window was bound by. -/
def Win.shown (w : Win) : Nat := if w.name = 0 then w.bound else w.name

/-- Whether window n may be mapped onto g granules at LM offset off (R164). -/
def State.mappable (s : State) (cc n : Nat) (stash : Bool) (bound off g : Nat) : Bool :=
  let c := s.coreCtx cc
  !(s.win cc n).mapped && decide (off + g * 4096 ≤ 0x4_0000) &&
    !c.wins.any (fun e => e.2.mapped && overlaps off (g * 4096) (e.2.lmg.toNat * 4096) (e.2.gran.toNat * 4096)) &&
    !(stash && c.wins.any (fun e => e.2.mapped && e.2.stash && overlaps bound (g * 4096) e.2.bound (e.2.gran.toNat * 4096)))

/-- Where a stash bound by an address stands: its local address, and the far address of this device that named it (else 0). -/
def stashBase (tgt : Option (Nat × Nat × Bool)) (b : Nat) : Nat × Nat :=
  match tgt with
  | some (la, _, far) => (la, if far then b else 0)
  | none => (b, 0)

/-- WMAP (R164). A stash bound to far space of this device stands for the local range behind it; one bound to another device's
memory has each access served at its home, as after a recall that follows at once (DESIGN CHOICE, log 77). -/
def execWmap (stash : Bool) (d s1 s2 : SReg) (w : BitVec 3) (g : BitVec 7) (s : State) : Res :=
  let i : Instr := .wmap stash d s1 s2 w g
  let t := s.me
  let off := s.rx s2
  let b := s.rx s1
  if off.toNat % 4096 ≠ 0 then done (s.failCheck (opWord i) (causeALIGN, off))
  else if stash && b.toNat % 4096 ≠ 0 then done (s.failCheck (opWord i) (causeALIGN, b))
  else match (if stash then s.checkRange t b.toNat (g.toNat * 4096) else .ok none) with
    | .error e => done (s.failCheck (opWord i) e)
    | .ok tgt =>
      let (base, name) := if stash then stashBase tgt b.toNat else (0, 0)
      if s.mappable t.cc w.toNat stash base off.toNat g.toNat then
        let new : Win := { mapped := true, stash := stash, staged := false, gran := g, lmg := BitVec.ofNat 6 (off.toNat / 4096),
                           bound := base, name := name, lines := [] }
        let s := s.setWin t.cc w.toNat new
        done (s.wx d (if stash then b else BitVec.ofNat 64 (scratchBase + w.toNat * 0x4_0000)))
      else done (s.wx d (-1))

/-- Dirty stash lines of a window. -/
def Win.dirty (w : Win) : Nat := (w.lines.filter (fun e => e.2.st == 2)).length

/-- The WSTAT word (R167). -/
def Win.word (w : Win) : Word :=
  if !w.mapped then 0 else
  BitVec.ofNat 64 (1 + (if w.stash then 2 else 0) + (if w.staged then 4 else 0) + w.gran.toNat * 2 ^ 3 + w.lmg.toNat * 2 ^ 16 + w.dirty * 2 ^ 32)
def execWstat (d : SReg) (w : BitVec 3) (s : State) : Res := done (s.wx d (s.win s.me.cc w.toNat).word)

/-- Whether a 64 KiB page number lies in the range a window is bound to. -/
def Win.pages (w : Win) (g : Nat) : Bool := w.bound / 65536 ≤ g && decide (g * 65536 < w.bound + w.gran.toNat * 4096)

/-- Dirty lines of window n written back in order; the first whose page is not present stops it (R140). A page the manager
could not make resident drops its line's data and is reported. The count is the lines written back. -/
def State.syncLines (s : State) (cc n : Nat) : List Nat → Nat → State × Nat × Option Nat
  | [], k => (s, k, none)
  | i :: rest, k =>
    let w := s.win cc n
    let va := w.bound + 128 * i
    let clean (s : State) : State :=
      let w := s.win cc n
      s.setWin cc n { w with lines := w.lines.mapV (fun j l => if j = i then { l with st := 1 } else l) }
    match s.locate va with
    | .at_ _ _ =>
      let due := (w.lines.get { st := 0, due := 0 } i).due
      let s := (s.stashWrite cc w i).l2Mark va (fun l => { l with due := due })
      State.syncLines (clean s) cc n rest (k + 1)
    | .bad => State.syncLines (clean (s.reportData (s.kernel (cc / 1024)).ctx va)) cc n rest k
    | .absent =>
      if (s.coreCtx cc).noPage.contains (va / 65536) then
        State.syncLines (clean (s.errorRecord errAccess 0 va (s.kernel (cc / 1024)).ctx)) cc n rest k
      else (s, k, some va)

def State.syncWin (s : State) (cc n : Nat) : State × Nat × Option Nat :=
  let w := s.win cc n
  if w.dirty = 0 then (s, 0, none) else
  match s.syncLines cc n ((w.lines.filter (fun e => e.2.st == 2)).map (·.1)) 0 with
  | (s, k, none) => (s.heard cc w.pages, k, none)
  | r => r

/-- A written line of a window lies on a page that is migrating: its write-back waits at the home (R295). -/
def State.winWaits (s : State) (cc n : Nat) : Bool :=
  let w := s.win cc n
  w.lines.any (fun e => e.2.st == 2 && s.migratingAt (w.bound + 128 * e.1))

/-- Every line of a window leaves the stash; pins it holds are released (R267). -/
def State.dropWin (s : State) (cc n : Nat) : State :=
  let w := s.win cc n
  let s := w.pins.foldl (fun s i => (s.pinLine (w.bound + 128 * i) false).1) s
  let s := w.lines.foldl (fun s e => s.l2Mark (w.bound + 128 * e.1) (fun l => { l with st := 3, stash := none, due := e.2.due })) s
  s.setWin cc n {}

/-! ## The task unit (R124 to R126, R331) -/

def taskPc (r : BitVec 256) : Word := (r &&& 0xFF_FFFF_FFFF_FFF0).truncate 64
def taskPri (r : BitVec 256) : Nat := (r.extractLsb' 56 5).toNat
def taskHold (r : BitVec 256) : Bool := r.getLsbD 63
def taskArg (r : BitVec 256) : Word := r.extractLsb' 64 64
def taskGran (r : BitVec 256) (i : Nat) : Nat := (r.extractLsb' (128 + 64 * i) 12).toNat
def taskBase (r : BitVec 256) (i : Nat) : Nat := (r.extractLsb' (140 + 64 * i) 44).toNat * 4096
def taskRanged (r : BitVec 256) : Bool := taskGran r 0 ≠ 0 || taskGran r 1 ≠ 0
/-- Must-be-zero fields and GRAN limits (R125). -/
def taskValid (r : BitVec 256) : Bool :=
  r.extractLsb' 0 4 = 0 && r.extractLsb' 61 2 = 0 && r.extractLsb' 184 8 = 0 && r.extractLsb' 248 8 = 0 && taskGran r 0 ≤ 64 && taskGran r 1 ≤ 64

/-- The head of the highest non-empty level, FIFO within a level (R125, R126). -/
def taskHead (q : List Task) : Option Nat :=
  (q.zipIdx.foldl (fun b e => match b with | none => some e | some x => if taskPri x.1.record < taskPri e.1.record then some e else some x) none).map (·.2)

/-- The highest LM granule from which g granules are free of mapped windows and of the granules [lo, hi). -/
def CoreCtx.lmRoom (c : CoreCtx) (lo hi g : Nat) : Option Nat :=
  ((List.range (65 - g)).reverse).find? (fun n =>
    !(decide (n < hi) && decide (lo < n + g)) &&
      !c.wins.any (fun e => e.2.mapped && overlaps n g e.2.lmg.toNat e.2.gran.toNat))

/-- Where the two ranges of a record go: each at the highest free granules, range 0 first; none where they do not fit in the
LM beside the mapped windows (DESIGN CHOICE, log 21: the record then waits, as for windows 6 and 7). -/
def CoreCtx.taskRoom (c : CoreCtx) (g0 g1 : Nat) : Option (Nat × Nat) :=
  (c.lmRoom 0 0 g0).bind (fun n0 => (c.lmRoom n0 (n0 + g0) g1).map (fun n1 => (n0, n1)))

/-- The task unit looks at the queue: a head with ranges starts staging once windows 6 and 7 are free (R126, R331). -/
def State.taskUnit (s : State) (cc : Nat) : State :=
  let c := s.coreCtx cc
  if c.task.isSome then s else
  match taskHead c.tq with
  | none => s
  | some n =>
    match c.tq[n]? with
    | none => s
    | some r =>
      if !taskRanged r.record || (s.win cc 6).mapped || (s.win cc 7).mapped then s
      else
        let (due, s) := s.later
        let c := s.coreCtx cc
        let mk (i at_ : Nat) : Win :=
          { mapped := true, stash := true, staged := true, gran := BitVec.ofNat 7 (taskGran r.record i), lmg := BitVec.ofNat 6 at_,
            bound := taskBase r.record i }
        let g0 := taskGran r.record 0
        let g1 := taskGran r.record 1
        match c.taskRoom g0 g1 with
        | none => s
        | some (n0, n1) =>
          let wins := if g0 = 0 then c.wins else c.wins.put 6 (mk 0 n0)
          let wins := if g1 = 0 then wins else wins.put 7 (mk 1 n1)
          s.setCoreCtx cc { c with task := some r, taskReady := false, taskDue := due, tq := c.tq.eraseIdx n, wins := wins }

/-- One line of a staged window filled and pinned; the first page not present stops it. -/
def State.stageLine (s : State) (cc n i : Nat) (k : Want) (pin : Bool) : State × Option Nat :=
  let va := (s.win cc n).bound + 128 * i
  if isFar va || (s.win cc n).pins.contains i || ((s.win cc n).lines.has i && !pin) then (s, none)
  else if !s.present va 128 then
    if (s.coreCtx cc).noPage.contains (va / 65536) then (s, none) else (s, some va)
  else
    let s := if (s.win cc n).lines.has i then s else (s.stashTouch cc va false k).2
    let (s, ok) := if pin then s.pinLine va true else (s, false)
    let w := s.win cc n
    (s.setWin cc n { w with pins := if ok then w.pins ++ [i] else w.pins }, none)

/-- Every line of a window filled in order, as far as pages are present (R338, R126). -/
def State.stageWin (s : State) (cc n : Nat) (k : Want) (pin : Bool) : State × Option Nat :=
  let w := s.win cc n
  match (List.range (w.gran.toNat * 32)).foldl (fun r i =>
    match r with | (s, some va) => (s, some va) | (s, none) => s.stageLine cc n i k pin) (s, none) with
  | (s, none) => (s.heard cc w.pages, none)
  | r => r

/-- What the fills of staging count for (DESIGN CHOICE, log 21: the context's tenant, ND 63). -/
def State.stageWant (s : State) (cc : Nat) : Want :=
  { ten := some (s.ctx (s.kernel (cc / 1024)).ctx).tenant, nd := 63, rper := (s.coreCtx cc).rper.toNat }

def State.stagingTask (s : State) (cc : Nat) : Bool :=
  let c := s.coreCtx cc
  c.task.isSome && !c.taskReady && decide (c.taskDue ≤ s.cycle)

def execTaskStagingComplete (cc : Nat) (s : State) : Res :=
  if !s.stagingTask cc then notNow "TASK_STAGING_COMPLETE" else
  let k := s.stageWant cc
  let go (r : State × Option Nat) (n : Nat) : State × Option Nat :=
    match r with
    | (s, some va) => (s, some va)
    | (s, none) => if (s.win cc n).staged then s.stageWin cc n k true else (s, none)
  match go (go (s, none) 6) 7 with
  | (s, some va) =>
    let (due, s) := (s.faultReq va cc).later
    let c := s.coreCtx cc
    done (s.setCoreCtx cc { c with taskDue := due })
  | (s, none) =>
    let c := s.coreCtx cc
    done (s.setCoreCtx cc { c with taskReady := true })

/-! ## WUNMAP and WSYNC (R166) -/

/-- A write-back that waits for a page: the thread parks in a completing instruction (R140, R142). -/
def State.waitPage (s : State) (va : Nat) : State := (s.faultReq va s.me.cc).park .hold

/-- An access of the thread in issue is in flight: WSYNC and WUNMAP, releases of what the stash holds, wait for it (R166, R248). -/
def State.accessing (s : State) : Bool := s.ops.any (fun o => o.thr == s.cur && o.kind.isAccess)

def execWunmap (d : SReg) (w : BitVec 3) (s : State) : Res :=
  let cc := s.me.cc
  let n := w.toNat
  if !(s.win cc n).mapped || (s.win cc n).staged then done (s.wx d 0)
  else if s.accessing || s.winWaits cc n then done (s.park .hold)
  else match s.syncWin cc n with
    | (s, _, some va) => done (s.waitPage va)
    | (s, _, none) => done (((s.dropWin cc n).taskUnit cc).wx d 1)

/-- WSYNC: D counts the lines written back; lines written before a wait for a page are counted too. -/
def execWsync (d : SReg) (w : BitVec 3) (s : State) : Res :=
  let before := match s.me.got with | some m => m.hdr.toNat | none => 0
  if s.accessing || s.winWaits s.me.cc w.toNat then done (s.park .hold) else
  match s.syncWin s.me.cc w.toNat with
  | (s, n, some va) =>
    done ((s.setMe { s.me with got := some { payload := 0, hdr := BitVec.ofNat 64 (before + n) } }).waitPage va)
  | (s, n, none) => done (s.wx d (BitVec.ofNat 64 (before + n)))

end Sys2Proof.Machine
end

