-- ==== Sys2Proof/Machine/Queues.lean ====
section
/-! DEFINITION. Slot A: messages, task and launch queues, the range deque, neighbour reads and barriers (R121 to R131,
R324 to R334, R369 to R374), with the device events of these queues. -/

namespace Sys2Proof.Machine

/-! ## Receive queues (R121 to R123, R310, R333) -/

/-- Threads of a core-context in a wait, in ascending slot order. -/
def State.waitersOf (s : State) (cc : Nat) (f : Wait → Bool) : List Nat :=
  let ts := s.threads.filter (fun e => e.2.life == .resident && e.2.cc == cc && (match e.2.wait with | some w => f w | none => false))
  (List.range 16).flatMap (fun n => (ts.filter (fun e => e.2.slot == n)).map (·.1))

def isRecv : Wait → Bool | .recv | .qsum => true | _ => false
def isWaitm : Wait → Bool | .waitm => true | _ => false

/-- Step 1 of R310: parked RECV and QSUM threads take entries from the head, in slot order. -/
def State.serveTakers (s : State) (cc : Nat) : List Nat → State
  | [] => s
  | k :: rest =>
    let c := s.coreCtx cc
    match c.rq with
    | [] => s
    | m :: more =>
      let s := s.setCoreCtx cc { c with rq := more }
      let t := s.thread k
      State.serveTakers (s.setThread k { t with got := some m, wait := none, reply := some m.hdr }) cc rest

/-- The lowest-slot thread of a core-context whose %umask enables cause 9. -/
def State.messageTaker (s : State) (cc : Nat) : Option Nat :=
  let ts := s.threads.filter (fun e => e.2.life == .resident && e.2.cc == cc && e.2.umask.getLsbD 1)
  ((List.range 16).flatMap (fun n => (ts.filter (fun e => e.2.slot == n)).map (·.1))).head?

/-- The parked takers in lower slots than the thread in issue, which joins their order at its slot (R310). -/
def State.servedFirst (s : State) : State :=
  s.serveTakers s.me.cc ((s.waitersOf s.me.cc isRecv).filter (fun k => decide ((s.thread k).slot < s.me.slot)))

/-- Whether a queue with entries has threads parked on it: R310 serves them in this cycle. -/
def State.queueDue (s : State) (cc : Nat) : Bool :=
  (s.coreCtx cc).rq ≠ [] && s.threads.any (fun e => e.2.life == .resident && e.2.cc == cc && (match e.2.wait with | some w => isRecv w || isWaitm w | none => false))

/-- R310 at the end of a cycle: takers, then every parked WAITM. -/
def State.serveQueue (s : State) (cc : Nat) : State :=
  let watchers := s.waitersOf cc isWaitm
  let s := s.serveTakers cc (s.waitersOf cc isRecv)
  let n := (s.coreCtx cc).rq.length
  if n = 0 then s else watchers.foldl (fun s k => s.wake k (BitVec.ofNat 64 n)) s

/-- An entry appended (R333), and MESSAGE where no thread is parked on the queue (R310). -/
def State.pushMsg (s : State) (cc : Nat) (m : Msg) : State :=
  let c := s.coreCtx cc
  let s := s.setCoreCtx cc { c with rq := c.rq ++ [m], rqAt := s.cycle + 1 }
  if s.waitersOf cc isRecv ≠ [] || s.waitersOf cc isWaitm ≠ [] then s else
  match s.messageTaker cc with
  | some k => if (s.thread k).pend.getLsbD causeMESSAGE then s else s.pendCause k causeMESSAGE 0 0
  | none => s

/-- The header of a message (R122). -/
def msgHeader (mul : BitVec 48) (core : Nat) : Word := BitVec.ofNat 64 (mul.toNat + core % 1024 * 2 ^ 48)

/-- SEND (R121): the payload is read, earlier accesses are performed, and the thread parks until the message has entered. The
checks of x(S2) come before that of x(S1) (DESIGN CHOICE, log 81). -/
def execSend (s1 s2 : SReg) (s : State) : Res :=
  let t := s.me
  let i : Instr := .send s1 s2
  match t.reply with
  | some _ => done s
  | none => ends do
    let s ← s.release .device
    let (bs, s1') ← s.readBlock i (s.rx s2).toNat 64 64
    if (s.kernel t.kid).ncore ≤ (s.rx s1).toNat then .error (s.failCheck (opWord i) (causeADDRESS, s.rx s1))
    let cc := ccKey t.kid (s.rx s1).toNat
    let s2' := s1'.launch { id := 0, thr := s.cur, cc := cc, kind := .message cc (wordOf 512 bs) (msgHeader t.mul t.core), slot := t.slot, issued := t.issued }
    .ok (s2'.park (.message s1'.nextId))

/-- Notices of the memory manager have no sending thread (R291). -/
def noticeSender : Nat := 2 ^ 64

/-- Entries of a queue, with those that woken takers have not yet written: a RECV that fails leaves its entry there (R122). -/
def State.queued (s : State) (cc : Nat) : Nat :=
  (s.coreCtx cc).rq.length + (s.threads.filter (fun e => e.2.life == .resident && e.2.cc == cc && e.2.got.isSome && e.2.reply == e.2.got.map (·.hdr))).length

/-- A message reaches its queue, at most one in a cycle; while the queue is full it waits and its sender stays parked (R333). -/
def State.messageReady (s : State) (o : Op) : Bool :=
  match o.kind with
  | .message cc _ _ => decide (s.queued cc < 64) && (s.coreCtx cc).rqAt != s.cycle + 1
  | _ => false
def execMessageArrival (op : Nat) (s : State) : Res :=
  match s.findOp op with
  | some o =>
    match o.kind with
    | .message cc p h =>
      if s.messageReady o then
        let s := s.dropOp op
        let s := if o.thr = noticeSender then s else s.wake o.thr 0
        done (s.pushMsg cc { payload := p, hdr := h })
      else notNow "MESSAGE_ARRIVAL"
    | _ => notNow "MESSAGE_ARRIVAL"
  | none => notNow "MESSAGE_ARRIVAL"

/-- A value in D once a block is written: at once, or after the store to another device has ended. -/
def State.blockDone (s0 s : State) (r : Acc) (d : SReg) (v : Word) : State :=
  match r.place with
  | .far _ =>
    let t := s.me
    s.launch { id := 0, thr := s.cur, cc := t.cc, kind := .reply, dst := if d = 0 then none else some (.s d), data := v, slot := t.slot,
               issued := t.issued, needs := [s0.nextId] }
  | _ => s.wx d v

/-- A RECV whose check fails leaves the queue unchanged: an entry it had taken while parked goes back to the head (R122). -/
def State.giveBack (s : State) (k : Nat) (m : Option Msg) : State :=
  match s.issue, m with
  | .trapped _, some m =>
    let t := s.thread k
    let s := s.setThread k { t with got := none, reply := none }
    let c := s.coreCtx t.cc
    s.setCoreCtx t.cc { c with rq := m :: c.rq }
  | _, _ => s

/-- RECV (R122): checked as a 64-byte store, then the head popped, after the parked takers of lower slots (R310), payload before D. -/
def execRecv (d s1 : SReg) (s : State) : Res :=
  let t := s.me
  ends (match s.destBlock (.recv d s1) (s.rx s1).toNat 64 64 with
    | .error s => .error (s.giveBack s.cur t.got)
    | .ok (r, s) =>
      let put (s : State) (m : Msg) : State := s.blockDone (s.putBlock r (s.rx s1) (leBytes 64 m.payload.toNat)) r d m.hdr
      match t.got with
      | some m => .ok (put s m)
      | none =>
        let s := s.servedFirst
        let c := s.coreCtx t.cc
        match c.rq with
        | m :: rest => .ok (put (s.setCoreCtx t.cc { c with rq := rest }) m)
        | [] => .error (s.park .recv))

def execQstat (d : SReg) (s : State) : Res := done (s.wx d (BitVec.ofNat 64 (s.coreCtx s.me.cc).rq.length))

/-- WAITM (R119). -/
def execWaitm (d : SReg) (s : State) : Res :=
  let n := (s.coreCtx s.me.cc).rq.length
  match s.me.reply with
  | some v => done (s.wx d v)
  | none => if n = 0 then done (s.park .waitm) else done (s.wx d (BitVec.ofNat 64 n))

/-! ## Task queues (R125 to R127, R332) -/

def execTaskq (d s1 : SReg) (s : State) : Res :=
  let t := s.me
  ends do
    let (bs, s) ← s.readBlock (.taskq d s1) (s.rx s1).toNat 32 32
    let r : BitVec 256 := wordOf 256 bs
    let c := s.coreCtx t.cc
    if !taskValid r then .ok (s.wx d (-1))
    else if 256 ≤ c.tq.length + (if c.task.isSome then 1 else 0) then .ok (s.wx d 0)
    else .ok (((s.setCoreCtx t.cc { c with tq := c.tq ++ [{ record := r, mul := t.mul }] }).taskUnit t.cc).wx d 1)

/-- The record that can be handed out now, and the core-context without it (R126, R331). -/
def CoreCtx.readyTask (c : CoreCtx) : Option (Task × CoreCtx) :=
  match c.task with
  | some r => if c.taskReady then some (r, { c with task := none, taskReady := false }) else none
  | none =>
    match taskHead c.tq with
    | none => none
    | some n =>
      match c.tq[n]? with
      | none => none
      | some r => if taskRanged r.record then none else some (r, { c with tq := c.tq.eraseIdx n })

def isTaskd : Wait → Bool | .taskd => true | _ => false

/-- A ready record goes to parked TASKDs in slot order; each writes it when its bundle issues again (R332). -/
def State.giveTasks (s : State) (cc : Nat) : List Nat → State
  | [] => s
  | k :: rest =>
    match (s.coreCtx cc).readyTask with
    | none => s
    | some (r, c) =>
      let s := s.setCoreCtx cc c
      let t := s.thread k
      State.giveTasks (s.setThread k { t with
        got := some { payload := r.record.zeroExtend 512, hdr := zx r.mul }, wait := none, reply := some 0 }) cc rest

/-- A TASKD whose check fails leaves the record where it was: at the unit, or at the head of its level. -/
def State.taskBack (s : State) (k : Nat) (m : Option Msg) : State :=
  match s.issue, m with
  | .trapped _, some m =>
    let t := s.thread k
    let r : Task := { record := m.payload.truncate 256, mul := m.hdr.truncate 48 }
    let s := s.setThread k { t with got := none, reply := none }
    let c := s.coreCtx t.cc
    s.setCoreCtx t.cc (if taskRanged r.record then { c with task := some r, taskReady := true } else { c with tq := r :: c.tq })
  | _, _ => s

/-- TASKD (R127): parked ones come first, in slot order (R332). -/
def execTaskd (d s1 : SReg) (s : State) : Res :=
  let t := s.me
  ends do
    let first := (s.waitersOf t.cc isTaskd).filter (fun k => k != s.cur && (t.wait != some .taskd || decide ((s.thread k).slot < t.slot)))
    let s := if t.got.isSome then s else s.giveTasks t.cc first
    let c := s.coreCtx t.cc
    let put (s : State) (r : Acc) (rec_ : BitVec 256) : State :=
      let s := s.blockDone (s.putBlock r (s.rx s1) (leBytes 32 rec_.toNat)) r d 1
      (s.setMe { s.me with footed := s.me.footed || taskRanged rec_ }).taskUnit t.cc
    if t.got.isNone && c.tq.isEmpty && c.task.isNone then .ok (s.wx d 0)
    else match s.destBlock (.taskd d s1) (s.rx s1).toNat 32 32 with
      | .error s => .error (s.taskBack s.cur t.got)
      | .ok (r, s) =>
        match t.got, (s.coreCtx t.cc).readyTask with
        | some m, _ => .ok (put s r (m.payload.truncate 256))
        | none, some (rec_, c) => .ok (put (s.setCoreCtx t.cc c) r rec_.record)
        | none, none => .error (s.park .taskd)

/-- Windows 6 and 7 unmapped with write-back, as WUNMAP does, where a footprint is staged that is not that of a record still at the
unit (R127, R331). -/
def State.unstage (s : State) (cc : Nat) : Go State := do
  let one (s : State) (n : Nat) : Go State :=
    if !(s.win cc n).staged || (s.coreCtx cc).task.isSome then .ok s
    else if s.accessing || s.winWaits cc n then .error (s.park .hold)
    else
      match s.syncWin cc n with
      | (s, _, some va) => .error (s.waitPage va)
      | (s, _, none) => .ok (s.dropWin cc n)
  let s ← one s 6
  one s 7

/-- TRET (R127). -/
def execTret (s : State) : Res :=
  ends do
    let s ← s.unstage s.me.cc
    let s := (s.setMe { s.me with footed := false }).taskUnit s.me.cc
    .ok (if s.me.fromTask then s.exitThread s.cur else s)

/-- EXIT (R112); a thread dispatched with a footprint unmaps its windows first (R331). -/
def execExit (s : State) : Res :=
  if !(s.me.fromTask && s.me.footed) then done (s.exitThread s.cur)
  else ends do
    let s ← s.unstage s.me.cc
    let s := s.taskUnit s.me.cc
    .ok (s.exitThread s.cur)

/-- A task record dispatched into a free slot (R126, R349). -/
def State.dispatchable (s : State) (cc : Nat) : Option (Task × CoreCtx × Nat) :=
  let kid := cc / 1024
  let k := s.kernel kid
  match (s.coreCtx cc).readyTask, s.freeSlot kid (cc % 1024) with
  | some (r, c), some slot =>
    if k.st = .running && !taskHold r.record && s.waitersOf cc isTaskd = [] && k.nthread ≠ 2 ^ 32 - 1 then some (r, c, slot) else none
  | _, _ => none

/-- %upvec of a thread of a kernel from a runtime queue: ARG where it is aligned (R349). -/
def State.runtimeVec (s : State) (kid : Nat) : Word :=
  let k := s.kernel kid
  let arg : Word := k.record.extractLsb' 256 64
  if k.runtime && arg.toNat % 16 = 0 then arg else 0

def execTaskDispatch (cc : Nat) (s : State) : Res :=
  match s.dispatchable cc with
  | none => notNow "TASK_DISPATCH"
  | some (r, c, slot) =>
    let kid := cc / 1024
    let k := s.kernel kid
    let t := s.newThread kid k.nthread
    let t := { t with
      core := cc % 1024, slot := slot, life := .resident, pc := taskPc r.record, npc := taskPc r.record, mul := r.mul,
      regs := { Regs.zero with x := Regs.zero.x.set 1 (taskArg r.record) }, upvec := s.runtimeVec kid, rper := c.rper, fromTask := true
      footed := taskRanged r.record, next := s.startAt kid (cc % 1024) }
    let s := (s.setCoreCtx cc c).setKernel kid { k with nthread := k.nthread + 1 }
    done (((s.setThread (threadKey kid k.nthread) t).giveHeld (threadKey kid k.nthread)).taskUnit cc)

/-! ## Range deque (R128); the list stands bottom first -/

def packRange (b e : BitVec 32) : Word := e ++ b
def rangeLo (r : Word) : BitVec 32 := r.extractLsb' 0 32
def rangeHi (r : Word) : BitVec 32 := r.extractLsb' 32 32

/-- One operation of the deque unit: the deque it leaves, and its cycle. -/
def State.setDq (s : State) (cc : Nat) (q : List Word) : State :=
  let c := s.coreCtx cc
  s.setCoreCtx cc { c with dq := q, dqAt := s.cycle + 1 }

/-- The deque unit of a core-context has served no operation in this cycle (R128). -/
def State.dqFree (s : State) (cc : Nat) : Bool := (s.coreCtx cc).dqAt != s.cycle + 1

def execDqpush (d s1 s2 : SReg) (s : State) : Res :=
  let t := s.me
  let b := rangeLo (s.rx s1)
  let e := rangeLo (s.rx s2)
  let q := (s.coreCtx t.cc).dq
  let s := s.setDq t.cc q
  if e < b then
    let s := s.orStat s.cur statRangeNeg
    let s := if t.modeReg.getLsbD 1 then s.pendCause s.cur causeRANGE (packRange b e) 0 else s
    done (s.wx d 1)
  else if 64 ≤ q.length then done (s.wx d 0)
  else done ((s.setDq t.cc (packRange b e :: q)).wx d 1)

def execDqpop (d : SReg) (s : State) : Res :=
  match (s.coreCtx s.me.cc).dq with
  | [] => done ((s.setDq s.me.cc []).wx d 0)
  | r :: q => done ((s.setDq s.me.cc q).wx d r)

/-- The lower and upper halves of a range of n elements: the lower takes ⌊n/2⌋. -/
def splitRange (r : Word) : Word × Word :=
  let b := rangeLo r
  let m := b + (rangeHi r - b) / 2
  (packRange b m, packRange m (rangeHi r))

def execDqsplit (d : SReg) (s : State) : Res :=
  let q := (s.coreCtx s.me.cc).dq
  let s := s.setDq s.me.cc q
  match q.getLast? with
  | some r =>
    if 2 ≤ (rangeHi r - rangeLo r).toNat && q.length < 64 then
      let (lo, hi) := splitRange r
      done ((s.setDq s.me.cc (hi :: (q.dropLast ++ [lo]))).wx d 1)
    else done (s.wx d 0)
  | none => done (s.wx d 0)

/-- The steal at the victim (R128): the upper half of its top range, or 0. -/
def State.stealFrom (s : State) (cc : Nat) : Word × State :=
  let q := (s.coreCtx cc).dq
  match q.getLast? with
  | none => (0, s.setDq cc q)
  | some r =>
    let (lo, hi) := splitRange r
    (hi, s.setDq cc (if rangeLo lo = rangeHi lo then q.dropLast else q.dropLast ++ [lo]))

/-- DQSTEAL (R128): at its own core at once; towards another core it parks until the reply, and the request arrives at the
end of a cycle, after the victim's own operation, one a cycle. -/
def execDqsteal (d s1 : SReg) (s : State) : Res :=
  let t := s.me
  let w := s.rx s1
  if (s.kernel t.kid).ncore ≤ w.toNat then done (s.failCheck (opWord (.dqsteal d s1)) (causeADDRESS, w))
  else
    let cc := ccKey t.kid w.toNat
    match t.reply with
    | some v => done (s.wx d v)
    | none =>
      if cc = t.cc then let (v, s) := s.stealFrom cc; done (s.wx d v)
      else if s.ops.any (fun o => o.thr == s.cur && o.kind == .steal cc) then done (s.park .hold)
      else done ((s.launch { id := 0, thr := s.cur, cc := t.cc, kind := .steal cc, slot := t.slot, issued := t.issued }).park .hold)

/-! ## Neighbour reads (R129) -/

def execNrd (dir : Dir) (d : SReg) (hn : BitVec 5) (p : PReg) (s : State) : Res :=
  let t := s.me
  done (s.launch { id := 0, thr := s.cur, cc := t.cc, kind := .nrd dir hn, dst := some (.s d), pred := p, slot := t.slot,
                   issued := t.issued, deadline := s.tick + t.nto.toNat })

/-- Whether a core-context of a kernel answers its neighbours (R129, R314). -/
def State.answers (s : State) (kid : Nat) : Bool := (s.ctx (s.kernel kid).ctx).state = ctxRunning

/-- The value and predicate of NRD, VNRD and VMAXX written into their registers. -/
def State.finishOp (s : State) (o : Op) (w : Word) (v : VReg) (ok : Bool) : State :=
  let s := (s.dropOp o.id).fillPush o.push v
  if (s.thread o.thr).life ≠ .resident then s else
  let s := match o.dst with
    | some (.s f) => s.putX o.thr f w o.issued
    | some (.v f) => s.putV o.thr f v o.issued
    | _ => s
  s.putP o.thr o.pred ok

/-! ## Barriers (R130, R369 to R373) -/

def State.bar (s : State) (cc : Nat) (b : BitVec 7) : Bar := (s.coreCtx cc).bars.get {} b.toNat
def State.setBar (s : State) (cc : Nat) (b : BitVec 7) (r : Bar) : State :=
  let c := s.coreCtx cc
  s.setCoreCtx cc { c with bars := c.bars.put b.toNat r }

/-- The completion check: a flip wakes every BWAIT parked on the barrier. -/
def State.checkBar (s : State) (cc : Nat) (b : BitVec 7) : State :=
  let r := s.bar cc b
  if r.expected ≤ r.arrived && r.pending = 0 then
    let s := s.setBar cc b { r with arrived := 0, phase := !r.phase }
    let ws := s.waitersOf cc (fun w => match w with | .bwait x _ => x == b | _ => false)
    ws.foldl (fun s k => s.wake k (if r.phase then 0 else 1)) s
  else s

/-- An arrival of multiplicity m. -/
def State.arriveBar (s : State) (cc : Nat) (b : BitVec 7) (m : Nat) : State :=
  let r := s.bar cc b
  (s.setBar cc b { r with arrived := BitVec.ofNat 32 (min (r.arrived.toNat + m) (2 ^ 32 - 1)) }).checkBar cc b

def execBarm (bar : BitVec 7) (s1 s2 : SReg) (s : State) : Res :=
  let cc := s.me.cc
  let r := s.bar cc bar
  done ((s.setBar cc bar { r with expected := (s.rx s1).extractLsb' 0 32, pending := s.rx s2 }).checkBar cc bar)

/-- BARR: a release, then the arrival, across the mesh for another core (R374). -/
def execBarr (scp : Scope) (bar : BitVec 7) (remote : Bool) (s1 : SReg) (s : State) : Res :=
  let t := s.me
  let c := if remote then s.rx s1 else BitVec.ofNat 64 t.core
  if remote && decide ((s.kernel t.kid).ncore ≤ c.toNat) then
    done (s.failCheck (opWord (.barr scp bar remote s1)) (causeADDRESS, c))
  else ends do
    let s ← s.release scp
    if c.toNat = t.core then .ok (s.arriveBar t.cc bar t.mul.toNat)
    else
      let cc := ccKey t.kid c.toNat
      .ok (s.launch { id := 0, thr := s.cur, cc := cc, kind := .arrive cc bar, mul := t.mul.toNat, slot := t.slot, issued := t.issued, conf := true })

/-- BWAIT: a reply holds the phase, with bit 1 set by a time-out. -/
def execBwait (scp : Scope) (d : SReg) (bar : BitVec 7) (s1 s2 : SReg) (p : PReg) (s : State) : Res :=
  let _ := scp
  let r := s.bar s.me.cc bar
  match s.me.reply with
  | some v => done ((s.wx d (v &&& 1)).wp p (v.ult 2))
  | none =>
    if r.phase ≠ (s.rx s1).getLsbD 0 then done ((s.wx d (if r.phase then 1 else 0)).wp p true)
    else done (s.park (.bwait bar (if s.rx s2 = 0 then none else some (s.tick + (s.rx s2).toNat))))

def State.bwaitDue (s : State) (k : Nat) : Bool :=
  let t := s.thread k
  t.life == .resident && (match t.wait with | some (.bwait _ (some n)) => decide (n ≤ s.tick) | _ => false)
def execBwaitTimeout (thr : Nat) (s : State) : Res :=
  let t := s.thread thr
  match t.wait with
  | some (.bwait b _) =>
    if s.bwaitDue thr then done (s.wake thr ((if (s.bar t.cc b).phase then 1 else 0) ||| 2)) else notNow "BWAIT_TIMEOUT"
  | _ => notNow "BWAIT_TIMEOUT"

def execBstat (d : SReg) (bar : BitVec 7) (w : BitVec 2) (s : State) : Res :=
  let r := s.bar s.me.cc bar
  done (s.wx d (if w = 0 then zx r.expected else if w = 1 then zx r.arrived else if w = 2 then r.pending else if r.phase then 1 else 0))

/-- An operation that still waits for others to end. -/
def State.needing (s : State) (o : Op) : Bool := o.needs.any s.awaits

/-- A pending decrement by a copy, once the bytes it counts are performed (R249); an underflow marks the copy's thread (R371, R372). -/
def execPendingDecrement (op : Nat) (s : State) : Res :=
  match s.findOp op with
  | some o =>
    if s.needing o then notNow "PENDING_DECREMENT" else
    match o.kind with
    | .decrement cc b n =>
      let s := s.dropOp op
      let r := s.bar cc b
      let s := s.setBar cc b { r with pending := if n ≤ r.pending.toNat then r.pending - BitVec.ofNat 64 n else 0 }
      let s := if n ≤ r.pending.toNat || (s.thread o.thr).life ≠ .resident then s else s.orStat o.thr statBarUnder
      done (s.checkBar cc b)
    | _ => notNow "PENDING_DECREMENT"
  | none => notNow "PENDING_DECREMENT"

/-! ## Launch queues (R131, R324 to R330) -/

/-- What a record meets at a queue: accepted, full, not open, or open with a record accepted in this cycle already. -/
inductive Queued where | accepted | full | closed | busy
deriving DecidableEq, Repr

def lqDisabled : Nat := 0
def lqOpen : Nat := 1
def lqFull : Nat := 2
def lqDraining : Nat := 3
def lqClosed : Nat := 4

def State.lqueue (s : State) (ctx q : Nat) : LQueue := (s.ctx ctx).queues.get {} q
def State.setLqueue (s : State) (ctx q : Nat) (r : LQueue) : State :=
  let c := s.ctx ctx
  s.setCtx ctx { c with queues := c.queues.put q r }

/-- A record appended to an open queue, one a cycle (R326, R329, R330). -/
def State.enqueue (s : State) (ctx q : Nat) (r : BitVec 512) : State × Queued :=
  let u := s.lqueue ctx q
  if u.st = lqFull then (s, .full)
  else if u.st ≠ lqOpen then (s, .closed)
  else if u.acceptAt = s.cycle + 1 then (s, .busy)
  else
    let recs := u.recs ++ [{ record := r, accepted := (u.accepted + 1).toNat }]
    (s.setLqueue ctx q { u with
      recs := recs, accepted := u.accepted + 1, acceptAt := s.cycle + 1, st := if recs.length = 64 then lqFull else lqOpen,
      headAt := if u.recs.isEmpty then s.tick else u.headAt }, .accepted)

/-- KLAUNCH (R131): a request that finds its queue taken in this cycle waits for the next (R330). -/
def execKlaunch (d s1 s2 : SReg) (s : State) : Res :=
  let t := s.me
  ends do
    let s0 ← s.release .device
    let (bs, s) ← s0.readBlock (.klaunch d s1 s2) (s.rx s1).toNat 64 64
    let q := (s.rx s2).toNat
    if 8 ≤ q then .ok (s.wx d (-1))
    else match s.enqueue t.ctx q (wordOf 512 bs) with
      | (s, .accepted) => .ok (s.wx d 1)
      | (s, .full) => .ok (s.wx d 0)
      | (s, .closed) => .ok (s.wx d (-1))
      | (_, .busy) => .error (s0.park .hold)

end Sys2Proof.Machine
end

