-- ==== Sys2Proof/Machine/Spill.lean ====
section
/-! DEFINITION. Engine state that follows a holder (R215, R318, R319): the banks of a core-context and the clause state of a
context, kept by owner, and spilled to the owner's save area when another takes the engine. -/

namespace Sys2Proof.Machine

def engKey (ctx u : Nat) : Nat := ctx * 4096 + u
def State.unit (s : State) (u : Nat) : EngUnit := s.units.get {} u
def State.setUnit (s : State) (u : Nat) (r : EngUnit) : State := { s with units := s.units.put u r }

/-! ## Banks: 65,536 words of 32 bits, kept by core-context; word i × 256 + j is element (i, j) -/

def bankKey (cc b : Nat) : Nat := cc * 2 + b
def State.bank (s : State) (cc b : Nat) : AMap Lane := s.banks.get [] (bankKey cc b)
def State.setBank (s : State) (cc b : Nat) (m : AMap Lane) : State := { s with banks := s.banks.put (bankKey cc b) m }

/-- The banks of a core-context as the ACC area holds them. -/
def State.accImage (s : State) (cc : Nat) : List Byte :=
  (List.range 2).flatMap (fun b => (List.range 65536).flatMap (fun i => leBytes 4 ((s.bank cc b).get 0 i).toNat))

/-- A bank of 65,536 words. -/
def bankRestored (bs : List Byte) : AMap Lane :=
  ((List.range 65536).map (fun i => (i, recAt 32 bs (4 * i) 4))).filter (fun e => e.2 ≠ 0)

/-- Where the ACC area of a core-context lies (R319). -/
def State.accAddr (s : State) (cc : Nat) : Nat := (s.kernel (cc / 1024)).area (cc / 1024) 0 + cc % 1024 * 0xC_8000 + 0x4_8000

/-- The banks of a core-context written to its save area. -/
def State.spillBanks (s : State) (cc : Nat) : State :=
  let s := s.poke (s.accAddr cc) (s.accImage cc)
  s.setCoreCtx cc { s.coreCtx cc with spilled := true }

/-- Banks that were spilled read back; what cannot be read stays as the device kept it (DESIGN CHOICE, log 54). -/
def State.loadBanks (s : State) (cc : Nat) : State :=
  if !(s.coreCtx cc).spilled then s else
  let s := s.setCoreCtx cc { s.coreCtx cc with spilled := false }
  match s.savedBytes (s.accAddr cc) 0x8_0000 with
  | (some bs, s) => (s.setBank cc 0 (bankRestored bs)).setBank cc 1 (bankRestored (bs.drop 0x4_0000))
  | (none, s) => s

/-! ## Clause state, kept by context and array -/

def State.clause (s : State) (ec : Nat) : Clause := s.clauses.get {} ec
def State.setClause (s : State) (ec : Nat) (m : Clause) : State := { s with clauses := s.clauses.put ec m }

/-- Cell (c, l); a cell never written since CACFG holds INIT. -/
def Clause.cell (m : Clause) (c l : Nat) : BitVec 8 := m.cells.get m.init (c * 2048 + l)
def Clause.lits (m : Clause) : Nat := 2 * m.f
def Clause.entry (m : Clause) (c : Nat) : BitVec 8 := m.table.get 0 c

/-- The cells of clauses [c0, c0 + nc) in order. -/
def Clause.dump (m : Clause) (c0 nc : Nat) : List Byte :=
  (List.range nc).flatMap (fun i => (List.range m.lits).map (fun l => m.cell (c0 + i) l))

/-- Seed, sample counter, WRAP, CONFIGURED and shape, in 25 bytes: the fields of the header that CARD writes (R227). -/
def Clause.fields (m : Clause) : List Byte :=
  leBytes 8 m.seed.toNat ++ leBytes 8 m.ctr.toNat ++
    leBytes 2 ((if m.wrap then 1 else 0) + (if m.configured then 2 else 0)) ++ leBytes 2 m.c ++ leBytes 2 m.f ++ leBytes 1 m.k ++ leBytes 2 m.t

/-- A spill slot: fields, INIT, EMPTYINF and the thresholds in 64 bytes, the clause table, and from byte 4,096 the cells
(DESIGN CHOICE, log 54). -/
def Clause.image (m : Clause) : List Byte :=
  let head := m.fields ++ [m.init] ++ leBytes 1 (if m.emptyInf then 1 else 0) ++ [m.ti1, m.ti0, m.tiz, m.tii].flatMap (leBytes 4)
  head ++ List.replicate (64 - head.length) 0 ++ (List.range 4032).map m.entry ++ m.dump 0 m.c

/-- Clause state as its slot holds it. -/
def Clause.restored (head cells : List Byte) : Clause :=
  let n (o k : Nat) : Nat := leNat ((head.drop o).take k)
  let m : Clause :=
    { seed := recAt 64 head 0 8, ctr := recAt 64 head 8 8, wrap := n 16 2 % 2 = 1, configured := n 16 2 / 2 % 2 = 1
      c := n 18 2, f := n 20 2, k := n 22 1, t := n 23 2, init := recAt 8 head 25 1, emptyInf := n 26 1 = 1
      ti1 := n 27 4, ti0 := n 31 4, tiz := n 35 4, tii := n 39 4
      table := ((List.range (n 18 2)).map (fun i => (i, recAt 8 head (64 + i) 1))) }
  { m with cells := cells.zipIdx.map (fun e => (e.2 / max m.lits 1 * 2048 + e.2 % max m.lits 1, e.1)) }

/-- The spill slot of array u of a context, where it has one (R318). -/
def State.claSlot (s : State) (ctx u : Nat) : Option Nat :=
  ((s.ctx ctx).arrays.idxOf? u).map (fun i => Config.saveArea ctx 0 4 + i * 0x40_1000)

def State.spillClause (s : State) (ctx u : Nat) : State :=
  match s.claSlot ctx u with
  | none => s
  | some a =>
    let m := s.clause (engKey ctx u)
    (s.poke a m.image).setClause (engKey ctx u) { m with spilled := true }

def State.loadClause (s : State) (ctx u : Nat) : State :=
  let m := s.clause (engKey ctx u)
  if !m.spilled then s else
  let s := s.setClause (engKey ctx u) { m with spilled := false }
  match s.claSlot ctx u with
  | none => s
  | some a =>
    match s.savedBytes a 4096 with
    | (some h, s) =>
      let n := leNat ((h.drop 18).take 2) * (2 * leNat ((h.drop 20).take 2))
      (match s.savedBytes (a + 4096) n with
      | (some cells, s) => s.setClause (engKey ctx u) (Clause.restored h cells)
      | (none, s) => s)
    | (none, s) => s

/-! ## Passing an engine on (R214, R215) -/

/-- Engine u gives up what it holds of core-context cc: banks to a core-context's area; clause state only where another
context takes the array. -/
def State.spillUnit (s : State) (u cc : Nat) (next : Option Nat) : State :=
  let ctx := (s.kernel (cc / 1024)).ctx
  if u < 128 then (if next = some cc then s else s.spillBanks cc)
  else if next.map (fun n => (s.kernel (n / 1024)).ctx) = some ctx then s else s.spillClause ctx u

/-- Engine u taken over by core-context cc: the state it holds of another is saved, then the taker's restored. -/
def State.takeUnit (s : State) (u cc : Nat) : State :=
  let s := match (s.unit u).loaded with | some o => s.spillUnit u o (some cc) | none => s
  let s := if u < 128 then s.loadBanks cc else s.loadClause (s.kernel (cc / 1024)).ctx u
  s.setUnit u { s.unit u with loaded := some cc }

end Sys2Proof.Machine
end

