-- ==== Sys2Proof/Machine/Engines.lean ====
section
/-! DEFINITION. Slot A: special registers (R81 to R84, R132), and the thread's side of the engines: timelines, leases and
command queues (R119, R168 to R171, R205, R206, R213, R214), with the device events of the leases. -/

namespace Sys2Proof.Machine

/-! ## Engine-contexts (R205) -/

/-- Engines by number; units: the matrix array of cluster c is c, its copy engine 128 + c, array a of glade g 256 + 4g + a. -/
def unitFor (e : Eng) (cluster : Nat) : Nat :=
  match e with
  | .mat => cluster
  | .cpy => 128 + cluster
  | .cla0 => 256 + cluster / 32 * 4
  | .cla1 => 257 + cluster / 32 * 4
  | .cla2 => 258 + cluster / 32 * 4
  | .cla3 => 259 + cluster / 32 * 4
def unitLeased (u : Nat) : Bool := u < 128 || 256 ≤ u
/-- The engine number 0-5 of a unit (R93). -/
def unitEng (u : Nat) : Nat := if u < 128 then 0 else if u < 256 then 1 else 2 + u % 4

/-- The unit of an engine for a thread. -/
def State.unitOf (s : State) (t : Thread) (e : Eng) : Nat := unitFor e (s.clusterOf t)
def State.eng (s : State) (n : Nat) : EngCtx := s.engs.get {} n
def State.setEng (s : State) (n : Nat) (e : EngCtx) : State := { s with engs := s.engs.put n e }
/-- The engine-context a thread uses. -/
def State.engOf (s : State) (t : Thread) (e : Eng) : Nat := engKey t.ctx (s.unitOf t e)

/-! ## Special registers (R81 to R84, R132) -/

/-- The clause array of a high field. -/
def claOf (hi : BitVec 2) : Eng := if hi = 0 then .cla0 else if hi = 1 then .cla1 else if hi = 2 then .cla2 else .cla3

/-- The value of a special register for the thread in issue. -/
def State.special (s : State) (sel : BitVec 10) (hi : BitVec 2) : Option Word :=
  let t := s.me
  let k := s.kernel t.kid
  let nat (n : Nat) : Option Word := some (BitVec.ofNat 64 n)
  if hi ≠ 0 && sel ≠ 0x01D then none else
  match sel.toNat with
  | 0x000 => some (t.pc &&& ~~~0xF)
  | 0x001 => some (zx t.tid)
  | 0x002 => some (zx t.mul)
  | 0x003 => nat t.slot
  | 0x004 => nat t.core
  | 0x005 => nat (k.lcOf t.core)
  | 0x006 => nat k.ncore
  | 0x007 => nat k.nthread
  | 0x008 => nat t.ctx
  | 0x009 => nat (s.ctx t.ctx).tenant
  | 0x00A => some (zx t.prin)
  | 0x00B => some (zx t.rper)
  | 0x00C => some s.time
  | 0x00D => some t.tmcmp
  | 0x00E => some t.upvec
  | 0x00F => some t.upc
  | 0x010 => some (zx t.ucause)
  | 0x011 => some (zx t.umask <<< 8)
  | 0x012 => some t.fva
  | 0x013 => some t.finfo
  | 0x014 => some t.rkey
  | 0x015 => some t.rctr
  | 0x016 => some t.nto
  | 0x017 => some (zx t.glo)
  | 0x018 => some (zx t.ghi)
  | 0x019 => some t.stat
  | 0x01A => some (zx t.modeReg)
  | 0x01B => nat (s.eng (s.engOf t .mat)).completed
  | 0x01C => nat (s.eng (s.engOf t .cpy)).completed
  | 0x01D => nat (s.eng (s.engOf t (claOf hi))).completed
  | 0x01E => some (s.loadWord t.kid (k.lcOf t.core))
  | 0x01F => some (if k.gang then k.gtick else 0)
  | _ => none

/-- SRD: the register as it stands when the bundle issues (DEDUCED, log 66). -/
def execSrd (d : SReg) (sel : BitVec 10) (hi : BitVec 2) (s : State) : Res :=
  match s.special sel hi with
  | some w => done (s.wx d w)
  | none => done (s.illegal (.srd d sel hi))

/-- Registers that only runtime mode writes (R304). -/
def runtimeOnly (sel : Nat) : Bool := sel == 0x00A || sel == 0x00E || sel == 0x011

/-- A thread after an SWR, or none for a read-only register. -/
def Thread.swr (t : Thread) (cycle sel : Nat) (w : Word) : Option Thread :=
  match sel with
  | 0x00A => some { t with prin := w.truncate 32 }
  | 0x00B => some { t with rper := if 10 < w.toNat then 10 else w.truncate 4, rperSet := true }
  | 0x00D => some { t with tmcmp := w }
  | 0x00E => some { t with upvec := w }
  | 0x00F => some { t with upc := w }
  | 0x010 => some { t with ucause := w.truncate 8 }
  | 0x011 => some { t with umask := w.extractLsb' 8 6 }
  | 0x012 => some { t with fva := w }
  | 0x013 => some { t with finfo := w }
  | 0x014 => some { t with rkey := w }
  | 0x015 => some { t with rctr := w }
  | 0x016 => some { t with nto := w }
  | 0x017 => some { t with glo := w.truncate 32 }
  | 0x018 => some { t with ghi := w.truncate 32 }
  | 0x019 => some (t.clearStat cycle w)
  | 0x01A => some { t with modeReg := (t.modeReg &&& 0x10) ||| (w.truncate 5 &&& 0xF) }
  | _ => none

def execSwr (sel : BitVec 10) (hi : BitVec 2) (s1 : SReg) (s : State) : Res :=
  let t := s.me
  let bad := done (s.illegal (.swr sel hi s1))
  if hi ≠ 0 && sel ≠ 0x01D then bad
  else if runtimeOnly sel.toNat && t.mode = .user then bad
  else match t.swr s.cycle sel.toNat (s.rx s1) with
    | some t' => done (s.setMe t')
    | none => bad

/-! ## WAITT (R119, R377) -/

/-- WAITT judges its timeline at each turn; the order of the writes it acquires is that of their performance (R250). -/
def execWaitt (e : Eng) (d s1 : SReg) (s : State) : Res :=
  let n := (s.eng (s.engOf s.me e)).completed
  if (s.rx s1).toNat ≤ n then done (s.wx d (BitVec.ofNat 64 n)) else done s.again

/-! ## Leases (R168, R169, R214) -/

/-- Requests of other core-contexts in an arbitration. -/
def EngUnit.others (u : EngUnit) (cc : Nat) : Bool := u.arb.any (fun r => r.cc != cc)

/-- A grant to a core-context: its requests leave the arbitration and issue again. -/
def EngUnit.grant (u : EngUnit) (cc tick : Nat) : EngUnit :=
  { u with holder := some cc, passing := none, granted := 0, since := tick, expired := false, arb := u.arb.filter (fun r => r.cc != cc) }

/-- A lease granted to a core-context: the engine saves what it holds of another and restores what it had saved of this one
(R214, R215); a clause array's first lease by its context is noted (R318). -/
def State.grantUnit (s : State) (u cc : Nat) : State :=
  let s := s.takeUnit u cc
  (s.setUnit u ((s.unit u).grant cc s.tick)).noteArray (s.kernel (cc / 1024)).ctx u

/-- The thread in issue joins the arbitration once, and parks. -/
def State.joinLease (s : State) (u : Nat) : State :=
  let t := s.me
  let e := s.unit u
  let s :=
    if e.arb.any (fun r => r.thr == s.cur) then s
    else
      let r : LeaseReq := { thr := s.cur, cc := t.cc, prio := (s.kernel t.kid).prio, seq := s.nextId }
      { s.setUnit u { e with arb := e.arb ++ [r] } with nextId := s.nextId + 1 }
  s.park (.lease u)

/-- The holder gives up its lease: the passage begins (R168, R214). -/
def State.beginPassage (s : State) (u : Nat) : State :=
  let e := s.unit u
  match e.holder with
  | none => s
  | some cc =>
    let (due, s) := s.later
    s.setUnit u { e with holder := none, passing := some cc, expired := false, due := due }

/-- The lease for the thread in issue: held, taken now, or waited for. -/
inductive Leased where | held | taken | no
deriving DecidableEq, Repr
def State.tryLease (s : State) (u : Nat) : Leased :=
  let e := s.unit u
  if e.holder = some s.me.cc then .held
  else if e.holder.isNone && e.passing.isNone && !e.others s.me.cc then .taken
  else .no

def execLease (e : Eng) (try_ : Bool) (d : SReg) (s : State) : Res :=
  let u := s.unitOf s.me e
  match s.tryLease u with
  | .held => done (s.wx d 1)
  | .taken => done ((s.grantUnit u s.me.cc).wx d 1)
  | .no => if try_ then done (s.wx d 0) else done (s.joinLease u)

def execLrel (e : Eng) (s : State) : Res :=
  let u := s.unitOf s.me e
  done (if (s.unit u).holder = some s.me.cc then s.beginPassage u else s)

/-- Engines run the commands of a context that is running or resident and is not being saved (R213, R214, R313). -/
def State.engRuns (s : State) (ctx : Nat) : Bool :=
  let c := s.ctx ctx
  (c.state == ctxRunning || c.state == ctxResident) && !c.stop

/-- Whether every accepted command of the outgoing core-context is complete, or its stream is stopped or its context does
not run (R214). -/
def State.drained (s : State) (u cc : Nat) : Bool :=
  let ctx := (s.kernel (cc / 1024)).ctx
  let e := s.eng (engKey ctx u)
  e.queue.isEmpty || e.stopped.isSome || (!s.engRuns ctx && !e.ran)

def State.passageDue (s : State) (u : Nat) : Bool :=
  let e := s.unit u
  match e.passing with
  | some cc => s.drained u cc && decide (e.due ≤ s.cycle)
  | none => false

/-- The request that wins: the highest priority, then the earliest. -/
def bestReq (l : List LeaseReq) : Option LeaseReq :=
  l.foldl (fun b r => match b with
    | none => some r
    | some x => if x.prio < r.prio || (x.prio == r.prio && decide (r.seq < x.seq)) then some r else some x) none

/-- LEASE_PASSAGE: the next core-context holds the lease, with the engine's state saved and restored (R214, R215). Where none
waits, the engine keeps what it holds, unless the owner's context is being saved or held (R313, R317). -/
def execLeasePassage (u : Nat) (s : State) : Res :=
  if !s.passageDue u then notNow "LEASE_PASSAGE" else
  let e := s.unit u
  match bestReq e.arb with
  | none =>
    match e.passing with
    | some cc =>
      if s.engRuns (s.kernel (cc / 1024)).ctx then done (s.setUnit u { e with passing := none })
      else done ((s.spillUnit u cc none).setUnit u { e with passing := none, loaded := none })
    | none => done s
  | some r => done (s.grantUnit u r.cc)

def State.grantOver (s : State) (u : Nat) : Bool :=
  let e := s.unit u
  e.holder.isSome && !e.expired && (decide (64 ≤ e.granted) || decide (e.since + 65536 ≤ s.tick))
def execGrantExpiry (u : Nat) (s : State) : Res :=
  if s.grantOver u then done (s.setUnit u { s.unit u with expired := true }) else notNow "GRANT_EXPIRY"

/-! ## Command queues (R170, R171, R206, R213) -/

/-- The resume word (R213), accepted whatever the queue holds (DEDUCED, log 30). -/
def resumeWord : CmdWord := { q0 := 0x0001_0000_0000_0000, q1 := 0, q2 := 0, q3 := 0 }

/-- What becomes of a command of the thread in issue. -/
inductive Pushed where
  | number (n : Nat) (s : State)
  | parked (s : State)
deriving DecidableEq, Repr

/-- A command takes the next number of its engine-context. -/
def State.pushCmd (s : State) (ec : Nat) (w : Work) (resume : Bool) : Pushed :=
  let t := s.me
  let e := s.eng ec
  let n := e.accepted + 1
  let c : Cmd := { num := n, work := w, thr := s.cur, cc := t.cc, kid := t.kid, tid := t.tid, prin := t.prin, rper := t.rper, resume := resume }
  let (due, s) := s.later
  .number n (s.setEng ec { e with accepted := n, queue := e.queue ++ [c], due := if e.queue.isEmpty then due else e.due })

/-- A stopped engine-context takes only the resume word of runtime mode; it gives it a number whatever its queue holds. A
command of either kind reaches a leased engine only under the lease (R169, R214). -/
def State.pushWork (s : State) (e : Eng) (w : Work) : Pushed :=
  let t := s.me
  let u := s.unitOf t e
  let ec := engKey t.ctx u
  let resume := (s.eng ec).stopped.isSome
  if resume && !(t.mode = .runtime && w = .word resumeWord) then .number 0 s
  else
    let full (s : State) : Bool := !resume && decide (32 ≤ (s.eng ec).accepted - (s.eng ec).completed)
    if !unitLeased u then (if full s then .parked s.again else s.pushCmd ec w resume)
    else
      let push (s : State) : Pushed :=
        if full s then .parked s.again
        else s.setUnit u { s.unit u with granted := (s.unit u).granted + 1 } |>.pushCmd ec w resume
      match s.tryLease u with
      | .no => .parked (s.joinLease u)
      | .taken => push (s.grantUnit u t.cc)
      | .held =>
        let e := s.unit u
        if e.expired && e.others t.cc then .parked ((s.beginPassage u).joinLease u)
        else if e.expired then push (s.grantUnit u t.cc)
        else push s

/-- A command word from its 32 bytes. -/
def cmdOf (bs : List Byte) : CmdWord :=
  { q0 := wordOf 64 (bs.take 8), q1 := wordOf 64 ((bs.drop 8).take 8), q2 := wordOf 64 ((bs.drop 16).take 8), q3 := wordOf 64 ((bs.drop 24).take 8) }
def cmdBits (w : CmdWord) : BitVec 512 := 0#256 ++ w.q3 ++ w.q2 ++ w.q1 ++ w.q0

/-- The push of a command, its number in D; a parked one keeps the word it has read (R170). -/
def State.pushWord (s : State) (e : Eng) (d : SReg) (w : CmdWord) : State :=
  match s.pushWork e (.word w) with
  | .number n s => s.wx d (BitVec.ofNat 64 n)
  | .parked s => s.setMe { s.me with got := some { payload := cmdBits w, hdr := 1 } }

def execEnq (e : Eng) (d s1 : SReg) (off : BitVec 15) (s : State) : Res :=
  match s.me.got with
  | some m => done (s.pushWord e d (cmdOf (leBytes 32 m.payload.toNat)))
  | none => ends do
    let s ← s.release .device
    let (bs, s) ← s.readBlock (.enq e d s1 off) ((s.rx s1).toNat + off.toInt) 32 32
    .ok (s.pushWord e d (cmdOf bs))

/-- ENQI adds its registers to the word it carries (R171); D is read before it receives the number. -/
def execEnqi (e : Eng) (d s1 s2 : SReg) (w : CmdWord) (s : State) : Res :=
  ends do
    let s ← s.release .device
    .ok (s.pushWord e d { q0 := w.q0, q1 := w.q1 + s.rx s1, q2 := w.q2 + s.rx s2, q3 := w.q3 + s.rx d })

end Sys2Proof.Machine
end

