-- ==== Sys2Proof/Machine/Perform.lean ====
section
/-! DEFINITION. How an access in flight performs: confirmation of its translation and the fault frame (R138 to R141), the
effect of each kind at its home or owning core (R143 to R154), U lines (R273), and the events that end an access. -/

namespace Sys2Proof.Machine

/-! ## What one access does to its bytes -/

/-- A value of n bytes as a register takes it. -/
def extend (n : Nat) (signed : Bool) (v : Nat) : Word :=
  if signed then (BitVec.ofNat (8 * n) v).signExtend 64 else BitVec.ofNat 64 v

def aBytes : ASize → Nat | .n32 | .i32 => 4 | .b64 => 8
def aSigned : ASize → Bool | .i32 => true | _ => false

/-- AMO operations by CLASS (R151): 0 add, 1 min, 2 max, 3 and, 4 or, 5 xchg, 6 addi. -/
def amoNew (op : Nat) (sz : ASize) (m old b : Nat) : Nat :=
  let w := 8 * aBytes sz
  let x := BitVec.ofNat w old
  let y := BitVec.ofNat w b
  let less (a b : BitVec w) : Bool := match sz with | .n32 => a.ult b | _ => a.slt b
  match op with
  | 0 | 6 => (x + BitVec.ofNat w m * y).toNat
  | 1 => (if less y x then y else x).toNat
  | 2 => (if less x y then y else x).toNat
  | 3 => (x &&& y).toNat
  | 4 => (x ||| y).toNat
  | _ => y.toNat

/-- What an access leaves: the bytes it writes (none: it writes nothing), its value and its flags. -/
structure Effect where
  new : Option (List Byte)
  res : Word := 0
  fl : Fl := 0
deriving DecidableEq, Repr

/-- The effect of an access on the bytes it finds; `hit` says whether an SC finds its reservation. -/
def Op.effect (o : Op) (hit : Bool) (bs : List Byte) : Effect :=
  let old := leNat bs
  match o.kind with
  | .load sg | .lr sg => { new := none, res := extend o.n sg old }
  | .store => { new := some (leBytes o.n o.data.toNat) }
  | .sc => if hit then { new := some (leBytes o.n o.data.toNat), res := 1 } else { new := none }
  | .amo op sz => { new := some (leBytes o.n (amoNew op sz o.mul old o.data.toNat)), res := extend o.n (aSigned sz) old }
  | .cas sz =>
    { new := if old = o.data2.toNat % 2 ^ (8 * o.n) then some (leBytes o.n o.data.toNat) else none, res := extend o.n (aSigned sz) old }
  | .xacc => { new := some (leBytes 64 (cellAdd (wordOf 512 bs) (xaccTerm (o.data.truncate 32) o.mul)).toNat) }
  | .xrd rm =>
    let (c, fl) := cellRead (wordOf 512 bs) (match rm with | .rne => .rne | .rtz => .rtz | .rdn => .rdn | .rup => .rup | .rna => .rna)
    { new := none, res := BitVec.ofNat 64 c, fl := fl }
  | .xclr => { new := some (leBytes 64 0) }
  | _ => { new := none }

/-- Accesses that only write: they read nothing at their home. -/
def OpKind.plain : OpKind → Bool
  | .store | .xclr => true
  | _ => false

/-- The reservation an LR sets and an SC clears (R149). -/
def State.reserve (s : State) (o : Op) (key : Nat) : State :=
  let t := s.thread o.thr
  match o.kind with
  | .lr _ =>
    s.setThread o.thr { t with
      resv := some key, resvAt := s.cycle, resvKey := key
      resvFrom := if t.resvKey = key && decide (s.cycle < t.resvFrom + 12800) then t.resvFrom else s.cycle }
  | .sc => s.setThread o.thr { t with resv := none }
  | _ => s

/-- How an access ends where it is served. -/
inductive Perf where
  | ok (e : Effect) (s : State)
  | absent (va : Nat) (s : State)
  | bad (va : Nat) (s : State)
deriving DecidableEq, Repr

/-- An access to a word of an LM, performed by its owner. -/
def State.performLm (s : State) (o : Op) (cc off : Nat) : Perf :=
  if !o.kind.plain && s.lmBad cc off o.n then .bad (lmPa cc off) s else
  let key := lmKey cc off
  let e := o.effect ((s.thread o.thr).resv == some key) (s.lmRead cc off o.n)
  let s := (if o.kind.plain then s else s.lmCorrect cc off o.n).reserve o key
  match e.new with
  | some bs => .ok e (s.lmWrite cc off bs)
  | none => .ok e s

/-! ## U lines (R273 to R275) -/

/-- The KIND of a combinable operation: 1 and 2 sums, 3 to 10 min and max, 11 exact sums. -/
def Op.uKind (o : Op) : Option Nat :=
  match o.kind with
  | .amo 0 sz | .amo 6 sz => some (match sz with | .b64 => 2 | _ => 1)
  | .amo 1 sz => some (match sz with | .n32 => 4 | .i32 => 3 | .b64 => 7)
  | .amo 2 sz => some (match sz with | .n32 => 6 | .i32 => 5 | .b64 => 9)
  | .xacc => some 11
  | _ => none

/-- Whether the words [i, i + n) of a U line, counted in 4 bytes, hold another KIND in their 8-byte words. -/
def ULine.conflicts (u : ULine) (i n kind : Nat) : Bool :=
  u.words.any (fun e => e.2.kind != kind && decide (e.1 / 2 < (i + n + 1) / 2) && decide (i / 2 ≤ e.1 / 2)) ||
    u.cells.any (fun e => kind != 11 && decide (e.1 = i / 16))

/-- A partial result joined by one more operation. -/
def joinPart (kind m : Nat) (old : Option (BitVec 64)) (b : BitVec 64) : BitVec 64 :=
  let part := if kind = 1 then ((BitVec.ofNat 32 m * b.truncate 32).zeroExtend 64) else if kind = 2 then BitVec.ofNat 64 m * b else b
  match old with
  | none => part
  | some a => combine kind a part

/-- One operation gathered in a U line. -/
def ULine.join (u : ULine) (o : Op) (kind off : Nat) : ULine :=
  if kind = 11 then
    { u with cells := u.cells.put (off / 64) (cellAdd (u.cells.get 0 (off / 64)) (xaccTerm (o.data.truncate 32) o.mul)) }
  else
    let old := (u.words.find? (fun e => e.1 == off / 4)).map (fun e => e.2.part)
    { u with words := u.words.put (off / 4) { kind := kind, part := joinPart kind o.mul old o.data } }

/-- Whether a combinable operation gathers: where its core holds the line in U, and otherwise as the implementation chooses
(R273; DESIGN CHOICE, log 11). -/
def State.gathers (s : State) (o : Op) : Bool :=
  match o.place with
  | .glob va =>
    o.uKind.isSome && ((s.coreCtx o.cc).stashOf va).isNone &&
      (Config.gathers o.id || (match s.locate va with | .at_ loc pa => (s.core (s.physCore (s.thread o.thr))).ulines.has (lineKey loc pa) | _ => false))
  | _ => false

/-- A combinable operation gathered in a U line of the issuing core's L1. One with a destination returns the line at once,
and its D is the home's word with what the copy held before (R275). None where no U line could be had (DESIGN CHOICE, log 11). -/
def State.gather (s : State) (o : Op) (kind va loc pa : Nat) : Option Word × State :=
  let t := s.thread o.thr
  let pc := s.physCore t
  let key := lineKey loc pa
  let off := pa % 128
  let n := if kind = 11 then 16 else o.n / 4
  let clash := match (s.core pc).ulines.find? (fun e => e.1 == key) with | some (_, u) => u.conflicts (off / 4) n kind | none => false
  let s := if clash then s.returnU pc key else s
  match s.grantU pc t.ctx va loc pa (s.opWant o) with
  | (s, false) => (none, s)
  | (s, true) =>
    let c := s.core pc
    let u := c.ulines.get { loc := loc, pa := pa / 128 * 128, words := [], cells := [] } key
    let s := s.setCore pc { c with ulines := c.ulines.put key (u.join o kind off) }
    if o.dst.isNone then (some 0, s) else
    let home : BitVec 64 := wordOf 64 (s.readPa loc pa o.n)
    let was := (u.words.find? (fun e => e.1 == off / 4)).map (fun e => e.2.part)
    let v := match was with | none => home | some b => combine kind home b
    (some (extend o.n (match o.kind with | .amo _ sz => aSigned sz | _ => false) (v.toNat % 2 ^ (8 * o.n))), s.returnU pc key)

/-! ## Accesses to global memory -/

/-- How an access treats its L1, by what it wrote (R262, R277). -/
def Op.l1Use (o : Op) (wrote : Bool) : L1Use :=
  match o.kind with
  | .load _ | .lr _ | .vload => .load o.alloc
  | .xrd _ => .cell
  | _ => if wrote then .write else .touch

/-- The residency data after an access in flight to one line. -/
def State.opTouch (s : State) (o : Op) (va : Nat) (wrote : Bool) : State :=
  s.lineTouch o.cc (s.physCore (s.thread o.thr)) va (o.l1Use wrote) (s.opWant o)

/-- An access at its home, or in its core-context's stash. -/
def State.performHome (s : State) (o : Op) (va : Nat) : Perf :=
  let write (s : State) (e : Effect) : Perf :=
    match e.new with
    | none => .ok e (s.opTouch o va false)
    | some bs =>
      match s.gwrite o.cc va bs (s.opWant o) with
      | (.bytes _, s) => .ok e (s.opTouch o va true)
      | (.absent a, s) => .absent a s
      | (.dataError a, s) => .bad a s
  if o.kind.plain then write s (o.effect false [])
  else
    match s.gread o.cc va o.n (s.opWant o) with
    | (.bytes bs, s) =>
      let key := match s.locate va with | .at_ loc pa => globKey loc pa | _ => 0
      let e := o.effect ((s.thread o.thr).resv == some key) bs
      write (s.reserve o key) e
    | (.absent a, s) => .absent a s
    | (.dataError a, s) => .bad a s

def State.performGlob (s : State) (o : Op) (va : Nat) : Perf :=
  match s.locate va, (if s.gathers o then o.uKind else none) with
  | .at_ loc pa, some kind =>
    if loc = 0 && s.eccBad pa o.n then .bad va s else
    (match s.gather o kind va loc pa with
    | (some v, s) => .ok { new := none, res := v } s
    | (none, s) => s.performHome o va)
  | _, _ => s.performHome o va

/-! ## Ends of accesses -/

/-- A thread parked on this access goes on. -/
def State.unpark (s : State) (o : Op) : State :=
  let t := s.thread o.thr
  if t.wait = some (.access o.id) then s.setThread o.thr { t with wait := none } else s

/-- The value of an access in its register, with the flags of XRD. -/
def State.deliverX (s : State) (o : Op) (w : Word) (fl : Fl) : State :=
  let s := s.unpark (o := o) |>.dropOp o.id
  let s := match o.dst with | some (.s f) => s.putX o.thr f w o.issued | _ => s
  if fl = 0 || (s.thread o.thr).life ≠ .resident then s
  else
    s.setThread o.thr ((s.thread o.thr).stick s.cycle (statFlags · fl))

/-- The mark of a private destination that met uncorrectable data. -/
def State.markError (s : State) (o : Op) : State :=
  let t := s.thread o.thr
  match o.dst with
  | some (.s f) => if isShared f || f = 0 then s else s.setThread o.thr { t with xde := setMark t.xde (low5 f) true }
  | some (.v f) => if isShared f then s else s.setThread o.thr { t with vde := setMark t.vde (low5 f) true }
  | _ => s

/-- Uncorrectable data, or a page that no page-in could serve (R140, R141): the report, and the mark of a private
destination, which the other parts of the same vector load leave (R194). -/
def State.dataFail (s : State) (o : Op) (va : Nat) : State :=
  let s := ((s.unpark o).dropOp o.id).reportData (s.thread o.thr).ctx va
  let s := (s.dropPush o.push).mapOps (fun x =>
    if x.thr = o.thr && x.issued = o.issued && x.kind == .vload && o.kind == .vload then { x with failed := true } else x)
  s.markError o

/-- An earlier operation, by number, of the same thread on one of its lines; or of the same core on a line of another core's
LM, since writes to one line follow one route (R138, R157, R241). -/
def State.after (s : State) (o : Op) (f : Op → Bool) : Bool :=
  s.ops.any (fun x => decide (x.id < o.id) && x.kind.isAccess && f x &&
    x.lines.any (fun l => o.lines.contains l && (x.thr == o.thr || (x.cc == o.cc && l.1 ≠ 0 && l.1 ≠ 1 + o.cc))))

/-! ## Confirmation (R138, R139) -/

def State.confirmable (s : State) (o : Op) : Bool :=
  o.reserves && !o.isFar && !o.pwait && decide (o.due ≤ s.cycle) && !s.after o Op.reserves

/-- A not-present fault recorded: its reservation becomes the record, a private destination is marked (R139); later accesses to its
line that a hit had confirmed ask again, and record their own (R138). Records stand in the order in which the faults are found (DESIGN
CHOICE, log 91). -/
def State.recordFault (s : State) (o : Op) (va : Nat) : State :=
  let s := ((s.dropOp o.id).mapOps (fun x =>
    if x.thr = o.thr && decide (o.id < x.id) && x.lines.any (fun l => o.lines.contains l) then { x with conf := false } else x)).faultReq va o.cc
  let t := s.thread o.thr
  if t.life ≠ .resident then s else
  let r : FaultRec := { va := BitVec.ofNat 64 o.va, data := o.data, data2 := o.data2, info := o.info }
  let xpf := match o.dst with | some (.s f) => if isShared f || f = 0 then t.xpf else setMark t.xpf (low5 f) true | _ => t.xpf
  s.setThread o.thr { t with frame := t.frame ++ [r], owed := t.owed ++ [o.id], xpf := xpf }

/-- An access waits for the memory manager (R140, R306). -/
def State.waitManager (s : State) (o : Op) (va : Nat) : State :=
  let s := (s.faultReq va o.cc).mapOps (fun x => if x.id = o.id then { x with pwait := true } else x)
  let t := s.thread o.thr
  if o.runtime && !o.far && (t.wait = none || t.wait = some .poll) then s.setThread o.thr { t with wait := some (.access o.id) } else s

/-- Whether a record of the thread's frame is of the line of va: later accesses to that line record too (R138). -/
def Thread.frameHas (t : Thread) (va : Nat) : Bool := t.frame.any (fun r => r.va.toNat / 128 == va / 128)

def execTranslationConfirm (op : Nat) (s : State) : Res :=
  match s.findOp op with
  | none => notNow "TRANSLATION_CONFIRM"
  | some o =>
    if !s.confirmable o then notNow "TRANSLATION_CONFIRM" else
    let pass :=
      let (due, s) := s.soon
      done (s.mapOps (fun x => if x.id = op then { x with conf := true, due := due } else x))
    match o.place with
    | .glob va =>
      if !o.runtime && (s.thread o.thr).frameHas o.va then done (s.recordFault o va)
      else match s.locate va with
        | .absent =>
          if o.far || (s.stashLine o.cc va).isSome || o.runtime then done (s.waitManager o va) else done (s.recordFault o va)
        | _ => pass
    | _ => pass

/-! ## Returns and acceptance -/

/-- A write, an STFE or an LR waits while another thread's reservation keeps its granule (R150). -/
def State.kept (s : State) (o : Op) : Bool :=
  s.threads.any (fun e => e.2.resv.isSome) &&
    (match o.kind with
    | .feReq cc w k => k = 1 && s.keeps o.thr (lmKey cc (8 * w))
    | .lr _ => (s.granulesOf o).any (s.keeps o.thr)
    | _ => o.kind.isWrite && (s.granulesOf o).any (s.keeps o.thr))

/-- An access has all it needs but its turn at the home: confirmed, with its data, after its thread's earlier accesses to the
line and after an acquiring load of its own bundle, and no write to a page that is migrating (R138, R145, R236, R295). -/
def State.ready (s : State) (o : Op) : Bool :=
  !o.reserves && !o.pwait && o.waits == 0 && (match o.kind with | .steal cc => s.dqFree cc | _ => true) && !s.after o (fun _ => true) && !s.kept o &&
    !s.ops.any (fun x => x.thr == o.thr && decide (x.id < o.id) && x.acq) && !s.needing o &&
    !(o.kind.isWrite && (match o.place with | .glob va => s.migratingAt va | _ => false)) &&
    !(o.kind.isWrite && o.pieces.any (fun p => match p.place with | .glob va => s.migratingAt va | _ => false))

/-- The home lines a global access is served at: none for a load that hits in its L1, for an access that its stash or its
core's U line holds. -/
def State.homeLines (s : State) (o : Op) : List Nat :=
  let pc := s.physCore (s.thread o.thr)
  let loads := match o.kind with | .load _ | .lr _ | .vload => true | _ => false
  o.lines.filterMap (fun l =>
    if l.1 ≠ 0 || o.isFar || !o.kind.isAccess then none else
    match s.locate (l.2 * 128) with
    | .at_ loc pa =>
      if (loads && s.l1Has pc loc pa) || ((s.coreCtx o.cc).stashOf (l.2 * 128)).isSome || (s.gathers o && (s.core pc).ulines.has (lineKey loc pa))
      then none else some (lineKey loc pa)
    | _ => none)

/-- What the home of a line still makes an access wait for (R279, R273): it serves one request of a line in a cycle, and
grants U only after the readers that wait. -/
def State.homeBusy (s : State) (o : Op) : Bool :=
  let ks := s.homeLines o
  ks.any (fun k => s.busyLine k ||
    (s.gathers o && s.ops.any (fun x => x.id != o.id && x.uKind.isNone && x.kind.isAccess && decide (x.due ≤ s.cycle) && s.ready x && (s.homeLines x).contains k)))

/-- A far access that waited can be sent now: it has its data, and what it follows has ended or been sent. -/
def State.sendable (s : State) (o : Op) : Bool :=
  o.unsent.isSome && o.waits == 0 && !s.needing o &&
    !s.ops.any (fun x => x.thr == o.thr && decide (x.id < o.id) && x.unsent.isSome && x.lines.any (fun l => o.lines.contains l))
def State.sendNow (s : State) (o : Op) : State :=
  match o.place, o.unsent with
  | .far a, some op =>
    let op := if o.kind == .vstore then farStore o.n o.vdata o.pieces else op
    (s.sendFar (s.thread o.thr).ctx a o.prin op).mapOps (fun x => if x.id = o.id then { x with unsent := none, deadline := s.tick + 2 ^ 20 } else x)
  | _, _ => s

/-- An access may perform in this cycle. -/
def State.performable (s : State) (o : Op) : Bool := decide (o.due ≤ s.cycle) && s.ready o && !s.homeBusy o

/-! ## Combining switches (R276) -/

/-- What a combining switch compares: loads of one 8-byte word and size, or AMOs of one KIND on one word. -/
def State.mergeKey (s : State) (o : Op) : Option (Nat × Nat × Nat) :=
  match o.place with
  | .glob va =>
    match s.locate va, o.kind with
    | .at_ loc pa, .load sg => if (s.homeLines o).isEmpty then none else some (loc * 2 ^ 52 + pa / 8, 16 * o.n + (if sg then 1 else 0), 0)
    | .at_ loc pa, .amo _ _ =>
      (match o.uKind with
      | some k => if s.gathers o || (s.homeLines o).isEmpty then none else some (loc * 2 ^ 52 + pa, o.n, k)
      | none => none)
    | _, _ => none
  | _ => none

/-- The requester of an access, for the order in which a switch splits a reply: core, then slot (DESIGN CHOICE, log 11). -/
def State.requester (s : State) (o : Op) : Nat := s.physCore (s.thread o.thr) * 16 + o.slot

/-- Requests that merge with an access in a switch: they reach it within 8 cycles of each other. -/
def State.mates (s : State) (o : Op) : List Op :=
  let k := s.mergeKey o
  if k.isNone then [] else
  s.ops.filter (fun x => x.id != o.id && s.mergeKey x == k && decide (x.due ≤ o.due + 8) && decide (o.due ≤ x.due + 8) &&
    Config.sameSwitch o.id x.id && s.ready x)

/-- The access and what merges with it, in ascending order of requester. -/
def State.mergeGroup (s : State) (o : Op) : List Op :=
  (s.mates o).foldl (fun l x =>
    (l.takeWhile (fun y => decide (s.requester y ≤ s.requester x))) ++ [x] ++ l.dropWhile (fun y => decide (s.requester y ≤ s.requester x))) [o]

/-- One part of a vector access read: its w bits, or what stops it. The residency data follow once for each line (R264, R279). -/
def State.readPart (s : State) (o : Op) (p : Piece) : Got × State :=
  match p.place with
  | .lm cc off => s.lmGot cc off p.n
  | .far _ => (.bytes [], s)
  | .glob va =>
    s.gread o.cc va p.n (s.opWant o)

/-- The residency data after a vector access: each line of global memory it touched, once. -/
def State.touchLines (s : State) (o : Op) (wrote : Bool) : State :=
  let vas := o.pieces.filterMap (fun p => match p.place with | .glob va => some va | _ => none)
  (vas.foldl (fun l va => if l.any (fun x => x / 128 == va / 128) then l else l ++ [va]) []).foldl (fun s va => s.opTouch o va wrote) s

/-- The bits of a part in the register. -/
def Piece.bits (p : Piece) (bs : List Byte) : VReg := (BitVec.ofNat 512 (leNat bs / 2 ^ p.bit % 2 ^ p.w)) <<< p.pos

/-- Every part of a vector load: the register image, or the first that stops it. -/
def State.readParts (s : State) (o : Op) : List Piece → VReg → Except (Bool × Nat) VReg × State
  | [], v => (.ok v, s)
  | p :: rest, v =>
    match s.readPart o p with
    | (.bytes bs, s) => State.readParts s o rest (v ||| p.bits bs)
    | (.absent a, s) => (.error (false, a), s)
    | (.dataError a, s) => (.error (true, a), s)

/-- Whether the manager could not make the page of va resident for this core-context's vector and transfer accesses. -/
def State.refused (s : State) (cc va : Nat) : Bool := (s.coreCtx cc).noPage.contains (va / 65536)

/-- One part of a vector store: its bits in the register into its bytes. -/
def State.writePart (s : State) (o : Op) (p : Piece) : State :=
  let v := (o.vdata >>> p.pos).toNat % 2 ^ p.w
  let mixed (bs : List Byte) : List Byte :=
    let old := leNat bs
    leBytes p.n (old - old / 2 ^ p.bit % 2 ^ p.w * 2 ^ p.bit + v * 2 ^ p.bit)
  let t := s.thread o.thr
  match p.place with
  | .far _ => s
  | .lm cc off => s.lmWrite cc off (mixed (s.lmRead cc off p.n))
  | .glob va =>
    let whole := p.bit = 0 && p.w = 8 * p.n
    let put (s : State) (bs : List Byte) : State :=
      match s.gwrite o.cc va bs (s.opWant o) with
      | (.bytes _, s) => s
      | (.absent _, s) => s
      | (.dataError a, s) => s.reportData t.ctx a
    if whole then put s (leBytes p.n v)
    else match s.gread o.cc va p.n (s.opWant o) with
      | (.bytes bs, s) => put s (mixed bs)
      | (.absent _, s) => s
      | (.dataError a, s) => s.reportData t.ctx a

/-- Pages of a vector access that are not present and not refused; a malformed entry is uncorrectable data, and no page to
wait for (R284). -/
def State.missing (s : State) (o : Op) : Option Nat :=
  (o.pieces.filterMap (fun p => match p.place with
    | .glob va => if s.locate va == .absent && !s.refused o.cc va then some va else none
    | _ => none)).head?

/-- A vector register written by a load, under its mask (R172); a store that it pushes takes the loaded lanes. A part of a
load that met uncorrectable data elsewhere leaves the mark (R194). -/
def State.deliverV (s : State) (o : Op) (v : VReg) : State :=
  let s := (s.dropOp o.id).fillPush o.push (v &&& o.mask)
  if o.failed then s else
  match o.dst with
  | some (.v f) =>
    let t := s.thread o.thr
    let old := if isShared f then (s.coreCtx t.cc).w[low5 f] else t.regs.v[low5 f]
    s.putV o.thr f ((v &&& o.mask) ||| (old &&& ~~~o.mask)) o.issued
  | _ => s

/-- The bits of a register that the bytes of a far reply fill. -/
def Op.image (o : Op) (v : VReg) : VReg :=
  o.pieces.foldl (fun w p => w ||| BitVec.ofNat 512 (v.toNat / 2 ^ p.bit % 2 ^ p.w * 2 ^ p.pos)) 0

/-- KIND of the denial record of an access (R289). -/
def OpKind.denialKind : OpKind → Nat
  | .load _ | .vload | .block | .elem _ _ => 0
  | .store | .vstore => 1
  | _ => 2

/-- A far denial recorded at the requester, with the tag that the home judged by (R290): once for an instruction, once for each lane of
a gather or scatter (R194); that of a stream's element is recorded when it is popped (R197). -/
def State.noteFarDenial (s : State) (o : Op) (r : FarReply) : State :=
  if !r.denied || o.told then s else
  let t := s.thread o.thr
  let engine (ec : Nat) : State :=
    let e : EngCtx := s.engs.get {} ec
    let tid := match e.queue with | c :: _ => c.tid | [] => t.tid
    if e.denied.contains (o.va / 128) then s
    else { s with engs := s.engs.put ec { e with denied := e.denied ++ [o.va / 128] } }.logDenial (ec / 4096) (BitVec.ofNat 64 o.va) tid o.prin r.tag 3
  match o.kind with
  | .fetch ec => engine ec
  | .engWrite ec => engine ec
  | .elem _ _ => s
  | _ =>
    let same (x : Op) : Bool := x.thr == o.thr && x.issued == o.issued && x.kind == o.kind
    let note (s : State) (va : Nat) : State :=
      let t := s.thread o.thr
      (if t.life = .resident then s.setThread o.thr (t.stick s.cycle (statDeny · 1)) else s).logDenial t.ctx (BitVec.ofNat 64 va) t.tid o.prin r.tag o.kind.denialKind
    if o.perLane = [] then note (s.mapOps (fun x => if same x then { x with told := true } else x)) o.va
    else
      let s := s.mapOps (fun x => if same x then
          let left := x.perLane.filter (fun l => !o.perLane.any (fun e => e.1 == l.1))
          { x with perLane := left, told := x.told || left.isEmpty } else x)
      o.perLane.foldl (fun s l => note s l.2) s

/-- A reply for a block operand, where the thread still waits for it. -/
def State.blockReply (s : State) (o : Op) (got : Option (List Byte)) : State :=
  let s := s.dropOp o.id
  let t := s.thread o.thr
  let key := match o.place with | .far a => a | _ => o.va
  if (t.blocks.get { op := 0 } key).op = o.id && t.blocks.has key then
    s.setThread o.thr { t with blocks := t.blocks.put key { op := o.id, got := some got } }
  else s

/-- A reply for elements of a stream, where the stream still asks for them: those of one aligned 8-byte part, each a piece of the
operation under its position (R237). -/
def State.elemReply (s : State) (o : Op) (n pos : Nat) (got : Option Nat) (no : Option (BitVec 16)) : State :=
  let s := s.dropOp o.id
  let t := s.thread o.thr
  let st : Stream := t.streams.get {} n
  if st.asked = some (o.id, pos) then
    let far := o.pieces.foldl (fun (m : AMap (Option Nat)) p => m.put p.pos (got.map (fun v => v / 2 ^ p.bit % 2 ^ p.w))) st.far
    let farNo := match no with | some tag => o.pieces.foldl (fun (m : AMap (BitVec 16)) p => m.put p.pos tag) st.farNo | none => st.farNo
    s.setThread o.thr { t with streams := t.streams.put n { st with asked := none, far := far, farNo := farNo, due := s.cycle } }
  else s

/-- Whether a command of an engine-context, by number, is the one at work. -/
def EngCtx.runs (e : EngCtx) (num : Word) : Bool :=
  e.stopped.isNone && (match e.queue with | c :: _ => BitVec.ofNat 64 c.num == num | [] => false)

/-- A part of another device's memory that an engine reads has come, or cannot (none); the parts are kept until the command
ends. -/
def State.fetchReply (s : State) (o : Op) (ec : Nat) (got : Option (List Byte)) : State :=
  let s := s.dropOp o.id
  let e : EngCtx := s.engs.get {} ec
  if e.runs o.info then { s with engs := s.engs.put ec { e with far := e.far.put (farKey o.va o.n) got } } else s

/-- A far write of an engine has ended; one that failed counts for no decrement (R234), and stops the command with its address
(R402). -/
def State.engWritten (s : State) (o : Op) (ec : Nat) (ok : Bool) : State :=
  let s := s.dropOp o.id
  let e : EngCtx := s.engs.get {} ec
  let s := if ok then s else { s with ops := s.ops.filter (fun x => !(x.needs.contains o.id && (match x.kind with | .decrement _ _ _ => true | _ => false))) }
  if ok || !e.runs o.info then s else
  { s with engs := s.engs.put ec { e with farBad := e.farBad <|> some o.va } }

/-- A far access that met uncorrectable data, or got no reply (R141, R402). -/
def State.farFail (s : State) (o : Op) : State :=
  match o.kind with
  | .block => (s.blockReply o none).reportData (s.thread o.thr).ctx o.va
  | .elem n p => (s.elemReply o n p none none).reportData (s.thread o.thr).ctx o.va
  | .fetch ec => (s.fetchReply o ec none).reportData (ec / 4096) o.va
  | .engWrite ec => (s.engWritten o ec false).reportData (ec / 4096) o.va
  | _ => s.dataFail o o.va

/-- Far space on another device: the reply of the home, as the link delivers it (R281, R290). -/
def State.farReply (s : State) (o : Op) (r : FarReply) : State :=
  if r.bad then s.farFail o else
  let s := s.noteFarDenial o r
  let v := if r.denied then 0 else r.value
  let w := v.toNat % 2 ^ (8 * min o.n 8)
  match o.kind with
  | .load sg => s.deliverX o (extend o.n sg w) 0
  | .lr sg =>
    let s := if r.denied then s else s.reserve o (globKey 4 o.va)
    s.deliverX o (extend o.n sg w) 0
  | .sc => (s.setThread o.thr { s.thread o.thr with resv := none }).deliverX o (BitVec.ofNat 64 (w % 2)) 0
  | .amo _ sz | .cas sz => s.deliverX o (extend o.n (aSigned sz) w) 0
  | .xrd _ => s.deliverX o (BitVec.ofNat 64 (v.toNat % 2 ^ 32)) (v.extractLsb' 32 5)
  | .vload => s.deliverV o (o.image v)
  | .block => s.blockReply o (some (leBytes o.n v.toNat))
  | .elem n p => s.elemReply o n p (some (v.toNat % 2 ^ (8 * o.n))) (if r.denied then some r.tag else none)
  | .fetch ec => s.fetchReply o ec (some (leBytes o.n v.toNat))
  | .engWrite ec => s.engWritten o ec true
  | _ => s.deliverX o 0 0

/-- A scalar access performs. -/
def State.performScalar (s : State) (o : Op) : State :=
  match o.place with
  | .far _ => s
  | .lm cc off =>
    match s.performLm o cc off with
    | .ok e s => s.deliverX o e.res e.fl
    | .absent _ s => s
    | .bad a s => s.dataFail o a
  | .glob va =>
    match s.performGlob o va with
    | .ok e s => s.deliverX o e.res e.fl
    | .absent _ s =>
      let (due, s) := s.soon
      s.mapOps (fun x => if x.id = o.id then { x with conf := false, due := due } else x)
    | .bad a s => s.dataFail o a

/-- A vector access waits for a page, or performs. -/
def State.performVector (s : State) (o : Op) : State :=
  match s.missing o with
  | some va =>
    let (due, s) := (s.faultReq va o.cc).soon
    s.mapOps (fun x => if x.id = o.id then { x with due := due } else x)
  | none =>
    let heard (s : State) : State := s.heard o.cc (fun g => o.pieces.any (fun p => match p.place with | .glob va => va / 65536 == g | _ => false))
    match o.kind with
    | .vload =>
      match o.pieces.find? (fun p => match p.place with | .glob va => s.refused o.cc va && !s.present va p.n | _ => false) with
      | some p => heard (s.dataFail o (match p.place with | .glob va => va | _ => 0))
      | none =>
        match s.readParts o o.pieces 0 with
        | (.ok v, s) => (s.touchLines o false).deliverV o (o.vdata ||| v)
        | (.error (_, a), s) => s.dataFail o a
    | _ =>
      let s := o.pieces.foldl (fun s p =>
        match p.place with
        | .glob va => if s.present va p.n then s.writePart o p else s.reportData (s.thread o.thr).ctx va
        | _ => s.writePart o p) s
      heard ((s.touchLines o true).deliverX o 0 0)

/-- The value NRD and VNRD take when the neighbour answers: that of the register before the writes of this cycle (R129, R203). -/
def State.performNear (s : State) (o : Op) : State :=
  let t := s.thread o.thr
  let read (d : Dir) : CoreCtx := s.coreCtx (ccKey t.kid ((s.kernel t.kid).neighbour d t.core))
  match o.kind with
  | .nrd d n => s.finishOp o (((read d).hAt s.cycle)[n.toFin]) 0 true
  | .vnrd d n => s.finishOp o 0 (((read d).wAt s.cycle)[n.toFin]) true
  | _ => s

/-! ## Full/empty words (R146, R147) -/

/-- Whether the state of a word admits a request: LDFE and LDFF want full, STFE wants empty. -/
def feAdmits (full : Bool) (kind : Nat) : Bool := if kind = 1 then !full else full

/-- One request served: the word's new state, and the thread told its value. -/
def State.feServe (s : State) (cc : Nat) (q : FeReq) : State :=
  let c := s.coreCtx cc
  let c := { c with feq := c.feq.filter (fun x => !(x.thr == q.thr && x.word == q.word)) }
  if q.kind = 1 then
    (((s.setCoreCtx cc { c with full := if s.heldCc cc then c.full else c.full.put q.word true }).lmWrite cc (8 * q.word) (leBytes 8 q.data.toNat))).wake q.thr 0
  else
    let s := s.lmCorrect cc (8 * q.word) 8
    let v : Word := wordOf 64 (s.lmRead cc (8 * q.word) 8)
    let s' := (s.setCoreCtx cc (if q.kind = 0 then { c with full := c.full.put q.word false } else c)).wake q.thr v
    if s.lmBad cc (8 * q.word) 8 then
      (s'.setThread q.thr { s'.thread q.thr with replyBad := true }).reportData (s.thread q.thr).ctx (lmPa cc (8 * q.word))
    else s'

/-- Every waiting request that the word's state admits, in order (R147); fuel is the number waiting. -/
def State.feRun : Nat → State → Nat → Nat → State
  | 0, s, _, _ => s
  | n + 1, s, cc, word =>
    let c := s.coreCtx cc
    match c.feq.find? (fun q => q.word == word && feAdmits (c.full.get false word) q.kind) with
    | none => s
    | some q => State.feRun n (s.feServe cc q) cc word

def State.feAll (s : State) (cc word : Nat) : State := State.feRun ((s.coreCtx cc).feq.length + 1) s cc word

/-- A request joins its word's queue: its own core's request of a cycle first. -/
def joinFe (own : Bool) (ownThr : Nat → Bool) (q : FeReq) : List FeReq → List FeReq
  | [] => [q]
  | x :: rest =>
    if own && x.word == q.word && x.cycle == q.cycle && !ownThr x.thr then q :: x :: rest else x :: joinFe own ownThr q rest

/-- A request arrives at the owner of its word (R147). -/
def State.feArrive (s : State) (cc : Nat) (q : FeReq) : State :=
  let c := s.coreCtx cc
  let own (k : Nat) : Bool := (s.thread k).cc == cc
  (s.setCoreCtx cc { c with feq := joinFe (own q.thr) own q c.feq }).feAll cc q.word

/-- FESET at the owner (R147). -/
def State.feSet (s : State) (cc word : Nat) (full : Bool) : State :=
  if s.heldCc cc then s.dropHeld cc (8 * word) else
  let c := s.coreCtx cc
  (s.setCoreCtx cc { c with full := c.full.put word full }).feAll cc word

/-- What a return or an acceptance does, by kind. -/
def State.performOp (s : State) (o : Op) : State :=
  match o.kind with
  | .vload | .vstore => s.performVector o
  | .reply => if (s.thread o.thr).wait == some (.message o.id) then (s.dropOp o.id).wake o.thr 0
    else if o.failed then ((s.unpark o).dropOp o.id).markError o else s.deliverX o o.data 0
  | .nrd _ _ | .vnrd _ _ => s.performNear o
  | .arrive cc b => if s.heldCc cc then (s.dropOp o.id).dropHeld cc 0
    else (s.dropOp o.id).arriveBar cc b o.mul
  | .steal cc => let (v, s) := (s.dropOp o.id).stealFrom cc; s.wake o.thr v
  | .feReq cc word k => (s.dropOp o.id).feArrive cc { thr := o.thr, word := word, kind := k, data := o.data, cycle := s.cycle }
  | _ => s.performScalar o

/-- The return or acceptance of an access that may perform; requests that a switch merged with it perform with it, one after
the other (R276). -/
def State.returnOp (s : State) (o : Op) (far : Option FarReply) : Option State :=
  if o.isFar then (if !s.after o (fun _ => true) && o.unsent.isNone then far.map (s.farReply o) else none) else
  if !s.performable o then none else
  match o.kind with
  | .nrd _ _ | .vnrd _ _ => if s.answers (s.thread o.thr).kid then some (s.performOp o) else none
  | _ =>
    match s.mergeGroup o with
    | [] => none
    | x :: rest => some (rest.foldl (fun s y => s.performOp { y with joined := true }) (s.performOp x))

/-- Which event ends an access: 0 LOAD_RETURN, 1 AMO_RETURN, 2 WRITE_ACCEPTANCE, 3 an event of its own. -/
def OpKind.ending : OpKind → Nat
  | .load _ | .lr _ | .xrd _ | .vload | .reply | .nrd _ _ | .vnrd _ _ | .block | .elem _ _ | .fetch _ | .steal _ | .feReq _ _ _ => 0
  | .amo _ _ | .cas _ | .sc => 1
  | .store | .xacc | .xclr | .vstore | .feset _ | .arrive _ _ | .engWrite _ => 2
  | .vmaxx _ | .token _ _ | .message _ _ _ | .decrement _ _ _ => 3

def State.endOp (s : State) (op kind : Nat) (far : Option FarReply) (name : String) : Res :=
  match s.findOp op with
  | none => notNow name
  | some o =>
    if o.kind.ending ≠ kind then notNow name else
    match s.returnOp o far with
    | some s => done s
    | none => notNow name

def execLoadReturn (op : Nat) (far : Option FarReply) (s : State) : Res := s.endOp op 0 far "LOAD_RETURN"
def execAmoReturn (op : Nat) (far : Option FarReply) (s : State) : Res := s.endOp op 1 far "AMO_RETURN"

/-- NRD and VNRD of a core-context that does not answer (R129). -/
def State.nearLate (s : State) (o : Op) : Bool :=
  (match o.kind with | .nrd _ _ | .vnrd _ _ => true | _ => false) && decide (o.deadline ≤ s.tick) && !s.answers (s.thread o.thr).kid
def execNeighbourTimeout (op : Nat) (s : State) : Res :=
  match s.findOp op with
  | some o => if s.nearLate o then done (s.finishOp o 0 0 false) else notNow "NEIGHBOUR_TIMEOUT"
  | none => notNow "NEIGHBOUR_TIMEOUT"

/-- A far access without a route, or without a reply for 2^20 ticks, completes as if it had met uncorrectable data (R402)
(DEDUCED, log 68). -/
def State.farLate (s : State) (o : Op) : Bool := o.isFar && o.unsent.isNone && (s.upLinks.isEmpty || decide (o.deadline ≤ s.tick))
def execFarAccessTimeout (op : Nat) (s : State) : Res :=
  match s.findOp op with
  | some o => if s.farLate o then done (s.farFail o) else notNow "FAR_ACCESS_TIMEOUT"
  | none => notNow "FAR_ACCESS_TIMEOUT"

/-- WRITE_ACCEPTANCE: stores, exact cells, vector stores, remote arrivals, and FESET of another core's word. -/
def execWriteAcceptance (op : Nat) (far : Option FarReply) (s : State) : Res :=
  match s.findOp op with
  | none => notNow "WRITE_ACCEPTANCE"
  | some o =>
    match o.kind, o.place with
    | .feset full, .lm cc off =>
      if s.performable o then done ((s.dropOp op).feSet cc (off / 8) full) else notNow "WRITE_ACCEPTANCE"
    | _, _ => s.endOp op 2 far "WRITE_ACCEPTANCE"

end Sys2Proof.Machine
end

