-- ==== Sys2Proof/Machine/Mem.lean ====
section
/-! DEFINITION. Slot A: loads, stores, atomics, exact cells, full/empty words, cache maintenance, fences, WAITR and tiles
(R134 to R163). -/

namespace Sys2Proof.Machine

/-! ## The common address path (R134, R135, R137, R138) -/

/-- INFO of a fault-frame record (R139). -/
def amInfo (i : Instr) : Word :=
  let f := encodeAF i
  BitVec.ofNat 64 (f.op.toNat + f.d.toNat * 2 ^ 8 + (f.imm.toNat / 2 ^ 15 % 8) * 2 ^ 14 + (f.imm.toNat / 2 ^ 18 % 8) * 2 ^ 17 +
    (f.imm.toNat / 2 ^ 21 % 8) * 2 ^ 20 + f.fn.toNat * 2 ^ 23)

/-- The effective address. -/
def State.amAddr (s : State) (s1 : SReg) (off : BitVec 15) : Int := (s.rx s1).toNat + off.toInt

/-- D as a destination: none for x0. -/
def dstX (d : SReg) : Option RegName := if d = 0 then none else some (.s d)

/-- Loads of a thread outstanding (R98): the parts of one vector load count once (R193). -/
def State.loadsOut (s : State) (k : Nat) : Nat :=
  let ls := s.ops.filter (fun o => o.thr == k && o.kind.isLoad)
  let vs := ls.filter (fun o => o.kind == .vload)
  (ls.length - vs.length) + (vs.map (·.issued)).dedup.length

/-- No room: a fifth load, or a fifth reservation, records of the frame included (R98, R138; DEDUCED, log 28). -/
def State.noRoom (s : State) (o : Op) : Bool :=
  (o.kind.isLoad && decide (4 ≤ s.loadsOut o.thr)) || (o.reserves && decide (4 ≤ s.reservations o.thr + (s.thread o.thr).frame.length))

/-- What a far access asks of the device that serves it (R281, R402). -/
def farOpOf (o : Op) (gather : Bool) : FarOp :=
  let sz (sg : Bool) : ASize := if o.n = 8 then .b64 else if sg then .i32 else .n32
  match o.kind with
  | .lr sg => .lr (sz sg) o.thr
  | .store => .write (leBytes o.n o.data.toNat)
  | .sc => .sc (sz false) o.data o.thr
  | .amo op z => .amo op z o.data o.mul
  | .cas z => .cas z o.data2 o.data
  | .xacc => .xacc (o.data.truncate 32) o.mul
  | .xrd rm => .xrd rm
  | .xclr => .xclr
  | _ => .read o.n gather

/-- An access put in flight, unless there is no room for it. -/
def State.launchAm (s : State) (o : Op) : State := if s.noRoom o then s.again else s.countMem.launch o

/-- The result of an access that ends at its bundle. -/
def State.finishNow (s : State) (o : Op) (e : Effect) : State :=
  let s := match o.dst with | some (.s d) => s.wx d e.res | _ => s
  if e.fl = 0 then s else s.addFlags e.fl

/-- ONE ACCESS of an AM instruction: checks, denial, own local memory at once, anything else in flight. `kind` is the
KIND of its denial record (DEDUCED, log 55). A denied LR leaves an earlier reservation as it is (DESIGN CHOICE, log 39). -/
def State.access (s : State) (i : Instr) (a : Int) (n al : Nat) (need : Need) (kind : Nat) (o : Op) : State :=
  let t := s.me
  match s.check t a n al need with
  | .error e => s.failCheck (opWord i) e
  | .ok r =>
    let s := s.checked t r
    let o := { o with
      thr := s.cur, cc := t.cc, place := r.place, va := a.toNat, n := n, prin := t.prin, slot := t.slot, issued := t.issued
      runtime := t.mode = .runtime, pc := t.pc, far := r.far, tag := r.tag, mul := t.mul.toNat, info := amInfo i }
    if s.acquiring s.cur then s.again else
    match r.place with
    | .lm cc off =>
      if cc = t.cc then
        if s.linesBusy s.cur (placeLines r.place n) then s.again
        else match s.countMem.performLm o cc off with
          | .ok e s => s.finishNow o e
          | .absent _ s => s
          | .bad a s => (s.reportData t.ctx a).markError o
      else s.launchAm { o with conf := true }
    | .far a =>
      let lrOut := s.ops.any (fun x => x.thr == s.cur && (match x.kind with | .lr _ => true | _ => false))
      if s.noRoom o || (o.kind == .sc && lrOut) then s.again
      else if o.kind == .sc && t.resv ≠ some (globKey 4 a) then
        let s := s.countMem.finishNow o { new := none }
        s.setMe { s.me with resv := none }
      else s.countMem.launchReq t.ctx a (farOpOf o (need == .gather)) o
    | .glob va =>
      let s := s.clrFill (s.physCore t) r.ctx t.prin r.tag
      if !s.lets r t.prin then 
        let s := (s.countMem.deny s.cur (BitVec.ofInt 64 a) r kind).finishNow o { new := none }
        if o.kind == .sc then s.setMe { s.me with resv := none } else s
      else
        let hit := !(t.mode = .user && t.frameHas a.toNat) && ((match s.locate va with | .at_ loc pa => s.l1Has (s.physCore t) loc pa | _ => false) || s.stashHolds t.cc va)
        s.launchAm { o with conf := hit }

/-- An operation of the thread in issue before its access fills it in. -/
def opOf (kind : OpKind) (dst : Option RegName) (nd : BitVec 6) : Op := { id := 0, thr := 0, cc := 0, kind := kind, dst := dst, nd := nd }

/-! ## Loads and stores (R143 to R145) -/

def Size.bytes : Size → Nat | .n8 | .i8 => 1 | .n16 | .i16 => 2 | .n32 | .i32 => 4 | .b64 => 8
def Size.isSigned : Size → Bool | .i8 | .i16 | .i32 => true | _ => false

def execLd (sz : Size) (cl : LdClass) (scp : Scope) (d s1 : SReg) (off : BitVec 15) (nd : BitVec 6) (s : State) : Res :=
  let n := Size.bytes sz
  done (s.access (.ld sz cl scp d s1 off nd) (s.amAddr s1 off) n n (if cl = .gth then .gather else .read) 0
    { opOf (.load (Size.isSigned sz)) (dstX d) nd with acq := cl = .acq, alloc := cl ≠ .nt })

/-- ST (R144, R156): the release, and its PAGE upcall, comes before the address checks of the instruction itself, as in STFE,
ACOPY and ENQ (DESIGN CHOICE, log 82). -/
def execSt (sz : Size) (cl : StClass) (scp : Scope) (s2 s1 : SReg) (off : BitVec 15) (nd : BitVec 6) (s : State) : Res :=
  let n := Size.bytes sz
  let go (s : State) : State :=
    s.access (.st sz cl scp s2 s1 off nd) (s.amAddr s1 off) n n .write 1 { opOf .store none nd with data := s.rx s2 }
  let remote : Bool := match s.check s.me (s.amAddr s1 off) n n .write with
    | .ok r => (match r.place with | .lm cc _ => cc != s.me.cc | _ => false)
    | .error _ => false
  ends (if cl = .rel then do let s ← s.release (if remote && scp = .core then .cluster else scp); .ok (go s) else .ok (go s))

/-! ## Reservations and atomics (R149 to R153) -/

def execLr (sz : ASize) (scp : Scope) (d s1 : SReg) (off : BitVec 15) (nd : BitVec 6) (s : State) : Res :=
  let n := aBytes sz
  done (s.access (.lr sz scp d s1 off nd) (s.amAddr s1 off) n n .read 2 (opOf (.lr (aSigned sz)) (dstX d) nd))

/-- The multiplicity fault of SC, XCHG and CAS (R149, R151, R152, R365; DEDUCED, log 29). -/
def State.multFault (s : State) (i : Instr) : State := s.failCheck (opWord i) (causeMULT, s.me.fva)

def execSc (sz : ASize) (scp : Scope) (d s2 s1 : SReg) (off : BitVec 15) (nd : BitVec 6) (s : State) : Res :=
  let n := aBytes sz
  let i : Instr := .sc sz scp d s2 s1 off nd
  if 1 < s.me.mul.toNat then done (s.multFault i)
  else done (s.access i (s.amAddr s1 off) n n .rmw 2 { opOf .sc (dstX d) nd with data := s.rx s2 })

/-- An AMO of an operation number. -/
def State.amo (s : State) (i : Instr) (op : Nat) (sz : ASize) (d : SReg) (b : Word) (s1 : SReg) (off : BitVec 15) (nd : BitVec 6) : Res :=
  let n := aBytes sz
  done (s.access i (s.amAddr s1 off) n n .rmw 2 { opOf (.amo op sz) (dstX d) nd with data := b })

def execAmoAdd (sz : ASize) (scp : Scope) (d s2 s1 : SReg) (off : BitVec 15) (nd : BitVec 6) (s : State) : Res :=
  s.amo (.amoAdd sz scp d s2 s1 off nd) 0 sz d (s.rx s2) s1 off nd
def execAmoMin (sz : ASize) (scp : Scope) (d s2 s1 : SReg) (off : BitVec 15) (nd : BitVec 6) (s : State) : Res :=
  s.amo (.amoMin sz scp d s2 s1 off nd) 1 sz d (s.rx s2) s1 off nd
def execAmoMax (sz : ASize) (scp : Scope) (d s2 s1 : SReg) (off : BitVec 15) (nd : BitVec 6) (s : State) : Res :=
  s.amo (.amoMax sz scp d s2 s1 off nd) 2 sz d (s.rx s2) s1 off nd
def execAmoAnd (sz : ASize) (scp : Scope) (d s2 s1 : SReg) (off : BitVec 15) (nd : BitVec 6) (s : State) : Res :=
  s.amo (.amoAnd sz scp d s2 s1 off nd) 3 sz d (s.rx s2) s1 off nd
def execAmoOr (sz : ASize) (scp : Scope) (d s2 s1 : SReg) (off : BitVec 15) (nd : BitVec 6) (s : State) : Res :=
  s.amo (.amoOr sz scp d s2 s1 off nd) 4 sz d (s.rx s2) s1 off nd
def execAmoXchg (sz : ASize) (scp : Scope) (d s2 s1 : SReg) (off : BitVec 15) (nd : BitVec 6) (s : State) : Res :=
  let i : Instr := .amoXchg sz scp d s2 s1 off nd
  if 1 < s.me.mul.toNat then done (s.multFault i) else s.amo i 5 sz d (s.rx s2) s1 off nd
def execAmoAddi (sz : ASize) (scp : Scope) (d : SReg) (imm : BitVec 6) (s1 : SReg) (off : BitVec 15) (nd : BitVec 6) (s : State) : Res :=
  s.amo (.amoAddi sz scp d imm s1 off nd) 6 sz d (sx imm) s1 off nd

def execCas (sz : ASize) (scp : Scope) (d s2 s1 : SReg) (off : BitVec 15) (nd : BitVec 6) (s : State) : Res :=
  let n := aBytes sz
  let i : Instr := .cas sz scp d s2 s1 off nd
  if 1 < s.me.mul.toNat then done (s.multFault i)
  else done (s.access i (s.amAddr s1 off) n n .rmw 2 { opOf (.cas sz) (dstX d) nd with data := s.rx s2, data2 := s.rx d })

/-! ## Exact cells (R154) -/

def execXacc (scp : Scope) (s2 s1 : SReg) (off : BitVec 15) (nd : BitVec 6) (s : State) : Res :=
  done (s.access (.xacc scp s2 s1 off nd) (s.amAddr s1 off) 64 64 .rmw 2 { opOf .xacc none nd with data := zx ((s.rx s2).extractLsb' 0 32) })
def execXrd (rm : Rm5) (scp : Scope) (d s1 : SReg) (off : BitVec 15) (nd : BitVec 6) (s : State) : Res :=
  done (s.access (.xrd rm scp d s1 off nd) (s.amAddr s1 off) 64 64 .read 2 (opOf (.xrd rm) (dstX d) nd))
def execXclr (scp : Scope) (s1 : SReg) (off : BitVec 15) (nd : BitVec 6) (s : State) : Res :=
  done (s.access (.xclr scp s1 off nd) (s.amAddr s1 off) 64 64 .rmw 2 (opOf .xclr none nd))

/-! ## Full/empty words (R146, R147) -/

/-- The LM word of a full/empty instruction: elsewhere and misaligned addresses are alignment faults. -/
def State.feWord (s : State) (i : Instr) (a : Int) (need : Need) : Go (Nat × Nat) :=
  let t := s.me
  match s.checkRange t a 8 with
  | .error e => .error (s.failCheck (opWord i) e)
  | .ok tgt =>
    let ok := match tgt with | some (la, _, far) => !far && decide (selfBase ≤ la) && inAperture la | none => false
    if !ok || a % 8 ≠ 0 then .error (s.failCheck (opWord i) (causeALIGN, BitVec.ofInt 64 a))
    else match s.check t a 8 8 need with
      | .error e => .error (s.failCheck (opWord i) e)
      | .ok r => match r.place with
        | .lm cc off => .ok (cc, off)
        | _ => .error (s.failCheck (opWord i) (causeALIGN, BitVec.ofInt 64 a))

/-- A request for an LM word: at its own core it is there at once; towards another core it is on its way, and arrives at the
end of a cycle, after the owner's own request (R147; DESIGN CHOICE, log 37). Not served, it parks the thread. -/
def State.feRequest (s : State) (cc off kind : Nat) (data : Word) : State :=
  let t := s.me
  let s :=
    if cc = t.cc then s.feArrive cc { thr := s.cur, word := off / 8, kind := kind, data := data, cycle := s.cycle }
    else if t.wait = some .fullEmpty then s
    else s.launch { id := 0, thr := s.cur, cc := t.cc, kind := .feReq cc (off / 8) kind, data := data, slot := t.slot, issued := t.issued }
  if s.me.reply.isSome then s else s.park .fullEmpty

/-- The reply of LDFE and LDFF on its way to D, an acquire (R146, R147). -/
def State.feReply (s : State) (d : SReg) (v : Word) : State :=
  let t := s.me
  (if t.replyBad then s.setMe { t with replyBad := false } else s).launch
    { id := 0, thr := s.cur, cc := t.cc, kind := .reply, dst := dstX d, data := v, acq := true, slot := t.slot, issued := t.issued, failed := t.replyBad }

/-- LDFE and LDFF. -/
def State.feLoad (s : State) (i : Instr) (kind : Nat) (d s1 : SReg) (off : BitVec 15) : Res :=
  match s.me.reply with
  | some v => done (s.feReply d v)
  | none => ends do
    let (cc, o) ← s.feWord i (s.amAddr s1 off) .read
    if s.acquiring s.cur || s.linesBusy s.cur (placeLines (.lm cc o) 8) then .error s.again
    let s := s.countMem.feRequest cc o kind 0
    match s.me.reply with
    | some v => .ok (s.feReply d v)
    | none => .ok s

def execLdfe (d s1 : SReg) (off : BitVec 15) (nd : BitVec 6) (s : State) : Res := s.feLoad (.ldfe d s1 off nd) 0 d s1 off
def execLdff (d s1 : SReg) (off : BitVec 15) (nd : BitVec 6) (s : State) : Res := s.feLoad (.ldff d s1 off nd) 2 d s1 off

def execStfe (s2 s1 : SReg) (off : BitVec 15) (nd : BitVec 6) (s : State) : Res :=
  match s.me.reply with
  | some _ => done s
  | none => ends do
    let s ← s.release .device
    let (cc, o) ← s.feWord (.stfe s2 s1 off nd) (s.amAddr s1 off) .write
    if s.acquiring s.cur || s.linesBusy s.cur (placeLines (.lm cc o) 8) then .error s.again
    .ok (s.countMem.feRequest cc o 1 (s.rx s2))

def execFeset (full : Bool) (s1 : SReg) (off : BitVec 15) (nd : BitVec 6) (s : State) : Res :=
  let t := s.me
  ends do
    let (cc, o) ← s.feWord (.feset full s1 off nd) (s.amAddr s1 off) .write
    if s.acquiring s.cur || s.linesBusy s.cur (placeLines (.lm cc o) 8) then .error s.again
    if cc = t.cc then .ok (s.countMem.feSet cc (o / 8) full)
    else .ok (s.countMem.launch { id := 0, thr := s.cur, cc := t.cc, kind := .feset full, place := .lm cc o, n := 8, conf := true,
                                  slot := t.slot, issued := t.issued })

/-! ## Cache maintenance (R148) -/

/-- PREF drops on any failing check, denial or absent page; a line of a range that a stash binds is not fetched, since the stash alone
serves it (DESIGN CHOICE, log 92); it waits for its turn at the home of the line (R279). -/
def execPref (scp : Scope) (s1 : SReg) (off : BitVec 15) (nd : BitVec 6) (s : State) : Res :=
  let t := s.me
  match s.check t (s.amAddr s1 off) 1 1 .read with
  | .error _ => done s.countMem
  | .ok r =>
    if (match r.place with | .glob va => s.homeWaits t.cc (s.physCore t) va | _ => false) then done s.again else
    let s := (s.checked t r).countMem
    match r.place with
    | .glob va =>
      if !s.lets r t.prin || (s.stashLine t.cc va).isSome then done s
      else match s.locate va with
        | .at_ loc pa =>
          let s := s.settle va 1
          if scp = .core then done (s.l1Load (s.physCore t) va loc pa true false (s.wantOf t nd))
          else done (s.l2Access va loc pa .read none (s.wantOf t nd)).1
        | _ => done s
    | _ => done s

/-- LWB and LINV: checks 1 to 3, no effect in an aperture, then check 6; the VA of the line. -/
def State.lineOf (s : State) (i : Instr) (a : Int) : Go (Option Nat) :=
  let t := s.me
  match s.checkRange t a 1 with
  | .error e => .error (s.failCheck (opWord i) e)
  | .ok none => .ok none
  | .ok (some (la, ctx, far)) =>
    if inAperture la then .ok none
    else if s.rightsOk (s.physCore t) ctx la 1 far .read then .ok (some la)
    else if far then .ok none
    else .error (s.failCheck (opWord i) (causeACCESS, BitVec.ofInt 64 a))

/-- A dirty stash copy of the line at a physical place to the home, whoever holds it; it stays (R148). -/
def State.cleanStashes (s : State) (key : Nat) : State :=
  s.ccs.foldl (fun s c =>
    c.2.wins.foldl (fun s w =>
      w.2.lines.foldl (fun s l =>
        match s.locate (w.2.bound + 128 * l.1) with
        | .at_ loc pa =>
          if l.2.st = 2 && lineKey loc pa = key then
            let s := s.stashWrite c.1 w.2 l.1
            let cc := s.coreCtx c.1
            let x := cc.wins.get {} w.1
            s.setCoreCtx c.1 { cc with wins := cc.wins.put w.1 { x with lines := x.lines.put l.1 { l.2 with st := 1 } } }
          else s
        | _ => s) s) s) s

def execLwb (scp : Scope) (s1 : SReg) (off : BitVec 15) (nd : BitVec 6) (s : State) : Res :=
  ends do
    match ← s.lineOf (.lwb scp s1 off nd) (s.amAddr s1 off) with
    | none => .ok s.countMem
    | some va =>
      match s.locate va with
      | .at_ loc pa => .ok ((s.countMem.cleanStashes (lineKey loc pa)).l2Mark va (fun l => if l.st = 3 then { l with st := 1 } else l))
      | _ => .ok s.countMem

def execLinv (scp : Scope) (s1 : SReg) (off : BitVec 15) (nd : BitVec 6) (s : State) : Res :=
  ends do
    match ← s.lineOf (.linv scp s1 off nd) (s.amAddr s1 off) with
    | none => .ok s.countMem
    | some va =>
      match s.locate va with
      | .at_ loc pa =>
        let key := lineKey loc pa
        let pc := s.physCore s.me
        let s := s.countMem.returnU pc key
        let c := s.core pc
        .ok ((s.setCore pc { c with l1 := c.l1.drop s.cycle (l1Set key) key }).l2Mark va (fun l => { l with sharers := l.sharers.filter (· != pc) }))
      | _ => .ok s.countMem

/-! ## Fences (R155 to R157) -/

def execFence (k : FenceKind) (scp : Scope) (s : State) : Res :=
  ends (match k with
    | .acq =>
      let t := s.me
      if s.reservations s.cur ≠ 0 then .error (s.park .hold)
      else if t.mode = .user && !t.frame.isEmpty then .error (s.raise { cause := causePAGE, info := 0, fva := 0, upc := t.pc })
      else if s.ops.any (fun o => o.thr == s.cur && o.kind.isReturn) then .error (s.park .hold)
      else .ok s
    | .rel => s.release scp
    | .full =>
      match s.release scp with
      | .error s => .error s
      | .ok s => if s.ops.any (fun o => o.thr == s.cur && o.kind.isReturn) then .error (s.park .hold) else .ok s)

def execRfence (s : State) : Res :=
  if s.ops.any (fun o => o.thr == s.cur && o.remoteWrite) then done (s.park .hold) else done s

/-! ## WAITR (R119) -/

def execWaitr (d s1 s2 : SReg) (s : State) : Res :=
  let t := s.me
  let a := (s.rx s1).toNat
  let first := match t.wait with | some (.waitr _) => false | _ => true
  match s.check t a 8 8 .read with
  | .error e => done (s.failCheck (opWord (.waitr d s1 s2)) e)
  | .ok r =>
    let s := s.checked t r
    let bad (s : State) (g : Nat) : Res :=
      let t := s.me
      done (s.setMe { t with xde := if isShared d || d = 0 then t.xde else setMark t.xde (low5 d) true, noPage := t.noPage.filter (· != g) })
    let judge (s : State) (v : Word) : Res := if v = s.rx s2 then done (s.park (.waitr a)) else done (s.wx d v)
    if s.acquiring s.cur || s.linesBusy s.cur (placeLines r.place 8) then done (s.park (if first then .poll else .waitr a)) else
    match r.place with
    | .lm cc off =>
      if s.lmBad cc off 8 then bad (s.reportLm cc off) (a / 65536) else judge (s.lmCorrect cc off 8) (wordOf 64 (s.lmRead cc off 8))
    | .far fa =>
      (match s.farBlock (.waitr d s1 s2) fa 8 false with
      | .ok (bs, s) => judge s (wordOf 64 bs)
      | .error s' =>
        match (t.blocks.get { op := 0 } fa).got with
        | some none => bad (s.setMe { t with blocks := t.blocks.del fa }) (a / 65536)
        | _ => done s')
    | .glob va =>
      let s := s.clrFill (s.physCore t) r.ctx t.prin r.tag
      if !s.lets r t.prin then judge (if first then s.deny s.cur (s.rx s1) r 0 else s) 0
      else
        match s.gread t.cc va 8 (s.wantOf t 63) with
        | (.bytes bs, s) => judge (s.lineTouch t.cc (s.physCore t) va (.load true) (s.wantOf t 63)) (wordOf 64 bs)
        | (.absent p, s) => if t.noPage.contains (p / 65536) then bad s (p / 65536) else done ((s.faultReq p t.cc).park (.waitr a))
        | (.dataError p, s) => bad (s.reportData t.ctx p) (p / 65536)

end Sys2Proof.Machine
end

