-- ==== Sys2Proof/Machine/Tiles.lean ====
section
/-! DEFINITION. Ranges read and written line by line under the tag check (R137, R160, R211), and slot A tiles (R161 to R163). -/

namespace Sys2Proof.Machine

/-! ## Ranges, by 128-byte line -/

/-- The parts of [va, va + n) that do not cross a line. -/
def lineParts : Nat → Nat → Nat → List (Nat × Nat)
  | 0, _, _ => []
  | k + 1, va, n =>
    let m := min n (128 - va % 128)
    if n = 0 then [] else (va, m) :: lineParts k (va + m) (n - m)
def partsOf (va n : Nat) : List (Nat × Nat) := lineParts (n / 128 + 2) va n

def State.passes (s : State) (w : Who) (va : Nat) : Bool := !w.no && s.allowed w.ctx w.prin (s.tagOf va)

/-- What a range access counts for at the caches. -/
def State.wantFor (s : State) (w : Who) : Want := { ten := some (s.ctx w.ctx).tenant, nd := w.nd, rper := w.rper }

/-- The parts of a range that lie in one page each, where the tag check admits them. -/
def State.admitted (s : State) (q : Span) : List Nat :=
  match q.place with
  | .glob va => ((granules (q.n / 65536 + 2) va q.n).map (·.1)).filter (s.passes q.who)
  | _ => []

/-- The first page of a range that the tag check admits and that is not present; behind a malformed entry there is no page to
wait for (R284). -/
def State.absentIn (s : State) (q : Span) : Option Nat := (s.admitted q).find? (fun va => s.locate va == .absent)
/-- A range written on a page that is migrating (R295). -/
def State.migratingIn (s : State) (q : Span) : Bool := q.write && (s.admitted q).any s.migratingAt

/-- An access of an agent that is no thread must wait for its turn: a thread keeps a granule that it writes (R150), or the home of a
line of it has served another request in this cycle (R279). -/
def State.placeWaits (s : State) (p : Place) (n : Nat) (write : Bool) : Bool :=
  (write && s.keptLines noThreadKey (placeLines p n)) ||
    (placeLines p n).any (fun l => l.1 = 0 && (match s.locate (128 * l.2) with | .at_ loc pa => s.busyLine (lineKey loc pa) | _ => false))
def State.spanWaits (s : State) (q : Span) : Bool := s.placeWaits q.place q.n q.write

/-- A denied line of a range: the address that names its first denied byte, its line, and what its records hold. -/
structure Denied where
  va : Nat
  line : Nat
  tag : BitVec 16
  ctx : Nat
  far : Bool
deriving DecidableEq, Repr

def State.denied (s : State) (q : Span) (va0 va : Nat) : Denied :=
  { va := q.a + (va - va0), line := va / 128, tag := s.tagOf va, ctx := q.who.ctx, far := q.far }

/-- What a range read gives: its bytes, denied ones as zero, and its denied lines; or the address of uncorrectable data, which
is reported, with the lines denied before it. -/
inductive Pull where
  | got (bs : List Byte) (denied : List Denied) (s : State)
  | stop (va : Nat) (denied : List Denied) (s : State)
deriving DecidableEq, Repr

/-- Bytes of one line read for someone: through the stash of its core-context, or at the home. -/
def State.lineRead (s : State) (w : Who) (va n : Nat) : Got × State :=
  match w.own with
  | none => s.homeRead va n (s.wantFor w)
  | some cc =>
    match s.gread cc va n (s.wantFor w) with
    | (.bytes b, s) => (.bytes b, if s.stashHolds cc va then s else s.reachLines va n .read (s.wantFor w))
    | r => r

/-- Bytes of one line written for someone. -/
def State.lineWrite (s : State) (w : Who) (va : Nat) (bs : List Byte) : Got × State :=
  match w.own with
  | none => s.homeWrite va bs (s.wantFor w)
  | some cc =>
    match s.gwrite cc va bs (s.wantFor w) with
    | (.bytes b, s) => (.bytes b, if s.stashHolds cc va then s else s.reachLines va bs.length .write (s.wantFor w))
    | r => r

def State.pullParts (q : Span) (va0 : Nat) : List (Nat × Nat) → State → List Byte → List Denied → Pull
  | [], s, bs, dn => .got bs dn s
  | p :: rest, s, bs, dn =>
    let s := s.clrSettle q.who.ctx q.who.prin (s.tagOf p.1)
    if !s.passes q.who p.1 then State.pullParts q va0 rest s (bs ++ List.replicate p.2 0) (dn ++ [s.denied q va0 p.1])
    else
      match s.lineRead q.who p.1 p.2 with
      | (.bytes b, s) => State.pullParts q va0 rest s (bs ++ b) dn
      | (.absent a, s) | (.dataError a, s) => .stop (q.a + (a - va0)) dn (s.reportData q.who.ctx a)

/-- A range read; `far` gives the parts of another device's memory that have come. -/
def State.pull (s : State) (q : Span) (far : Nat → Nat → Option (List Byte)) : Pull :=
  match q.place with
  | .lm cc off =>
    (match (partsOf off q.n).find? (fun p => s.lmBad cc p.1 p.2) with
    | some p => .stop (q.a + (p.1 - off)) [] (s.reportData q.who.ctx (lmPa cc p.1))
    | none => .got (s.lmRead cc off q.n) [] (s.correct q.who.ctx (lmPa cc off) q.n))
  | .far a =>
    match (farParts a q.n).find? (fun p => (far p.1 p.2).isNone) with
    | some p => .stop p.1 [] s
    | none => .got ((farParts a q.n).flatMap (fun p => ((far p.1 p.2).getD []).take p.2)) [] s
  | .glob va => State.pullParts q va (partsOf va q.n) s [] []

/-- The parts on another device that a read of a range asks for. -/
def Span.asks (q : Span) : List (Nat × Nat) := match q.place with | .far a => farParts a q.n | _ => []

/-- A line written: the memory it is of, its number, the bytes covered in it, and the writes to another device that are out. -/
structure Cover where
  mem : Nat
  line : Nat
  bytes : Nat
  ops : List Nat := []
deriving DecidableEq, Repr

/-- One more write to a line: n bytes from byte `at_`. -/
def Cover.add (l : List Cover) (mem at_ n : Nat) (ops : List Nat) : List Cover :=
  let m := (2 ^ n - 1) * 2 ^ (at_ % 128)
  if l.any (fun c => c.mem = mem && c.line = at_ / 128) then
    l.map (fun c => if c.mem = mem && c.line = at_ / 128 then { c with bytes := c.bytes ||| m, ops := c.ops ++ ops } else c)
  else l ++ [{ mem := mem, line := at_ / 128, bytes := m, ops := ops }]

/-- What range writes leave: denied lines, the lines written (denied bytes count as covered), and the address of the line that met
uncorrectable data, after which nothing more is written (R141). -/
structure RangePush where
  s : State
  denied : List Denied := []
  lines : List Cover := []
  bad : Option Nat := none
deriving DecidableEq, Repr

def State.pushParts (q : Span) (va0 : Nat) : List (Nat × Nat) → RangePush → List Byte → RangePush
  | [], r, _ => r
  | p :: rest, r, bs =>
    let s := r.s.clrSettle q.who.ctx q.who.prin (r.s.tagOf p.1)
    let lines := Cover.add r.lines 0 p.1 p.2 []
    if !s.passes q.who p.1 then
      State.pushParts q va0 rest { r with s := s, denied := r.denied ++ [s.denied q va0 p.1], lines := lines } (bs.drop p.2)
    else
      match s.lineWrite q.who p.1 (bs.take p.2) with
      | (.bytes _, s) => State.pushParts q va0 rest { r with s := s, lines := lines } (bs.drop p.2)
      | (.absent a, s) | (.dataError a, s) => { r with s := s.reportData q.who.ctx a, bad := some (q.a + (a - va0)) }

/-- Parts sent to another device, each a write in flight like `o`. -/
def State.pushFar (q : Span) (o : Op) (bs : List Byte) (a0 : Nat) : List (Nat × Nat) → RangePush → RangePush
  | [], r => r
  | p :: rest, r =>
    let id := r.s.nextId
    let s := (r.s.sendFar q.who.ctx p.1 q.who.prin (.write ((bs.drop (p.1 - a0)).take p.2))).launch
      { o with place := .far p.1, va := p.1, n := p.2, prin := q.who.prin, conf := true, deadline := r.s.tick + 2 ^ 20 }
    State.pushFar q o bs a0 rest { r with s := s, lines := Cover.add r.lines 0 p.1 p.2 [id] }

/-- A range written, after other ranges of the same operation. -/
def RangePush.range (r : RangePush) (q : Span) (o : Op) (bs : List Byte) : RangePush :=
  if r.bad.isSome then r else
  match q.place with
  | .lm cc off =>
    match (partsOf off bs.length).find? (fun p => r.s.lmBad cc p.1 p.2) with
    | some p =>
      { r with
        s := (r.s.lmWrite cc off (bs.take (p.1 - off))).reportData q.who.ctx (lmPa cc p.1), bad := some (q.a + (p.1 - off))
        lines := (partsOf off (p.1 - off)).foldl (fun l p => Cover.add l (1 + cc) p.1 p.2 []) r.lines }
    | none =>
    { r with s := r.s.lmWrite cc off bs, lines := (partsOf off bs.length).foldl (fun l p => Cover.add l (1 + cc) p.1 p.2 []) r.lines }
  | .far a => State.pushFar q o bs a (farParts a bs.length) r
  | .glob va => State.pushParts q va (partsOf va bs.length) r bs

/-! ## Tiles (R161 to R163) -/

/-- The data-error outcome of the instruction in issue (R141, R160). -/
def State.dataTrap (s : State) (i : Instr) : State := s.raise { cause := causeDATAERR, info := opWord i, fva := 0, upc := s.me.pc }

/-- A page that the transfer unit waits for (R140): the thread parks; after a refusal the transfer stops and is reported. -/
def State.transferWait (s : State) (i : Instr) (va : Nat) (w : Nat → Wait) : State :=
  let t := s.me
  if t.noPage.contains (va / 65536) then
    ((s.setMe { t with noPage := t.noPage.filter (· != va / 65536) }).reportData t.ctx va).dataTrap i
  else (s.faultReq va t.cc).park (w va)

/-- Parts of block operands on another device that the instruction has used. -/
def State.dropBlocks (s : State) (ks : List Nat) : State :=
  let t := s.me
  s.setMe { t with blocks := t.blocks.filter (fun e => !ks.contains e.1) }

/-- One denial record of a tile instruction: the first denied byte (R137); through far space to this device the home's too (R280). -/
def State.tileDeny (s : State) (reads writes : List Denied) : State :=
  let note (d : Denied) (kind : Nat) : State :=
    s.deny s.cur (BitVec.ofNat 64 d.va) { place := .glob d.va, tag := d.tag, ctx := d.ctx, far := d.far } kind
  match reads, writes with
  | d :: _, _ => note d 0
  | [], d :: _ => note d 1
  | [], [] => s

/-- The same, unless the instruction has its record. -/
def State.tileNote (s : State) (o : TileOp) (reads writes : List Denied) : TileOp × State :=
  if o.told then (o, s) else ({ o with told := !reads.isEmpty || !writes.isEmpty }, s.tileDeny reads writes)

/-- A range read by the tile instruction in issue. -/
def State.spanRead (s : State) (i : Instr) (q : Span) : Go (List Byte × List Denied × State) := do
  let s ← s.farAsk q.asks false
  match s.pull q (fun a _ => s.farGot s.cur a) with
  | .got bs dn s => .ok (bs, dn, s)
  | .stop _ dn s => .error ((s.tileDeny dn []).dataTrap i)

/-- The checks of a list of ranges, in order. -/
def State.checkAll (s : State) (i : Instr) (t : Thread) (need : Need) : List (Nat × Nat) → Go (List Acc)
  | [] => .ok []
  | p :: rest =>
    match s.check t p.1 p.2 1 need with
    | .error e => .error (s.failCheck (opWord i) e)
    | .ok r => do
      let ps ← s.checkAll i t need rest
      .ok (r :: ps)

/-- The range behind a check of thread t. -/
def Acc.span (r : Acc) (t : Thread) (a n : Nat) (write : Bool) : Span :=
  { a := a, place := r.place, who := { ctx := r.ctx, prin := t.prin, own := some t.cc, rper := t.rper.toNat, no := r.no }, n := n, write := write, far := r.far }

/-- TILEST and TILELD up to their transfer. `guard_` and `versioned` are the forms of R162 and R163. The header needs the right to read,
and for TILEST.atomic to write (DESIGN CHOICE, log 95); a denied one reads as zeros, is recorded, and gives the ADDRESS fault. -/
def State.tile (s : State) (i : Instr) (t src sl : Word) (n : Nat) (store guard_ versioned : Bool) (w : Nat → Wait) : Go (TileOp × State) := do
  let th := s.me
  if t.toNat % 64 ≠ 0 then .error (s.failCheck (opWord i) (causeALIGN, t))
  if src.toNat % 64 ≠ 0 then .error (s.failCheck (opWord i) (causeALIGN, src))
  let h ← match s.check th t.toNat 64 64 (if store && versioned then .rmw else .read) with
    | .error e => .error (s.failCheck (opWord i) e)
    | .ok r => .ok (r.span th t.toNat 64 (store && versioned))
  if s.acquiring s.cur || s.linesBusy s.cur (placeLines h.place 64) || s.migratingIn h then .error s.again
  if let some va := s.absentIn h then .error (s.transferWait i va w)
  let (bs, dh, s1) ← s.spanRead i h
  let hd : BitVec 512 := wordOf 512 bs
  let slot := (hd.extractLsb' 64 12).toNat
  let nslot := (hd.extractLsb' 96 32).toNat
  if slot = 0 || nslot = 0 then .error ((s1.tileDeny dh []).failCheck (opWord i) (causeADDRESS, t))
  let k := (n + slot - 1) / slot
  if nslot < k then .error (s.failCheck (opWord i) (causeADDRESS, t))
  let slots := (List.range k).map (fun j => (sl.toNat + j) % nslot)
  let lo := th.glo.toNat
  let width := (th.ghi.toNat + nslot - lo % nslot) % nslot
  let base (j : Nat) : Nat := t.toNat + 64 + j * slot * 64
  if let some j := (if guard_ then slots.find? (fun j => decide ((j + nslot - lo % nslot) % nslot < width)) else none) then
    .error (s.failCheck (opWord i) (causeADDRESS, BitVec.ofNat 64 (base j)))
  let mem ← match s.check th src.toNat (64 * n) 1 (if store then .read else .write) with
    | .error e => .error (s.failCheck (opWord i) e)
    | .ok r => .ok (r.span th src.toNat (64 * n) (!store))
  let accs ← s.checkAll i th (if store then .write else .read) (slots.map (fun j => (base j, slot * 64)))
  let runs := ((slots.zip accs).zipIdx).map (fun e =>
    let units := min slot (n - e.2 * slot)
    (e.1.2.span th (base e.1.1) (64 * units) store, e.2 * slot, units))
  let spans := mem :: runs.map (·.1)
  if spans.any (fun q => s.linesBusy s.cur (placeLines q.place q.n) || s.migratingIn q) then .error s.again
  if let some va := (spans.filterMap s.absentIn).head? then .error (s.transferWait i va w)
  .ok ({ runs := runs, mem := mem, head := h, version := wordOf 64 (bs.take 8) }, s1)

/-- A write of the tile instruction in issue to another device. -/
def State.tileWriteOp (s : State) : Op :=
  { id := 0, thr := s.cur, cc := s.me.cc, kind := .vstore, slot := s.me.slot, issued := s.me.issued }

/-- The payload of TILEST: read whole, then written slot by slot. The writes to another device that are out are returned. -/
def State.tileStore (s : State) (i : Instr) (o : TileOp) : Go (TileOp × State) := do
  let (bs, dr, s) ← s.spanRead i o.mem
  let r := o.runs.foldl (fun (r : RangePush) q => r.range q.1 s.tileWriteOp ((bs.drop (64 * q.2.1)).take (64 * q.2.2))) { s := s }
  let (o, s) := r.s.tileNote o dr r.denied
  if r.bad.isSome then .error (s.dataTrap i)
  .ok ({ o with sent := true, ops := r.lines.flatMap (·.ops) }, s.dropBlocks (o.mem.asks.map (·.1)))

/-- VERSION of the tile in issue written. -/
def State.setVersion (s : State) (o : TileOp) (v : Word) : TileOp × State :=
  let r := { s := s : RangePush }.range { o.head with n := 8, write := true } s.tileWriteOp (leBytes 8 v.toNat)
  r.s.tileNote o [] r.denied

/-- VERSION := VERSION + 1 as one atomic step (R162): on another device by a compare and swap; where another writer was first, the
instruction waits again. -/
def State.claimTile (s : State) (o : TileOp) : Go (TileOp × State) :=
  match o.head.place with
  | .far a =>
    if !s.me.blocks.has (a + 1) then .error ((s.askFar (a + 1) a 8 (.cas .b64 o.version (o.version + 1))).park .hold)
    else if (s.me.blocks.get { op := 0 } (a + 1)).got.isNone then .error (s.park .hold)
    else
      let won := match s.farGot s.cur (a + 1) with | some bs => wordOf 64 (bs.take 8) == o.version | none => false
      let s := s.dropBlocks [a, a + 1]
      if won then .ok (o, s) else .error s.again
  | _ => .ok (s.setVersion o (o.version + 1))

/-- A wait of the transfer phase, which is completing (R142). -/
def completing (r : Go State) : Go State :=
  match r with
  | .error s => if s.issue = .parked && s.me.wait = some .poll then .error (s.park .hold) else .error s
  | r => r

/-- The transfer phase of TILEST.atomic: the payload, the end of its writes to another device, and VERSION + 1 as a release. -/
def State.tileGo (s : State) (i : Instr) (o : TileOp) : Go State := completing do
  let (o, s) ← if o.sent then .ok (o, s) else do
    if o.runs.any (fun q => s.migratingIn q.1 || s.linesBusy s.cur (placeLines q.1.place q.1.n)) then .error s.again
    if let some va := ((o.mem :: o.runs.map (·.1)).filterMap s.absentIn).head? then .error (s.transferWait i va .page)
    let (o, s) ← s.tileStore i o
    .ok (o, s.setMe { s.me with tile := some o })
  if o.ops.any (fun n => (s.findOp n).isSome) || s.migratingIn o.head || s.linesBusy s.cur (placeLines o.head.place 8) then .error s.again
  let (_, s) := s.setVersion o (o.version + 2)
  .ok (s.setMe { s.me with tile := none })

/-- TILEST (R162): with `atomic` it parks until VERSION is even, makes it odd, transfers in steps of their own, and VERSION
ends 2 higher; its release comes first of all (DESIGN CHOICE, log 82). -/
def execTilest (atomic guard_ : Bool) (d s1 s2 : SReg) (n : BitVec 12) (s : State) : Res :=
  let i : Instr := .tilest atomic guard_ d s1 s2 n
  ends (match s.me.tile with
  | some o => s.tileGo i o
  | none => do
    let s ← if atomic then s.release .device else .ok s
    let (o, s) ← s.tile i (s.rx s1) (s.rx s2) (s.rx d) n.toNat true guard_ atomic .page
    if atomic then
      if o.version.getLsbD 0 then .error ((s.dropBlocks (o.head.asks.map (·.1))).again)
      let (o, s) ← s.claimTile o
      .error ((s.setMe { s.me with tile := some o }).park .hold)
    else
      let (_, s) ← s.tileStore i o
      .ok (s.dropBlocks (o.head.asks.map (·.1))))

/-- The second reading of VERSION (R163): where it differs from the first, the load begins again. Local VERSIONs are read with
the payload (DESIGN CHOICE, log 84), which for parts on another device comes before. -/
def State.sameVersion (s : State) (i : Instr) (o : TileOp) (again : State → State) : Go (TileOp × State) := do
  let (v, dn, s) ← match o.head.place with
    | .far a => do
      if !s.me.blocks.has (a + 1) then .error ((s.askFar (a + 1) a 8 (.read 8 false)).again)
      if (s.me.blocks.get { op := 0 } (a + 1)).got.isNone then .error s.again
      .ok (s.farGot s.cur (a + 1), [], s)
    | _ => do
      let (bs, dn, s) ← s.spanRead i { o.head with n := 8, write := false }
      .ok (some bs, dn, s)
  if v.map (wordOf 64) = some o.version then .ok (s.tileNote o dn []) else .error (again s).again

/-- TILELD (R163): the units of the slots into the range at x(S2); `consistent` waits for an even VERSION that stays. A local
payload is read in one step: even a plain TILELD then sees each part as one store left it (DESIGN CHOICE, log 84). -/
def execTileld (consistent : Bool) (d s1 s2 : SReg) (n : BitVec 12) (s : State) : Res :=
  let i : Instr := .tileld consistent d s1 s2 n
  ends do
    let (o, s) ← match s.me.tile with
      | some o => .ok (o, s)
      | none => s.tile i (s.rx s1) (s.rx s2) (s.rx d) n.toNat false false consistent .waitr
    let asks := o.runs.flatMap (fun q => q.1.asks)
    let heads := match o.head.place with | .far a => [a, a + 1] | _ => []
    let clear (s : State) : State := let s := s.dropBlocks (heads ++ asks.map (·.1)); s.setMe { s.me with tile := none }
    if consistent && o.version.getLsbD 0 then .error (clear s).again
    let s := if asks.isEmpty then s else s.setMe { s.me with tile := some o }
    let s ← s.farAsk asks false
    if s.migratingIn o.mem || s.linesBusy s.cur (placeLines o.mem.place o.mem.n) then .error s.again
    let (o, s) ← if consistent && !(asks.isEmpty && heads.isEmpty) then s.sameVersion i o clear else .ok (o, s)
    let (bs, dr, s) ← o.runs.foldl (fun (r : Go (List Byte × List Denied × State)) q => do
      let (bs, d, s) ← r
      let (b, dn, s) ← s.spanRead i q.1
      .ok (bs ++ b, d ++ dn, s)) (.ok ([], [], s))
    let r := ({ s := s : RangePush }).range o.mem s.tileWriteOp bs
    let (_, s) := r.s.tileNote o dr r.denied
    if r.bad.isSome then .error (s.dataTrap i)
    .ok (clear s)

end Sys2Proof.Machine
end

