-- ==== Sys2Proof/Machine/EngineRun.lean ====
section
/-! DEFINITION. Engines at work (R205 to R213, R235): which command runs, the checks of its ranges, stopping and resuming,
completion, and the commands of every engine. -/

namespace Sys2Proof.Machine

/-! ## Command words (R93, R94) -/

def cmdOp (w : CmdWord) : Nat := w.q0.toNat / 2 ^ 56
/-- Bits [hi:lo] of Q0. -/
def cmdF (w : CmdWord) (lo n : Nat) : Nat := (w.q0.extractLsb' lo n).toNat
def cmdB (w : CmdWord) (i : Nat) : Bool := w.q0.getLsbD i

/-- Engines that accept an opcode; none for an unlisted one. -/
def opcodeEngines (op : Nat) : Option (Nat → Bool) :=
  if op = 0x00 || op = 0x30 || op = 0x31 then some (fun _ => true)
  else if 0x01 ≤ op && op ≤ 0x04 then some (· == 0)
  else if 0x10 ≤ op && op ≤ 0x15 then some (fun e => decide (2 ≤ e))
  else if 0x20 ≤ op && op ≤ 0x22 then some (· == 1)
  else none

/-- The codes of a stop (R212). -/
def codeUNKNOWN : Nat := 1
def codeENGINE : Nat := 2
def codeFIELD : Nat := 3
def codeADDRESS : Nat := 4
def codeALIGN : Nat := 5
def codeRIGHTS : Nat := 6
def codeDATA : Nat := 7
def codeNOCFG : Nat := 8
def codeRECORD : Nat := 9
def codeBLOCK : Nat := 10

/-- How a command ends other than by its effect: it stops the stream, or waits for a page. -/
inductive Halt where
  | stop (code addr : Nat) (s : State)
  | wait (va : Nat) (s : State)
  /-- a write to a migrating page (R295), or bytes of another device that have not come (R402) -/
  | later (s : State)
deriving DecidableEq, Repr

abbrev Run (α : Type) := Except Halt α

/-! ## Which command runs (R205, R207, R214) -/

/-- The lease lets a context's commands run on a unit: its core-context holds the lease, or is giving it up (R214). -/
def State.leaseLets (s : State) (u ctx : Nat) : Bool :=
  let e := s.unit u
  let of_ (x : Option Nat) : Bool := match x with | some cc => (s.kernel (cc / 1024)).ctx == ctx | none => false
  !unitLeased u || of_ e.holder || of_ e.passing

/-- The completed value of engine number e for the core that enqueued a command. -/
def engOfNum (n : Nat) : Eng := match n with | 0 => .mat | 1 => .cpy | 2 => .cla0 | 3 => .cla1 | 4 => .cla2 | _ => .cla3
def State.clusterOfCc (s : State) (cc : Nat) : Nat := let k := s.kernel (cc / 1024); k.physCluster (k.lcOf (cc % 1024))

/-- Whether an EFENCE holds its stream (R235); a malformed one is not held, but stops it (R94). -/
def State.fenced (s : State) (ec : Nat) (c : Cmd) : Bool :=
  match c.work with
  | .word w =>
    let e := cmdF w 0 3
    let other := engKey (ec / 4096) (unitFor (engOfNum e) (s.clusterOfCc c.cc))
    cmdOp w = 0x31 && decide (e ≤ 5) && cmdF w 3 53 = 0 && w.q2 = 0 && w.q3 = 0 && other ≠ ec && decide ((s.eng other).completed < w.q1.toNat)
  | _ => false

/-- The head command of an engine-context, where it can run now. -/
def State.headCmd (s : State) (ec : Nat) : Option Cmd :=
  let e := s.eng ec
  let ctx := ec / 4096
  match e.queue with
  | [] => none
  | c :: _ =>
    if e.stopped.isNone && !e.ran && decide (e.due ≤ s.cycle) && s.engRuns ctx &&
        s.leaseLets (ec % 4096) ctx && !s.fenced ec c then some c else none

/-! ## The checks of R209, R210 -/

/-- A range a command names: address, bytes, what it does there, alignment asked for. -/
structure Rng where
  a : Int
  n : Nat
  need : Need
  al : Nat := 1
  nd : BitVec 6 := 63
deriving DecidableEq, Repr

/-- The thread an engine stands for in the address rules. -/
def engThread (c : Cmd) : Thread := { kid := c.kid, ctx := 0, core := c.cc % 1024, prin := c.prin, tid := c.tid }

/-- The rights of a domain over every granule of a range from a local address; LM apertures are judged by those of their granules too. -/
def State.engLets (s : State) (ctx la : Nat) (r : Rng) : Bool :=
  r.n = 0 || (granules (r.n / 65536 + 2) la r.n).all (fun p =>
    let e := s.protRights ctx p.1
    Rights.covers e.r e.w e.x e.g (isFar r.a.toNat) r.need)

/-- Checks 1 and 2 of R209 for one range (DEDUCED, log 41); what the home's rights forbid through far space of this device is a denial (R280,
R290). -/
def State.engReach (s : State) (ec : Nat) (c : Cmd) (r : Rng) : Except (Nat × Nat) Span :=
  let ctx := ec / 4096
  let u := ec % 4096
  let t := { engThread c with ctx := ctx }
  let a := (BitVec.ofInt 64 r.a).toNat
  let bad : Except (Nat × Nat) Span := .error (codeADDRESS, a)
  let write := match r.need with | .write | .rmw => true | _ => false
  let span (p : Place) (home : Nat) (far : Bool) (no : Bool := false) : Except (Nat × Nat) Span :=
    .ok { a := a, place := p, who := { ctx := home, prin := c.prin, own := none, nd := r.nd, rper := c.rper.toNat, no := no }, n := r.n, write := write, far := far,
          gather := r.need == .gather }
  match s.checkRange t r.a r.n with
  | .error _ => bad
  | .ok none => if unitEng u = 1 then span (.far r.a.toNat) ctx true else bad
  | .ok (some (la, home, far)) =>
    if far && unitEng u ≠ 1 then bad
    else if inAperture la && la < selfBase then bad
    else
      let kid := if far then s.shownKernel home else c.kid
      match s.placeOf kid t.core la r.n with
      | none => if far then span (.glob la) home true true else bad
      | some p =>
      if far && !s.engLets home la r then span (.glob la) home true true else
      match p with
      | (.lm cc off) => if unitEng u = 0 && s.clusterOfCc cc ≠ u then bad else span (.lm cc off) home far
      | p => span p home far

/-- Domain rights of a local range (check 4). -/
def State.engRights (s : State) (ec : Nat) (r : Rng) (q : Span) : Bool :=
  q.far || s.engLets (ec / 4096) r.a.toNat r

/-- All ranges of a command, check by check (R209). -/
def State.engJudge (s : State) (ec : Nat) (c : Cmd) (rs : List Rng) : Run (List Span) := do
  let qs ← rs.foldr (fun r acc =>
    match s.engReach ec c r with
    | .error e => .error (.stop e.1 e.2 s)
    | .ok q => acc.map (q :: ·)) (.ok [])
  match rs.find? (fun r => r.a % ((max r.al 1 : Nat) : Int) ≠ 0) with
  | some r => .error (.stop codeALIGN (BitVec.ofInt 64 r.a).toNat s)
  | none =>
    match (rs.zip qs).find? (fun p => !s.engRights ec p.1 p.2) with
    | some p => .error (.stop codeRIGHTS (BitVec.ofInt 64 p.1.a).toNat s)
    | none => .ok qs

/-- List k of the ranges of a command, judged once: ranges that have passed stand while it waits (R209). -/
def State.engChecks (s : State) (ec : Nat) (c : Cmd) (k : Nat) (rs : List Rng) : Run (List Span × State) :=
  match (s.eng ec).passed[k]? with
  | some qs => .ok (qs, s)
  | none => do
    let qs ← s.engJudge ec c rs
    let e := s.eng ec
    .ok (qs, s.setEng ec { e with passed := e.passed ++ [qs] })

/-- Every page of the ranges present, and no write to a migrating page; a refused page is uncorrectable data (R211). -/
def State.engPages (s : State) (ec : Nat) (qs : List Span) : Run State :=
  match (qs.filterMap s.absentIn).head? with
  | some va =>
    if (s.eng ec).badPage.contains (va / 65536) then .error (.stop codeDATA va (s.reportData (ec / 4096) va)) else .error (.wait va s)
  | none => if qs.any (fun q => s.migratingIn q || s.spanWaits q) then .error (.later s) else .ok s

/-- What an engine sends to another device carries the number of its command. -/
def engOp (c : Cmd) (kind : OpKind) : Op :=
  { id := 0, thr := noticeSender, cc := c.cc, kind := kind, prin := c.prin, info := BitVec.ofNat 64 c.num, conf := true }

/-- The parts of another device's memory that a command reads: all have come, or their reads are out (R210, R402). -/
def State.engFetch (s : State) (ec : Nat) (c : Cmd) (qs : List Span) : Run State :=
  let asks := (qs.filter (fun q => !q.write)).flatMap (fun q => q.asks.map (fun p => (p, q.gather)))
  let out (s : State) (p : Nat × Nat) : Bool := s.ops.any (fun o => o.kind == .fetch ec && o.va == p.1 && o.n == p.2 && o.info == BitVec.ofNat 64 c.num)
  let wanting := asks.filter (fun p => !(s.eng ec).far.has (farKey p.1.1 p.1.2))
  if wanting.isEmpty then .ok s
  else .error (.later (wanting.foldl (fun s p =>
    if out s p.1 then s
    else (s.sendFar (ec / 4096) p.1.1 c.prin (.read p.1.2 p.2)).launch
      { engOp c (.fetch ec) with place := .far p.1.1, va := p.1.1, n := p.1.2, deadline := s.tick + 2 ^ 20 }) s))

/-- All that a command asks before it reads: its ranges, their pages, and what comes from another device. -/
def State.engReady (s : State) (ec : Nat) (c : Cmd) (k : Nat) (rs : List Rng) : Run (List Span × State) := do
  let (qs, s) ← s.engChecks ec c k rs
  let s ← s.engPages ec qs
  let s ← s.engFetch ec c qs
  .ok (qs, s)

/-- The block of a command, read once, when the command starts (R220, R229). -/
def State.engBlock (s : State) (ec : Nat) (f : State → Run (List Byte × State)) : Run (List Byte × State) :=
  match (s.eng ec).block with
  | some bs => .ok (bs, s)
  | none => do
    let (bs, s) ← f s
    .ok (bs, s.setEng ec { s.eng ec with block := some bs })

/-- Denied lines of an engine access logged, KIND 3, once a command; through far space to this device the home logs KIND 4 too. -/
def State.engDeny (s : State) (ec : Nat) (c : Cmd) (dn : List Denied) : State :=
  dn.foldl (fun s d =>
    let e := s.eng ec
    if e.denied.contains d.line then s else
    let s := (s.setEng ec { e with denied := e.denied ++ [d.line] }).logDenial (ec / 4096) (BitVec.ofNat 64 d.va) c.tid c.prin d.tag 3
    if d.far then s.logDenial d.ctx (s.homeVa (s.ctx (ec / 4096)).tenant (BitVec.ofNat 64 d.va)) 0xFFFF_FFFF c.prin d.tag 4 else s) s

/-- Bytes [off, off + n) of a range. -/
def Span.sub (q : Span) (off n : Nat) : Span := { q with a := q.a + off, place := q.place.plus off, n := n }

/-- A range read by an engine. -/
def State.engRead (s : State) (ec : Nat) (c : Cmd) (q : Span) : Run (List Byte × State) :=
  match s.pull q (fun a n => (s.eng ec).far.get none (farKey a n)) with
  | .got bs dn s => .ok (bs, s.engDeny ec c dn)
  | .stop va dn s => .error (.stop codeDATA va (s.engDeny ec c dn))

/-- One more range written by an engine. -/
def RangePush.eng (r : RangePush) (ec : Nat) (c : Cmd) (q : Span) (bs : List Byte) : RangePush := r.range q (engOp c (.engWrite ec)) bs

/-- One range of a command, asked for and read. -/
def State.engReadOne (s : State) (ec : Nat) (c : Cmd) (k : Nat) (r : Rng) : Run (List Byte × State) := do
  let (qs, s) ← s.engReady ec c k [r]
  match qs with
  | q :: _ => s.engRead ec c q
  | [] => .ok ([], s)

/-- Bytes covered in a line. -/
def Cover.count (c : Cover) : Nat := ((List.range 128).filter (fun i => c.bytes.testBit i)).length

/-- One decrement per destination line written, of the bytes covered in it, after they have performed (R234, R249; DEDUCED,
log 58). -/
def State.decrements (s : State) (c : Cmd) (bar : Option (BitVec 7)) (ls : List Cover) : State :=
  match bar with
  | none => s
  | some b => ls.foldl (fun s l => s.launch { id := 0, thr := c.thr, cc := c.cc, kind := .decrement c.cc b l.count, needs := l.ops }) s

/-- The end of the writes of a command: denials logged, barrier decrements on their way, and a stop where one met uncorrectable
data (R211). -/
def RangePush.finish (r : RangePush) (ec : Nat) (c : Cmd) (bar : Option (BitVec 7)) : Run State :=
  let s := (r.s.engDeny ec c r.denied).decrements c bar r.lines
  match r.bad with
  | some va => .error (.stop codeDATA va s)
  | none => .ok s

/-- A read of a command between its writes; where it stops, the lines denied so far are logged. -/
def RangePush.read (r : RangePush) (ec : Nat) (c : Cmd) (f : State → Run (List Byte × State)) : Run (List Byte × RangePush) :=
  match f r.s with
  | .ok (bs, s) => .ok (bs, { r with s := s })
  | .error (.stop code a s) => .error (.stop code a (s.engDeny ec c r.denied))
  | .error h => .error h

/-- Ranges written in order by a command. -/
def State.engWrites (s : State) (ec : Nat) (c : Cmd) (bar : Option (BitVec 7)) (ws : List (Span × List Byte)) : Run State :=
  (ws.foldl (fun (r : RangePush) w => r.eng ec c w.1 w.2) { s := s }).finish ec c bar

/-! ## Stopping, completing, resuming (R206, R212, R213) -/

/-- The status word of a stopped engine-context. -/
def stopWord (code op eng num : Nat) : Word := BitVec.ofNat 64 (code + op % 256 * 2 ^ 8 + eng % 8 * 2 ^ 16 + num % 2 ^ 32 * 2 ^ 32)

/-- The thread that hears of an engine error: the enqueuing one, else the lowest slot of its context on that core. -/
def State.errorThread (s : State) (c : Cmd) : Option Nat :=
  let t := s.thread c.thr
  if t.life = .resident && t.tid = c.tid && t.kid = c.kid then some c.thr
  else
    let ts := s.threads.filter (fun e => e.2.life == .resident && e.2.cc == c.cc)
    ((List.range 16).flatMap (fun n => (ts.filter (fun e => e.2.slot == n)).map (·.1))).head?

/-- An engine-context with nothing kept of a command. -/
def EngCtx.cleared (e : EngCtx) : EngCtx :=
  { e with pwait := none, badPage := [], passed := [], block := none, denied := [], far := [], farBad := none }

/-- THE STOP of a stream (R212). The OPCODE of a copy that carries no command word is that of CPY (DESIGN CHOICE, log 72). -/
def State.engStop (s : State) (ec : Nat) (c : Cmd) (code addr : Nat) : State :=
  let op := match c.work with | .word w => cmdOp w | _ => 0x20
  let w := stopWord code op (unitEng (ec % 4096)) c.num
  let e := s.eng ec
  let s := s.setEng ec { e.cleared with stopped := some (w, BitVec.ofNat 64 addr), ran := false }
  match s.errorThread c with
  | some k => s.pendCause k causeENGINE w (BitVec.ofNat 64 addr)
  | none =>
    let x := s.coreCtx c.cc
    s.setCoreCtx c.cc { x with held := x.held ++ [(causeENGINE, w, BitVec.ofNat 64 addr)] }

/-- A command's writes are made; its completion follows. -/
def State.engRan (s : State) (ec : Nat) : State :=
  let (due, s) := s.later
  s.setEng ec { s.eng ec with ran := true, due := due, pwait := none }

/-- What a run of a command leaves. -/
def State.engEnd (ec : Nat) (c : Cmd) : Run State → State
  | .ok s' => s'.engRan ec
  | .error (.stop code addr s') => s'.engStop ec c code addr
  | .error (.wait va s') =>
    let (due, s') := (s'.faultReq va c.cc).later
    s'.setEng ec { s'.eng ec with pwait := some va, due := due }
  | .error (.later s') =>
    let (due, s') := s'.later
    s'.setEng ec { s'.eng ec with due := due, pwait := none }

/-- The engine-context whose head is this word and may run, for an opcode. -/
def State.engFor (s : State) (w : CmdWord) : Option (Nat × Cmd) :=
  match s.engs.findKey (fun ec _ => match s.headCmd ec with | some c => c.work == .word w | none => false) with
  | some ec => (s.headCmd ec).map (fun c => (ec, c))
  | none => none

/-- A command at the head of its queue runs: only on an engine that accepts its opcode (R94). -/
def State.runCmd (s : State) (w : CmdWord) (op : Nat) (name : String) (body : State → Nat → Cmd → Run State) : Res :=
  match s.engFor w with
  | some (ec, c) =>
    if cmdOp w = op && (match opcodeEngines op with | some f => f (unitEng (ec % 4096)) | none => false) then
      done (State.engEnd ec c (body s ec c))
    else notNow name
  | none => notNow name

def stopField (s : State) : Run State := .error (.stop codeFIELD 0 s)

/-- ENOP (R235): only RESUME may be set, and RESUME outside the stopped state is a FIELD stop (R213). -/
def execEnop (w : CmdWord) (s : State) : Res :=
  s.runCmd w 0x00 "ENOP" (fun s _ _ => if w.q0 = 0 && w.q1 = 0 && w.q2 = 0 && w.q3 = 0 then .ok s else stopField s)

/-- EMARK (R235). -/
def execEmark (w : CmdWord) (s : State) : Res :=
  s.runCmd w 0x30 "EMARK" (fun s ec c => do
    if cmdF w 0 56 ≠ 0 || w.q3 ≠ 0 then stopField s
    else
      let (qs, s) ← s.engReady ec c 0 [{ a := w.q1.toNat, n := 8, need := .write, al := 8 }]
      s.engWrites ec c none (qs.map (fun q => (q, leBytes 8 w.q2.toNat))))

/-- EFENCE (R235): it runs once the named timeline has reached Q1. -/
def execEfence (w : CmdWord) (s : State) : Res :=
  s.runCmd w 0x31 "EFENCE" (fun s _ _ =>
    if cmdF w 3 53 ≠ 0 || 5 < cmdF w 0 3 || w.q2 ≠ 0 || w.q3 ≠ 0 then stopField s else .ok s)

/-- An opcode that is not listed, or that belongs to another engine (R94). -/
def execUnknownEngineCommand (w : CmdWord) (s : State) : Res :=
  match s.engFor w with
  | some (ec, c) =>
    match opcodeEngines (cmdOp w) with
    | none => done (s.engStop ec c codeUNKNOWN 0)
    | some f => if f (unitEng (ec % 4096)) then notNow "UNKNOWN_ENGINE_COMMAND" else done (s.engStop ec c codeENGINE 0)
  | none => notNow "UNKNOWN_ENGINE_COMMAND"

/-- A stopped engine-context that holds an accepted resume word. -/
def State.resumable (s : State) : Option Nat :=
  s.engs.findKey (fun _ e => e.stopped.isSome && e.queue.any (fun c => c.resume))

/-- ENOP_RESUME (R213): every command up to the resume word is complete, and the engine-context runs again. -/
def execEnopResume (s : State) : Res :=
  match s.resumable with
  | none => notNow "ENOP_RESUME"
  | some ec =>
    let e := s.eng ec
    match e.queue.find? (fun c => c.resume) with
    | none => notNow "ENOP_RESUME"
    | some c =>
      let (due, s) := s.later
      done (s.setEng ec { e.cleared with completed := c.num, queue := e.queue.filter (fun x => decide (c.num < x.num)), stopped := none, ran := false, due := due })

/-- The head command complete: the timeline advances (R206). -/
def State.engDone (s : State) (ec : Nat) : State :=
  let e := s.eng ec
  match e.queue with
  | [] => s
  | c :: rest =>
    let (due, s) := s.later
    s.setEng ec { e.cleared with completed := c.num, queue := rest, ran := false, due := due }

/-! ## Tokens (R375) -/

def State.tokenReady (s : State) (o : Op) : Bool :=
  match o.kind with
  | .token ec num => decide (num ≤ (s.eng ec).completed)
  | _ => false

/-- COPY_TOKEN: the copy's number in its register; a copy that met uncorrectable data marks it (INFO 1). -/
def execCopyToken (op : Nat) (s : State) : Res :=
  match s.findOp op with
  | none => notNow "COPY_TOKEN"
  | some o =>
    match o.kind with
    | .token _ num =>
      if !s.tokenReady o then notNow "COPY_TOKEN"
      else if o.info = 1 then
        let s := s.dropOp op
        let t := s.thread o.thr
        match o.dst with
        | some (.s f) => done (if isShared f || f = 0 then s else s.setThread o.thr { t with xde := setMark t.xde (low5 f) true, tok := t.tok.del (low5 f).val })
        | _ => done s
      else done (s.deliverX o (BitVec.ofNat 64 num) 0)
    | _ => notNow "COPY_TOKEN"

end Sys2Proof.Machine
end

