-- ==== Sys2Proof/Machine/Quant.lean ====
section
/-! DEFINITION. Block quantisation shared by slot V, the matrix array and the copy engine (R184, R185, R219, R232). -/

namespace Sys2Proof.Machine

/-- emax of R184. -/
def emaxOf (t : Ty) : Int :=
  match t with
  | .e4m3 => 8 | .e5m2 => 15 | .e3m2 => 4 | .e2m3 => 2 | .e2m1 => 2
  | _ => 0

/-- The MX scale of a block of values (R184). -/
def scaleOf (t : Ty) (xs : List Val) : Nat :=
  let bad (v : Val) : Bool := match v with | .fin _ _ _ _ => false | _ => true
  if xs.any bad then 0xFF
  else
    let nz := xs.filter (fun v => !v.isZero)
    match nz with
    | [] => 0x7F
    | v :: rest => (clampInt (rest.foldl (fun m x => max m x.expo) v.expo - emaxOf t + 127) 0 254).toNat

/-- A value times 2^-(s - 127). -/
def unscale (s : Nat) : Val → Val
  | .fin neg n d e => .fin neg n d (e - ((s : Int) - 127))
  | v => v

/-- One element of a quantised block (R185): under scale 0xFF the canonical NaN, or +0 with nv where the format has none; a
signalling NaN sets nv (R58). -/
def quantElem (t : Ty) (rm : Rm) (sat : Bool) (rnd s : Nat) (x : Val) : Nat × Fl :=
  if s = 0xFF then (match t.fmt.nan with | some c => (c, if x.invalid then flNV else 0) | none => (0, flNV))
  else roundF t.fmt rm sat rnd (unscale s x)

/-- Element types by number TY (R42 to R47). -/
def tyOfNum (n : Nat) : Option Ty :=
  match n with
  | 0 => some .f32 | 1 => some .f16 | 2 => some .bf16 | 3 => some .i32 | 4 => some .n32 | 5 => some .i16 | 6 => some .i8 | 7 => some .n8
  | 8 => some .e4m3 | 9 => some .e5m2 | 10 => some .e3m2 | 11 => some .e2m3 | 12 => some .e2m1 | 13 => some .mk8 | 14 => some .e8m0
  | _ => none
def rmOfNum (n : Nat) : Rm := match n with | 0 => .rne | 1 => .rtz | 2 => .rdn | 3 => .rup | 4 => .rna | _ => .sto
/-- The scaled formats 8 to 13. -/
def scaledTy (t : Ty) : Bool := match t with | .e4m3 | .e5m2 | .e3m2 | .e2m3 | .e2m1 | .mk8 => true | _ => false

/-- Conversion of one code (R182, R231): the bits unchanged within e8m0, else a rounding. -/
def convElem (dty sty : Ty) (rm : Rm) (sat : Bool) (rnd x : Nat) : Nat × Fl :=
  if dty == .e8m0 then (x, 0) else roundTo dty rm sat rnd (tyValue sty x)

/-- The RM of a list without `sto`. -/
def rm5 : Rm5 → Rm | .rne => .rne | .rtz => .rtz | .rdn => .rdn | .rup => .rup | .rna => .rna

end Sys2Proof.Machine
end

