-- ==== Sys2Proof/Machine/Matrix.lean ====
section
/-! DEFINITION. The matrix array (R216 to R219): MZERO, MLOADC, MMAC and MSTORE over the banks of a core-context. -/

namespace Sys2Proof.Machine

/-! ## Banks (R215) -/

def bankGet (m : AMap Lane) (i j : Nat) : Lane := m.get 0 (i * 256 + j)

/-- Elements written over a bank, in row order. -/
def bankPut (m : AMap Lane) (es : List (Nat × Nat × Lane)) : AMap Lane := es.foldl (fun m e => m.put (e.1 * 256 + e.2.1) e.2.2) m

/-! ## Fields (R216) -/

structure MFields where
  bank : Nat
  m : Nat
  n : Nat
deriving DecidableEq, Repr

/-- M, N and the bank; sizes outside 16 to 256 are FIELD stops. -/
def mFields (w : CmdWord) : Option MFields :=
  let mt := cmdF w 16 5
  let nt := cmdF w 21 5
  if mt = 0 || 16 < mt || nt = 0 || 16 < nt || cmdF w 35 13 ≠ 0 || cmdF w 52 4 ≠ 0 then none
  else some { bank := cmdF w 34 1, m := 16 * mt, n := 16 * nt }

/-- Bytes of elements [lo, lo + k) of width w bits in a run: first byte and byte count (R35). -/
def runBytes (lo k w : Nat) : Nat × Nat := (lo * w / 8, ((lo + k) * w + 7) / 8 - lo * w / 8)
/-- Element e of a packed run whose first byte is byte `first` of the run. -/
def runElem (bs : List Byte) (first e w : Nat) : Nat := leNat ((bs.drop (e * w / 8 - first)).take (w / 8 + 2)) / 2 ^ (e * w % 8) % 2 ^ w

/-- Element of a list of rows: row r, column k. -/
def rowElem (rows : List (List Nat)) (r k : Nat) : Nat := (rows.getD r []).getD k 0

/-- The ranges of `rows` rows of k elements, ld elements apart. -/
def rowRanges (base : Nat) (rows k ld w : Nat) (need : Need) : List Rng :=
  (List.range rows).map (fun i =>
    let r := runBytes (i * ld) k w
    { a := base + r.1, n := r.2, need := need, al := if w < 8 then 1 else w / 8 })

/-- PIN of the lines of a range raised; those that took it are returned (R267). -/
def State.pinSpan (s : State) (q : Span) : List Nat × State :=
  match q.place with
  | .glob va => (lines va q.n).foldl (fun r l => let (s, ok) := r.2.pinLine (l * 128) true; (if ok then l * 128 :: r.1 else r.1, s)) ([], s)
  | _ => ([], s)
def State.unpin (s : State) (ls : List Nat) : State := ls.foldl (fun s va => (s.pinLine va false).1) s

/-- A range line by line. -/
def Span.byLine (q : Span) : List Span :=
  match q.place with
  | .glob va => (partsOf va q.n).map (fun p => q.sub (p.1 - va) p.2)
  | _ => [q]

/-- The bytes of ranges from those of their lines, each range so many of them. -/
def regroup : List Nat → List (List Byte) → List (List Byte)
  | [], _ => []
  | n :: ns, bss => (bss.take n).flatten :: regroup ns (bss.drop n)

/-- Ranges read in order, each line pinned as it comes in. -/
def State.engReadEach (ec : Nat) (c : Cmd) (pin : Bool) : List Span → State → Run (List (List Byte) × State)
  | [], s => .ok ([], s)
  | q :: rest, s => do
    let (b, s) ← s.engRead ec c q
    let (ps, s) := if pin then s.pinSpan q else ([], s)
    match State.engReadEach ec c pin rest s with
    | .ok (bs, s) => .ok (b :: bs, s.unpin ps)
    | .error (.stop code a s) => .error (.stop code a (s.unpin ps))
    | .error h => .error h

/-- Ranges read in order. The tile fetch unit (`pin`) pins each line it brings in until the array has consumed it (R267). -/
def State.engReads (ec : Nat) (c : Cmd) (pin : Bool) (qs : List Span) (s : State) : Run (List (List Byte) × State) :=
  if !pin then State.engReadEach ec c false qs s
  else do
    let (bss, s) ← State.engReadEach ec c true (qs.flatMap Span.byLine) s
    .ok (regroup (qs.map (fun q => q.byLine.length)) bss, s)

/-- Rows of elements from rows of bytes. -/
def rowsOf (bss : List (List Byte)) (k ld w : Nat) : List (List Nat) :=
  bss.zipIdx.map (fun e => (List.range k).map (fun j => runElem e.1 (e.2 * ld * w / 8) (e.2 * ld + j) w))

/-! ## MZERO and MLOADC (R217) -/

def execMzero (w : CmdWord) (s : State) : Res :=
  s.runCmd w 0x01 "MZERO" (fun s _ c =>
    if cmdF w 0 34 ≠ 0 || cmdF w 35 21 ≠ 0 || w.q1 ≠ 0 || w.q2 ≠ 0 || w.q3 ≠ 0 then stopField s
    else .ok (s.setBank c.cc (cmdF w 34 1) []))

/-- A loaded element widened to 32 bits: f16 and bf16 exactly, a NaN to the canonical one. -/
def widenLoad (t : Ty) (x : Nat) : Lane :=
  match t with
  | .f16 | .bf16 => BitVec.ofNat 32 (roundF fmtF32 .rne false 0 (fmtValue t.fmt x)).1
  | _ => BitVec.ofNat 32 x

def execMloadc (w : CmdWord) (s : State) : Res :=
  s.runCmd w 0x02 "MLOADC" (fun s ec c => do
    let ldc := (w.q2.extractLsb' 0 16).toNat
    match mFields w, tyOfNum (cmdF w 0 4) with
    | some f, some t =>
      if cmdF w 4 12 ≠ 0 || cmdF w 26 8 ≠ 0 || cmdF w 48 4 ≠ 0 || w.q2.extractLsb' 16 48 ≠ 0 || w.q3 ≠ 0 ||
          !(t == .f32 || t == .i32 || t == .f16 || t == .bf16) || ldc < f.n then stopField s
      else
        let (qs, s) ← s.engReady ec c 0 (rowRanges w.q1.toNat f.m f.n ldc t.width .read)
        let (bss, s) ← State.engReads ec c false qs s
        let rows := rowsOf bss f.n ldc t.width
        let es := (List.range f.m).flatMap (fun i => (List.range f.n).map (fun j => (i, j, widenLoad t (rowElem rows i j))))
        .ok (s.setBank c.cc f.bank (bankPut (s.bank c.cc f.bank) es))
    | _, _ => stopField s)

/-! ## MMAC (R218) -/

/-- Operand formats of MMAC. -/
def mmacTy (n : Nat) : Option Ty := if n = 1 || n = 2 || n = 6 || (8 ≤ n && n ≤ 13) then tyOfNum n else none

/-- One bank element after MMAC: as and bs are its operands over k, sa and sb the scales of its chunks. -/
def mmacElem (int : Bool) (k : Nat) (c : Lane) (a b : Nat → Val) (ai bi : Nat → Int) (sa sb : Nat → Nat) : Lane :=
  (List.range ((k + 31) / 32)).foldl (fun c q =>
    let ks := (List.range 32).filterMap (fun x => if 32 * q + x < k then some (32 * q + x) else none)
    if int then c + BitVec.ofInt 32 (ks.foldl (fun acc x => acc + ai x * bi x) 0)
    else BitVec.ofNat 32 (chunkUpdate c.toNat (ks.map (fun x => (a x, b x))) (sa q) (sb q))) c

/-- A signed byte as an integer. -/
def i8Int (x : Nat) : Int := (BitVec.ofNat 8 x).toInt

def execMmac (w : CmdWord) (s : State) : Res :=
  s.runCmd w 0x03 "MMAC" (fun s ec c => do
    let k := cmdF w 0 16
    let lda := (w.q3.extractLsb' 48 16).toNat
    let ldb := (w.q3.extractLsb' 32 16).toNat
    let soff := (w.q3.extractLsb' 0 32).toNat
    let zf := cmdB w 48
    let ta := cmdB w 50
    let tb := cmdB w 51
    match mFields w, mmacTy (cmdF w 26 4), mmacTy (cmdF w 30 4) with
    | some f, some fa, some fb =>
      if k = 0 || lda < (if ta then f.m else k) || ldb < (if tb then k else f.n) then stopField s
      else
        let chunks := (k + 31) / 32
        let ra := (if ta then rowRanges w.q1.toNat k f.m lda fa.width .read else rowRanges w.q1.toNat f.m k lda fa.width .read)
        let rb := (if tb then rowRanges w.q2.toNat f.n k ldb fb.width .read else rowRanges w.q2.toNat k f.n ldb fb.width .read)
        let rsa : List Rng := if scaledTy fa then [{ a := w.q1.toNat + soff, n := f.m * chunks, need := .read }] else []
        let rsb : List Rng := if scaledTy fb then [{ a := w.q2.toNat + soff, n := chunks * f.n, need := .read }] else []
        let (qs, s) ← s.engReady ec c 0 (ra ++ rb ++ rsa ++ rsb)
        let (bss, s) ← State.engReads ec c true qs s
        let na := ra.length
        let nb := rb.length
        let rowsA := rowsOf (bss.take na) (if ta then f.m else k) lda fa.width
        let rowsB := rowsOf ((bss.drop na).take nb) (if tb then k else f.n) ldb fb.width
        let scA := if scaledTy fa then (bss.drop (na + nb)).headD [] else []
        let scB := if scaledTy fb then bss.getLastD [] else []
        let aAt (i x : Nat) : Nat := if ta then rowElem rowsA x i else rowElem rowsA i x
        let bAt (x j : Nat) : Nat := if tb then rowElem rowsB j x else rowElem rowsB x j
        let int := fa == .i8 && fb == .i8
        let sc (scaled : Bool) (bs : List Byte) (n : Nat) : Nat := if scaled then (bs.getD n 0).toNat else 127
        let old := s.bank c.cc f.bank
        let es := (List.range f.m).flatMap (fun i => (List.range f.n).map (fun j =>
          (i, j, mmacElem int k (if zf then 0 else bankGet old i j) (fun x => tyValue fa (aAt i x)) (fun x => tyValue fb (bAt x j))
            (fun x => i8Int (aAt i x)) (fun x => i8Int (bAt x j))
            (fun q => sc (scaledTy fa) scA (i * chunks + q)) (fun q => sc (scaledTy fb) scB (q * f.n + j)))))
        .ok (s.setBank c.cc f.bank (bankPut old es))
    | _, _, _ => stopField s)

/-! ## MSTORE (R219) -/

/-- The value of a bank word. -/
def bankVal (int : Bool) (x : Lane) : Val := if int then tyValue .i32 x.toNat else tyValue .f32 x.toNat

/-- Row i of a store: its codes, and its output scales. -/
def mstoreRow (t : Ty) (rm : Rm) (sat scaled : Bool) (vals : List Val) : List Nat × List Nat :=
  if !scaled then (vals.map (fun v => (roundTo t rm sat 0 v).1), [])
  else
    let blocks := (List.range ((vals.length + 31) / 32)).map (fun u => (vals.drop (32 * u)).take 32)
    let ss := blocks.map (scaleOf t)
    ((blocks.zip ss).flatMap (fun b => b.1.map (fun v => (quantElem t rm sat 0 b.2 v).1)), ss)

/-- Codes of width w placed over a run of bytes from element `lo`; other bits keep their values (R219). -/
def packRun (old : List Byte) (first lo w : Nat) (codes : List Nat) : List Byte :=
  let n := codes.zipIdx.foldl (fun n e =>
    let sh := (lo + e.2) * w - first * 8
    n - n / 2 ^ sh % 2 ^ w * 2 ^ sh + e.1 % 2 ^ w * 2 ^ sh) (leNat old)
  leBytes old.length n

/-- The bytes of a row of k elements of width w from element lo, as they stand where the row shares a byte with other elements;
bytes it covers whole are not read (R219). -/
def State.sharedBytes (s : State) (ec : Nat) (c : Cmd) (q : Span) (lo k w : Nat) : Run (List Byte × State) := do
  let (a, s) ← if lo * w % 8 ≠ 0 then s.engRead ec c (q.sub 0 1) else .ok ([0], s)
  let (b, s) ← if (lo + k) * w % 8 ≠ 0 && 1 < q.n then s.engRead ec c (q.sub (q.n - 1) 1) else .ok ([0], s)
  .ok ((a ++ List.replicate (q.n - 2) 0 ++ b).take q.n, s)

def execMstore (w : CmdWord) (s : State) : Res :=
  s.runCmd w 0x04 "MSTORE" (fun s ec c => do
    let ldc := (w.q2.extractLsb' 0 16).toNat
    let soff := (w.q3.extractLsb' 0 32).toNat
    let nsat := cmdB w 48
    let scaled := cmdB w 49
    let int := cmdB w 50
    let rm := cmdF w 4 3
    match mFields w, tyOfNum (cmdF w 0 4) with
    | some f, some t =>
      if cmdF w 7 9 ≠ 0 || cmdF w 26 8 ≠ 0 || cmdB w 51 || w.q2.extractLsb' 16 48 ≠ 0 || w.q3.extractLsb' 32 32 ≠ 0 ||
          t == .e8m0 || 4 < rm || (scaled && !scaledTy t) || ldc < f.n then stopField s
      else
        let blocks := (f.n + 31) / 32
        let rr := rowRanges w.q1.toNat f.m f.n ldc t.width .write
        let rsc : List Rng := if scaled then [{ a := w.q1.toNat + soff, n := f.m * blocks, need := .write }] else []
        let (qs, s) ← s.engReady ec c 0 (rr ++ rsc)
        let bank := s.bank c.cc f.bank
        let rows := (List.range f.m).map (fun i =>
          mstoreRow t (rmOfNum rm) (!nsat) scaled ((List.range f.n).map (fun j => bankVal int (bankGet bank i j))))
        let r ← (rows.zip qs).zipIdx.foldl (fun (r : Run RangePush) e => do
          let r ← r
          if r.bad.isSome then .ok r else
          let first := e.2 * ldc * t.width / 8
          let (old, r) ← r.read ec c (fun s => s.sharedBytes ec c e.1.2 (e.2 * ldc) f.n t.width)
          .ok (r.eng ec c e.1.2 (packRun old first (e.2 * ldc) t.width e.1.1.1))) (.ok { s := s })
        let r := if scaled then (qs.drop f.m).foldl (fun r q => r.eng ec c q ((rows.flatMap (·.2)).map (fun x => BitVec.ofNat 8 x))) r else r
        r.finish ec c none
    | _, _ => stopField s)

end Sys2Proof.Machine
end

