-- ==== Sys2Proof/Machine/Scalar.lean ====
section
/-! DEFINITION. Slot A: integer arithmetic, immediates, compares, predicates, select and bit operations (R102 to R107, R133). -/

namespace Sys2Proof.Machine

/-- sext64 of the low 32 bits (R102). -/
def sextW (w : Word) : Word := (w.truncate 32).signExtend 64

/-- A shift or rotate count: b[5:0]. -/
def cnt (b : Word) : Nat := (b.extractLsb' 0 6).toNat

/-- The two-source integer operations (R102). -/
inductive AluOp where
  | add | sub | mul | mulh | mulhu | div | divu | rem | remu | and | or | xor | andn | sll | srl | sra | rol
  | min | max | minu | maxu | addw | subw | mulw
deriving DecidableEq, Repr

/-- f(a, b) of R102. -/
def alu (o : AluOp) (a b : Word) : Word :=
  match o with
  | .add => a + b
  | .sub => a - b
  | .mul => a * b
  | .mulh => (a.signExtend 128 * b.signExtend 128).extractLsb' 64 64
  | .mulhu => (a.zeroExtend 128 * b.zeroExtend 128).extractLsb' 64 64
  | .div => divS a b
  | .divu => divU a b
  | .rem => remS a b
  | .remu => remU a b
  | .and => a &&& b
  | .or => a ||| b
  | .xor => a ^^^ b
  | .andn => a &&& ~~~b
  | .sll => a <<< cnt b
  | .srl => a >>> cnt b
  | .sra => a.sshiftRight (cnt b)
  | .rol => a.rotateLeft (cnt b)
  | .min => if a.slt b then a else b
  | .max => if a.slt b then b else a
  | .minu => if a.ult b then a else b
  | .maxu => if a.ult b then b else a
  | .addw => sextW (a + b)
  | .subw => sextW (a - b)
  | .mulw => sextW (a * b)

/-- D := f(x(S1), x(S2)), readable by the next bundle (R96, R102). -/
def aluNow (o : AluOp) (d s1 s2 : SReg) (s : State) : Res := done (s.wx d (alu o (s.rx s1) (s.rx s2)))
/-- The same with a latency of 4 turns. -/
def aluLate (o : AluOp) (d s1 s2 : SReg) (s : State) : Res := done (s.wxLate d (alu o (s.rx s1) (s.rx s2)) 4)

def execNop (s : State) : Res := done s
/-- ILLEGAL_BUNDLE (R95): the fault word names the slot's opcode. -/
def execIllegalBundle (op : BitVec 8) (slot : Bool) (s : State) : Res :=
  done (s.raise { cause := causeILLEGAL, info := op.zeroExtend 64 ||| (if slot then 0x100 else 0), fva := 0, upc := s.me.pc })

def execAdd (d s1 s2 : SReg) (s : State) : Res := aluNow .add d s1 s2 s
def execSub (d s1 s2 : SReg) (s : State) : Res := aluNow .sub d s1 s2 s
def execMul (d s1 s2 : SReg) (s : State) : Res := aluNow .mul d s1 s2 s
def execMulh (d s1 s2 : SReg) (s : State) : Res := aluNow .mulh d s1 s2 s
def execMulhu (d s1 s2 : SReg) (s : State) : Res := aluNow .mulhu d s1 s2 s
def execDiv (d s1 s2 : SReg) (s : State) : Res := aluLate .div d s1 s2 s
def execDivu (d s1 s2 : SReg) (s : State) : Res := aluLate .divu d s1 s2 s
def execRem (d s1 s2 : SReg) (s : State) : Res := aluLate .rem d s1 s2 s
def execRemu (d s1 s2 : SReg) (s : State) : Res := aluLate .remu d s1 s2 s
def execAnd (d s1 s2 : SReg) (s : State) : Res := aluNow .and d s1 s2 s
def execOr (d s1 s2 : SReg) (s : State) : Res := aluNow .or d s1 s2 s
def execXor (d s1 s2 : SReg) (s : State) : Res := aluNow .xor d s1 s2 s
def execAndn (d s1 s2 : SReg) (s : State) : Res := aluNow .andn d s1 s2 s
def execSll (d s1 s2 : SReg) (s : State) : Res := aluNow .sll d s1 s2 s
def execSrl (d s1 s2 : SReg) (s : State) : Res := aluNow .srl d s1 s2 s
def execSra (d s1 s2 : SReg) (s : State) : Res := aluNow .sra d s1 s2 s
def execRol (d s1 s2 : SReg) (s : State) : Res := aluNow .rol d s1 s2 s
def execMin (d s1 s2 : SReg) (s : State) : Res := aluNow .min d s1 s2 s
def execMax (d s1 s2 : SReg) (s : State) : Res := aluNow .max d s1 s2 s
def execMinu (d s1 s2 : SReg) (s : State) : Res := aluNow .minu d s1 s2 s
def execMaxu (d s1 s2 : SReg) (s : State) : Res := aluNow .maxu d s1 s2 s
def execAddw (d s1 s2 : SReg) (s : State) : Res := aluNow .addw d s1 s2 s
def execSubw (d s1 s2 : SReg) (s : State) : Res := aluNow .subw d s1 s2 s
def execMulw (d s1 s2 : SReg) (s : State) : Res := aluNow .mulw d s1 s2 s
/-- LEA (R103). -/
def execLea (d s1 s2 : SReg) (sh : BitVec 3) (s : State) : Res := done (s.wx d (s.rx s1 + (s.rx s2 <<< sh.toNat)))

/-! ## Immediates (R104) -/

def execAddi (d s1 : SReg) (imm : BitVec 36) (s : State) : Res := done (s.wx d (alu .add (s.rx s1) (sx imm)))
def execAndi (d s1 : SReg) (imm : BitVec 36) (s : State) : Res := done (s.wx d (alu .and (s.rx s1) (sx imm)))
def execOri (d s1 : SReg) (imm : BitVec 36) (s : State) : Res := done (s.wx d (alu .or (s.rx s1) (sx imm)))
def execXori (d s1 : SReg) (imm : BitVec 36) (s : State) : Res := done (s.wx d (alu .xor (s.rx s1) (sx imm)))
def execSlli (d s1 : SReg) (n : BitVec 6) (s : State) : Res := done (s.wx d (alu .sll (s.rx s1) (zx n)))
def execSrli (d s1 : SReg) (n : BitVec 6) (s : State) : Res := done (s.wx d (alu .srl (s.rx s1) (zx n)))
def execSrai (d s1 : SReg) (n : BitVec 6) (s : State) : Res := done (s.wx d (alu .sra (s.rx s1) (zx n)))
def execLih (d s1 : SReg) (imm : BitVec 36) (s : State) : Res :=
  done (s.wx d ((sx imm <<< 28) ||| zx ((s.rx s1).extractLsb' 0 28)))
def execLi (d : SReg) (imm : BitVec 64) (s : State) : Res := done (s.wx d imm)
def execAddwi (d s1 : SReg) (imm : BitVec 36) (s : State) : Res := done (s.wx d (alu .addw (s.rx s1) (sx imm)))

/-! ## Compare, predicate and select (R105) -/

def bit01 (b : Bool) : Word := if b then 1 else 0

def execSet (c : Cond) (d s1 s2 : SReg) (s : State) : Res := done (s.wx d (bit01 (condHolds c (s.rx s1) (s.rx s2))))
def execSeti (c : Cond) (d s1 : SReg) (imm : BitVec 33) (s : State) : Res := done (s.wx d (bit01 (condHolds c (s.rx s1) (sx imm))))
def execPset (c : Cond) (pd : PReg) (s1 s2 : SReg) (s : State) : Res := done (s.wp pd (condHolds c (s.rx s1) (s.rx s2)))
def execPseti (c : Cond) (pd : PReg) (s1 : SReg) (imm : BitVec 33) (s : State) : Res :=
  done (s.wp pd (condHolds c (s.rx s1) (sx imm)))
/-- Bit 2a + b of a truth table. -/
def truth (t : BitVec 4) (a b : Bool) : Bool := t.getLsbD ((if a then 2 else 0) + (if b then 1 else 0))
def execPlog (pd ps1 ps2 : PReg) (t : BitVec 4) (s : State) : Res := done (s.wp pd (truth t (s.rp ps1) (s.rp ps2)))
def execSel (d s1 s2 : SReg) (p : PReg) (neg : Bool) (s : State) : Res :=
  done (s.wx d (if s.rp p != neg then s.rx s1 else s.rx s2))

/-! ## Bit operations and MFOLD (R106, R107) -/

/-- Bit i of the result is bit n - 1 - i. -/
def reverseBits (w : Word) : Word := BitVec.ofFnLE (fun i : Fin 64 => w.getLsbD (63 - i.val))
/-- Byte i of the result is byte 7 - i. -/
def reverseBytes (w : Word) : Word := wordOf 64 (leBytes 8 w.toNat).reverse
/-- Trailing zero bits, 64 for 0. -/
def trailingZeros (w : Word) : Nat := leadingZeros 64 (reverseBits w).toNat
/-- A mask of w1 + 1 bits. -/
def maskOf (w1 : BitVec 6) : Word := BitVec.ofNat 64 (2 ^ (w1.toNat + 1) - 1)
/-- 8, 16 or 32 bits for k 0, 1, 2. -/
def widthOf (k : BitVec 2) : Nat := 8 * 2 ^ k.toNat

def execClz (d s1 : SReg) (s : State) : Res := done (s.wx d (BitVec.ofNat 64 (leadingZeros 64 (s.rx s1).toNat)))
def execCtz (d s1 : SReg) (s : State) : Res := done (s.wx d (BitVec.ofNat 64 (trailingZeros (s.rx s1))))
def execPopc (d s1 : SReg) (s : State) : Res := done (s.wx d (BitVec.ofNat 64 (popCount 64 (s.rx s1).toNat)))
def execBrev (d s1 : SReg) (s : State) : Res := done (s.wx d (reverseBits (s.rx s1)))
def execBswap (d s1 : SReg) (s : State) : Res := done (s.wx d (reverseBytes (s.rx s1)))
def execBfx (d s1 : SReg) (pos w1 : BitVec 6) (s : State) : Res :=
  done (s.wx d ((s.rx s1 >>> pos.toNat) &&& maskOf w1))
def execBfi (d s1 : SReg) (pos w1 : BitVec 6) (s : State) : Res :=
  done (s.wx d ((s.rx d &&& ~~~(maskOf w1 <<< pos.toNat)) ||| ((s.rx s1 &&& maskOf w1) <<< pos.toNat)))
def execSext (d s1 : SReg) (k : BitVec 2) (s : State) : Res :=
  done (s.wx d ((s.rx s1 <<< (64 - widthOf k)).sshiftRight (64 - widthOf k)))
def execZext (d s1 : SReg) (k : BitVec 2) (s : State) : Res :=
  done (s.wx d ((s.rx s1 <<< (64 - widthOf k)) >>> (64 - widthOf k)))
def execMfold (d s1 s2 : SReg) (s : State) : Res :=
  done (s.wx d (zx (fold16 ((s.rx s1).extractLsb' 0 16) (s.rx s2))))

/-- RAND (R133): the scalar draw, then the counter advances (R74, R75). -/
def execRand (d : SReg) (s : State) : Res := done (s.advance.wx d (draw s.me.rkey s.me.rctr))

end Sys2Proof.Machine
end

