-- ==== Sys2Proof/Machine/Control.lean ====
section
/-! DEFINITION. Slot A: branches, jumps, TRAP and its runtime services, BRK, ERET (R108 to R110, R305). -/

namespace Sys2Proof.Machine

/-- The target of a branch: an address fault outside the canonical local space (R108). -/
def State.branchTo (s : State) (i : Instr) (target : Int) : State :=
  if target < 0 || 2 ^ 56 ≤ target then s.failCheck (opWord i) (causeADDRESS, BitVec.ofInt 64 target)
  else s.setMe { s.me with npc := BitVec.ofInt 64 target }

/-- A branch by a displacement in bundles (R109). -/
def State.branchBy {n : Nat} (s : State) (i : Instr) (disp : BitVec n) : State :=
  s.branchTo i (s.me.pc.toNat + 16 * disp.toInt)

/-- Whether the instruction in issue raised a trap. -/
def State.trapped (s : State) : Bool := match s.issue with | .trapped _ => true | _ => false

/-- A register written where the branch was taken without a fault. -/
def State.thenWx (s : State) (d : SReg) (w : Word) : State := if s.trapped then s else s.wx d w

def execB (c : Cond) (s1 s2 : SReg) (disp : BitVec 30) (s : State) : Res :=
  done (if condHolds c (s.rx s1) (s.rx s2) then s.branchBy (.b c s1 s2 disp) disp else s)
def execBp (p : PReg) (neg : Bool) (disp : BitVec 30) (s : State) : Res :=
  done (if s.rp p != neg then s.branchBy (.bp p neg disp) disp else s)
def execJ (disp : BitVec 42) (s : State) : Res := done (s.branchBy (.j disp) disp)
def execJal (d : SReg) (disp : BitVec 42) (s : State) : Res :=
  done ((s.branchBy (.jal d disp) disp).thenWx d (s.me.pc + 16))
/-- JR: the address check before the alignment check; D is not written by either fault. -/
def execJr (d s1 : SReg) (s : State) : Res :=
  let t := s.rx s1
  let i : Instr := .jr d s1
  done (if 2 ^ 56 ≤ t.toNat then s.failCheck (opWord i) (causeADDRESS, t)
    else if t.toNat % 16 ≠ 0 then s.failCheck (opWord i) (causeALIGN, t)
    else (s.branchTo i t.toNat).thenWx d (s.me.pc + 16))
def execDbnz (s1 : SReg) (disp : BitVec 30) (s : State) : Res :=
  let v := s.rx s1 - 1
  done ((if v ≠ 0 then s.branchBy (.dbnz s1 disp) disp else s).thenWx s1 v)

/-! ## Firmware services of runtime mode (R305) -/

def reg1 : SReg := 1

/-- 0x0001: a page-in request for the VA in x1. -/
def State.servicePageIn (s : State) : State :=
  let va := (s.rx reg1).toNat
  if isLocal va then (s.faultReq va s.me.cc).wx reg1 0 else s.wx reg1 (-1)

/-- 0x0002: fault-hold with cause HOLD; x1 is the reason. -/
def State.serviceHold (s : State) : State :=
  (s.fatal s.cur causeHOLD 0 (s.rx reg1) s.me.pc).trap { cause := causeHOLD, info := 0, fva := s.rx reg1, upc := s.me.pc }

/-- 0x0003: the 64-byte message at x1 posted; 1 while the event area is full. Its address is checked, and its bytes read, as a
load's, from another device by a request (DESIGN CHOICE, log 20). -/
def State.servicePost (s : State) (i : Instr) : State :=
  let t := s.me
  match s.check t (s.rx reg1).toNat 64 64 .read with
  | .error e => s.failCheck (opWord i) e
  | .ok r =>
    let s := s.checked t r
    if s.areaFull then s.wx reg1 1 else
    match r.place with
    | .lm cc off => if s.lmBad cc off 64 then (s.reportLm cc off).wx reg1 (-1) else ((s.lmCorrect cc off 64).post (wordOf 512 (s.lmRead cc off 64))).wx reg1 0
    | .far a =>
      match s.farAsk [(a, 64)] false with
      | .error s => s
      | .ok s =>
        let s' := s.setMe { s.me with blocks := s.me.blocks.del a }
        match s.farGot s.cur a with
        | some bs => (s'.post (wordOf 512 (bs.take 64))).wx reg1 0
        | none => s'.wx reg1 (-1)
    | .glob va =>
      if !s.lets r t.prin then
        ((s.deny s.cur (s.rx reg1) r 0).post 0).wx reg1 0
      else match s.gread t.cc va 64 (s.wantOf t 63) with
        | (.bytes bs, s) => (s.post (wordOf 512 bs)).wx reg1 0
        | (.absent va, s) => s.needPage va
        | (.dataError va, s) => (s.reportData t.ctx va).wx reg1 (-1)

/-- TRAP in runtime mode, by its code. -/
def State.service (s : State) (i : Instr) (code : BitVec 16) : State :=
  if code = 1 then s.servicePageIn
  else if code = 2 then s.serviceHold
  else if code = 3 then s.servicePost i
  else s.wx reg1 (-1)

/-- TRAP: an upcall in user mode; in runtime mode the thread parks, in an instruction that completes, until the management core
answers a free latency later, and the service then has its effect (R305; DESIGN CHOICE, log 2). -/
def State.trapBy (s : State) (code : BitVec 16) : Res :=
  let t := s.me
  if t.mode = .user then done (s.raise { cause := causeTRAP, info := zx code, fva := 0, upc := t.pc + 16 })
  else if t.reply.isSome then done (s.service (.trap code) code)
  else done ((s.launch { id := 0, thr := s.cur, cc := t.cc, kind := .reply, slot := t.slot, issued := t.issued }).park (.message s.nextId))

def execTrap (code : BitVec 16) (s : State) : Res := s.trapBy code
def execPageInRequest (s : State) : Res := s.trapBy 1
def execEnterFaultHold (s : State) : Res := s.trapBy 2
def execPostToHostMailbox (s : State) : Res := s.trapBy 3

/-- BRK: the BREAK upcall in user mode, fatal in runtime mode (R110, R312). -/
def execBrk (code : BitVec 16) (s : State) : Res :=
  done (s.raise { cause := causeBREAK, info := zx code, fva := 0, upc := s.me.pc })

/-- What the runtime executed again before its ERET takes the place of the faulted accesses that others wait for (R111, R139;
DEDUCED, log 100). -/
def State.reExecuted (s : State) (k : Nat) : State :=
  let t := s.thread k
  if t.owed = [] then s else
  let now := (s.ops.filter (fun o => o.thr == k && o.kind.isAccess)).map (·.id)
  let next (l : List Nat) : List Nat := if l.any (fun n => t.owed.contains n) then l.filter (fun n => !t.owed.contains n) ++ now else l
  { s with
    ops := s.ops.map (fun o => { o with needs := next o.needs })
    threads := (s.threads.put k { t with owed := [] }).mapV (fun _ c => { c with after := next c.after }) }

/-- ERET: illegal in user mode; else the return (R110). -/
def execEret (s : State) : Res :=
  done (if s.me.mode = .user then s.illegal .eret else (s.reExecuted s.cur).returnFrom s.cur)

end Sys2Proof.Machine
end

