-- ==== Sys2Proof/Machine/VecArith.lean ====
section
/-! DEFINITION. Slot V: floating point (R176) and integer (R177) arithmetic, by element over the active lanes. -/

namespace Sys2Proof.Machine

/-! ## Floating point (R176) -/

/-- Codes and flags of an operation over the active elements; RM 5 takes the lane's bits (R52). -/
def State.fpMap (s : State) (o : FOp) (t : FTy) (rm : Rm) (m : VMask) (a b c : VReg) : VReg × Fl :=
  let n := perLane t.ty
  mapElems t.ty (s.rq m.q) (fun i =>
    let rnd := if rm = .sto then s.bits (i / n) (i % n) else 0
    fpElem o t rm rnd (elemGet t.ty a i) (elemGet t.ty b i) (elemGet t.ty c i))

/-- The draw of an instruction with RM 5 counted (R74). -/
def State.drawnBy (s : State) (rm : Rm) : State := if rm = .sto then s.advance else s

/-- A result read by the next bundle. -/
def State.fpNow (s : State) (o : FOp) (t : FTy) (rm : Rm) (m : VMask) (vd : VRegF) (a b c : VReg) : State :=
  let r := s.fpMap o t rm m a b c
  ((s.drawnBy rm).wvm m vd r.1).addFlags r.2

/-- A result of latency L turns (R96). -/
def State.fpLate (s : State) (o : FOp) (t : FTy) (rm : Rm) (m : VMask) (vd : VRegF) (a b : VReg) (turns : Nat) : State :=
  let r := s.fpMap o t rm m a b 0
  (s.wvmLate m vd r.1 turns).addFlags r.2

def execVnop (s : State) : Res := done s
def execVadd (ty : FTy) (rm : Rm) (m : VMask) (vd vs1 vs2 : VRegF) (s : State) : Res :=
  done (s.fpNow .add ty rm m vd (s.rv vs1) (s.rv vs2) 0)
def execVsub (ty : FTy) (rm : Rm) (m : VMask) (vd vs1 vs2 : VRegF) (s : State) : Res :=
  done (s.fpNow .sub ty rm m vd (s.rv vs1) (s.rv vs2) 0)
def execVmul (ty : FTy) (rm : Rm) (m : VMask) (vd vs1 vs2 : VRegF) (s : State) : Res :=
  done (s.fpNow .mul ty rm m vd (s.rv vs1) (s.rv vs2) 0)
def execVfma (ty : FTy) (rm : Rm) (m : VMask) (vd vs1 vs2 vs3 : VRegF) (s : State) : Res :=
  done (s.fpNow .fma ty rm m vd (s.rv vs1) (s.rv vs2) (s.rv vs3))
def execVfms (ty : FTy) (rm : Rm) (m : VMask) (vd vs1 vs2 vs3 : VRegF) (s : State) : Res :=
  done (s.fpNow .fms ty rm m vd (s.rv vs1) (s.rv vs2) (s.rv vs3))
def execVfnma (ty : FTy) (rm : Rm) (m : VMask) (vd vs1 vs2 vs3 : VRegF) (s : State) : Res :=
  done (s.fpNow .fnma ty rm m vd (s.rv vs1) (s.rv vs2) (s.rv vs3))
def execVmin (ty : FTy) (m : VMask) (vd vs1 vs2 : VRegF) (s : State) : Res :=
  done (s.fpNow .min ty .rne m vd (s.rv vs1) (s.rv vs2) 0)
def execVmax (ty : FTy) (m : VMask) (vd vs1 vs2 : VRegF) (s : State) : Res :=
  done (s.fpNow .max ty .rne m vd (s.rv vs1) (s.rv vs2) 0)
def execVabs (ty : FTy) (m : VMask) (vd vs1 : VRegF) (s : State) : Res :=
  done (s.wvm m vd (mapPlain ty.ty (fun i => signElem false ty (elemGet ty.ty (s.rv vs1) i))))
def execVneg (ty : FTy) (m : VMask) (vd vs1 : VRegF) (s : State) : Res :=
  done (s.wvm m vd (mapPlain ty.ty (fun i => signElem true ty (elemGet ty.ty (s.rv vs1) i))))
def execVdiv (ty : FTy) (rm : Rm5) (m : VMask) (vd vs1 vs2 : VRegF) (s : State) : Res :=
  done (s.fpLate .div ty (rm5 rm) m vd (s.rv vs1) (s.rv vs2) 3)
def execVsqrt (ty : FTy) (rm : Rm5) (m : VMask) (vd vs1 : VRegF) (s : State) : Res :=
  done (s.fpLate .sqrt ty (rm5 rm) m vd (s.rv vs1) 0 3)
def execVrcp (ty : FTy) (m : VMask) (vd vs1 : VRegF) (s : State) : Res :=
  done (s.fpLate .rcp ty .rne m vd (s.rv vs1) 0 2)
def execVrsq (ty : FTy) (m : VMask) (vd vs1 : VRegF) (s : State) : Res :=
  done (s.fpLate .rsq ty .rne m vd (s.rv vs1) 0 2)
def execVexp2 (ty : FTy) (m : VMask) (vd vs1 : VRegF) (s : State) : Res :=
  done (s.fpLate .exp2 ty .rne m vd (s.rv vs1) 0 2)
def execVlog2 (ty : FTy) (m : VMask) (vd vs1 : VRegF) (s : State) : Res :=
  done (s.fpLate .log2 ty .rne m vd (s.rv vs1) 0 2)
def execVtanh (ty : FTy) (m : VMask) (vd vs1 : VRegF) (s : State) : Res :=
  done (s.fpLate .tanh ty .rne m vd (s.rv vs1) 0 2)
def execVerf (ty : FTy) (m : VMask) (vd vs1 : VRegF) (s : State) : Res :=
  done (s.fpLate .erf ty .rne m vd (s.rv vs1) 0 2)

/-! ## Integers (R177) -/

/-- An integer operation over the elements. -/
def State.intNow (s : State) (o : IOp) (t : ITy) (m : VMask) (vd : VRegF) (a b c : VReg) : State :=
  s.wvm m vd (mapPlain t.ty (fun i => intElem o t.ty (elemGet t.ty a i) (elemGet t.ty b i) (elemGet t.ty c i)))

/-- A shift: by element, or by one count for all. -/
def State.shiftNow (s : State) (o : IOp) (t : ITy) (m : VMask) (vd : VRegF) (a : VReg) (n : ShCount) : State :=
  match n with
  | .reg vs2 => s.intNow o t m vd a (s.rv vs2) 0
  | .imm k => s.wvm m vd (mapPlain t.ty (fun i => intElem o t.ty (elemGet t.ty a i) k.toNat 0))

def execViadd (ty : ITy) (m : VMask) (vd vs1 vs2 : VRegF) (s : State) : Res :=
  done (s.intNow .add ty m vd (s.rv vs1) (s.rv vs2) 0)
def execVisub (ty : ITy) (m : VMask) (vd vs1 vs2 : VRegF) (s : State) : Res :=
  done (s.intNow .sub ty m vd (s.rv vs1) (s.rv vs2) 0)
def execVimul (ty : ITy) (m : VMask) (vd vs1 vs2 : VRegF) (s : State) : Res :=
  done (s.intNow .mul ty m vd (s.rv vs1) (s.rv vs2) 0)
def execVimad (ty : ITy) (m : VMask) (vd vs1 vs2 vs3 : VRegF) (s : State) : Res :=
  done (s.intNow .mad ty m vd (s.rv vs1) (s.rv vs2) (s.rv vs3))
def execVand (ty : ITy) (m : VMask) (vd vs1 vs2 : VRegF) (s : State) : Res :=
  done (s.intNow .and ty m vd (s.rv vs1) (s.rv vs2) 0)
def execVor (ty : ITy) (m : VMask) (vd vs1 vs2 : VRegF) (s : State) : Res :=
  done (s.intNow .or ty m vd (s.rv vs1) (s.rv vs2) 0)
def execVxor (ty : ITy) (m : VMask) (vd vs1 vs2 : VRegF) (s : State) : Res :=
  done (s.intNow .xor ty m vd (s.rv vs1) (s.rv vs2) 0)
def execVshl (ty : ITy) (m : VMask) (vd vs1 : VRegF) (n : ShCount) (s : State) : Res :=
  done (s.shiftNow .shl ty m vd (s.rv vs1) n)
def execVshr (ty : ITy) (m : VMask) (vd vs1 : VRegF) (n : ShCount) (s : State) : Res :=
  done (s.shiftNow .shr ty m vd (s.rv vs1) n)
def execVsra (ty : ITy) (m : VMask) (vd vs1 : VRegF) (n : ShCount) (s : State) : Res :=
  done (s.shiftNow .sra ty m vd (s.rv vs1) n)
def execVimin (ty : ITy) (m : VMask) (vd vs1 vs2 : VRegF) (s : State) : Res :=
  done (s.intNow .min ty m vd (s.rv vs1) (s.rv vs2) 0)
def execVimax (ty : ITy) (m : VMask) (vd vs1 vs2 : VRegF) (s : State) : Res :=
  done (s.intNow .max ty m vd (s.rv vs1) (s.rv vs2) 0)
def execVpopc (ty : ITy) (m : VMask) (vd vs1 : VRegF) (s : State) : Res :=
  done (s.intNow .popc ty m vd (s.rv vs1) 0 0)
def execVclz (ty : ITy) (m : VMask) (vd vs1 : VRegF) (s : State) : Res :=
  done (s.intNow .clz ty m vd (s.rv vs1) 0 0)
def execViabs (ty : ITy) (m : VMask) (vd vs1 : VRegF) (s : State) : Res :=
  done (s.intNow .abs ty m vd (s.rv vs1) 0 0)

/-- Lane L of VDOT4: the accumulator and the four products of bytes, modulo 2^32. -/
def dot4Lane (unsigned : Bool) (acc a b : VReg) (l : Nat) : Nat :=
  let t : Ty := if unsigned then .n8 else .i8
  let sum : Int := ((List.range 4).map (fun e => intValue t (elemGet t a (4 * l + e)) * intValue t (elemGet t b (4 * l + e)))).sum
  (BitVec.ofInt 32 ((laneGet acc l).toNat + sum)).toNat

def execVdot4 (unsigned : Bool) (m : VMask) (vd vs1 vs2 : VRegF) (s : State) : Res :=
  done (s.wvm m vd (ofLanes (dot4Lane unsigned (s.rv vd) (s.rv vs1) (s.rv vs2))))

end Sys2Proof.Machine
end

