-- ==== Sys2Proof/Machine/VecMove.lean ====
section
/-! DEFINITION. Slot V: compare, select, movement and lane masks (R178 to R181), and vector draws (R204). -/

namespace Sys2Proof.Machine

/-! ## Compares (R178) -/

/-- Bit L: the condition holds for every element of lane L. -/
def laneAll (t : Ty) (f : Nat → Bool) : BitVec 16 :=
  BitVec.ofFnLE (fun l : Fin 16 => (List.range (perLane t)).all (fun e => f (l.val * perLane t + e)))

/-- A masked write of a lane mask: inactive bits keep their value under merge and are cleared under zero. -/
def State.wqm (s : State) (m : VMask) (qd : QReg) (new : BitVec 16) : State :=
  let act := s.rq m.q
  s.wq qd ((new &&& act) ||| (if m.zero then 0 else s.rq qd &&& ~~~act))

def execVcmp (ty : FTy) (c : FCond) (m : VMask) (qd : QReg) (vs1 vs2 : VRegF) (s : State) : Res :=
  let t := ty.ty
  let f (i : Nat) : Bool × Fl := fcondHolds c (tyValue t (elemGet t (s.rv vs1) i)) (tyValue t (elemGet t (s.rv vs2) i))
  let fl := (List.range t.count).foldl (fun a i => if (s.rq m.q).getLsbD (laneOf t i) then a ||| (f i).2 else a) 0
  done ((s.wqm m qd (laneAll t (fun i => (f i).1))).addFlags fl)

def execVicmp (ty : ITy) (c : Cond) (m : VMask) (qd : QReg) (vs1 vs2 : VRegF) (s : State) : Res :=
  let t := ty.ty
  let f (i : Nat) : Bool := condHolds c (BitVec.ofNat t.width (elemGet t (s.rv vs1) i)) (BitVec.ofNat t.width (elemGet t (s.rv vs2) i))
  done (s.wqm m qd (laneAll t f))

/-! ## Movement (R179, R180) -/

/-- x when the register was read as a type: sign-extended for i types (R179). -/
def extElem (t : Ty) (a : Nat) : Word :=
  if t.isInt && t.signed then (BitVec.ofNat t.width a).signExtend 64 else BitVec.ofNat 64 (a % 2 ^ t.width)

def execVsel (m : VMask) (vd vs1 vs2 : VRegF) (q : QReg) (s : State) : Res :=
  done (s.wvm m vd (mergeLanes (s.rq q) false (s.rv vs2) (s.rv vs1)))
def execVmov (m : VMask) (vd vs1 : VRegF) (s : State) : Res := done (s.wvm m vd (s.rv vs1))
def execVbcast (ty : Ty) (m : VMask) (vd : VRegF) (x : SReg) (s : State) : Res :=
  done (s.wvm m vd (mapPlain ty (fun _ => (s.rx x).toNat)))

/-- The bits of element i's cell (R49). -/
def cellBits (t : Ty) (i : Nat) : VReg := BitVec.ofNat 512 ((2 ^ t.cell - 1) * 2 ^ (t.cell * i))

/-- A register with element i replaced. -/
def putElem (t : Ty) (v : VReg) (i a : Nat) : VReg :=
  (v &&& ~~~(cellBits t i)) ||| BitVec.ofNat 512 (a % 2 ^ t.width * 2 ^ (t.cell * i))

def execVins (ty : Ty) (vd : VRegF) (x : SReg) (i : BitVec 6) (s : State) : Res :=
  done (s.wv vd (putElem ty (s.rv vd) i.toNat (s.rx x).toNat))
def execVext (ty : Ty) (d : SReg) (vs1 : VRegF) (i : BitVec 6) (s : State) : Res :=
  done (s.wx d (extElem ty (elemGet ty (s.rv vs1) i.toNat)))
def execVperm (ty : Ty) (m : VMask) (vd vs1 vs2 : VRegF) (s : State) : Res :=
  done (s.wvm m vd (mapPlain ty (fun j => elemGet ty (s.rv vs1) (elemGet ty (s.rv vs2) j % ty.count))))

/-- σ of R180 for n elements. -/
def shufIndex (pat n j : Nat) : Nat :=
  match pat with
  | 0 => j
  | 1 => n - 1 - j
  | 2 => j ^^^ 1
  | 3 => j ^^^ 2
  | 4 => j ^^^ 4
  | 5 => j ^^^ 8
  | 6 => (j + 1) % n
  | 7 => (j + n - 1) % n
  | 8 => if j < n / 2 then 2 * j else 2 * (j - n / 2) + 1
  | 9 => if j % 2 = 0 then j / 2 else (j - 1) / 2 + n / 2
  | 10 => 0
  | 11 => j / 2 * 2
  | 12 => j / 2 * 2 + 1
  | 13 => j ^^^ (n / 2)
  | 14 => (j + 4) % n
  | _ => (j + n - 4) % n

def execVshuf (ty : Ty) (m : VMask) (vd vs1 : VRegF) (pat : BitVec 4) (s : State) : Res :=
  done (s.wvm m vd (mapPlain ty (fun j => elemGet ty (s.rv vs1) (shufIndex pat.toNat ty.count j))))

/-! ## Lane masks (R181) -/

def execQlog (qd qs1 qs2 : QReg) (t : BitVec 4) (s : State) : Res :=
  done (s.wq qd (BitVec.ofFnLE (fun l : Fin 16 => truth t ((s.rq qs1).getLsbD l.val) ((s.rq qs2).getLsbD l.val))))
def execQcnt (d : SReg) (qs1 : QReg) (s : State) : Res := done (s.wx d (BitVec.ofNat 64 (popCount 16 (s.rq qs1).toNat)))
def execViota (m : VMask) (vd : VRegF) (s : State) : Res :=
  done (s.wvm m vd (ofLanes (fun l => popCount l ((s.rq m.q).toNat % 2 ^ l))))

/-- VRAND (R204): one draw for each lane, then %rctr advances. -/
def execVrand (raw : Bool) (m : VMask) (vd : VRegF) (s : State) : Res :=
  let d (l : Nat) : Word := laneDraw s.me.rkey s.me.rctr l
  done (s.advance.wvm m vd (ofLanes (fun l => if raw then (d l).toNat % 2 ^ 32 else (uniformF32 (d l)).toNat)))

end Sys2Proof.Machine
end

