-- ==== Sys2Proof/Machine/Convert.lean ====
section
/-! DEFINITION. Slot V: conversion and block quantisation (R182 to R186), reductions, scans and sorting (R187 to R190). -/

namespace Sys2Proof.Machine

/-! ## Conversion (R182, R183) -/

/-- Element e of lane l of VCVT: a rounded source element, or 0 past the source's elements. -/
def State.cvtElem (s : State) (dty sty : Ty) (rm : Rm) (sat : Bool) (v : VReg) (i : Nat) : Nat × Fl :=
  let l := laneOf dty i
  let e := i % perLane dty
  if e < perLane sty then convElem dty sty rm sat (if rm = .sto then s.bits l e else 0) (elemGet sty v (l * perLane sty + e))
  else (0, 0)

def execVcvt (dty sty : Ty) (rm : Rm) (nsat : Bool) (m : VMask) (vd vs1 : VRegF) (s : State) : Res :=
  let r := mapElems dty (s.rq m.q) (s.cvtElem dty sty rm (!nsat) (s.rv vs1))
  done (((s.drawnBy rm).wvm m vd r.1).addFlags r.2)

/-- The 16 conversions of VPACK and VUNPK, with `rne` and `.sat`: codes, and the flags of active ones. -/
def packCodes (dty sty : Ty) (q : BitVec 16) (src : Nat → Nat) : List Nat × Fl :=
  let rs := (List.range 16).map (fun j => if q.getLsbD j then convElem dty sty .rne true 0 (src j) else (0, 0))
  (rs.map (·.1), rs.foldl (fun a r => a ||| r.2) 0)

def execVpack (dty sty : Ty) (part : BitVec 2) (m : VMask) (vd vs1 : VRegF) (s : State) : Res :=
  let q := s.rq m.q
  let r := packCodes dty sty q (fun j => elemGet sty (s.rv vs1) (j * perLane sty))
  let v := r.1.zipIdx.foldl (fun v e =>
    if q.getLsbD e.2 || m.zero then putElem dty v (16 * part.toNat + e.2) e.1 else v) (s.rv vd)
  done ((s.wv vd v).addFlags r.2)

def execVunpk (dty sty : Ty) (part : BitVec 2) (m : VMask) (vd vs1 : VRegF) (s : State) : Res :=
  let r := packCodes dty sty (s.rq m.q) (fun j => elemGet sty (s.rv vs1) (16 * part.toNat + j))
  done ((s.wvm m vd (ofLanes (fun l => r.1.getD l 0))).addFlags r.2)

/-! ## Block quantisation (R184 to R186) -/

/-- The 32 f32 values of a block. -/
def blockVals (a b : VReg) : List Val := ((elems .f32 a) ++ (elems .f32 b)).map (tyValue .f32)

def execVscale (ety : Ty) (vd vs1 vs2 : VRegF) (s : State) : Res :=
  done (s.wv vd (BitVec.ofNat 512 (scaleOf ety (blockVals (s.rv vs1) (s.rv vs2)))))

/-- The codes of a quantised block under its scale, with the flags. -/
def State.quantBlock (s : State) (ety : Ty) (rm : Rm) (sat : Bool) (sc : Nat) (xs : List Val) : List Nat × Fl :=
  let rs := xs.zipIdx.map (fun e => quantElem ety rm sat (if rm = .sto then s.bits (e.2 % 16) (e.2 / 16) else 0) sc e.1)
  (rs.map (·.1), rs.foldl (fun a r => a ||| r.2) 0)

def execVqnt (ety : Ty) (rm : Rm) (nsat : Bool) (vd vs1 vs2 : VRegF) (s : State) : Res :=
  let xs := blockVals (s.rv vs1) (s.rv vs2)
  let sc := scaleOf ety xs
  let r := s.quantBlock ety rm (!nsat) sc xs
  done (((s.drawnBy rm).wv vd (ofCells 8 8 (r.1 ++ [sc]))).addFlags r.2)

/-- A code of a quantised block as an element of a floating-point type. -/
def dqElem (fty : FTy) (ety : Ty) (sc code : Nat) : Nat × Fl :=
  if sc = 0xFF then (fty.fmt.nan.getD 0, 0)
  else roundF fty.fmt .rne false 0 (unscale (254 - sc) (tyValue ety (code % 2 ^ ety.width)))

def execVdqnt (fty : FTy) (ety : Ty) (h : Bool) (m : VMask) (vd vs1 : VRegF) (s : State) : Res :=
  let v := s.rv vs1
  let sc := elemGet .n8 v 32
  let r := mapElems fty.ty (s.rq m.q) (fun i => dqElem fty ety sc (elemGet .n8 v (if h then 16 + i else i)))
  done ((s.wvm m vd r.1).addFlags r.2)

/-! ## Reductions (R187 to R189) -/

/-- The active elements of a register with their indices, rising. -/
def State.activeElems (s : State) (t : Ty) (m : VMask) (v : VReg) : List (Nat × Nat) :=
  ((List.range t.count).filter (fun i => (s.rq m.q).getLsbD (laneOf t i))).map (fun i => (i, elemGet t v i))

/-- The value of a reduction with nothing in it: code. -/
def reduceNone (t : Ty) (op : RedOp) : Nat :=
  if t.isInt then
    match op with
    | .add => 0
    | .min => ((intMax t) % 2 ^ t.width).toNat
    | .max => ((intMin t) % 2 ^ t.width).toNat
  else match op with
    | .add => 0
    | .min => t.fmt.inf.getD 0
    | .max => withSign t.fmt true (t.fmt.inf.getD 0)

/-- The exact value of a floating-point reduction, element by element; whether a signalling NaN took part. -/
def fpReduce (t : Ty) (op : RedOp) : List Nat → Option (Val × Bool) → Option (Val × Bool)
  | [], acc => acc
  | c :: rest, acc =>
    let x := tyValue t c
    fpReduce t op rest (some (match acc with
      | none => (x, x.invalid)
      | some (a, sig) =>
        ((match op with | .add => fAdd .rne a x | .min => fMinMax false a x | .max => fMinMax true a x), sig || x.invalid)))

/-- The reduction of some elements: code and flags. -/
def reduce (t : Ty) (op : RedOp) (cs : List Nat) : Nat × Fl :=
  match cs with
  | [] => (reduceNone t op, 0)
  | c :: rest =>
    if t.isInt then
      let iop : IOp := match op with | .add => .add | .min => .min | .max => .max
      (rest.foldl (fun a x => intElem iop t a x 0) (c % 2 ^ t.width), 0)
    else match fpReduce t op cs none with
      | none => (reduceNone t op, 0)
      | some (v, sig) =>
        let (code, fl) := roundF t.fmt .rne false 0 v
        (code, fl ||| (if sig then flNV else 0))

def execVred (ty : Ty) (op : RedOp) (m : VMask) (d : SReg) (vs1 : VRegF) (s : State) : Res :=
  let r := reduce ty op ((s.activeElems ty m (s.rv vs1)).map (·.2))
  done ((s.wx d (extElem ty r.1)).addFlags r.2)

def execVscan (ty : Ty) (op : RedOp) (m : VMask) (vd vs1 : VRegF) (s : State) : Res :=
  let act := s.activeElems ty m (s.rv vs1)
  let r := mapElems ty (s.rq m.q) (fun i => reduce ty op ((act.filter (fun e => e.1 ≤ i)).map (·.2)))
  done ((s.wvm m vd r.1).addFlags r.2)

/-- Whether a code is above another, and is a number where it must be (R189). -/
def argAbove (t : Ty) (a : Nat) (best : Option (Nat × Nat)) : Bool :=
  if t.isInt then (match best with | none => true | some b => intValue t b.2 < intValue t a)
  else
    let x := tyValue t a
    !x.isNan && (match best with
      | none => true
      | some b => let y := tyValue t b.2; decide (0 < cmpVal x y) || (cmpVal x y = 0 && y.neg? && !x.neg?))

def execVargmx (ty : Ty) (m : VMask) (d : SReg) (vs1 : VRegF) (s : State) : Res :=
  let best := (s.activeElems ty m (s.rv vs1)).foldl (fun b e => if argAbove ty e.2 b then some e else b) none
  done (s.wx d (match best with | some e => BitVec.ofNat 64 e.1 | none => 0xFFFF_FFFF_FFFF_FFFF))

/-! ## Sorting (R190) -/

/-- The rank of an f32 key: rising with the key, -0 below +0, every NaN below -∞. -/
def keyRank (c : Nat) : Int :=
  if (tyValue .f32 c).isNan then -(2 ^ 32)
  else if c < 2 ^ 31 then c else -((c % 2 ^ 31 : Nat) : Int) - 1

/-- A pair stands before another. -/
def pairBefore (x y : Nat × Nat) : Bool := decide (keyRank y.1 < keyRank x.1) || (keyRank x.1 = keyRank y.1 && decide (x.2 ≤ y.2))

def insertPair (p : Nat × Nat) : List (Nat × Nat) → List (Nat × Nat)
  | [] => [p]
  | q :: rest => if pairBefore p q then p :: q :: rest else q :: insertPair p rest

/-- Descending order, stable. -/
def sortPairs (ps : List (Nat × Nat)) : List (Nat × Nat) := ps.foldr insertPair []

def lanePairs (k i : VReg) : List (Nat × Nat) := (elems .f32 k).zip (elems .n32 i)

/-- The first 16 pairs into VD and VD + 1, two turns later. -/
def State.sorted (s : State) (vd : VRegF) (ps : List (Nat × Nat)) : State :=
  let ps := (sortPairs ps).take 16
  let key (c : Nat) : Nat := if (tyValue .f32 c).isNan then 0x7FC0_0000 else c
  (s.wvLate vd (ofCells 32 32 (ps.map (fun p => key p.1))) (~~~0) 2).wvLate (pairOf vd) (ofCells 32 32 (ps.map (·.2))) (~~~0) 2

def execVsortk (vd vs1 vs2 : VRegF) (s : State) : Res := done (s.sorted vd (lanePairs (s.rv vs1) (s.rv vs2)))
def execVmergek (vd vs1 vs2 vs3 : VRegF) (s : State) : Res :=
  done (s.sorted vd (lanePairs (s.rv vs1) (s.rv vs2) ++ lanePairs (s.rv vs3) (s.rv (pairOf vs3))))

end Sys2Proof.Machine
end

