-- ==== Sys2Proof/Machine/VecMem.lean ====
section
/-! DEFINITION. Slot V: vector loads, stores, gathers and scatters (R192 to R194), and QSUM (R191). -/

namespace Sys2Proof.Machine

/-! ## What each lane touches -/

/-- One active lane of a vector access: its bytes, and the elements in them as (first bit, width, register bit). -/
structure LanePart where
  lane : Nat
  a : Int
  n : Nat
  els : List (Nat × Nat × Nat)
deriving DecidableEq, Repr

/-- Bytes of memory behind one lane of a whole register: 4, or 3 and 2 where elements are packed (R192). -/
def laneBytes (t : Ty) : Nat := if t.width < 8 then t.width / 2 else 4

/-- The lane part of VLD and VST. -/
def wholePart (t : Ty) (a : Int) (l : Nat) : LanePart :=
  { lane := l, a := a + (laneBytes t * l : Nat), n := laneBytes t
    els := if t.width < 8 then (List.range 4).map (fun e => (t.width * e, t.width, 32 * l + 8 * e)) else [(0, 32, 32 * l)] }

/-- The lane part of VGATH and VSCAT: one element at an index. -/
def indexPart (t : Ty) (a : Int) (idx l : Nat) : LanePart :=
  if t.width < 8 then
    let bit := t.width * idx
    { lane := l, a := a + (bit / 8 : Nat), n := (bit % 8 + t.width + 7) / 8, els := [(bit % 8, t.width, 32 * l)] }
  else { lane := l, a := a + (idx * (t.width / 8) : Nat), n := t.width / 8, els := [(0, t.width, 32 * l)] }

/-- The pieces of an element at a place: whole, or split by byte where its bits do not fill bytes. -/
def elemPieces (p : Place) (n : Nat) (e : Nat × Nat × Nat) : List Piece :=
  let whole : Piece := { place := p, n := n, bit := e.1, w := e.2.1, pos := e.2.2 }
  if e.1 = 0 && e.2.1 = 8 * n then [whole] else whole.bytes

/-! ## Checks (R192) -/

/-- The number in R135 of the check that an access failed. -/
def State.rankOf (s : State) (t : Thread) (a : Int) (n cause : Nat) : Nat :=
  if cause = causeADDRESS then
    if a < 0 || 2 ^ 64 ≤ a then 1 else if !isFar a.toNat && !isLocal a.toNat then 2 else 3
  else if cause = causeALIGN then 4
  else match s.checkRange t a n with
    | .ok (some (la, ctx, far)) => if (s.placeOf (if far then s.shownKernel ctx else t.kid) t.core la n).isNone then 5 else 6
    | _ => 6

/-- A failing lane: the check's number, the lane, cause and address. -/
abbrev LaneFail := Nat × Nat × Nat × Word

/-- The checks of one lane; `aligned` says whether the address that must be aligned is. -/
def State.checkLane (s : State) (t : Thread) (need : Need) (aligned : Bool) (p : LanePart) : Except LaneFail Acc :=
  match s.check t p.a p.n 1 need with
  | .error (c, fva) =>
    let r := s.rankOf t p.a p.n c
    if !aligned && 4 < r then .error (4, p.lane, causeALIGN, BitVec.ofInt 64 p.a) else .error (r, p.lane, c, fva)
  | .ok acc => if aligned then .ok acc else .error (4, p.lane, causeALIGN, BitVec.ofInt 64 p.a)

/-- All lanes: the first failing check in check order, then in ascending lane, or their places. -/
def State.checkLanes (s : State) (t : Thread) (need : Need) (aligned : Bool) (ps : List LanePart) :
    Except LaneFail (List (LanePart × Acc)) :=
  ps.foldr (fun p acc =>
    match s.checkLane t need aligned p, acc with
    | .error e, .error f => .error (if e.1 ≤ f.1 then e else f)
    | .error e, .ok _ => .error e
    | .ok _, .error f => .error f
    | .ok a, .ok l => .ok ((p, a) :: l)) (.ok [])

/-! ## Denials (R194) -/

/-- Whether the tag check admits a piece, by the tag that the PLB holds for its granule. -/
def State.admits (s : State) (t : Thread) (r : Acc) (p : Piece) : Bool :=
  match p.place with
  | .glob va => !r.no && s.allowed r.ctx t.prin (s.plbView (s.physCore t) r.ctx va).tag
  | _ => true

/-- The admitted pieces of a lane, and its first denied byte with the tag that denied it. -/
def State.sift (s : State) (t : Thread) (p : LanePart) (r : Acc) : List Piece × Option (Word × Acc) :=
  let ps := p.els.flatMap (elemPieces r.place p.n)
  (ps.filter (s.admits t r),
    (ps.find? (fun x => !s.admits t r x)).map (fun x =>
      match x.place, r.place with
      | .glob va, .glob base => (BitVec.ofInt 64 (p.a + (va - base : Nat)), { r with tag := (s.plbView (s.physCore t) r.ctx va).tag })
      | _, _ => (BitVec.ofInt 64 p.a, r)))

/-- PLB and clearance entries that the checks of the lanes leave behind. -/
def State.touched (s : State) (t : Thread) (rs : List (LanePart × Acc)) : State :=
  rs.foldl (fun s r =>
    match r.2.place with
    | .glob va =>
      let s := (s.plbFill (s.physCore t) r.2.ctx va).plbFill (s.physCore t) r.2.ctx (va + r.1.n - 1)
      s.clrFill (s.physCore t) r.2.ctx t.prin r.2.tag
    | _ => s) s

/-! ## The access -/

/-- Register bits that pieces fill. -/
def pieceBits (ps : List Piece) : VReg := ps.foldl (fun m p => m ||| BitVec.ofNat 512 ((2 ^ p.w - 1) * 2 ^ p.pos)) 0

/-- The lanes that pieces of a part at an address fill, each with the address of its first byte there. -/
def laneAddrs (a : Nat) (ps : List Piece) : List (Nat × Nat) :=
  ps.foldl (fun l p => if l.any (fun e => e.1 == p.pos / 32) then l else l ++ [(p.pos / 32, a + p.bit / 8)]) []

/-- The parts of an access on another device put in flight, one request for each aligned 8-byte part (R193). -/
def State.launchFar (s : State) (o : Op) (gather one : Bool) (ps : List Piece) : State :=
  let t := s.me
  (farGroups ps).foldl (fun s g =>
    s.launchReq t.ctx g.1 (if o.kind == .vload then .read g.2.1 gather else farStore g.2.1 o.vdata g.2.2)
      { o with place := .far g.1, va := g.1, n := g.2.1, pieces := g.2.2, mask := pieceBits g.2.2
               perLane := if one then [] else laneAddrs g.1 g.2.2 }) s

/-- Whether a piece lies on another device, or in the LM of core-context cc. -/
def Piece.isFar (p : Piece) : Bool := match p.place with | .far _ => true | _ => false
def Piece.inLm (p : Piece) (cc : Nat) : Bool := match p.place with | .lm c _ => c == cc | _ => false

/-- ONE VECTOR ACCESS: the checks, the limit of loads, denials, and the parts put in flight; parts of a store in the own LM
are held there at once (R241), unless an acquiring load of the bundle comes first (R145). `one` asks for one denial record for the instruction. -/
def State.vector (s : State) (i : Instr) (load one : Bool) (need : Need) (aligned : Bool) (ps : List LanePart) (o : Op) : State :=
  let t := s.me
  match s.checkLanes t need aligned ps with
  | .error (_, lane, cause, fva) => s.raise { cause := cause, info := laneWord i lane, fva := fva, upc := t.pc }
  | .ok rs =>
    let sifted := rs.map (fun r => s.sift t r.1 r.2)
    let all := sifted.flatMap (·.1)
    let first := s.acquirers s.cur
    let own := if load || first ≠ [] then [] else all.filter (fun p => p.inLm t.cc)
    if s.acquiring s.cur || (load && decide (4 ≤ s.loadsOut s.cur)) || s.linesBusy s.cur (own.flatMap (fun p => placeLines p.place p.n)) then s.again else
    let s := (s.touched t rs).countMem
    let denied := sifted.filterMap (·.2)
    let s := (if one then denied.take 1 else denied).foldl (fun s d => s.deny s.cur d.1 d.2 (if load then 0 else 1)) s
    let o := { o with thr := s.cur, cc := t.cc, prin := t.prin, slot := t.slot, issued := t.issued, conf := true,
                      needs := first, runtime := t.mode == Mode.runtime, va := (match ps with | p :: _ => p.a.toNat | [] => 0) }
    let s := own.foldl (fun s p => s.writePart o p) s
    let far := all.filter Piece.isFar
    let near := all.filter (fun p => !p.isFar && (load || first ≠ [] || !p.inLm t.cc))
    let s := if load || near ≠ [] then s.launch { o with pieces := near, mask := o.mask &&& ~~~pieceBits far } else s
    s.launchFar o (need == .gather) one far

def activeLanes (q : BitVec 16) : List Nat := (List.range 16).filter (fun l => q.getLsbD l)

/-- The operation of a vector load, and of a vector store of a register. -/
def vloadOp (q : BitVec 16) (zero : Bool) (vd : VRegF) (nd : BitVec 6) : Op :=
  { opOf .vload (some (.v vd)) nd with mask := writtenBits q zero }
def vstoreOp (v : VReg) (nd : BitVec 6) : Op := { opOf .vstore none nd with vdata := v }

/-- The address of VLD and VST: x(VS1) + sext(imm11) × 64. -/
def State.vAddr (s : State) (s1 : SReg) (off : BitVec 11) : Int := (s.rx s1).toNat + off.toInt * 64

def execVld (ty : Ty) (cl : VClass) (m : VMask) (vd : VRegF) (s1 : SReg) (off : BitVec 11) (nd : BitVec 6) (s : State) : Res :=
  let a := s.vAddr s1 off
  let q := s.rq m.q
  done (s.vector (.vld ty cl m vd s1 off nd) true true (if cl = .gth then .gather else .read) (a % 16 = 0)
    ((activeLanes q).map (wholePart ty a)) { vloadOp q m.zero vd nd with alloc := cl ≠ .nt })

def execVst (ty : Ty) (cl : VClass) (m : VMask) (vs2 : VRegF) (s1 : SReg) (off : BitVec 11) (nd : BitVec 6) (s : State) : Res :=
  let a := s.vAddr s1 off
  done (s.vector (.vst ty cl m vs2 s1 off nd) false true .write (a % 16 = 0)
    ((activeLanes (s.rq m.q)).map (wholePart ty a)) (vstoreOp (s.rv vs2) nd))

/-- Whether the base of a gather is a multiple of the element size. -/
def baseAligned (ty : Ty) (b : Word) : Bool := ty.width < 8 || b.toNat % (ty.width / 8) = 0

def execVgath (ty : Ty) (cl : VClass) (m : VMask) (vd : VRegF) (s1 : SReg) (vs2 : VRegF) (nd : BitVec 6) (s : State) : Res :=
  let q := s.rq m.q
  done (s.vector (.vgath ty cl m vd s1 vs2 nd) true false (if cl = .gth then .gather else .read) (baseAligned ty (s.rx s1))
    ((activeLanes q).map (fun l => indexPart ty (s.rx s1).toNat (laneGet (s.rv vs2) l).toNat l)) (vloadOp q m.zero vd nd))

def execVscat (ty : Ty) (m : VMask) (vs3 : VRegF) (s1 : SReg) (vs2 : VRegF) (nd : BitVec 6) (s : State) : Res :=
  done (s.vector (.vscat ty m vs3 s1 vs2 nd) false false .write (baseAligned ty (s.rx s1))
    ((activeLanes (s.rq m.q)).map (fun l => indexPart ty (s.rx s1).toNat (laneGet (s.rv vs2) l).toNat l)) (vstoreOp (s.rv vs3) nd))

/-! ## QSUM (R191) -/

/-- One message accumulated: vd + m × P, one rounding for each active lane. -/
def State.qsumStep (s : State) (m : VMask) (vd : VRegF) (n : SReg) (msg : Msg) : State :=
  let mul : Val := Val.ofInt (msg.hdr.toNat % 2 ^ 48)
  let r := mapElems .f32 (s.rq m.q) (fun i =>
    roundF fmtF32 .rne false 0 (fFma .rne mul (tyValue .f32 (elemGet .f32 msg.payload i)) (tyValue .f32 (elemGet .f32 (s.rv vd) i))))
  let s := ((s.wvm m vd r.1).addFlags r.2).wx n (s.rx n - 1)
  if s.rx n = 1 then s else s.setMe { s.me with npc := s.me.pc }

def execQsum (m : VMask) (vd : VRegF) (n : SReg) (s : State) : Res :=
  let t := s.me
  if s.rx n = 0 then done s else
  match t.got with
  | some msg => done (s.qsumStep m vd n msg)
  | none =>
    let s := s.servedFirst
    match (s.coreCtx t.cc).rq with
    | msg :: rest => done ((s.setCoreCtx t.cc { s.coreCtx t.cc with rq := rest }).qsumStep m vd n msg)
    | [] => done (s.park .qsum)

end Sys2Proof.Machine
end

