-- ==== Sys2Proof/Machine/Streams.lean ====
section
/-! DEFINITION. Streams (R195 to R201): descriptors, the transfer unit's reads, pops and pushes of a bundle, the stream
control instructions, and skip-ahead intersection. -/

namespace Sys2Proof.Machine

/-! ## Descriptors (R195) -/

def sdBase (d : BitVec 512) : Nat := (d.extractLsb' 0 64).toNat
def sdCount (d : BitVec 512) (k : Nat) : Nat := (d.extractLsb' (64 + 64 * k) 32).toNat
def sdStride (d : BitVec 512) (k : Nat) : Int := (d.extractLsb' (96 + 64 * k) 32).toInt
def sdTyNum (d : BitVec 512) : Nat := (d.extractLsb' 320 4).toNat
def sdTy (d : BitVec 512) : Ty := (tyOfNum (sdTyNum d)).getD .f32
def sdWrite (d : BitVec 512) : Bool := d.getLsbD 324
def sdCoord (d : BitVec 512) : Bool := d.getLsbD 325
def sdPred (d : BitVec 512) : PReg := d.extractLsb' 326 3
def sdNd (d : BitVec 512) : BitVec 6 := d.extractLsb' 329 6
def sdClass (d : BitVec 512) : Nat := (d.extractLsb' 335 2).toNat
def sdDims (d : BitVec 512) : Nat := (d.extractLsb' 337 2).toNat + 1

/-- E: the product of the counts of the dimensions in use. -/
def sdTotal (d : BitVec 512) : Nat := ((List.range (sdDims d)).map (sdCount d)).foldl (· * ·) 1
def Stream.total (st : Stream) : Nat := if st.bound then sdTotal st.desc else 0

/-- The address of the element at position p: dimension 0 is the fastest. -/
def sdAddrFrom (d : BitVec 512) : List Nat → Nat → Int
  | [], _ => 0
  | k :: rest, p => (p % max (sdCount d k) 1 : Nat) * sdStride d k + sdAddrFrom d rest (p / max (sdCount d k) 1)
def sdAddr (d : BitVec 512) (p : Nat) : Int := sdBase d + sdAddrFrom d (List.range (sdDims d)) p

/-- A reserved value, a forbidden combination, or too many elements (R196). -/
def sdBad (d : BitVec 512) : Bool :=
  !(sdTyNum d ≤ 9 || sdTyNum d = 13 || sdTyNum d = 14) || sdClass d = 3 || (sdWrite d && sdClass d = 2) ||
    (sdCoord d && (sdTyNum d ≠ 4 || sdWrite d)) || d.extractLsb' 339 173 ≠ 0 ||
    (List.range 4).any (fun k => decide (sdDims d ≤ k) && (sdCount d k ≠ 0 || sdStride d k ≠ 0)) || decide (2 ^ 48 ≤ sdTotal d)

/-- BASE or a stride that is not a multiple of the element size (R196). -/
def sdMisaligned (d : BitVec 512) : Bool :=
  let n := (sdTy d).width / 8
  sdBase d % n ≠ 0 || (List.range (sdDims d)).any (fun k => sdStride d k % ((n : Nat) : Int) ≠ 0)

/-! ## The streams of a thread -/

/-- The register v24-v31 of a stream number. -/
def streamField (vn : BitVec 3) : VRegF := 0b011#3 ++ vn
/-- The stream number of a vector register field that may be a stream. -/
def streamNum (f : VRegF) : Option Nat := if 24 ≤ f.toNat && f.toNat ≤ 31 then some (f.toNat - 24) else none
def Thread.stream (t : Thread) (n : Nat) : Stream := t.streams.get {} n
def State.setStream (s : State) (k n : Nat) (st : Stream) : State :=
  let t := s.thread k
  s.setThread k { t with streams := t.streams.put n st }

/-- The bound streams among some vector registers, each once. -/
def Thread.bound (t : Thread) (fs : List VRegF) : List Nat := ((fs.filterMap streamNum).filter (fun n => (t.stream n).bound)).dedup

/-- Vector registers that VS1, VS2 and VS3 of an instruction name; VD as an accumulator is none of them. -/
def vectorSources (i : Instr) : List VRegF :=
  let vs := i.reads.filterMap (fun r => match r with | .v f => some f | _ => none)
  match i with
  | .vdot4 _ _ _ _ _ | .vins _ _ _ _ | .vpack _ _ _ _ _ _ | .qsum _ _ _ => vs.drop 1
  | _ => vs
def vectorDests (i : Instr) : List VRegF := i.writes.filterMap (fun r => match r with | .v f => some f | _ => none)

/-- A stream at a new position: what the transfer unit had read for the old one is dropped. -/
def Stream.moved (st : Stream) (p due : Nat) : Stream :=
  { st with pos := p, fetched := none, bad := false, fail := none, denied := none, due := due, asked := none, far := [], farNo := [] }

/-! ## Reads of the transfer unit (R196, R197) -/

/-- What the unit meets at an element. -/
inductive Elem where
  | val (v : Nat) (denied : Option (Word × BitVec 16 × Nat × Bool))
  | absent (va : Nat)
  /-- a read of another device's memory is out for it -/
  | wait
  | bad
  | fail (cause : Nat) (fva : Word)
deriving DecidableEq, Repr

/-- Positions whose elements are read from another device with that at p, at address fa: those of the pop that lie in its aligned 8-byte
part, which is read at once (R237); each with its address. -/
def State.partOf (s : State) (t : Thread) (st : Stream) (p fa : Nat) : List (Nat × Nat) :=
  let ty := sdTy st.desc
  let n := ty.width / 8
  if st.partner.isSome then [(p, fa)] else
  (List.range ty.count).filterMap (fun j =>
    let q := st.pos + j
    if st.total ≤ q || st.far.has q then none else
    match s.check t (sdAddr st.desc q) n 1 (if sdClass st.desc = 2 then .gather else .read) with
    | .ok r => (match r.place with | .far a => if a / 8 = fa / 8 then some (q, a) else none | _ => none)
    | .error _ => none)

/-- One request for such a part. -/
def State.askPart (s : State) (k m p : Nat) (ps : List (Nat × Nat)) : State :=
  let t := s.thread k
  let st := t.stream m
  let n := (sdTy st.desc).width / 8
  let lo := ps.foldl (fun x e => min x e.2) (ps.headD (0, 0)).2
  let len := ps.foldl (fun x e => max x (e.2 + n - lo)) n
  (s.setStream k m { st with asked := some (s.nextId, p) }).launchReq t.ctx lo (.read len (sdClass st.desc = 2))
    { id := 0, thr := k, cc := t.cc, kind := .elem m p, place := .far lo, va := lo, n := len, prin := t.prin, conf := true, slot := t.slot,
      issued := t.issued, pieces := ps.map (fun e => { place := .far lo, n := len, bit := 8 * (e.2 - lo), w := 8 * n, pos := e.1 }) }

/-- The element at position p of stream m read on behalf of thread k. -/
def State.readElem (s : State) (k m : Nat) (d : BitVec 512) (p : Nat) : Elem × State :=
  let t := s.thread k
  let st := t.stream m
  let n := (sdTy d).width / 8
  let a := sdAddr d p
  match s.check t a n 1 (if sdClass d = 2 then .gather else .read) with
  | .error (c, fva) => (.fail c fva, s)
  | .ok r =>
    let s := s.checked t r
    match r.place with
    | .lm cc off => if s.lmBad cc off n then (.bad, s.reportLm cc off) else (.val (leNat (s.lmRead cc off n)) none, s.lmCorrect cc off n)
    | .far fa =>
      (match st.far.find? (fun e => e.1 == p) with
      | some (_, some v) => (.val v ((st.farNo.find? (fun e => e.1 == p)).map (fun e => (BitVec.ofInt 64 a, e.2, t.ctx, false))), s)
      | some (_, none) => (.bad, s)
      | none => if st.asked.isSome then (.wait, s) else (.wait, s.askPart k m p (s.partOf t st p fa)))
    | .glob va =>
      let s := s.clrFill (s.physCore t) r.ctx t.prin r.tag
      if !s.lets r t.prin then (.val 0 (some (BitVec.ofInt 64 a, r.tag, r.ctx, r.far)), s)
      else match s.gread t.cc va n (s.wantOf t (sdNd d)) with
        | (.bytes bs, s) => (.val (leNat bs) none, s.lineTouch t.cc (s.physCore t) va (.load (sdClass d ≠ 1)) (s.wantOf t (sdNd d)))
        | (.absent va, s) => if s.refused t.cc va then (.bad, s.heard t.cc (· == va / 65536)) else (.absent va, s)
        | (.dataError va, s) => (.bad, s.reportData t.ctx va)

/-- What has been read of the next pop of a stream. -/
structure Fetch where
  s : State
  v : VReg := 0
  denied : Option (Word × BitVec 16 × Nat × Bool) := none
  /-- what ended the reads early -/
  stop : Option Elem := none

/-- The elements of one pop, in order of position (DESIGN CHOICE, log 44). -/
def State.fetchElems (s : State) (k m : Nat) (st : Stream) : Fetch :=
  let ty := sdTy st.desc
  (List.range ty.count).foldl (fun f j =>
    if f.stop.isSome || st.total ≤ st.pos + j then f else
    match f.s.readElem k m st.desc (st.pos + j) with
    | (.val x dn, s) => { f with s := s, v := f.v ||| BitVec.ofNat 512 (x * 2 ^ (ty.cell * j)), denied := f.denied <|> dn }
    | (e, s) => { f with s := s, stop := some e }) { s := s }

/-! ## Skip-ahead intersection (R200, R201) -/

/-- The procedure as it runs. -/
structure Isect where
  s : State
  /-- the stream numbers of A and B -/
  n : Nat
  m : Nat
  seenA : AMap Nat
  seenB : AMap Nat
  denied : Option (Word × BitVec 16 × Nat × Bool)
  stop : Option Elem := none
  order : Bool := false

def Isect.over (r : Isect) : Bool := r.stop.isSome || r.order

/-- A coordinate that falls out of order with one read before at another position (R201). -/
def outOfOrder (seen : AMap Nat) (p c : Nat) : Bool :=
  seen.any (fun e => (decide (e.1 < p) && decide (c ≤ e.2)) || (decide (p < e.1) && decide (e.2 ≤ c)))

/-- The coordinate at position p of stream A (or B), read at most once. -/
def Isect.coord (r : Isect) (k : Nat) (b : Bool) (d : BitVec 512) (p : Nat) : Nat × Isect :=
  let m := if b then r.m else r.n
  if r.over then (0, r) else
  let seen := if b then r.seenB else r.seenA
  if seen.has p then (seen.get 0 p, r) else
  match r.s.readElem k m d p with
  | (.val c dn, s) =>
    let r := { r with s := s, denied := r.denied <|> dn }
    if outOfOrder seen p c then (c, { r with order := true })
    else (c, if b then { r with seenB := seen.put p c } else { r with seenA := seen.put p c })
  | (e, s) => (0, { r with s := s, stop := some e })

/-- The doubling steps of gallop: lo and step when they end. -/
def gallopUp (k : Nat) (b : Bool) (d : BitVec 512) (n t : Nat) : Nat → Nat → Nat → Isect → Nat × Nat × Isect
  | 0, lo, step, r => (lo, step, r)
  | f + 1, lo, step, r =>
    if n ≤ lo + step then (lo, step, r) else
    let (c, r) := r.coord k b d (lo + step)
    if r.over then (lo, step, r)
    else if c < t then gallopUp k b d n t f (lo + step) (2 * step) r else (lo, step, r)

/-- The binary search in (lo, hi]. -/
def gallopIn (k : Nat) (b : Bool) (d : BitVec 512) (t : Nat) : Nat → Nat → Nat → Isect → Nat × Isect
  | 0, _, hi, r => (hi, r)
  | f + 1, lo, hi, r =>
    if hi ≤ lo + 1 then (hi, r) else
    let mid := (lo + hi) / 2
    let (c, r) := r.coord k b d mid
    if r.over then (hi, r)
    else if c < t then gallopIn k b d t f mid hi r else gallopIn k b d t f lo mid r

def gallop (k : Nat) (b : Bool) (d : BitVec 512) (i n t : Nat) (r : Isect) : Nat × Isect :=
  let (lo, step, r) := gallopUp k b d n t 64 i 1 r
  gallopIn k b d t 64 lo (min (lo + step) n) r

/-- isect until 16 pairs wait or it ends: i, j and the pairs. -/
def isectRun (k : Nat) (da db : BitVec 512) (na nb : Nat) : Nat → Nat → Nat → List (Nat × Nat) → Isect →
    Nat × Nat × List (Nat × Nat) × Isect
  | 0, i, j, ps, r => (i, j, ps, r)
  | f + 1, i, j, ps, r =>
    if 16 ≤ ps.length || na ≤ i || nb ≤ j then (i, j, ps, r) else
    let (a, r) := r.coord k false da i
    let (b, r) := r.coord k true db j
    if r.over then (i, j, ps, r)
    else if a = b then isectRun k da db na nb f (i + 1) (j + 1) (ps ++ [(i, j)]) r
    else if a < b then
      let (i', r) := gallop k false da i na b r
      if r.over then (i, j, ps, r) else isectRun k da db na nb f i' j ps r
    else
      let (j', r) := gallop k true db j nb a r
      if r.over then (i, j, ps, r) else isectRun k da db na nb f i j' ps r

/-- The next batch of a coupled pair of thread k, whose lead is stream n. -/
def State.isectBatch (s : State) (k n : Nat) : State :=
  let t := s.thread k
  let a := t.stream n
  let m := (a.partner.map (·.toNat)).getD n
  let b := t.stream m
  let r0 : Isect := { s := s, n := n, m := m, seenA := a.seenA, seenB := a.seenB, denied := a.denied }
  let (i, j, ps, r) := isectRun k a.desc b.desc a.total b.total (a.total + b.total + 1) a.i a.j a.pairs r0
  let s := r.s
  let a := { (s.thread k).stream n with seenA := r.seenA, seenB := r.seenB, denied := r.denied }
  match r.stop with
  | some (.absent va) =>
    let (due, s) := (s.faultReq va (s.thread k).cc).soon
    s.setStream k n { a with due := due }
  | some .wait => s.setStream k n a
  | some .bad => s.setStream k n { a with bad := true }
  | some (.fail c fva) => s.setStream k n { a with fail := some (c, fva) }
  | _ =>
    let a := { a with i := i, j := j, pairs := ps, ended := r.order || decide (a.total ≤ i) || decide (b.total ≤ j) }
    if r.order then
      let s := s.orStat k statOrderBad
      let b := (s.thread k).stream m
      (s.setStream k n { a with orderError := true, orderDue := true }).setStream k m { b with orderError := true, ended := true }
    else s.setStream k n a

/-- A batch of a coupled pair is complete. -/
def Stream.batchReady (st : Stream) : Bool := decide (16 ≤ st.pairs.length) || st.ended

/-- The home of a line that the next elements of a stream are read from serves another request in this cycle (R279). -/
def State.elemWaits (s : State) (k n : Nat) : Bool :=
  let t := s.thread k
  let st := t.stream n
  let at_ (st : Stream) (p : Nat) : Bool :=
    decide (p < st.total) && (match s.check t (sdAddr st.desc p) ((sdTy st.desc).width / 8) 1 .read with
      | .ok r => (match r.place with | .glob va => s.homeWaits t.cc (s.physCore t) va | _ => false)
      | .error _ => false)
  match st.partner with
  | some m => at_ st st.i || at_ (t.stream m.toNat) st.j
  | none => (List.range (sdTy st.desc).count).any (fun j => at_ st (st.pos + j))

/-- Whether the unit has something to read for stream n of thread k. -/
def State.arrivable (s : State) (k n : Nat) : Bool :=
  let t := s.thread k
  let st := t.stream n
  t.life == .resident && st.bound && !sdWrite st.desc && decide (st.due ≤ s.cycle) && !st.bad && st.fail.isNone && st.asked.isNone &&
    !(st.partner.any (fun m => (t.stream m.toNat).asked.isSome)) &&
    (if st.partner.isSome then st.lead && !st.batchReady else st.fetched.isNone && decide (st.pos < st.total)) && !s.elemWaits k n

def execStreamElementArrival (thr : Nat) (vn : BitVec 3) (s : State) : Res :=
  let n := vn.toNat
  if !s.arrivable thr n then notNow "STREAM_ELEMENT_ARRIVAL" else
  let st := (s.thread thr).stream n
  if st.partner.isSome then done (s.isectBatch thr n) else
  let f := s.fetchElems thr n st
  let st := (f.s.thread thr).stream n
  match f.stop with
  | some (.absent va) =>
    let (due, s) := (f.s.faultReq va (s.thread thr).cc).soon
    done (s.setStream thr n { st with due := due })
  | some .wait => done f.s
  | some .bad => done (f.s.setStream thr n { st with bad := true })
  | some (.fail c fva) => done (f.s.setStream thr n { st with fail := some (c, fva) })
  | _ => done (f.s.setStream thr n { st with fetched := some f.v, denied := f.denied })

/-! ## Pops (R197, R200) -/

/-- The pops of one bundle: what they leave, their predicates, their lane set, and denials to record. -/
structure Pops where
  s : State
  preds : List (PReg × Bool) := []
  lanes : Option (BitVec 16) := none
  notes : List (Word × Acc) := []

/-- A bundle's pops, or why it does not go on: elements on their way (or the ORDER upcall of a stream), or a fault. -/
inductive PopRes where
  | ok (p : Pops)
  | wait (order : Option Nat)
  | trap (t : Trap) (failed : Option Nat)

/-- Lanes that hold at least one of the first n elements. -/
def lanesBelow (t : Ty) (n : Nat) : BitVec 16 := BitVec.ofFnLE (fun l : Fin 16 => decide (l.val * perLane t < n))

def elemInfo (i : Instr) : Word := opWord i ||| 0x4000

def Pops.note (p : Pops) (d : Option (Word × BitVec 16 × Nat × Bool)) : Pops :=
  match d with
  | some (va, tag, ctx, far) => { p with notes := p.notes ++ [(va, { place := .glob 0, tag := tag, ctx := ctx, far := far })] }
  | none => p

/-- The register value of a pop in the thread, with the lane set. -/
def Pops.take (p : Pops) (k n : Nat) (v : VReg) (ls : BitVec 16) : Pops :=
  let t := p.s.thread k
  { p with
    s := p.s.setThread k { t with regs := { t.regs with v := t.regs.v.set! (24 + n) v } }
    lanes := some (ls &&& p.lanes.getD 0xFFFF) }

/-- The order upcall of stream n pends, at the next pop after the stop (R201). -/
def State.orderUpcall (s : State) (k n : Nat) : State :=
  let st := (s.thread k).stream n
  (s.setStream k n { st with orderDue := false }).pendCause k causeORDER (BitVec.ofNat 64 (24 + n)) 0

/-- One pop of a coupled pair: the next 16 pairs, or the last (R200). -/
def popPair (k n : Nat) (p : Pops) : Pops :=
  let st := (p.s.thread k).stream n
  let m := (st.partner.map (·.toNat)).getD n
  let o := (p.s.thread k).stream m
  let b := st.pairs.take 16
  let rest := st.pairs.drop 16
  let live := !(st.ended && rest.isEmpty)
  let (due, s) := p.s.later
  let s := s.setStream k n { st with pairs := rest, due := due, denied := none, orderDue := false }
  let s := s.setStream k m { o with shown := ofCells 32 32 (b.map Prod.snd) }
  let p := (({ p with s := s }).note st.denied).take k n (ofCells 32 32 (b.map Prod.fst)) (lanesBelow .n32 b.length)
  { p with preds := p.preds ++ [(sdPred st.desc, live), (sdPred o.desc, live)] }

/-- One pop of a stream that is not coupled (R197). -/
def popPlain (k n : Nat) (v : VReg) (p : Pops) : Pops :=
  let st := (p.s.thread k).stream n
  let ty := sdTy st.desc
  let (due, s) := p.s.later
  let pos := min (st.pos + ty.count) st.total
  let s := s.setStream k n (st.moved pos due)
  let p := (({ p with s := s }).note st.denied).take k n v (lanesBelow ty (st.total - st.pos))
  { p with preds := p.preds ++ [(sdPred st.desc, decide (pos < st.total))] }

/-- One pop of stream n by an instruction. -/
def popOne (i : Instr) (k n : Nat) (p : Pops) : PopRes :=
  let t := p.s.thread k
  let st := t.stream n
  match st.fail with
  | some (c, fva) => .trap { cause := c, info := elemInfo i, fva := fva, upc := t.pc } (some n)
  | none =>
    if st.bad then
      .trap { cause := causeDATAERR, info := elemInfo i ||| (BitVec.ofNat 64 (24 + n) <<< 16) ||| 0x40_0000, fva := 0, upc := t.pc } none
    else if st.partner.isSome then
      if st.orderDue && t.modeReg.getLsbD 2 && !(t.pend.getLsbD causeORDER) then .wait (some n)
      else if !st.batchReady then .wait none
      else .ok (popPair k n p)
    else match (if st.total ≤ st.pos then some 0 else st.fetched) with
      | none => .wait none
      | some v => .ok (popPlain k n v p)

/-- The AND of the values that name a predicate. -/
def andOf (ps : List (PReg × Bool)) (r : PReg) : Bool := (ps.filter (fun e => e.1 == r)).all (·.2)

/-- The streams that an instruction pops: every read stream it reads, but vb of a coupled pair. -/
def Thread.popped (t : Thread) (i : Instr) : List Nat :=
  (t.bound (vectorSources i)).filter (fun n => (t.stream n).partner.isNone || (t.stream n).lead)

/-- A read of a write stream, or a write of a read stream (R197). -/
def Thread.wrongWay (t : Thread) (i : Instr) : Bool :=
  (t.bound (vectorSources i)).any (fun n => sdWrite (t.stream n).desc) || (t.bound (vectorDests i)).any (fun n => !sdWrite (t.stream n).desc)

/-- The predicates that the pops of an instruction will leave, where their elements have come (R197). -/
def Thread.popPreds (t : Thread) (i : Instr) : List (PReg × Bool) :=
  (t.popped i).flatMap (fun n =>
    let st := t.stream n
    match st.partner with
    | some m =>
      let live := st.batchReady && !(st.ended && (st.pairs.drop 16).isEmpty)
      [(sdPred st.desc, live), (sdPred (t.stream m.toNat).desc, live)]
    | none => [(sdPred st.desc, decide (st.pos + (sdTy st.desc).count < st.total))])

/-- All pops of a bundle, before it reads its sources; a read of vb alone shows the batch last popped. -/
def State.popStreams (s : State) (k : Nat) (i : Instr) : PopRes :=
  let t := s.thread k
  let pops := t.popped i
  let shown := (t.bound (vectorSources i)).filter (fun n => !pops.contains n)
  let r := pops.foldl (fun acc n => match acc with | .ok p => popOne i k n p | x => x) (PopRes.ok { s := s })
  match r with
  | .ok p =>
    let s := p.preds.foldl (fun s e => s.putP k e.1 (andOf p.preds e.1)) p.s
    let s := match p.lanes with | some q => s.putQ k 7 q | none => s
    let s := shown.foldl (fun s n =>
      let t := s.thread k
      s.setThread k { t with regs := { t.regs with v := t.regs.v.set! (24 + n) (t.stream n).shown } }) s
    .ok { p with s := s }
  | x => x

/-! ## Pushes (R197) -/

/-- The pieces of a push that the checks and tags let through, and the denial record it makes. -/
structure Push where
  s : State
  pieces : List Piece := []
  note : Option (Word × Acc) := none
  fail : Option (Nat × Word) := none

def State.pushPieces (s : State) (k : Nat) (st : Stream) (q : BitVec 16) : Push :=
  let ty := sdTy st.desc
  let t := s.thread k
  let n := ty.width / 8
  (List.range ty.count).foldl (fun p j =>
    if p.fail.isSome || st.total ≤ st.pos + j || !q.getLsbD (laneOf ty j) then p else
    let a := sdAddr st.desc (st.pos + j)
    match p.s.check t a n 1 .write with
    | .error e => { p with fail := some e }
    | .ok r =>
      let s := p.s.checked t r
      let piece : Piece := { place := r.place, n := n, bit := 0, w := ty.width, pos := ty.cell * j }
      match r.place with
      | .glob _ =>
        let s := s.clrFill (s.physCore t) r.ctx t.prin r.tag
        if s.lets r t.prin then { p with s := s, pieces := p.pieces ++ [piece] }
        else { p with s := s, note := p.note <|> some (BitVec.ofInt 64 a, r) }
      | _ => { p with s := s, pieces := p.pieces ++ [piece] }) { s := s }

/-- Results of the bundle in issue of thread k for vector register 24 + n that are still to come: fixed-latency results and
accesses in flight. -/
def State.suppliers (s : State) (k n : Nat) : Nat :=
  let t := s.thread k
  let r : RegName := .v (BitVec.ofNat 6 (24 + n))
  (t.late.filter (fun l => l.reg == r && l.issued == t.issued)).length +
    (s.ops.filter (fun o => o.thr == k && o.dst == some r && o.issued == t.issued)).length

/-- The stores numbered from `first` on told to those results. -/
def State.attach (s : State) (k n first : Nat) : State :=
  let t := s.thread k
  let r : RegName := .v (BitVec.ofNat 6 (24 + n))
  let ids := (List.range (s.nextId - first)).map (first + ·)
  let s := s.mapOps (fun o => if o.thr = k && o.dst == some r && o.issued = t.issued then { o with push := ids } else o)
  s.setThread k { t with late := t.late.map (fun l => if l.reg == r && l.issued == t.issued then { l with push := ids } else l) }

/-- The stores of a push, in their place in program order (R236): with the register's value, or waiting for the results that
will give it; a known value in the own LM is written at once (R241), unless an acquiring load of the bundle comes first (R145). -/
def State.storePush (s : State) (k n : Nat) (ps : List Piece) (nd : BitVec 6) : State :=
  let t := s.thread k
  let w := s.suppliers k n
  let acqs := s.acquirers k
  let o : Op := { id := 0, thr := k, cc := t.cc, kind := .vstore, vdata := if w = 0 then t.regs.v[24 + n]! else 0, waits := w, needs := acqs, nd := nd,
                  prin := t.prin, conf := true, runtime := t.mode == Mode.runtime, slot := t.slot, issued := t.issued }
  let own := if w = 0 && acqs = [] then ps.filter (fun p => p.inLm t.cc) else []
  let near := ps.filter (fun p => !p.isFar && !(w = 0 && acqs = [] && p.inLm t.cc))
  let first := s.nextId
  let s := own.foldl (fun s p => s.writePart o p) s
  let s := if near.isEmpty then s else s.launch { o with pieces := near }
  let s := s.launchFar o false true ps
  if w = 0 then s else s.attach k n first

/-- Why the pushes of a bundle do not go on: a check that an element failed, or an earlier access to a line of the own LM. -/
inductive PushStop where
  | trap (t : Trap)
  | wait

/-- What the pushes of a bundle did: the state, or the check that an element failed. -/
def State.pushStreams (s : State) (k : Nat) (i : Instr) (named : List RegName) (p : Pops) : Except PushStop State :=
  let q := s.rq (encodeVF i).mask
  let t := s.thread k
  let outs := (t.bound (vectorDests i)).filter (fun n => sdWrite (t.stream n).desc)
  let start : Except PushStop (State × List (PReg × Bool) × List (Word × Acc)) :=
    if outs ≠ [] && s.acquiring k then .error .wait else .ok (s, [], [])
  let r := outs.foldl (fun acc n =>
    match acc with
    | .error e => Except.error e
    | .ok (s, preds, notes) =>
      let st := (s.thread k).stream n
      let w := s.pushPieces k st q
      match w.fail with
      | some (c, fva) => .error (.trap { cause := c, info := elemInfo i, fva := fva, upc := t.pc })
      | none =>
        if s.linesBusy k ((w.pieces.filter (fun p => p.inLm t.cc)).flatMap (fun p => placeLines p.place p.n)) then .error .wait else
        let pos := min (st.pos + (sdTy st.desc).count) st.total
        let s := (w.s.setStream k n { st with pos := pos }).storePush k n w.pieces (sdNd st.desc)
        .ok (s, preds ++ [(sdPred st.desc, decide (pos < st.total))], notes ++ w.note.toList)) start
  match r with
  | .error e => .error e
  | .ok (s, preds, notes) =>
    let s := preds.foldl (fun s e => if named.contains (.p e.1) then s else s.putP k e.1 (andOf (p.preds ++ preds) e.1)) s
    let s := p.notes.foldl (fun s d => s.deny k d.1 d.2 0) s
    .ok (notes.foldl (fun s d => s.deny k d.1 d.2 1) s)

/-! ## Control (R196, R198, R200) -/

/-- Pushed elements of a thread that have not performed at core scope. -/
def State.pushing (s : State) (k : Nat) : Bool :=
  s.ops.any (fun o => o.thr == k && o.kind == .vstore)

/-- Unbinding: a coupled partner ends with its predicate false. -/
def State.unbind (s : State) (k n : Nat) : State :=
  let st := (s.thread k).stream n
  let s := s.setStream k n {}
  match st.partner with
  | none => s
  | some m =>
    let o := (s.thread k).stream m.toNat
    (s.setStream k m.toNat { o with partner := none, lead := false, pos := o.total, pairs := [], ended := true }).putP k (sdPred o.desc) false

def execSunb (vn : BitVec 3) (s : State) : Res :=
  let st := s.me.stream vn.toNat
  if !st.bound then done s
  else if sdWrite st.desc && s.pushing s.cur then done (s.park .hold)
  else done (s.unbind s.cur vn.toNat)

/-- An access of slot A of the bundle in issue is in flight that an SBIND in slot V follows: one to a line of its descriptor, or an
acquiring load (R145, R236, R238). -/
def State.slotAOut (s : State) (k : Nat) (ls : List (Nat × Nat)) : Bool :=
  let t := s.thread k
  s.ops.any (fun o => o.thr == k && o.issued == t.issued && (o.acq || (o.kind.isAccess && o.lines.any (fun l => ls.contains l))))

/-- SBIND (R196): a misaligned BASE or stride gives the ALIGN fault with %fva = x(VS1) (DESIGN CHOICE, log 83). -/
def execSbind (vn : BitVec 3) (x : SReg) (s : State) : Res :=
  let k := s.cur
  let n := vn.toNat
  let i : Instr := .sbind vn x
  let old := s.me.stream n
  if old.bound && sdWrite old.desc && s.pushing k then done (s.park .hold)
  else ends do
    let (bs, s) ← s.readBlock i (s.rx x).toNat 64 64
    let d : BitVec 512 := wordOf 512 bs
    if sdBad d then .error (s.failCheck (opWord i) (causeADDRESS, s.rx x))
    else if sdMisaligned d then .error (s.failCheck (opWord i) (causeALIGN, s.rx x))
    else
      let s := if old.bound then s.unbind k n else s
      let (due, s) := s.later
      .ok ((s.setStream k n { bound := true, desc := d, due := due }).putP k (sdPred d) (decide (0 < sdTotal d)))

def execSstat (d : SReg) (vn : BitVec 3) (s : State) : Res :=
  let st := s.me.stream vn.toNat
  let left := if st.partner.isSome then 0 else (st.total - st.pos) % 2 ^ 48
  let f (b : Bool) (k : Nat) : Nat := if b then 2 ^ k else 0
  done (s.wx d (BitVec.ofNat 64 (left + f st.bound 48 + f (st.bound && sdWrite st.desc) 49 + f st.partner.isSome 50 + f st.orderError 51)))

/-- SSKIP (R198): of a register that is not bound it does nothing; slot V comes after slot A, so the predicate it writes is the
one that stays where slot A wrote the same (DESIGN CHOICE, log 83). -/
def execSskip (vn : BitVec 3) (x : SReg) (s : State) : Res :=
  let st := s.me.stream vn.toNat
  if st.partner.isSome then done (s.illegal (.sskip vn x))
  else if !st.bound then done s
  else
    let (due, s') := s.later
    let pos := min (st.pos + (s.rx x).toNat) st.total
    done ((s'.setStream s.cur vn.toNat (st.moved pos due)).putP s.cur (sdPred st.desc) (decide (pos < st.total)))

def execSisect (va vb : BitVec 3) (s : State) : Res :=
  let a := s.me.stream va.toNat
  let b := s.me.stream vb.toNat
  let ok (st : Stream) : Bool := st.bound && sdCoord st.desc && !sdWrite st.desc && sdTyNum st.desc = 4 && st.partner.isNone
  if !(ok a && ok b) then done (s.illegal (.sisect va vb))
  else
    let (due, s) := s.later
    let a' : Stream := { a.moved a.pos due with
      partner := some vb, lead := true, i := a.pos, j := b.pos, seenA := [], seenB := [], pairs := [], orderError := false,
      orderDue := false, ended := decide (a.total ≤ a.pos) || decide (b.total ≤ b.pos) }
    let b' : Stream := { b.moved b.pos due with partner := some va, lead := false, shown := 0, orderError := false, ended := false }
    done ((s.setStream s.cur va.toNat a').setStream s.cur vb.toNat b')

end Sys2Proof.Machine
end

