-- ==== Sys2Proof/Machine/Restore.lean ====
section
/-! DEFINITION. A suspended kernel read back from its save area (R319, R322, R353, R356, R361): core-context records, banks,
groups, meets and threads. The device keeps its own copy too, and reads back each record that was changed in memory since it
wrote it (DESIGN CHOICE, log 54). -/

namespace Sys2Proof.Machine

/-- A window as its 16 bytes hold it; its lines stay where it has not changed. -/
def Win.restored (w : Win) (bs : List Byte) : Win :=
  let x : Word := recAt 64 bs 0 8
  if !x.getLsbD 0 then {} else
  let b := (recAt 64 bs 8 8).toNat
  let n : Win := { mapped := true, stash := x.getLsbD 1, staged := x.getLsbD 2, gran := x.extractLsb' 3 7, lmg := x.extractLsb' 16 6,
                   bound := if b = w.shown then w.bound else b, name := if b = w.shown then w.name else 0, lines := w.lines, pins := w.pins }
  if n = w then w else { n with lines := [] }

def Bar.restored (bs : List Byte) : Bar :=
  { expected := recAt 32 bs 0 4, arrived := recAt 32 bs 4 4, pending := recAt 64 bs 8 8, phase := (recAt 8 bs 16 1).getLsbD 0 }

/-- A core-context as its record holds it below the LM. The record gives no number of messages and tasks: the device's. -/
def CoreCtx.restored (c : CoreCtx) (bs : List Byte) : CoreCtx :=
  { c with
    h := Vector.ofFn (fun i : Fin 32 => recAt 64 bs (8 * i.val) 8)
    w := Vector.ofFn (fun i : Fin 32 => recAt 512 bs (0x100 + 64 * i.val) 64)
    dq := (List.range (min (recAt 64 bs 0xB00 8).toNat 64)).map (fun i => recAt 64 bs (0x900 + 8 * i) 8)
    wins := ((List.range 8).map (fun n => (n, (c.wins.get {} n).restored (bs.drop (0xB40 + 16 * n))))).filter (fun e => e.2.mapped)
    bars := ((List.range 128).map (fun n => (n, Bar.restored (bs.drop (0xC00 + 24 * n))))).filter (fun e => e.2 ≠ {})
    rq := (List.range c.rq.length).map (fun i => { payload := recAt 512 bs (0x1800 + 72 * i) 64, hdr := recAt 64 bs (0x1840 + 72 * i) 8 })
    tq := (List.range c.tq.length).map (fun i => { record := recAt 256 bs (0x2A00 + 40 * i) 32, mul := recAt 48 bs (0x2A20 + 40 * i) 6 })
    full := ((List.range 32768).filter (fun i => (recAt 8 bs (0x6000 + i / 8) 1).getLsbD (i % 8))).map (fun i => (i, true)) }

/-- The memberships of a slot (R353). -/
def slotRestored (bs : List Byte) (slot : Nat) : List (BitVec 16) :=
  ((List.range 4).filter (fun i => (recAt 8 bs (0x5280 + slot) 1).getLsbD i)).map (fun i => recAt 16 bs (0x5200 + 8 * slot + 2 * i) 2)

/-- What changed of one core-context's record read back: its registers and queues, its LM, its banks, its memberships. -/
def State.restoreCore (s : State) (kid core : Nat) : State :=
  let cc := ccKey kid core
  let a := (s.kernel kid).area kid 0 + core * 0xC_8000
  let s := match s.changedRecord kid a 0x8000 with
    | (some bs, s) =>
      let s := s.setCoreCtx cc ((s.coreCtx cc).restored bs)
      { s with threads := s.threads.mapV (fun _ t => if t.cc = cc && t.life == Life.resident then { t with groups := slotRestored bs t.slot } else t) }
    | (none, s) => s
  let s := match s.changedRecord kid (a + 0x8000) 0x4_0000 with
    | (some bs, s) => (s.mended (lmPa cc 0) 0x4_0000).setCoreCtx cc { s.coreCtx cc with lm := Memory.write [] 0 bs }
    | (none, s) => s
  if (s.coreCtx cc).spilled then s else
  match s.changedRecord kid (a + 0x4_8000) 0x8_0000 with
  | (some bs, s) => (s.setBank cc 0 (bankRestored bs)).setBank cc 1 (bankRestored (bs.drop 0x4_0000))
  | (none, s) => s

/-- Group records of a kernel (R352). -/
def groupsRestored (bs : List Byte) : AMap Group :=
  ((List.range 65536).map (fun g => (g, ({ count := recAt 48 bs (8 * g) 6, live := (recAt 8 bs (8 * g + 6) 1).getLsbD 0 } : Group)))).filter (fun e => e.2 ≠ {})

/-- A meet-table entry as its 32 bytes hold it (R356); its waiters are the threads that rejoin it. -/
def Meet.restored (e : Option Meet) (bs : List Byte) : Option Meet :=
  let x : BitVec 256 := recAt 256 bs 0 32
  if x.extractLsb' 0 2 = 0 then none else
  let home := x.getLsbD 2
  let m : Meet := e.getD { closing := false, home := home, gid := 0, mid := 0, gen := 0, win := 0, opened := 0, need := 0, arr := 0, waiters := [], due := 0 }
  let m := { m with closing := x.extractLsb' 0 2 = 2, home := home, mid := x.extractLsb' 8 8, gid := x.extractLsb' 16 16, gen := x.extractLsb' 32 16, win := x.extractLsb' 48 22 }
  some (if home then { m with need := (x.extractLsb' 128 48).toNat, arr := (x.extractLsb' 192 48).toNat } else { m with opened := (x.extractLsb' 128 64).toNat })

/-- The groups and meets of a kernel read back. -/
def State.restoreTables (s : State) (kid : Nat) : State :=
  let a := (s.kernel kid).area kid 2
  let s := match s.changedRecord kid a 0x8_0000 with
    | (some bs, s) => s.setKernel kid { s.kernel kid with groups := groupsRestored bs }
    | (none, s) => s
  let n := 256 * (s.kernel kid).lclusters
  match s.changedRecord kid (a + 0x8_0000) (32 * n) with
  | (some bs, s) =>
    let k := s.kernel kid
    let old (i : Nat) : Option Meet := (k.meets.find? (fun e => e.1 == i)).map (·.2)
    s.setKernel kid { k with meets := (List.range n).filterMap (fun i => (Meet.restored (old i) (bs.drop (32 * i))).map (fun m => (i, m))) }
  | (none, s) => s

/-- The scoreboard of copy tokens rebuilt from TOK: each marked register awaits the copy whose number it holds. -/
def State.rejoinTokens (s : State) (k : Nat) : State :=
  let t := s.thread k
  let own (o : Op) : Bool := o.thr == k && (match o.kind, o.dst with | .token _ _, some (.s f) => !isShared f && f ≠ 0 | _, _ => false)
  let s := t.tok.foldl (fun s e => s.launch { id := 0, thr := k, cc := t.cc, kind := .token (s.engOf t .cpy) e.2, dst := some (.s (BitVec.ofNat 6 e.1)), slot := t.slot, issued := t.issued })
    { s with ops := s.ops.filter (fun o => !own o) }
  s.setThread k { s.thread k with tok := [] }

/-- One resident thread read back. -/
def State.restoreThread (s : State) (k : Nat) : State :=
  let t := s.thread k
  match s.changedRecord t.kid ((s.kernel t.kid).area t.kid 1 + (t.core * 16 + t.slot) * 4160) 4160 with
  | (some bs, s) => (s.setThread k ((s.thread k).restored bs)).rejoinTokens k
  | (none, s) => s

/-- A kernel read back: its tables first, then its core-contexts and its threads (R361). -/
def State.restoreKernel (s : State) (kid : Nat) : State :=
  let k := s.kernel kid
  let s := (List.range k.ncore).foldl (fun s c => s.restoreCore kid c) (s.restoreTables kid)
  let s := ((s.threads.filter (fun e => e.2.kid == kid && e.2.life == .resident)).map (·.1)).foldl (fun s t => s.restoreThread t) s
  s.setKernel kid { s.kernel kid with saved := [] }

end Sys2Proof.Machine
end

