-- ==== Sys2Proof/Machine/Copy.lean ====
section
/-! DEFINITION. The copy engine (R229 to R234): shape blocks, CPY, CPYQ, CFILL, the asynchronous copies of a thread
(R158 to R160), and the completion of commands (R206). -/

namespace Sys2Proof.Machine

/-! ## Shape blocks (R229) -/

structure Shape where
  src : Nat
  dst : Nat
  counts : List Nat
  sstr : List Int
  dstr : List Int
  sty : Ty
  dty : Ty
  rm : Rm
  nsat : Bool
  sclass : Nat
  scale : Nat
deriving DecidableEq, Repr

inductive ShapeErr where | malformed | misaligned
deriving DecidableEq, Repr

/-- A block as CPY, CPYQ and ACOPYS read it; q1 and q2 are added to its bases. -/
def shapeOf (b : BitVec 512) (q1 q2 : Word) : Except ShapeErr Shape :=
  let f (lo n : Nat) : Nat := (b.extractLsb' lo n).toNat
  let ndim := f 396 2 + 1
  let counts := (List.range 4).map (fun i => f (128 + 16 * i) 16)
  let str (lo : Nat) : List Int := (List.range 3).map (fun i => (b.extractLsb' (lo + 32 * i) 32).toInt)
  match tyOfNum (f 384 4), tyOfNum (f 388 4) with
  | some sty, some dty =>
    let subByte (t : Ty) : Bool := t.width < 8 && counts.headD 0 * t.width % 8 ≠ 0
    if 4 < f 392 3 || f 398 2 = 3 || f 400 48 ≠ 0 || counts.zipIdx.any (fun e => if e.2 < ndim then e.1 = 0 else e.1 ≠ 0) ||
        ((sty == .e8m0) != (dty == .e8m0)) || subByte sty || subByte dty then .error .malformed
    else
      let src := (b.extractLsb' 0 64 + q1).toNat
      let dst := (b.extractLsb' 64 64 + q2).toNat
      let used (l : List Int) : List Int := l.take (ndim - 1)
      let mis (t : Ty) (base : Nat) (l : List Int) : Bool :=
        let e : Nat := t.width / 8
        decide (16 ≤ t.width) && (base % e ≠ 0 || l.any (fun x => x % (e : Int) ≠ 0))
      if mis sty src (used (str 192)) || mis dty dst (used (str 288)) then .error .misaligned
      else .ok { src := src, dst := dst, counts := counts.take ndim, sstr := used (str 192), dstr := used (str 288), sty := sty, dty := dty,
                 rm := rmOfNum (f 392 3), nsat := f 395 1 = 1, sclass := f 398 2, scale := f 448 64 }
  | _, _ => .error .malformed

/-- Offsets of the runs of dimension 0, in order of position: dimension 1 fastest. -/
def outerOffsets : List Nat → List Int → List Int → List (Int × Int)
  | n :: ns, s :: ss, d :: ds =>
    (outerOffsets ns ss ds).flatMap (fun o => (List.range n).map (fun (i : Nat) => (o.1 + i * s, o.2 + i * d)))
  | _, _, _ => [(0, 0)]
def Shape.runs (h : Shape) : List (Int × Int) := outerOffsets h.counts.tail h.sstr h.dstr
def Shape.n0 (h : Shape) : Nat := h.counts.headD 0
def Shape.srcBytes (h : Shape) : Nat := h.n0 * h.sty.width / 8
def Shape.dstBytes (h : Shape) : Nat := h.n0 * h.dty.width / 8
def Shape.srcRanges (h : Shape) : List Rng := h.runs.map (fun o => { a := h.src + o.1, n := h.srcBytes, need := if h.sclass = 2 then .gather else .read })
def Shape.dstRanges (h : Shape) : List Rng := h.runs.map (fun o => { a := h.dst + o.2, n := h.dstBytes, need := .write })

/-- Elements of a dense run. -/
def denseElems (n w : Nat) (bs : List Byte) : List Nat := (List.range n).map (fun e => runElem bs 0 e w)
/-- Bytes of a dense run of codes. -/
def denseBytes (n w : Nat) (codes : List Nat) : List Byte := packRun (List.replicate (n * w / 8) 0) 0 0 w codes

/-- A run converted (R231): equal types copy the bits. -/
def Shape.convRun (h : Shape) (bs : List Byte) : List Byte :=
  if h.sty == h.dty then bs
  else denseBytes h.n0 h.dty.width ((denseElems h.n0 h.sty.width bs).map (fun x => (convElem h.dty h.sty h.rm (!h.nsat) 0 x).1))

/-- A run quantised (R232): its codes and one scale per 32 elements. -/
def Shape.quantRun (h : Shape) (bs : List Byte) : List Byte × List Byte :=
  let vals := (denseElems h.n0 h.sty.width bs).map (tyValue h.sty)
  let (codes, ss) := mstoreRow h.dty h.rm (!h.nsat) true vals
  (denseBytes h.n0 h.dty.width codes, ss.map (fun x => BitVec.ofNat 8 x))

/-- ND of the two sides of a copy (R230, R260). -/
structure Nds where
  src : BitVec 6 := 63
  dst : BitVec 6 := 63
deriving DecidableEq, Repr

/-- A copy by shape: every source byte is read before any is written; the positions of later runs stand (R231). -/
def State.copyShape (s : State) (ec : Nat) (c : Cmd) (k : Nat) (h : Shape) (quant : Bool) (nds : Nds) (bar : Option (BitVec 7)) : Run State := do
  let nblocks := h.runs.length * (h.n0 / 32)
  let sc : List Rng := if quant then [{ a := h.scale, n := nblocks, need := .write, nd := nds.dst }] else []
  let (qs, s) ← s.engReady ec c k (h.srcRanges.map ({ · with nd := nds.src }) ++ h.dstRanges.map ({ · with nd := nds.dst }) ++ sc)
  let n := h.runs.length
  let (bss, s) ← State.engReads ec c false (qs.take n) s
  let dsts := (qs.drop n).take n
  if quant then
    let rs := bss.map h.quantRun
    s.engWrites ec c bar (dsts.zip (rs.map (·.1)) ++ (qs.drop (2 * n)).map (fun q => (q, rs.flatMap (·.2))))
  else s.engWrites ec c bar (dsts.zip (bss.map h.convRun))

/-! ## CPY, CPYQ, CFILL (R230 to R233) -/

/-- The barrier of a copy command. -/
def cmdBar (w : CmdWord) : Option (BitVec 7) := if cmdB w 48 then some (w.q0.extractLsb' 0 7) else none

def cmdNds (w : CmdWord) : Nds := { src := w.q0.extractLsb' 16 6, dst := w.q0.extractLsb' 8 6 }

/-- Unlisted bits of CPY and CPYQ are zero. -/
def cpyFieldsOk (w : CmdWord) : Bool := !cmdB w 7 && cmdF w 14 2 = 0 && cmdF w 22 26 = 0 && cmdF w 49 7 = 0

/-- The shape block at Q3. -/
def State.cmdShape (s : State) (ec : Nat) (c : Cmd) (w : CmdWord) : Run (Shape × State) := do
  let (bs, s) ← s.engBlock ec (fun s => s.engReadOne ec c 0 { a := w.q3.toNat, n := 64, need := .read, al := 64 })
  match shapeOf (wordOf 512 bs) w.q1 w.q2 with
  | .ok h => .ok (h, s)
  | .error .malformed => .error (.stop codeBLOCK 0 s)
  | .error .misaligned => .error (.stop codeALIGN w.q3.toNat s)

/-- CPY: a SCALE in the block that is not 0 is a BLOCK stop (DEDUCED, log 42). -/
def execCpy (w : CmdWord) (s : State) : Res :=
  s.runCmd w 0x20 "CPY" (fun s ec c => do
    if !cpyFieldsOk w then stopField s
    else
      let (h, s) ← s.cmdShape ec c w
      if h.scale ≠ 0 then .error (.stop codeBLOCK 0 s) else s.copyShape ec c 1 h false (cmdNds w) (cmdBar w))

def execCpyq (w : CmdWord) (s : State) : Res :=
  s.runCmd w 0x21 "CPYQ" (fun s ec c => do
    if !cpyFieldsOk w then stopField s
    else
      let (h, s) ← s.cmdShape ec c w
      let fp := h.sty == .f32 || h.sty == .f16 || h.sty == .bf16
      if !fp || !scaledTy h.dty || h.n0 % 32 ≠ 0 then .error (.stop codeBLOCK 0 s) else s.copyShape ec c 1 h true (cmdNds w) (cmdBar w))

def execCfill (w : CmdWord) (s : State) : Res :=
  s.runCmd w 0x22 "CFILL" (fun s ec c => do
    let n := w.q3.toNat
    if cmdB w 7 || cmdF w 14 34 ≠ 0 || cmdF w 49 7 ≠ 0 || 2 ^ 44 < n then stopField s
    else if n = 0 then .ok s
    else
      let (qs, s) ← s.engReady ec c 0 [{ a := w.q1.toNat, n := n, need := .write, nd := (cmdNds w).dst }]
      let pat := leBytes 8 w.q2.toNat
      let bytes := (List.replicate ((n + 7) / 8) pat).flatten.take n
      s.engWrites ec c (cmdBar w) (qs.map (fun q => (q, bytes))))

/-! ## Asynchronous copies (R158 to R160) -/

/-- The checks of an asynchronous copy at issue: 1 to 3 on every range, then rights (R158; DEDUCED, log 40). -/
def State.copyChecks (s : State) (i : Instr) (rs : List Rng) : Go Unit :=
  let t := s.me
  let bad := rs.find? (fun r => match s.checkRange t r.a r.n with | .error _ => true | .ok _ => false)
  match bad with
  | some r => .error (s.failCheck (opWord i) (causeADDRESS, BitVec.ofInt 64 r.a))
  | none =>
    let denied := rs.find? (fun r => match s.checkRange t r.a r.n with
      | .ok (some (la, ctx, far)) => !far && r.n ≠ 0 && !s.rightsOk (s.physCore t) ctx la r.n far r.need
      | _ => false)
    match denied with
    | some r => .error (s.failCheck (opWord i) (causeACCESS, BitVec.ofInt 64 r.a))
    | none => .ok ()

/-- The copy enqueued, its token on the way to D (R158, R375); a stopped engine-context refuses it with D = 0. -/
def State.pushCopy (s : State) (d : SReg) (w : Work) : State :=
  let t := s.me
  match s.pushWork .cpy w with
  | .parked s => s
  | .number 0 s => s.wx d 0
  | .number n s =>
    s.launch { id := 0, thr := s.cur, cc := t.cc, kind := .token (s.engOf t .cpy) n, dst := dstX d, slot := t.slot, issued := t.issued }

def execAcopy (d s1 s2 : SReg) (len : BitVec 24) (s : State) : Res :=
  let n := len.toNat
  ends do
    let s ← s.release .device
    s.copyChecks (.acopy d s1 s2 len) [{ a := (s.rx s1).toNat, n := n, need := .write }, { a := (s.rx s2).toNat, n := n, need := .read }]
    .ok (s.pushCopy d (.acopy (s.rx s1).toNat (s.rx s2).toNat n))

/-- ACOPYS: the block is read and judged by the core, a denied one as zeros with its record (R137); a parked one keeps the block it has read. -/
def execAcopys (d s1 : SReg) (bar : BitVec 7) (barOn : Bool) (s : State) : Res :=
  let i : Instr := .acopys d s1 bar barOn
  let push (s : State) (b : BitVec 512) : State :=
    let s' := s.pushCopy d (.acopys b (if barOn then some bar else none))
    if s'.issue = .parked then s'.setMe { s'.me with got := some { payload := b, hdr := 1 } } else s'
  match s.me.got with
  | some m => done (push s m.payload)
  | none => ends do
    let s ← s.release .device
    let (bs, s1') ← s.readBlock i (s.rx s1).toNat 64 64
    match shapeOf (wordOf 512 bs) 0 0 with
    | .error .malformed => .error (s1'.failCheck (opWord i) (causeADDRESS, s.rx s1))
    | .error .misaligned => .error (s1'.failCheck (opWord i) (causeALIGN, s.rx s1))
    | .ok h =>
      if h.scale ≠ 0 then .error (s1'.failCheck (opWord i) (causeADDRESS, s.rx s1))
      else do
        s1'.copyChecks i (h.dstRanges ++ h.srcRanges)
        .ok (push s1' (wordOf 512 bs))

/-- What an asynchronous copy at the head of a queue does. -/
def State.runCopy (s : State) (ec : Nat) (c : Cmd) : Run State :=
  match c.work with
  | .word _ => .ok s
  | .acopy dst src n => do
    let (qs, s) ← s.engReady ec c 0 [{ a := src, n := n, need := .read }, { a := dst, n := n, need := .write }]
    match qs with
    | [x, y] => do
      let (bs, s) ← s.engRead ec c x
      s.engWrites ec c none [(y, bs)]
    | _ => .ok s
  | .acopys b bar =>
    match shapeOf b 0 0 with
    | .ok h => s.copyShape ec c 0 h false {} bar
    | .error _ => .ok s

/-- A copy whose engine-context cannot reach its ranges any more, or that meets uncorrectable data, stops; its token is
data-error-pending and the stream goes on (R160, R211). -/
def State.markToken (s : State) (ec num : Nat) : State :=
  s.mapOps (fun o => if o.kind = .token ec num then { o with info := 1 } else o)

/-- An asynchronous copy at the head of its queue runs. -/
def State.finishCopy (s : State) (ec : Nat) (c : Cmd) : State :=
  match s.runCopy ec c with
  | .error (.stop code addr s') => if code = codeDATA then (s'.markToken ec c.num).engDone ec else s'.engStop ec c code addr
  | h => State.engEnd ec c h

/-- The command at work has made its writes, and those to another device have ended: it completes, or stops where one failed
(R206, R250, R402). -/
def State.endCommand (s : State) (ec : Nat) : State :=
  match (s.eng ec).queue, (s.eng ec).farBad with
  | c :: _, some va => (match c.work with | .word _ => s.engStop ec c codeDATA va | _ => (s.markToken ec c.num).engDone ec)
  | _, _ => s.engDone ec

/-- Writes of an engine-context to another device that are out. -/
def State.engWriting (s : State) (ec : Nat) : Bool := s.ops.any (fun o => o.kind == .engWrite ec && (s.eng ec).runs o.info)

/-- A command that completes, or a copy that runs, now. -/
def State.completes (s : State) (ec : Nat) : Bool :=
  let e := s.eng ec
  (e.stopped.isNone && e.ran && decide (e.due ≤ s.cycle) && !s.engWriting ec) ||
    (match s.headCmd ec with | some c => (match c.work with | .word _ => false | _ => true) | none => false)

def execEngineCommandCompletion (ec : Nat) (s : State) : Res :=
  if !s.completes ec then notNow "ENGINE_COMMAND_COMPLETION"
  else if (s.eng ec).ran then done (s.endCommand ec)
  else match s.headCmd ec with
    | some c => done (s.finishCopy ec c)
    | none => notNow "ENGINE_COMMAND_COMPLETION"

end Sys2Proof.Machine
end

