-- ==== Sys2Proof/Machine/Cipher.lean ====
section
/-! DEFINITION. AES-256-XTS over a 128-byte line (R296). The spec names the cipher and gives the data unit and the tweak; its steps are
those of the standards of that name (FIPS 197 and IEEE 1619; PRESUMED, log 73). -/

namespace Sys2Proof.Machine

/-! ## Bytes as elements of GF(2^8) -/

/-- Times x, and a product. -/
def gfDouble (a : Byte) : Byte := if a.getLsbD 7 then (a <<< 1) ^^^ 0x1B else a <<< 1
def gfMul (a b : Byte) : Byte :=
  ((List.range 8).foldl (fun (r : Byte × Byte) i => (gfDouble r.1, if b.getLsbD i then r.2 ^^^ r.1 else r.2)) (a, 0)).2
/-- The inverse, a to the power 254; that of 0 is 0. -/
def gfInv (a : Byte) : Byte :=
  ((List.range 7).foldl (fun (r : Byte × Byte) _ => let q := gfMul r.1 r.1; (q, gfMul r.2 q)) (a, 1)).2

/-- A byte substituted, and back. -/
def aesSub (a : Byte) : Byte :=
  let b := gfInv a
  b ^^^ b.rotateLeft 1 ^^^ b.rotateLeft 2 ^^^ b.rotateLeft 3 ^^^ b.rotateLeft 4 ^^^ 0x63
def aesUnsub (a : Byte) : Byte := gfInv (a.rotateLeft 1 ^^^ a.rotateLeft 3 ^^^ a.rotateLeft 6 ^^^ 0x05)

/-! ## Blocks of 16 bytes, column by column -/

def xorBytes (a b : List Byte) : List Byte := List.zipWith (· ^^^ ·) a b

/-- Row r of the block turned by r columns, and back. -/
def aesShift (b : List Byte) : List Byte := (List.range 16).map (fun i => b.getD ((i + 4 * (i % 4)) % 16) 0)
def aesUnshift (b : List Byte) : List Byte := (List.range 16).map (fun i => b.getD ((i + 12 * (i % 4)) % 16) 0)

/-- Each column multiplied by the circulant matrix of four factors. -/
def aesMix (f : List Byte) (b : List Byte) : List Byte :=
  (List.range 16).map (fun i => (List.range 4).foldl (fun r k => r ^^^ gfMul (f.getD ((4 + k - i % 4) % 4) 0) (b.getD (i / 4 * 4 + k) 0)) 0)

/-! ## The key schedule of AES-256: 15 round keys -/

/-- Eight words of the schedule from the eight before them. -/
def aesNext (rcon : Byte) (w : List (List Byte)) : List (List Byte) :=
  let at_ (i : Nat) : List Byte := w.getD i []
  let last := at_ 7
  let turned := xorBytes ((last.drop 1 ++ last.take 1).map aesSub) [rcon, 0, 0, 0]
  let a0 := xorBytes (at_ 0) turned
  let a1 := xorBytes (at_ 1) a0
  let a2 := xorBytes (at_ 2) a1
  let a3 := xorBytes (at_ 3) a2
  let a4 := xorBytes (at_ 4) (a3.map aesSub)
  let a5 := xorBytes (at_ 5) a4
  let a6 := xorBytes (at_ 6) a5
  [a0, a1, a2, a3, a4, a5, a6, xorBytes (at_ 7) a6]
def aesWords : Nat → Byte → List (List Byte) → List (List Byte)
  | 0, _, w => w
  | n + 1, rcon, w => w ++ aesWords n (gfDouble rcon) (aesNext rcon w)
/-- The round keys of a 32-byte key. -/
def aesKeys (key : List Byte) : List (List Byte) :=
  let ws := aesWords 7 1 ((List.range 8).map (fun i => (key.drop (4 * i)).take 4))
  (List.range 15).map (fun r => ((ws.drop (4 * r)).take 4).flatten)

/-- A block enciphered, and deciphered. -/
def aesEnc (ks : List (List Byte)) (b : List Byte) : List Byte :=
  let b := ((ks.drop 1).take 13).foldl (fun b k => xorBytes (aesMix [2, 3, 1, 1] (aesShift (b.map aesSub))) k) (xorBytes b (ks.getD 0 []))
  xorBytes (aesShift (b.map aesSub)) (ks.getD 14 [])
def aesDec (ks : List (List Byte)) (b : List Byte) : List Byte :=
  let b := (((ks.drop 1).take 13).reverse).foldl (fun b k => aesMix [14, 11, 13, 9] (xorBytes ((aesUnshift b).map aesUnsub) k)) (xorBytes b (ks.getD 14 []))
  xorBytes ((aesUnshift b).map aesUnsub) (ks.getD 0 [])

/-! ## XTS -/

def bytesOfKey {w : Nat} (x : BitVec w) (lo n : Nat) : List Byte := (List.range n).map (fun i => x.extractLsb' (lo + 8 * i) 8)
def keyOfBytes (w : Nat) (bs : List Byte) : BitVec w := bs.foldr (fun b x => (x <<< 8) ||| b.zeroExtend w) 0

/-- The tweak of the next block: times x in GF(2^128). -/
def xtsNext (t : BitVec 128) : BitVec 128 := if t.getLsbD 127 then (t <<< 1) ^^^ 0x87 else t <<< 1
def xtsTweak (t : BitVec 128) : Nat → BitVec 128
  | 0 => t
  | j + 1 => xtsTweak (xtsNext t) j

/-- Each block j of the line between two additions of its tweak. -/
def xtsLine (block : List Byte → List Byte) (t : BitVec 128) (line : BitVec 1024) : BitVec 1024 :=
  keyOfBytes 1024 ((List.range 8).flatMap (fun j =>
    let m := bytesOfKey (xtsTweak t j) 0 16
    xorBytes (block (xorBytes (bytesOfKey line (128 * j) 16) m)) m))

/-- The line with a number under a key pair, enciphered and deciphered: the data key in the low 256 bits of the slot, the tweak key in
the high ones, and the tweak the number of the line, little-endian (R296; log 73). -/
def xtsStart (key : BitVec 512) (n : Nat) : BitVec 128 := keyOfBytes 128 (aesEnc (aesKeys (bytesOfKey key 256 32)) (bytesOfKey (BitVec.ofNat 128 n) 0 16))
def xtsEnc (key : BitVec 512) (n : Nat) (line : BitVec 1024) : BitVec 1024 := xtsLine (aesEnc (aesKeys (bytesOfKey key 0 32))) (xtsStart key n) line
def xtsDec (key : BitVec 512) (n : Nat) (line : BitVec 1024) : BitVec 1024 := xtsLine (aesDec (aesKeys (bytesOfKey key 0 32))) (xtsStart key n) line

end Sys2Proof.Machine
end

