-- ==== Sys2Proof/Machine/Mesh.lean ====
section
/-! DEFINITION. Slot V: VMAXX and VNRD (R202, R203), with the events that end a collective. -/

namespace Sys2Proof.Machine

/-- The number of an instance: the c-th VMAXX of a direction on one line (row y or column x) of kernel kid. -/
def vmaxxInst (kid : Nat) (col : Bool) (line c : Nat) : Nat := ((c * 2 + (if col then 1 else 0)) * 1024 + line) * 2 ^ 32 + kid
def instKid (inst : Nat) : Nat := inst % 2 ^ 32
def instCol (inst : Nat) : Bool := inst / 2 ^ 32 / 1024 % 2 = 1

/-- Members of an instance. -/
def State.vmaxxMembers (s : State) (inst : Nat) : Nat :=
  let k := s.kernel (instKid inst)
  if instCol inst then k.nrow else k.ncol

/-- The maximum of one lane over contributions: maximumNumber with -0 below +0, or the signed maximum. -/
def maxLane (int : Bool) (vs : List VReg) (l : Nat) : Nat :=
  match vs with
  | [] => 0
  | v :: rest =>
    if int then rest.foldl (fun a x => intElem .max .i32 a (elemGet .i32 x l) 0) (elemGet .i32 v l)
    else (roundF fmtF32 .rne false 0 (rest.foldl (fun a x => fMinMax true a (tyValue .f32 (elemGet .f32 x l))) (tyValue .f32 (elemGet .f32 v l)))).1

def maxOf (int : Bool) (vs : List VReg) : VReg := ofLanes (maxLane int vs)

def State.vmaxxVals (s : State) (inst : Nat) : List VReg := ((((s.kernel (instKid inst)).vmx.get {} inst).vals).map (·.2))

/-- Every member has contributed. -/
def State.vmaxxFull (s : State) (inst : Nat) : Bool := decide (s.vmaxxMembers inst ≤ (s.vmaxxVals inst).length)

def execVmaxx (int : Bool) (col : Bool) (vd vs1 : VRegF) (p : PReg) (s : State) : Res :=
  let t := s.me
  let k := s.kernel t.kid
  let c := s.coreCtx t.cc
  let n := max k.ncol 1
  let inst := vmaxxInst t.kid col (if col then t.core % n else t.core / n) (if col then c.colCount else c.rowCount)
  let s := s.setCoreCtx t.cc (if col then { c with colCount := c.colCount + 1 } else { c with rowCount := c.rowCount + 1 })
  let v := k.vmx.get {} inst
  let s := s.setKernel t.kid { k with vmx := k.vmx.put inst { v with vals := v.vals.put t.core (s.rv vs1) } }
  done (s.launch { id := 0, thr := s.cur, cc := t.cc, kind := .vmaxx inst, dst := some (.v vd), pred := p, data := if int then 1 else 0,
                   slot := t.slot, issued := t.issued, deadline := s.tick + t.nto.toNat })

/-- An instance that all members have joined and nobody waits for is over. -/
def State.vmaxxEnd (s : State) (inst : Nat) : State :=
  if s.vmaxxFull inst && !s.ops.any (fun o => o.kind == .vmaxx inst) then
    let k := s.kernel (instKid inst)
    s.setKernel (instKid inst) { k with vmx := k.vmx.del inst }
  else s

/-- The operations of an instance that its result can reach now. -/
def State.vmaxxReady (s : State) (inst : Nat) : List Op :=
  if s.vmaxxFull inst && s.answers (instKid inst) then s.ops.filter (fun o => o.kind == .vmaxx inst && decide (o.due ≤ s.cycle)) else []

def execVmaxxResult (inst : Nat) (s : State) : Res :=
  match s.vmaxxReady inst with
  | [] => notNow "VMAXX_RESULT"
  | os =>
    let vs := s.vmaxxVals inst
    done ((os.foldl (fun s o => s.finishOp o 0 (maxOf (o.data = 1) vs) true) s).vmaxxEnd inst)

/-- %nto ticks have passed, and a member is missing or does not answer (R202, R314). -/
def State.vmaxxLate (s : State) (o : Op) : Bool :=
  match o.kind with
  | .vmaxx inst => decide (o.deadline ≤ s.tick) && !(s.vmaxxFull inst && s.answers (instKid inst))
  | _ => false

def execVmaxxTimeout (op : Nat) (s : State) : Res :=
  match s.findOp op with
  | some o =>
    match o.kind with
    | .vmaxx inst =>
      if s.vmaxxLate o then done ((s.finishOp o 0 (maxOf (o.data = 1) (s.vmaxxVals inst)) false).vmaxxEnd inst) else notNow "VMAXX_TIMEOUT"
    | _ => notNow "VMAXX_TIMEOUT"
  | none => notNow "VMAXX_TIMEOUT"

def execVnrd (dir : Dir) (vd : VRegF) (wn : BitVec 5) (p : PReg) (s : State) : Res :=
  let t := s.me
  done (s.launch { id := 0, thr := s.cur, cc := t.cc, kind := .vnrd dir wn, dst := some (.v vd), pred := p, slot := t.slot,
                   issued := t.issued, deadline := s.tick + t.nto.toNat })

end Sys2Proof.Machine
end

