-- ==== Sys2Proof/Machine/Pages.lean ====
section
/-! DEFINITION. Events of the caches and of the firmware memory manager: set visits and trust updates (R263, R270, R271),
%rper windows (R272), page-resident notices, mapping, unmapping and migration (R291 to R295), and shootdowns (R286). -/

namespace Sys2Proof.Machine

/-! ## Cache levels -/

/-- A visit of one set: claims found expired are counted, dues far behind are brought up (R263, R270). -/
def State.visitSet (s : State) (c : Cache) (words : AMap Word) (set : Nat) : Cache × AMap Word :=
  match c.sets.find? (fun e => e.1 == set) with
  | none => (c, words)
  | some (_, ws) =>
    let (ws, words) := settleClaims (s.expired c.ctl) ws words
    ({ c.setWays s.cycle set (visitWays s.now8 ws) with visits := c.visits.put set s.tick }, words)

/-- A set of a cache that holds lines and was not visited for half of the 2^24 ticks that R263 allows (DESIGN CHOICE, log 2). -/
def State.unvisited (s : State) (c : Cache) : Option Nat :=
  if s.tick < 2 ^ 23 then none else
  (c.sets.find? (fun e => e.2.any (·.isSome) && decide (c.visits.get 0 e.1 + 2 ^ 23 ≤ s.tick))).map (·.1)

/-- PDUE of a page brought up at the page level's visit (R293). -/
def State.visitPage (s : State) (va : Nat) : State :=
  match s.walk va with
  | .leaf e at_ =>
    let d := (s.now8 - ptePdue e).toNat
    if 2 ^ 18 ≤ d && d < 2 ^ 19 then
      let d' := s.now8 - BitVec.ofNat 20 (2 ^ 18)
      let e' : BitVec 128 := (e &&& ~~~((0xFFFFF : BitVec 128) <<< 94)) ||| (d'.zeroExtend 128 <<< 94)
      { s with mem := s.mem.write at_ (leBytes 16 e'.toNat) }
    else s
  | _ => s

/-- SET_VISIT: a set of an L1 or an L2 slice, or the page of a granule at the page level. -/
def execSetVisit (lv : Level) (cache set_ : Nat) (s : State) : Res :=
  match lv with
  | .l1 =>
    let p := s.core cache
    let (c, words) := s.visitSet p.l1 p.tenants set_
    done (s.setCore cache { p with l1 := c, tenants := words })
  | .l2 =>
    let c := s.slice cache
    let (c, words) := s.visitSet c (s.glade (cache / 32)) set_
    done { s with slices := s.slices.put cache c, glades := s.glades.put (cache / 32) words }
  | .page => done (s.visitPage (set_ * 65536))

/-- The tenant words of an L1, or of a glade (R269). -/
def State.tenantWords (s : State) (lv : Level) (cache : Nat) : AMap Word :=
  match lv with | .l1 => (s.core cache).tenants | .l2 => s.glade cache | .page => []
def State.setTenantWords (s : State) (lv : Level) (cache : Nat) (w : AMap Word) : State :=
  match lv with
  | .l1 => s.setCore cache { s.core cache with tenants := w }
  | .l2 => { s with glades := s.glades.put cache w }
  | .page => s

def execTrustUpdate (lv : Level) (cache tenant : Nat) (s : State) : Res :=
  let ws := s.tenantWords lv cache
  if trustDue ws s.cycle tenant then done (s.setTenantWords lv cache (trustTake ws tenant))
  else notNow "TRUST_UPDATE"

/-! ## %rper (R272) -/

/-- The measured %rper of a window of 4,096 memory instructions that took some ticks. -/
def rperOf (ticks : Nat) : Nat :=
  if ticks < 4096 then 0 else
  let k := Nat.log2 (ticks / 4096)
  min 10 (if 3 * 2 ^ k * 4096 ≤ 2 * ticks then k + 1 else k)

def State.rperDue (s : State) (cc : Nat) : Bool := decide (4096 ≤ (s.coreCtx cc).memOps)

def execRperWindowEnd (cc : Nat) (s : State) : Res :=
  if !s.rperDue cc then notNow "RPER_WINDOW_END" else
  let c := s.coreCtx cc
  let r := BitVec.ofNat 4 (rperOf (s.tick - c.winStart))
  let s := s.setCoreCtx cc { c with rper := r, memOps := c.memOps - 4096, winStart := s.tick }
  done { s with threads := s.threads.mapV (fun _ t => if (t.life == .resident || t.life == .waiting) && t.cc == cc && !t.rperSet then { t with rper := r } else t) }

/-! ## Every copy of a page's lines returned or dropped (R259) -/

/-- Whether a line lies in [pa, pa + n) of a memory. -/
def inLines (loc pa n key : Nat) : Bool := decide (lineKey loc pa ≤ key) && decide (key < lineKey loc pa + (n + 127) / 128)

/-- U copies and stash copies of the range recalled, L1 and L2 lines dropped, and their dues noted (R259, R293). -/
def State.flushRange (s : State) (loc pa n : Nat) : State :=
  let s := s.cores.foldl (fun s c => c.2.ulines.foldl (fun s u => if inLines loc pa n u.1 then s.returnU c.1 u.1 else s) s) s
  let s := s.ccs.foldl (fun s c => c.2.wins.foldl (fun s w => w.2.lines.foldl (fun s l =>
    match s.locate (w.2.bound + 128 * l.1) with
    | .at_ lc a => if inLines loc pa n (lineKey lc a) then s.recallStash c.1 w.1 l.1 else s
    | _ => s) s) s) s
  let s := s.slices.foldl (fun s c => c.2.sets.foldl (fun s e => e.2.foldl (fun s l =>
    match l with | some l => if inLines loc pa n l.addr then s.pageDue l.va l.due else s | none => s) s) s) s
  { s with
    cores := s.cores.mapV (fun _ c => { c with l1 := c.l1.dropAll s.cycle (fun l => inLines loc pa n l.addr) })
    slices := s.slices.mapV (fun _ c => c.dropAll s.cycle (fun l => inLines loc pa n l.addr)) }

/-! ## Page tables (R282 to R284) -/

/-- Table entries by the manager: the pointers on the way to a leaf of SIZE, made from fresh nodes where they are missing, and the leaf
(DEDUCED, log 60). -/
def mapFrom (m : Memory) (va : Nat) (pte : BitVec 128) : List (Nat × Nat × Nat × Bool) → Nat → List Nat → Option Memory
  | [], _, _ => none
  | (sh, bits, leaf, _) :: rest, node, fresh =>
    let at_ := node + (va >>> sh) % 2 ^ bits * 16
    let e : BitVec 128 := wordOf 128 (m.read at_ 16)
    if leaf = pteSize pte then (if pteSize e = 0 && !pteP e then some (m.write at_ (leBytes 16 pte.toNat)) else none)
    else if pteP e && pteSize e = 0 then mapFrom m va pte rest (ptePa e) fresh
    else if pteP e || pteSize e ≠ 0 then none
    else match fresh with
      | [] => none
      | n :: more =>
        let m := (m.clear n 8192).write at_ (leBytes 16 (1 + n * 2 ^ 16))
        mapFrom m va pte rest n more

/-- Main memory (R6): 1.5 TiB, from physical address 0 (DESIGN CHOICE, log 96). -/
def mainMemory : Nat := 3 * 2 ^ 39

/-- A local page that has a part on a channel whose memory is not offered (R410). -/
def State.onBadChannel (s : State) (pte : BitVec 128) : Bool :=
  !s.badChannels.isEmpty && (List.range (pageBytes (pteSize pte) / 256)).any (fun i => s.badChannels.contains (Config.channelOf (pteBase pte / 256 + i) % 256))

/-- A PTE that the manager may write for a page: a leaf, no migration, no bit that must be zero, no empty key slot, and a local page
inside main memory, on channels that are offered. -/
def State.pteOk (s : State) (pte : BitVec 128) : Bool :=
  pteSize pte ≠ 0 && !pteMig pte && pte.extractLsb' 12 4 = 0 && pte.extractLsb' 114 14 = 0 &&
    (pteLoc pte ≠ 0 || pteKey pte = 0 || s.keys.has (pteKey pte)) && pteAligned pte &&
    (pteLoc pte ≠ 0 || (decide (ptePa pte + pageBytes (pteSize pte) ≤ mainMemory) && !s.onBadChannel pte))

def pteWithDue (e : BitVec 128) (d : BitVec 20) : BitVec 128 := (e &&& ~~~((0xFFFFF : BitVec 128) <<< 94)) ||| (d.zeroExtend 128 <<< 94)

/-- PDUE of a page filled into local memory (R293). -/
def State.filled (s : State) (e : BitVec 128) : BitVec 128 :=
  if pteP e && pteLoc e = 0 then pteWithDue e (dueOf s.tick (ctlDefd s.pageCtl) 0 1) else e

/-- A line of local memory in a host-visible region (R297), which key slot 0 serves whatever KEY its page has. -/
def State.hostLine (s : State) (pa : Nat) : Bool := s.hostRegions.any (fun r => decide (pa < r.1 + r.2) && decide (r.1 < pa + 128))

/-- The lines of a present local page, as its key slot shows them, put through the cipher of its controller: memory is kept as its
present leaf shows it (R296; DESIGN CHOICE, log 73). -/
def State.cipher (s : State) (e : BitVec 128) (f : BitVec 512 → Nat → BitVec 1024 → BitVec 1024) : State :=
  if !pteP e || pteLoc e ≠ 0 || pteKey e = 0 then s else
  let key := s.keys.get 0 (pteKey e)
  { s with mem := (List.range (pageBytes (pteSize e) / 128)).foldl (fun m i =>
      let a := pteBase e + 128 * i
      if s.hostLine a then m else m.write a (leBytes 128 (f key (a / 128) (wordOf 1024 (m.read a 128))).toNat)) s.mem }
/-- A leaf leaves the table, or enters it. -/
def State.seal (s : State) (e : BitVec 128) : State := s.cipher e xtsEnc
def State.unseal (s : State) (e : BitVec 128) : State := s.cipher e xtsDec

/-- PLB entries of a VA range, and clearance words read through it, dropped on every core (R286). -/
def State.dropPlb (s : State) (va n : Nat) : State :=
  { s with cores := s.cores.mapV (fun _ c =>
      { c with plb := c.plb.filter (fun e => !(va / 65536 ≤ e.gran && e.gran < (va + n + 65535) / 65536)), clr := [] }) }

/-- PAGE_MAP (R292): an absent page, no leaf of which stands, becomes non-present or resident. A TAG that is not 0 comes with a
shootdown, since the PLB may hold tag 0 for the page (R286). -/
def execPageMap (va : Nat) (pte : BitVec 128) (nodes : List Nat) (s : State) : Res :=
  match s.walk va with
  | .leaf _ _ => notNow "PAGE_MAP"
  | _ =>
    if !s.pteOk pte then notNow "PAGE_MAP" else
    match mapFrom s.mem va (s.filled pte) walkLevels s.ptRoot nodes with
    | some m =>
      let n := pageBytes (pteSize pte)
      let s := { s with mem := m }.unseal pte
      done (if pteTag pte = 0 then s else s.dropPlb (va / n * n) n)
    | none => notNow "PAGE_MAP"

/-- PAGE_UNMAP (R292): a resident page becomes absent, with a shootdown. -/
def execPageUnmap (va : Nat) (s : State) : Res :=
  match s.walk va with
  | .leaf e at_ =>
    if !pteP e || pteMig e then notNow "PAGE_UNMAP" else
    let n := pageBytes (pteSize e)
    let s := (s.flushRange (pteLoc e) (pteBase e) n).seal e
    done ({ s with mem := s.mem.write at_ (leBytes 16 0) }.dropPlb (va / n * n) n)
  | _ => notNow "PAGE_UNMAP"

/-- An entry of the table rewritten by firmware: a page whose key slot changes shows what its new one makes of it. -/
def State.rewrite (s : State) (at_ : Nat) (e : BitVec 128) : State :=
  let old : BitVec 128 := wordOf 128 (s.mem.read at_ 16)
  let keyed (x : BitVec 128) : Bool := pteSize x ≠ 0 && pteKey x ≠ 0
  let same := pteKey old = pteKey e && pteBase old = pteBase e && pteP old == pteP e && pteLoc old = pteLoc e && pteSize old = pteSize e
  let s := if keyed old && !same then s.seal old else s
  let s := { s with mem := s.mem.write at_ (leBytes 16 e.toNat) }
  if keyed e && !same then s.unseal e else s

/-- PROTECTION_SHOOTDOWN (R286): firmware's writes to protection entries and to leaves, then the invalidations on every
core, then the acknowledgement (DESIGN CHOICE, log 46). -/
def execProtectionShootdown (tag : BitVec 16) (writes : List (Nat × Word)) (ptes : List (Nat × BitVec 128)) (s : State) : Res :=
  let s := s.cores.foldl (fun s c => c.2.ulines.foldl (fun s u => s.returnU c.1 u.1) s) s
  let s := { s with mem := writes.foldl (fun m w => m.write w.1 (leBytes 8 w.2.toNat)) s.mem }
  let s := ptes.foldl (fun s w => State.rewrite s w.1 w.2) s
  let s := { s with cores := s.cores.mapV (fun _ c => { c with plb := [], clr := [], l1 := c.l1.dropAll s.cycle (fun _ => true) }) }
  done (s.respond tag 0 [])

/-! ## Page-resident notices (R140, R194, R291, R306) -/

/-- A waiting access answered: it goes on, or ends as R140, R194 and R306 say (DEDUCED, log 61). -/
def State.answerOp (s : State) (ok : Bool) (o : Op) : State :=
  if ok then
    let (due, s) := s.soon
    s.mapOps (fun x => if x.id = o.id then { x with pwait := false, due := due } else x)
  else
    if o.runtime && !o.far && (s.stashLine o.cc o.va).isNone then
      (s.dropOp o.id).fatal o.thr causeINRUN causePAGE (BitVec.ofNat 64 o.va) o.pc
    else s.dataFail o o.va

/-- A page that is not present brought in (R292): the manager gives it a place of its size and its content, and P := 1; where it
names no entry, the place that its leaf names. -/
def State.bringIn (s : State) (va at_ : Nat) (e pte : BitVec 128) (content : List Byte) : Option State :=
  let new := if pte = 0 then e ||| 1 else pte
  let n := pageBytes (pteSize e)
  if pte ≠ 0 && !(s.pteOk pte && pteP pte && pteSize pte = pteSize e) || n < content.length then none else
  let s := { s with mem := s.mem.write at_ (leBytes 16 (s.filled new).toNat) }.unseal new
  let s := if pteTag new = pteTag e then s else s.dropPlb va n
  some (s.writePa (pteLoc new) (pteBase new) content)

/-- Whether something that keeps no answer of its own waits for a page that hit names: the dispatcher, a vector access, a
stream, a stash fill or write-back of the core-context (R140, R291). -/
def State.unitWaits (s : State) (cc : Nat) (hit : Nat → Bool) : Bool :=
  let c := s.coreCtx cc
  decide (cc = noCore) || (s.kernel (cc / 1024)).st != .running || (c.task.isSome && !c.taskReady) ||
    s.ops.any (fun o => o.cc == cc && o.pieces.any (fun p => match p.place with | .glob va => hit va | _ => false)) ||
    s.threads.any (fun e => e.2.cc == cc && e.2.life == .resident &&
      ((e.2.wait == some .hold && c.wins.any (fun w => w.2.mapped)) || e.2.streams.any (fun x => x.2.bound && !sdWrite x.2.desc && x.2.fetched.isNone)))

/-- PAGE_RESIDENT_NOTICE: the manager makes the page of a fault resident, or cannot, and tells the faulting core. -/
def execPageResidentNotice (va size : Nat) (ans : PageAnswer) (cc : Nat) (s : State) : Res :=
  let status := ans.status
  let hit (a : Nat) : Bool := decide (va ≤ a) && decide (a < va + size)
  let mine := s.faultReqs.filter (fun q => hit q.1 && q.2 == cc)
  if mine = [] || status = 3 || va % max size 1 ≠ 0 || size ≠ (match s.walk va with | .leaf e _ => pageBytes (pteSize e) | _ => size) then notNow "PAGE_RESIDENT_NOTICE" else
  let ok := status = 0
  let s1 : Option State :=
    match s.walk va with
    | .leaf e at_ =>
      if ok && !pteP e then s.bringIn va at_ e ans.pte ans.content else some s
    | _ => if ok then none else some s
  match s1 with
  | none => notNow "PAGE_RESIDENT_NOTICE"
  | some s =>
    let grans := mine.map (fun q => q.1 / 65536)
    let upd (l : List Nat) : List Nat := if ok then l.filter (fun g => !grans.contains g) else (l ++ grans).dedup
    let s := { s with faultReqs := s.faultReqs.filter (fun q => !mine.contains q) }
    let s := if ok || s.unitWaits cc hit then s.setCoreCtx cc { s.coreCtx cc with noPage := upd (s.coreCtx cc).noPage } else s
    let waits (t : Thread) : Bool := t.cc == cc && (match t.wait with | some (.page a) | some (.waitr a) => hit a | _ => false)
    let s := { s with
      threads := s.threads.mapV (fun _ t => if waits t || (ok && t.noPage ≠ []) then { t with noPage := upd t.noPage } else t)
      engs := s.engs.mapV (fun _ e => match e.pwait with | some a => if hit a then { e with badPage := upd e.badPage } else e | none => e) }
    let s := (s.ops.filter (fun o => o.pwait && o.cc == cc && (match o.place with | .glob a => hit a | _ => false))).foldl (fun s o => s.answerOp ok o) s
    let body : BitVec 512 := BitVec.ofNat 512 (va + size * 2 ^ 64 + status.toNat * 2 ^ 128)
    if cc = noCore then done s else
    done (s.launch { id := 0, thr := noticeSender, cc := cc, kind := .message cc body 0 })

/-! ## Migration (R294, R295) -/

/-- Every leaf of the table under a node, with its VA. -/
def leavesFrom (m : Memory) : List (Nat × Nat × Nat × Bool) → Nat → Nat → List (Nat × BitVec 128)
  | [], _, _ => []
  | (sh, bits, leaf, _) :: rest, node, va =>
    (List.range (2 ^ bits)).flatMap (fun i =>
      let e : BitVec 128 := wordOf 128 (m.read (node + i * 16) 16)
      let va' := va + i * 2 ^ sh
      if leaf ≠ 0 && pteSize e = leaf then [(va', e)]
      else if pteP e && pteSize e = 0 then leavesFrom m rest (ptePa e) va' else [])

def State.leaves (s : State) : List (Nat × BitVec 128) := leavesFrom s.mem walkLevels s.ptRoot 0

/-- A page the manager may choose: local, present, not pinned, not migrating. -/
def victimPage (e : BitVec 128) : Bool := pteLoc e = 0 && pteP e && !ptePin e && !pteMig e

/-- The last walk of the page of a VA (R294). -/
def State.walkedAt (s : State) (va : Nat) : Nat := match s.walk va with | .leaf _ at_ => s.walks.get 0 at_ | _ => 0

/-- Of two pages, whether the second is the better victim: the furthest PDUE, then the oldest walk, then the lowest PA (R294). -/
def State.betterVictim (s : State) (va : Nat) (e : BitVec 128) (p : Nat × BitVec 128) : Bool :=
  earlier (ptePdue e) (ptePdue p.2) ||
    (ptePdue e = ptePdue p.2 && (decide (s.walkedAt p.1 < s.walkedAt va) || (s.walkedAt p.1 = s.walkedAt va && decide (ptePa p.2 < ptePa e))))

/-- MIGRATION_START (R294): the page that no other is a better victim than. Host accesses that wait in order behind others wait at the
page from now on. -/
def execMigrationStart (va : Nat) (s : State) : Res :=
  match s.walk va with
  | .leaf e at_ =>
    if victimPage e && s.leaves.all (fun p => !victimPage p.2 || !s.betterVictim va e p) then
      let n := pageBytes (pteSize e)
      let held := s.heldWrites.map (fun w =>
        if w.free && w.what = .write && pteBase e ≤ w.va && w.va < pteBase e + n then { w with free := false, va := va / n * n + (w.va - pteBase e) } else w)
      done ({ s with mem := s.mem.write at_ (leBytes 16 (e ||| 0x100).toNat), heldWrites := held }.report .migration (leBytes 8 va))
    else notNow "MIGRATION_START"
  | _ => notNow "MIGRATION_START"

/-- The bytes of one place copied to another; the destination held anything before. -/
def State.copyPage (s : State) (loc pa loc' pa' n : Nat) : State :=
  let src := if loc = 0 then s.mem else s.hostMem
  let a := if loc = 0 then pa else extAddr loc pa
  let b := if loc' = 0 then pa' else extAddr loc' pa'
  let cells := src.filter (fun c => a ≤ c.1 && c.1 < a + n)
  let put (m : Memory) : Memory := cells.foldr (fun c m => m.put (b + (c.1 - a)) c.2) (m.clear b n)
  if loc' = 0 then { s with mem := put s.mem, ecc := s.ecc.filter (fun e => !(pa' ≤ e.1 * 8 && e.1 * 8 < pa' + n)) }
  else { s with hostMem := put s.hostMem }

end Sys2Proof.Machine
end

