-- ==== Sys2Proof/Machine/Sched.lean ====
section
/-! DEFINITION. The dispatcher and the launch schedulers: effective priority and round robin (R340), clusters (R341), victims
(R342), admission (R336 to R338), the grant, staging, and the start of a kernel's threads (R339, R404, R405). -/

namespace Sys2Proof.Machine

/-! ## Clusters (R341, R417) -/

def State.cluster (s : State) (c : Nat) : Cluster := s.clusters.get {} c
def State.usable (s : State) : List Nat := (List.range 128).filter (fun c => !(s.cluster c).excluded && !(s.cluster c).fused)
def State.freeClusters (s : State) : List Nat := s.usable.filter (fun c => (s.cluster c).holder.isNone)
/-- Clusters a kernel takes. -/
def State.needs (s : State) (k : Kernel) : Nat := min k.lclusters s.usable.length

/-- Clusters held by a kernel, or by none. -/
def State.hold (s : State) (cs : List Nat) (h : Option Nat) : State :=
  { s with clusters := cs.foldl (fun m c => m.put c { (s.cluster c) with holder := h, freeSince := s.tick }) s.clusters }

/-- A cluster that has held no kernel for 2^20 ticks sleeps; a granted one wakes (R417). -/
def State.sleepy (s : State) (c : Nat) : Bool :=
  let k := s.cluster c
  !k.asleep && k.holder.isNone && !k.excluded && !k.fused && decide (k.freeSince + 2 ^ 20 ≤ s.tick)
def execClusterSleep (c : Nat) (s : State) : Res :=
  if s.sleepy c && decide (c < 128) then done { s with clusters := s.clusters.put c { (s.cluster c) with asleep := true } } else notNow "CLUSTER_SLEEP"
def State.wakes (s : State) (c : Nat) : Bool := (s.cluster c).asleep && (s.cluster c).holder.isSome
def execClusterWake (c : Nat) (s : State) : Res :=
  if s.wakes c then done { s with clusters := s.clusters.put c { (s.cluster c) with asleep := false } } else notNow "CLUSTER_WAKE"

/-! ## Launch records (R327) -/

/-- n bits of a launch record from bit lo. -/
def recField (r : BitVec 512) (lo n : Nat) : Nat := (r.extractLsb' lo n).toNat
def recPri (r : BitVec 512) : Nat := recField r 16 5
def recThreads (r : BitVec 512) : Nat := recField r 32 32
/-- Must-be-zero fields. -/
def recZero (r : BitVec 512) : Bool := recField r 12 4 = 0 && recField r 21 3 = 0 && recField r 30 2 = 0 && recField r 145 47 = 0

/-- Legal shapes (R13). -/
def legalShape (nrow ncol : Nat) : Bool :=
  (nrow = 1 || (nrow % 2 = 0 && decide (2 ≤ nrow) && decide (nrow ≤ 32))) &&
    (ncol = 1 || ncol = 2 || (ncol % 4 = 0 && decide (4 ≤ ncol) && decide (ncol ≤ 32))) &&
    ((decide (nrow ≤ 2) && decide (ncol ≤ 4)) || (nrow % 2 = 0 && ncol % 4 = 0))

/-! ## The choice of the dispatcher (R340 to R342) -/

/-- What the dispatcher may choose: a head record, an admitted kernel, a pre-empted kernel. -/
inductive Cand where
  | head (ctx q : Nat)
  | admitted (kid : Nat)
  | preempted (kid : Nat)
deriving DecidableEq, Repr

/-- A candidate with what decides between candidates. -/
structure Bid where
  who : Cand
  prio : Nat
  tenant : Nat
  since : Nat
  ctx : Nat
  q : Nat
deriving DecidableEq, Repr

/-- Effective priority after w ticks of waiting. -/
def aged (p w : Nat) : Nat := if p = 31 then 31 else min (p + w / 2 ^ 20) 30

/-- A context has room for one more kernel (R319). -/
def State.roomFor (s : State) (ctx : Nat) : Bool := (s.kernels.filter (fun e => e.2.ctx == ctx && e.2.described)).length < 63
/-- A context whose records and admitted kernels stand for a choice: resident or running, and not being saved. -/
def State.chooses (s : State) (ctx : Nat) : Bool := s.engRuns ctx

/-- A queue whose head record may be admitted (R329). -/
def LQueue.offers (u : LQueue) : Bool := (u.st == 1 || u.st == 2 || u.st == 3) && !u.frozen && !u.recs.isEmpty

def State.headBids (s : State) : List Bid :=
  s.ctxs.flatMap (fun c => if !s.chooses c.1 || !s.roomFor c.1 then [] else
    c.2.queues.filterMap (fun u => if !u.2.offers then none else
      u.2.recs.head?.map (fun l => { who := .head c.1 u.1, prio := aged (recPri l.record) (s.tick - u.2.headAt), tenant := c.2.tenant,
                                     since := u.2.headAt, ctx := c.1, q := u.1 })))

def State.kernelBids (s : State) : List Bid :=
  s.kernels.filterMap (fun e =>
    let k := e.2
    let ten := (s.ctx k.ctx).tenant
    if k.st = .admitted && s.chooses k.ctx && s.roomFor k.ctx then
      some { who := .admitted e.1, prio := aged k.prio (s.tick - k.headAt), tenant := ten, since := k.headAt, ctx := k.ctx, q := k.q }
    else if k.st = .preempted && (s.ctx k.ctx).state = ctxSuspended then
      some { who := .preempted e.1, prio := aged k.prio (s.tick - k.suspendedAt), tenant := ten, since := k.suspendedAt, ctx := k.ctx, q := k.q }
    else none)

/-- The round-robin pointer moved to the tenant it serves: those past their weight, or without a candidate, are passed. -/
def serveFrom (weight : Nat → Nat) (has : Nat → Bool) : Nat → Nat → Nat → Nat × Nat
  | 0, p, g => (p, g)
  | n + 1, p, g => if g < 256 * weight p && has p then (p, g) else serveFrom weight has n ((p + 1) % 64) 0

/-- Whether bid a comes before bid b of the same tenant. -/
def Bid.before (a b : Bid) : Bool :=
  decide (a.since < b.since) || (a.since == b.since && (decide (a.ctx < b.ctx) || (a.ctx == b.ctx && decide (a.q < b.q))))

/-- The selected candidate, with the pointer and the count of its round (DESIGN CHOICE, log 47). -/
def State.pick (s : State) : Option (Bid × Nat × Nat) :=
  let bids := s.headBids ++ s.kernelBids
  let top := (bids.map (·.prio)).foldl max 0
  let best := bids.filter (fun b => b.prio == top)
  if best.isEmpty then none else
  let (p, g) := serveFrom (fun t => s.weights.get 1 t) (fun t => best.any (fun b => b.tenant == t)) 65 s.rrPtr s.rrGranted
  ((best.filter (fun b => b.tenant == p)).foldl (fun a b => match a with
    | none => some b
    | some x => if b.before x then some b else some x) none).map (fun b => (b, p, g))

/-- Kernels of a context in a state. -/
def State.ofCtx (s : State) (ctx : Nat) (st : KState) : List (Nat × Kernel) := s.kernels.filter (fun e => e.2.ctx == ctx && e.2.st == st)

/-- A context that K may pre-empt: its number, r, latest start, clusters freed. -/
def State.prey (s : State) (b : Bid) : List (Nat × Nat × Nat × Nat) :=
  s.ctxs.filterMap (fun c =>
    let ks := s.ofCtx c.1 .running
    let r := (ks.map (fun k => k.2.prio)).foldl max 0
    if c.1 ≠ b.ctx && c.2.state = ctxRunning && !c.2.stop && !ks.isEmpty && r + c.2.pmargin ≤ b.prio then
      some (c.1, r, (ks.map (fun k => k.2.startedAt)).foldl max 0, (ks.map (fun k => k.2.clusters.length)).sum)
    else none)

/-- Victims in their order: lowest r, then the most recent start, then the lower context. -/
def preyBefore (a b : Nat × Nat × Nat × Nat) : Bool :=
  decide (a.2.1 < b.2.1) || (a.2.1 == b.2.1 && (decide (b.2.2.1 < a.2.2.1) || (a.2.2.1 == b.2.2.1 && decide (a.1 < b.1))))
def insertPrey (x : Nat × Nat × Nat × Nat) : List (Nat × Nat × Nat × Nat) → List (Nat × Nat × Nat × Nat)
  | [] => [x]
  | y :: t => if preyBefore x y then x :: y :: t else y :: insertPrey x t

/-- The first victim, where the freed clusters suffice at all (DESIGN CHOICE, log 47). -/
def State.victim (s : State) (b : Bid) (need : Nat) : Option Nat :=
  let l := (s.prey b).foldr insertPrey []
  if need ≤ s.freeClusters.length + (l.map (fun x => x.2.2.2)).sum then l.head?.map (·.1) else none

/-- Clusters that a resumed context takes again. -/
def State.resumeNeed (s : State) (ctx : Nat) : Nat := ((s.ofCtx ctx .preempted).map (fun k => s.needs k.2)).sum

/-- What the dispatcher does. -/
inductive Choice where
  | accept (ctx q : Nat)
  | grant (kid : Nat)
  | preempt (ctx : Nat)
  | resume (ctx : Nat)
deriving DecidableEq, Repr

/-- What the dispatcher does next. -/
def State.schedule (s : State) : Option Choice :=
  if s.power ≠ .active || s.ctxs.any (fun c => c.2.stop && c.2.state == ctxRunning) then none else
  match s.pick with
  | none => none
  | some (b, _, _) =>
    let take (need : Nat) (i : Choice) : Option Choice :=
      if need = 0 then none
      else if need ≤ s.freeClusters.length then some i
      else (s.victim b need).map .preempt
    match b.who with
    | .head ctx q => if s.schedAt ≤ s.cycle then some (.accept ctx q) else none
    | .admitted kid => take (s.needs (s.kernel kid)) (.grant kid)
    | .preempted _ => take (s.resumeNeed b.ctx) (.resume b.ctx)

/-! ## Admission (R336 to R338) -/

/-- What a check of a head record gives: its code (0: admitted, with its footprint), or a page to wait for. -/
inductive Admit where
  | code (n : Nat) (foot : List (Nat × Nat))
  | wait (va : Nat)
deriving DecidableEq, Repr

/-- Bytes read by the device itself under a context's domain rights, in global memory and local space only (R336, R328). -/
def State.domainRead (s : State) (ctx va n : Nat) : Option Got × State :=
  if 2 ^ 56 < va + n || apertures.any (fun p => va < p.2 && p.1 < va + n) then (none, s)
  else if !(granules (n / 65536 + 2) va n).all (fun p => (s.protRights ctx p.1).r) then (none, s)
  else let (g, s) := s.peek va n; (some g, s)

/-- A range rounded outward to granules of 4 KiB: base and count. -/
def footRange (e : BitVec 128) : Nat × Nat :=
  let b := (e.extractLsb' 0 64).toNat
  let n := (e.extractLsb' 64 64).toNat
  (b / 4096 * 4096, (b + n + 4095) / 4096 - b / 4096)

/-- Whether no two ranges overlap. -/
def disjoint : List (Nat × Nat) → Bool
  | [] => true
  | r :: t => t.all (fun x => !overlaps r.1 (r.2 * 4096) x.1 (x.2 * 4096)) && disjoint t

/-- The conditions of R338 on the rounded ranges. -/
def State.footOk (s : State) (ctx : Nat) (rs : List (Nat × Nat)) : Bool :=
  rs.all (fun r => decide (1 ≤ r.2) && decide (r.2 ≤ 64)) && decide ((rs.map (·.2)).sum ≤ 64) && disjoint rs &&
    rs.all (fun r => match s.checkRange { ctx := ctx } r.1 (r.2 * 4096) with | .ok _ => true | .error _ => false)

/-- A page the dispatcher waits for, or one that the manager could not make resident. -/
def State.dispatcherWait (s : State) (va : Nat) : Admit × State :=
  if (s.coreCtx noCore).noPage.contains (va / 65536) then (.code 8 [], s.heard noCore (· == va / 65536)) else (.wait va, s)

/-- The footprint list of a record. -/
def State.footList (s : State) (ctx foot : Nat) : Admit × State :=
  if foot = 0 then (.code 0 [], s) else
  match s.domainRead ctx foot 8 with
  | (some (.bytes bs), s) =>
    let n := leNat bs
    if 8 < n then (.code 8 [], s) else
    match s.domainRead ctx (foot + 8) (16 * n) with
    | (some (.bytes bs), s) =>
      let rs := (List.range n).map (fun i => footRange (wordOf 128 ((bs.drop (16 * i)).take 16)))
      (if s.footOk ctx rs then .code 0 rs else .code 8 [], s)
    | (some (.absent va), s) => s.dispatcherWait va
    | (_, s) => (.code 8 [], s)
  | (some (.absent va), s) => s.dispatcherWait va
  | (_, s) => (.code 8 [], s)

/-- The checks of R336 in order. -/
def State.accept (s : State) (ctx : Nat) (runtime : Bool) (r : BitVec 512) : Admit × State :=
  if recField r 0 8 ≠ 1 then (.code 1 [], s)
  else if !recZero r then (.code 2 [], s)
  else if !legalShape (recField r 128 8) (recField r 136 8) then (.code 3 [], s)
  else if recThreads r = 0 then (.code 4 [], s)
  else if recField r 64 64 % 16 ≠ 0 || !isLocal (recField r 64 64) then (.code 5 [], s)
  else if r.getLsbD 11 && !r.getLsbD 10 then (.code 6 [], s)
  else if recPri r = 31 && !runtime then (.code 7 [], s)
  else s.footList ctx (recField r 192 64)

/-- A number for a new kernel: above every one in use (DESIGN CHOICE, log 48). -/
def State.newKid (s : State) : Nat := 1 + (s.kernels.map (·.1)).foldl max 0

/-- The head record leaves its queue; the next one becomes head (R329). -/
def State.popHead (s : State) (ctx q : Nat) : State :=
  let u := s.lqueue ctx q
  s.setLqueue ctx q { u with recs := u.recs.tail, st := if u.st = lqFull then lqOpen else u.st, headAt := s.tick }

/-- The report of a faulted record (R337), and its CADV. -/
def State.faultRecord (s : State) (ctx q code accepted : Nat) (cadv : Bool) : State :=
  let u := s.lqueue ctx q
  let s := s.setLqueue ctx q { u with done := if cadv then u.done + 1 else u.done }
  (s.report .admission (leBytes 2 ctx ++ leBytes 1 q ++ leBytes 1 code ++ leBytes 4 0 ++ leBytes 8 accepted)).msix ctx 0

def execKernelAdmission (ctx q : Nat) (s : State) : Res :=
  if s.schedule ≠ some (.accept ctx q) then notNow "KERNEL_ADMISSION" else
  let u := s.lqueue ctx q
  match u.recs with
  | [] => notNow "KERNEL_ADMISSION"
  | l :: _ =>
    match s.accept ctx u.runtime l.record with
    | (.wait va, s) =>
      let (due, s) := (s.faultReq va noCore).later
      done { s with schedAt := due }
    | (.code 0 foot, s) =>
      let k : Kernel := { st := .admitted, ctx := ctx, q := q, record := l.record, accepted := l.accepted, prio := recPri l.record,
                          headAt := u.headAt, runtime := u.runtime, foot := foot }
      done ((s.popHead ctx q).setKernel s.newKid k)
    | (.code n _, s) => done ((s.popHead ctx q).faultRecord ctx q n l.accepted (l.record.getLsbD 25))

/-! ## The grant and staging (R338, R341) -/

/-- The stash windows of a footprint: range i at 256 KiB less the granules up to and with its own. -/
def footWins : List (Nat × Nat) → Nat → Nat → AMap Win
  | [], _, _ => []
  | r :: rest, i, g =>
    (i, { mapped := true, stash := true, staged := false, gran := BitVec.ofNat 7 r.2, lmg := BitVec.ofNat 6 (64 - (g + r.2)), bound := r.1, lines := [] })
      :: footWins rest (i + 1) (g + r.2)

/-- A window of a footprint bound by far space of this device stands for the local range behind it, as WMAP's does (R164, R338). -/
def State.footWin (s : State) (ctx : Nat) (w : Win) : Win :=
  match s.checkRange { ctx := ctx } w.bound (w.gran.toNat * 4096) with
  | .ok tgt => let (b, n) := stashBase tgt w.bound; { w with bound := b, name := n }
  | .error _ => w

/-- Core-contexts as staging leaves them: everything empty but the footprint's windows and the `.lm` image (R36). -/
def State.prepare (s : State) (kid : Nat) : State :=
  let k := s.kernel kid
  let c := s.ctx k.ctx
  (List.range k.ncore).foldl (fun s n =>
    (s.mended (lmPa (ccKey kid n) 0) 0x4_0000).setCoreCtx (ccKey kid n) { wins := (footWins k.foot 0 0).mapV (fun _ w => s.footWin k.ctx w), winStart := s.tick, lm := c.lmImage, full := c.lmFull }) s

/-- The lowest free slot of save descriptors of a context. -/
def State.freeDesc (s : State) (ctx : Nat) : Nat :=
  ((List.range 63).find? (fun n => !s.kernels.any (fun e => e.2.ctx == ctx && e.2.described && e.2.saveSlot == n))).getD 0

/-- CLUSTER_GRANT: the selected kernel takes its clusters, at the effective priority it holds now
(DEDUCED, log 63). -/
def execClusterGrant (kid : Nat) (s : State) : Res :=
  if s.schedule ≠ some (.grant kid) then notNow "CLUSTER_GRANT" else
  match s.pick with
  | none => notNow "CLUSTER_GRANT"
  | some (b, p, g) =>
    let k := s.kernel kid
    let cs := s.freeClusters.take (s.needs k)
    let n := recThreads k.record
    let (due, s) := s.later
    let s := ({ s with rrPtr := p, rrGranted := g + n }).hold cs (some kid)
    let k' : Kernel := { k with st := .staging, prio := b.prio, clusters := cs, stagingDue := due, nthread := n, saveSlot := s.freeDesc k.ctx }
    done (((s.setKernel kid k').prepare kid).writeDesc kid true)

/-- Initial threads of a kernel (R339, R349): those without an earlier one for their slot start, one turn later on their idle cores
(R417), the rest wait. -/
def State.initial (s : State) (kid t : Nat) : Thread :=
  let k := s.kernel kid
  let arg : Word := k.record.extractLsb' 256 64
  let entry : Word := k.record.extractLsb' 64 64
  { s.newThread kid t with
    pc := entry, npc := entry, regs := { Regs.zero with x := Regs.zero.x.set 1 arg },
    upvec := s.runtimeVec kid,
    life := if t < 16 * k.ncore then .resident else .waiting, next := s.cycle + 16 }

/-- The kernel leaves staging: its threads start, and its context runs (R303, R335, R339; DEDUCED, log 49). -/
def State.startKernel (s : State) (kid : Nat) : State :=
  let k := s.kernel kid
  let n := recThreads k.record
  let s := s.setKernel kid { k with st := .running, startedAt := s.tick, gangHeld := false }
  let s := s.setCtx k.ctx ((s.ctx k.ctx).setState ctxRunning)
  let s := (List.range n).foldl (fun s t => s.setThread (threadKey kid t) (s.initial kid t)) s
  (List.range (min n (16 * k.ncore))).foldl (fun s t => s.giveHeld (threadKey kid t)) s

/-- Staging can go on: its clusters are awake, and its context runs or is resident. -/
def State.staging (s : State) (kid : Nat) : Bool :=
  let k := s.kernel kid
  k.st == .staging && !k.staged && decide (k.stagingDue ≤ s.cycle) && s.engRuns k.ctx && !k.clusters.any (fun c => (s.cluster c).asleep)

/-- Every footprint line of every core filled, in order; the first page that is not present stops it. -/
def State.fillAll (s : State) (kid : Nat) : State × Option (Nat × Nat) :=
  let k := s.kernel kid
  (List.range (k.ncore * k.foot.length)).foldl (fun r i =>
    match r with
    | (s, some x) => (s, some x)
    | (s, none) =>
      let cc := ccKey kid (i / max k.foot.length 1)
      match s.stageWin cc (i % max k.foot.length 1) (s.stageWant cc) false with
      | (s, some va) => (s, some (va, cc))
      | (s, none) => (s, none)) (s, none)

def execStagingComplete (kid : Nat) (s : State) : Res :=
  if !s.staging kid then notNow "STAGING_COMPLETE" else
  match s.fillAll kid with
  | (s, some (va, cc)) =>
    let (due, s) := (s.faultReq va cc).later
    done (s.setKernel kid { s.kernel kid with stagingDue := due })
  | (s, none) =>
    let k := s.kernel kid
    let s := s.setKernel kid { k with staged := true }
    done (if k.gang then s else s.startKernel kid)

/-! ## Gangs (R404 to R406) -/

/-- Whether the device was locked at a tick. -/
def State.lockedAt (s : State) (t : Nat) : Bool := match s.lockChanges.find? (fun e => e.1 ≤ t) with | some e => e.2 | none => false

/-- A gang report. -/
def State.gangReport (s : State) (kid start late : Nat) (held unsync : Bool) : State :=
  let k := s.kernel kid
  let w := k.ctx % 2 ^ 10 + k.q % 8 * 2 ^ 10 + (if held then 2 ^ 13 else 0) + (if unsync then 2 ^ 14 else 0)
  (s.report .gangReport (leBytes 8 k.gtick.toNat ++ leBytes 8 start ++ leBytes 8 late ++ leBytes 8 w)).msix k.ctx 0

def State.gangDue (s : State) (kid : Nat) : Bool :=
  let k := s.kernel kid
  k.st == .staging && k.staged && k.gang && !k.gangHeld && decide (k.gtick ≤ s.time) && s.engRuns k.ctx

/-- GANG_START: on time in the first cycle that reaches GTICK on a locked device; else late. -/
def execGangStart (kid : Nat) (s : State) : Res :=
  if !s.gangDue kid then notNow "GANG_START" else
  let k := s.kernel kid
  let unsync := !s.lockedAt k.gtick.toNat
  let late := unsync || decide (k.gtick ≤ s.lastTime)
  let by_ := s.tick - k.gtick.toNat
  if !late then done (s.startKernel kid)
  else if k.strict then done ((s.setKernel kid { k with gangHeld := true }).gangReport kid 0 by_ true unsync)
  else done ((s.startKernel kid).gangReport kid s.tick by_ false unsync)

end Sys2Proof.Machine
end

