-- ==== Sys2Proof/Machine/Lifecycle.lean ====
section
/-! DEFINITION. What ends or interrupts a running kernel: retirement (R346, R328), pre-emption and resumption (R317 to R322),
time-sharing (R343), hardware migration (R345), and fatal faults (R313, R316). -/

namespace Sys2Proof.Machine

/-! ## Images (R318, R353, R356) -/

/-- n bytes: those given, then zeros. -/
def padTo (n : Nat) (bs : List Byte) : List Byte := (bs ++ List.replicate (n - bs.length) 0).take n

/-- A task record as the TQ area holds it. -/
def Task.image (t : Task) : List Byte := leBytes 32 t.record.toNat ++ leBytes 8 t.mul.toNat
/-- A barrier in 24 bytes: expected, arrived, pending, and the phase in byte 16 (DESIGN CHOICE, log 19). -/
def Bar.bytes (b : Bar) : List Byte :=
  leBytes 4 b.expected.toNat ++ leBytes 4 b.arrived.toNat ++ leBytes 8 b.pending.toNat ++ leBytes 1 (if b.phase then 1 else 0) ++ List.replicate 7 0

/-- Memberships of the thread in a slot of a core. -/
def State.slotGroups (s : State) (cc slot : Nat) : List (BitVec 16) :=
  match s.threads.find? (fun e => e.2.cc == cc && e.2.life == .resident && e.2.slot == slot) with
  | some (_, t) => t.groups
  | none => []

/-- The core-context record below its LM: bytes 0 to 0x7FFF. -/
def State.ccImage (s : State) (cc : Nat) : List Byte :=
  let c := s.coreCtx cc
  let win (n : Nat) : List Byte := let w := c.wins.get {} n; leBytes 8 w.word.toNat ++ leBytes 8 w.shown
  let tq := ((List.range 32).reverse).flatMap (fun p => (c.tq.filter (fun t => taskPri t.record == p)).flatMap Task.image)
  let groups (n : Nat) : List (BitVec 16) := s.slotGroups cc n
  padTo 0x900 (c.h.toList.flatMap (fun w => leBytes 8 w.toNat) ++ c.w.toList.flatMap (fun v => leBytes 64 v.toNat)) ++
    padTo 0x200 (c.dq.flatMap (fun w => leBytes 8 w.toNat)) ++ padTo 0x40 (leBytes 8 c.dq.length) ++
    padTo 0xC0 ((List.range 8).flatMap win) ++
    padTo 0xC00 ((List.range 128).flatMap (fun n => (c.bars.get {} n).bytes)) ++
    padTo 0x1200 (c.rq.flatMap (fun m => leBytes 64 m.payload.toNat ++ leBytes 8 m.hdr.toNat)) ++
    padTo 0x2800 tq ++
    padTo 0x80 ((List.range 16).flatMap (fun n => padTo 8 ((groups n).flatMap (fun g => leBytes 2 g.toNat)))) ++
    padTo 0xD80 ((List.range 16).flatMap (fun n => leBytes 1 (2 ^ (groups n).length - 1))) ++
    padTo 0x2000 ((List.range 4096).map (fun i =>
      BitVec.ofNat 8 (((List.range 8).map (fun b => if c.full.get false (8 * i + b) then 2 ^ b else 0)).sum)))

/-- A meet-table entry in 32 bytes. -/
def Meet.bytes (e : Meet) : List Byte :=
  leBytes 32 ((if e.closing then 2 else 1) + (if e.home then 4 else 0) + e.mid.toNat * 2 ^ 8 + e.gid.toNat * 2 ^ 16 + e.gen.toNat * 2 ^ 32 +
    e.win.toNat * 2 ^ 48 + (if e.home then e.need % 2 ^ 48 else e.opened) * 2 ^ 128 + (if e.home then e.arr % 2 ^ 48 * 2 ^ 192 else e.waiters.length * 2 ^ 240))

/-- A thread as its record shows it: a register that awaits a copy token holds the copy's number, with its TOK mark (R317). -/
def State.marked (s : State) (k : Nat) : Thread :=
  s.ops.foldl (fun t o => match o.kind, o.dst with
    | .token _ num, some (.s f) =>
      if o.thr ≠ k || isShared f || f = 0 then t
      else { t with regs := { t.regs with x := t.regs.x.set (low5 f) (BitVec.ofNat 64 num) }, tok := t.tok.put (low5 f).val num }
    | _, _ => t) (s.thread k)

/-- The records of logical core c of a kernel: with `lm` remembered as written, and the LM among them. Each is an address and its
bytes. -/
def State.coreRecords (s : State) (kid c : Nat) (lm : Bool) : List (Nat × List Byte) :=
  let cc := ccKey kid c
  let a := (s.kernel kid).area kid 0 + c * 0xC_8000
  (a, s.ccImage cc) :: ((if (s.coreCtx cc).spilled then [] else [(a + 0x4_8000, s.accImage cc)]) ++
    (if lm then [(a + 0x8000, s.lmRead cc 0 0x4_0000)] else []))
/-- The record of a thread in its slot. -/
def State.threadRecord (s : State) (k : Nat) : Nat × List Byte :=
  let t := s.thread k
  ((s.kernel t.kid).area t.kid 1 + (t.core * 16 + t.slot) * 4160, (s.marked k).image (match t.wait with | some (.meet _ _) => true | _ => false))
/-- Resident threads of a kernel whose core passes a test. -/
def State.threadsOn (s : State) (kid : Nat) (f : Nat → Bool) : List Nat :=
  (s.threads.filter (fun e => e.2.kid == kid && e.2.life == .resident && f e.2.core)).map (·.1)

/-- Records written. -/
def State.putRecords (s : State) (kid : Nat) (keep : Bool) (rs : List (Nat × List Byte)) : State :=
  rs.foldl (fun s r => if keep then s.saveRecord kid r.1 r.2 else s.poke r.1 r.2) s

/-- The core-context and thread records of the logical cores of a kernel that pass a test. -/
def State.saveCores (s : State) (kid : Nat) (keep : Bool) (f : Nat → Bool) : State :=
  let s := ((List.range (s.kernel kid).ncore).filter f).foldl (fun s c => s.putRecords kid keep (s.coreRecords kid c keep)) s
  (s.threadsOn kid f).foldl (fun s k => s.putRecords kid keep [s.threadRecord k]) s

/-- The images of a kernel written to its areas; with `lm` also its LM, and all of them remembered for its resumption. The group area of
a kernel that faulted is discarded (R354). -/
def State.saveKernel (s : State) (kid : Nat) (lm : Bool) : State :=
  let k := s.kernel kid
  let put (s : State) (a : Nat) (bs : List Byte) : State := s.putRecords kid lm [(a, bs)]
  let s := s.saveCores kid lm (fun _ => true)
  let s := if k.st = .faulted then s else put s (k.area kid 2) ((List.range 65536).flatMap (fun g => (k.groups.get {} g).bytes))
  let s := put s (k.area kid 2 + 0x8_0000) ((List.range (256 * k.lclusters)).flatMap (fun n =>
    match k.meets.find? (fun e => e.1 == n) with | some (_, e) => e.bytes | none => List.replicate 32 0))
  s.noteSpawn kid

/-! ## Stopping the threads of a context (R317) -/

/-- Threads of a context, in order of logical core and slot. -/
def insertPlace (s : State) (k : Nat) : List Nat → List Nat
  | [] => [k]
  | x :: t =>
    let p (n : Nat) : Nat := (s.thread n).core * 16 + (s.thread n).slot
    if p k ≤ p x then k :: x :: t else x :: insertPlace s k t
def State.threadsOf (s : State) (ctx : Nat) : List Nat :=
  ((s.threads.filter (fun e => e.2.life == .resident && e.2.ctx == ctx)).map (·.1)).foldr (insertPlace s) []

/-- Kernels of a context that run: their threads are to be stopped and saved. -/
def Kernel.runs (k : Kernel) : Bool := (k.st == .running || k.st == .faulted) && !k.clusters.isEmpty

/-- The threads stop: abandonable instructions abandoned, meets closed as if their windows had expired (not in DET). -/
def State.stopThreads (s : State) (ts : List Nat) : State :=
  ts.foldl (fun s k => if s.atBoundary (s.thread k) then s.abandon k else s) s
def State.stopMeets (s : State) (kid : Nat) (f : Nat → Bool) : State :=
  if (s.kernel kid).det then s else
  (s.kernel kid).meets.foldl (fun s e => if !e.2.home && f (e.1 / 256) then s.closeLocal kid e.1 else s) s

/-- Engines that core-contexts hold by lease. -/
def State.held (s : State) (f : Nat → Bool) : List Nat :=
  (s.units.filter (fun u => match u.2.holder with | some cc => f cc | none => false)).map (·.1)
def State.ofContext (s : State) (ctx cc : Nat) : Bool := (s.kernel (cc / 1024)).ctx == ctx && s.kernels.has (cc / 1024)
def State.passLeases (s : State) (f : Nat → Bool) : State := (s.held f).foldl (fun s u => s.beginPassage u) s

/-- The threads and leases of a context on their way to rest. -/
def State.beginStop (s : State) (ctx : Nat) : State :=
  let s := s.setCtx ctx { s.ctx ctx with stop := true }
  let s := s.stopThreads (s.threadsOf ctx)
  let s := s.kernels.foldl (fun s k => if k.2.ctx = ctx && k.2.runs then s.stopMeets k.1 (fun _ => true) else s) s
  s.passLeases (s.ofContext ctx)

/-- Nothing that R317 completes is outstanding any more: instructions, results, commands in progress, leases. -/
def State.quiet (s : State) (ctx : Nat) : Bool :=
  s.threads.all (fun e => e.2.ctx != ctx || e.2.life != .resident ||
    (e.2.late.isEmpty && e.2.reply.isNone && (match e.2.wait with | some .hold | some (.access _) | some (.page _) => false | _ => true))) &&
    s.ops.all (fun o => (s.thread o.thr).ctx != ctx || !s.threads.has o.thr || (match o.kind with | .token _ _ => true | _ => false)) &&
    s.engs.all (fun e => e.1 / 4096 != ctx || !e.2.ran) &&
    s.units.all (fun u => match u.2.passing with | some cc => !s.ofContext ctx cc | none => true)

/-- Tokens of completed copies reach their registers before the images are written; the other registers that await one hold the copy's
number, with its TOK mark (R317). -/
def State.markTokens (s : State) (ctx : Nat) : State :=
  let s := (s.ops.filter (fun o => (s.thread o.thr).ctx == ctx && s.tokenReady o)).foldl (fun s o =>
    match execCopyToken o.id s with | .next s' => s' | _ => s) s
  { s with threads := s.threads.mapV (fun k t => if t.ctx = ctx then s.marked k else t) }

/-- A record in staging returns to the queue, its windows unmapped and its pins released (R331). -/
def State.unstageTask (s : State) (cc : Nat) : State :=
  let c := s.coreCtx cc
  match c.task with
  | none => s
  | some t =>
    let s := if taskRanged t.record then (s.dropWin cc 6).dropWin cc 7 else s
    s.setCoreCtx cc { s.coreCtx cc with task := none, taskReady := false, tq := t :: c.tq }

/-- The last step of R317: every image written, and reservations dropped (DESIGN CHOICE, log 54). -/
def State.saveAll (s : State) (ctx : Nat) (lm : Bool) : State :=
  let s := (s.stopThreads (s.threadsOf ctx)).markTokens ctx
  let s := s.ccs.foldl (fun s c => if s.ofContext ctx c.1 then s.unstageTask c.1 else s) s
  let s := s.kernels.foldl (fun s k => if k.2.ctx = ctx && k.2.runs then s.saveKernel k.1 lm else s) s
  { s.setCtx ctx { s.ctx ctx with stop := false } with
    threads := s.threads.mapV (fun _ t => if t.ctx = ctx then { t with resv := none } else t) }

/-- A thread of a context that is being saved whose message, under way when the stop began, now waits at a full queue: its SEND is
abandoned (R100, R317). -/
def State.sendStuck (s : State) (ctx : Nat) : Bool :=
  (s.threadsOf ctx).any (fun k => let t := s.thread k; (match t.wait with | some (.message _) => true | _ => false) && s.atBoundary t)

/-- Whether a context that is being saved has something left to do now. -/
def State.stopDue (s : State) (ctx : Nat) : Bool := !(s.held (s.ofContext ctx)).isEmpty || s.sendStuck ctx || s.quiet ctx

/-! ## Pre-emption (R317, R342) -/

def State.preempting (s : State) (ctx : Nat) : Bool := (s.ctx ctx).stop && (s.ctx ctx).state == ctxRunning && s.stopDue ctx

/-- PREEMPTION: first the context's issue stops; once nothing it completes is outstanding, its images are written, its
clusters are freed and it is suspended. -/
def execPreemption (ctx : Nat) (s : State) : Res :=
  if s.schedule = some (.preempt ctx) then done (s.beginStop ctx)
  else if !s.preempting ctx then notNow "PREEMPTION"
  else if s.sendStuck ctx then done (s.stopThreads (s.threadsOf ctx))
  else if !(s.held (s.ofContext ctx)).isEmpty then done (s.passLeases (s.ofContext ctx))
  else
    let s := s.saveAll ctx true
    let s := (s.ofCtx ctx .running).foldl (fun s k =>
      (s.hold k.2.clusters none).setKernel k.1 { s.kernel k.1 with st := .preempted, suspendedAt := s.tick }) s
    done (s.setCtx ctx ((s.ctx ctx).setState ctxSuspended))

/-- A free cluster for one that a kernel held: the same, else one of its glade, else the lowest
(DEDUCED, log 56). -/
def pickLike (free : List Nat) (old : Nat) : Nat :=
  if free.contains old then old else ((free.find? (fun c => c / 32 == old / 32)).getD (free.headD 0))
def reassign : List Nat → List Nat → List Nat
  | _, [] => []
  | free, o :: rest => let c := pickLike free o; c :: reassign (free.filter (· != c)) rest

/-- Glades that take over from one another when a context's clusters move, each at most once. -/
def gladeMoves (moves : List (Nat × Nat)) : List (Nat × Nat) :=
  moves.foldl (fun l m => if l.any (fun e => e.1 == m.1 / 32 || e.2 == m.2 / 32) then l else l ++ [(m.1 / 32, m.2 / 32)]) []
/-- The glade that serves what glade g served; a glade that is taken over itself serves the one left free (DEDUCED, log 56). -/
def gladeBack (gs : List (Nat × Nat)) : Nat → Nat → Nat
  | 0, g => g
  | n + 1, g => match gs.find? (fun e => e.2 == g) with | some e => gladeBack gs n e.1 | none => g
def gladeTo (gs : List (Nat × Nat)) (g : Nat) : Nat := match gs.find? (fun e => e.1 == g) with | some e => e.2 | none => gladeBack gs 4 g

/-- An engine of a cluster follows the kernel to its new cluster, a clause array to its new glade (R376). -/
def moveUnit (moves : List (Nat × Nat)) (u : Nat) : Nat :=
  if u < 256 then (match moves.find? (fun m => m.1 == u % 128) with | some m => u / 128 * 128 + m.2 | none => u)
  else 256 + 4 * gladeTo (gladeMoves moves) ((u - 256) / 4) + u % 4
def State.moveEngines (s : State) (ctx : Nat) (moves : List (Nat × Nat)) : State :=
  let key (ec : Nat) : Nat := if ec / 4096 = ctx then engKey ctx (moveUnit moves (ec % 4096)) else ec
  let u (ec : Nat) : Nat := ec % 4096 % 128
  let stale (ec : Nat) : Bool := ec / 4096 == ctx && decide (ec % 4096 < 256) && moves.any (fun m => m.2 == u ec) && !moves.any (fun m => m.1 == u ec)
  let engs := (s.engs.filter (fun e => !stale e.1)).foldr (fun e (m : AMap EngCtx) => m.put (key e.1) e.2) []
  let c := s.ctx ctx
  { s.setCtx ctx { c with arrays := c.arrays.map (moveUnit moves) } with
    engs := engs
    clauses := s.clauses.foldr (fun e (m : AMap Clause) => m.put (key e.1) e.2) []
    ops := s.ops.map (fun o => match o.kind with | .token ec num => { o with kind := .token (key ec) num } | _ => o) }

/-- RESUMPTION (R322): every pre-empted kernel of the context on free clusters, its threads at their logical core and slot. -/
def execResumption (ctx : Nat) (s : State) : Res :=
  if s.schedule ≠ some (.resume ctx) then notNow "RESUMPTION" else
  match s.pick with
  | none => notNow "RESUMPTION"
  | some (_, p, g) =>
    let ks := s.ofCtx ctx .preempted
    let n := (ks.map (fun k => recThreads k.2.record)).sum
    let (s, moves) := ks.foldl (fun (r : State × List (Nat × Nat)) k =>
      let s := r.1
      let cs := reassign s.freeClusters (k.2.clusters.take (s.needs k.2))
      let k' : Kernel := { k.2 with st := .running, clusters := cs, prio := aged k.2.prio (s.tick - k.2.suspendedAt), startedAt := s.tick, turns := [] }
      ((s.hold cs (some k.1)).setKernel k.1 k', r.2 ++ k.2.clusters.zip cs)) (s, ([] : List (Nat × Nat)))
    let s := { s.moveEngines ctx moves with
      rrPtr := p, rrGranted := g + n
      threads := s.threads.mapV (fun _ t => if t.ctx = ctx then { t with next := s.cycle + 16, tok := [] } else t) }
    let s := ks.foldl (fun s k => s.restoreKernel k.1) s
    let s := s.setCtx ctx ((s.ctx ctx).setState ctxRunning)
    let s := s.ccs.foldl (fun s c => if ks.any (fun k => k.1 == c.1 / 1024) then s.taskUnit c.1 else s) s
    done ((s.threadsOf ctx).foldl (fun s k => s.giveHeld k) s)

/-! ## Time-sharing (R343) -/

/-- The logical cluster resident on granted cluster j, and since when. -/
def Kernel.resident (k : Kernel) (j : Nat) : Nat × Nat := k.turns.get (j, k.startedAt) j
/-- Whether a logical cluster has its turn. -/
def Kernel.hasTurn (k : Kernel) (lc : Nat) : Bool :=
  let g := k.clusters.length
  g = 0 || (k.resident (lc % g)).1 = lc

/-- A thread whose bundle issues again at each turn, or that waits for nothing. -/
def Thread.tries (t : Thread) : Bool :=
  match t.wait with
  | none | some .poll | some .hold | some .taskd | some (.page _) | some (.waitr _) | some (.lease _) => true
  | _ => false

/-- A thread of a logical cluster is not parked: it waits for nothing, or it has not judged its condition in the turn that began at
`since` (R343; DESIGN CHOICE, log 38). -/
def State.lcReady (s : State) (kid lc since : Nat) : Bool :=
  s.threads.any (fun e => e.2.kid == kid && e.2.life == .resident && (e.2.wait.isNone || (e.2.tries && decide (e.2.parkedAt ≤ since))) &&
    (s.kernel kid).lcOf e.2.core == lc)

/-- A turn ends after 2^20 ticks, or early once every thread of the logical cluster has exited or is parked; one lasts a tick at
least (DESIGN CHOICE, log 38). -/
def State.turnOver (s : State) (kid g : Nat) : Bool :=
  let k := s.kernel kid
  let n := k.clusters.length
  let r := k.resident g
  k.st == .running && decide (g < n) && decide (g + n < k.lclusters) && s.engRuns k.ctx &&
    (decide (r.2 + 2 ^ 20 ≤ s.tick) || (decide (r.2 < s.tick) && !s.lcReady kid r.1 r.2))

/-- Records of the non-resident logical cores of a kernel compared with the device's own copy, which serves the accesses to them
(R344): what was changed in memory is read back, and what changed in the device is written (DESIGN CHOICE, log 54). -/
def State.syncCores (s : State) (kid : Nat) (f : Nat → Bool) : State :=
  let known (s : State) (a : Nat) : Bool := (s.kernel kid).saved.has a
  let cs := (List.range (s.kernel kid).ncore).filter f
  let ts := s.threadsOn kid f
  let s := cs.foldl (fun s c => if known s ((s.kernel kid).area kid 0 + c * 0xC_8000) then s.restoreCore kid c else s) s
  let s := ts.foldl (fun s k => if known s (s.threadRecord k).1 then s.restoreThread k else s) s
  let put (s : State) (rs : List (Nat × List Byte)) : State :=
    s.putRecords kid true (rs.filter (fun r => !known s r.1 || (s.kernel kid).saved.get [] r.1 != r.2))
  let s := cs.foldl (fun s c => put s (s.coreRecords kid c true)) s
  ts.foldl (fun s k => put s [s.threadRecord k]) s

/-- Logical cores of a kernel that do not have their turn. -/
def Kernel.away (k : Kernel) (c : Nat) : Bool := !k.hasTurn (k.lcOf c)

/-- A running kernel with logical cores that are not resident, whose records are compared once a cycle (R344). -/
def State.syncDue (s : State) (kid : Nat) : Bool :=
  let k := s.kernel kid
  k.st == .running && decide (k.clusters.length < k.lclusters) && s.engRuns k.ctx && k.syncAt != s.cycle + 1
def State.sync (s : State) (kid : Nat) : State :=
  let s := (s.threadsOn kid (s.kernel kid).away).foldl (fun s k =>
    let t := s.thread k
    if (match t.wait with | some (.message _) => true | _ => false) && s.atBoundary t then s.abandon k else s) s
  let s := s.syncCores kid (s.kernel kid).away
  s.setKernel kid { s.kernel kid with syncAt := s.cycle + 1 }

/-- TIMESHARE_SWITCH: the outgoing logical cluster is saved as R317 saves, the next one restored as R322 restores, and resident. -/
def execTimeshareSwitch (kid g : Nat) (s : State) : Res :=
  if !s.turnOver kid g then notNow "TIMESHARE_SWITCH" else
  let k := s.kernel kid
  let r := k.resident g
  let next := if r.1 + k.clusters.length < k.lclusters then r.1 + k.clusters.length else g
  let out (t : Thread) : Bool := t.kid == kid && t.life == .resident && k.lcOf t.core == r.1
  let ts := (s.threads.filter (fun e => out e.2)).map (·.1)
  let s := ts.foldl (fun s t => s.cutLr t) (s.stopThreads ts)
  let s := s.stopMeets kid (fun lc => lc == r.1)
  let s := s.passLeases (fun cc => cc / 1024 == kid && k.lcOf (cc % 1024) == r.1)
  let s := { s with threads := s.threads.mapV (fun _ t => if out t then { t with resv := none } else t) }
  let s := s.saveCores kid true (fun c => k.lcOf c == r.1)
  let s := s.syncCores kid (fun c => k.lcOf c == next)
  let k := s.kernel kid
  done (s.setKernel kid { k with turns := k.turns.put g (next, s.tick) })

/-! ## Hardware migration (R345) -/

/-- The thread a core's engine moves at a turn boundary, with its new core and slot (DEDUCED, log 65). -/
def State.migrant (s : State) (cc : Nat) : Option (Nat × Nat × Nat) :=
  let kid := cc / 1024
  let core := cc % 1024
  let k := s.kernel kid
  let lc := k.lcOf core
  if k.st ≠ .running || !k.migOn || s.cycle % 16 ≠ 0 || (s.coreCtx cc).movedAt = s.cycle + 1 || !s.engRuns k.ctx || !k.hasTurn lc then none else
  let load := s.loadWord kid lc
  let low := ((List.range 8).map (fun p => (load.extractLsb' (8 * p) 8).toNat)).foldl min 16
  if s.readyCount kid core < low + 4 then none else
  let dest := ((List.range 8).filterMap (k.coreAt lc)).foldl (fun b c =>
    if (s.freeSlot kid c).isNone then b else
    match b with | none => some c | some x => if s.readyCount kid c < s.readyCount kid x then some c else some x) none
  let thr := (((List.range 16).reverse).filterMap (fun n => s.threads.findKey (fun _ t =>
    t.kid == kid && t.life == .resident && t.core == core && t.slot == n && t.wait.isNone && t.modeReg.getLsbD 3 && !t.streams.any (fun e => e.2.bound)))).head?
  match dest, thr with
  | some c, some t => if c = core then none else (s.freeSlot kid c).map (fun n => (t, c, n))
  | _, _ => none

/-- HW_MIGRATION: the thread moves, and issues there once its outstanding loads have completed. -/
def execHwMigration (cc : Nat) (s : State) : Res :=
  match s.migrant cc with
  | none => notNow "HW_MIGRATION"
  | some (k, core, slot) =>
    let s := s.setCoreCtx cc { s.coreCtx cc with movedAt := s.cycle + 1 }
    let next := s.startAt (cc / 1024) core
    let s := s.moveThread k core slot
    done (s.setThread k { s.thread k with next := max (s.thread k).next next, after := (s.ops.filter (fun o => o.thr == k && o.kind.isReturn)).map (·.id) })

/-! ## Retirement (R346, R328) -/

/-- Dirty lines of every window of a core-context written back, and the windows unmapped; or a page to wait for. -/
def State.closeWins (s : State) (cc : Nat) : State × Option Nat :=
  (List.range 8).foldl (fun r n =>
    match r with
    | (s, some va) => (s, some va)
    | (s, none) =>
      if !(s.win cc n).mapped then (s, none) else
      match s.syncWin cc n with
      | (s, _, some va) => (s, some va)
      | (s, _, none) => (s.dropWin cc n, none)) (s, none)

/-- Where a CWR store goes: nowhere (dropped and reported), to a page still to be waited for, or to memory. -/
inductive Cwr where
  | off
  | drop
  | wait (va : Nat)
  | store (va : Nat)
deriving DecidableEq, Repr
def State.cwr (s : State) (kid : Nat) : Cwr :=
  let k := s.kernel kid
  let va := recField k.record 384 64
  if !k.record.getLsbD 24 then .off
  else if va % 8 ≠ 0 || 2 ^ 56 < va + 8 || inAperture va || !(s.protRights k.ctx va).w then .drop
  else if s.present va 8 then .store va
  else match s.locate va with
    | .absent => if (s.coreCtx noCore).noPage.contains (va / 65536) then .drop else .wait va
    | _ => .drop

/-- Nothing the kernel's threads began is outstanding: accesses, results, tokens, engine commands and those before them
(DEDUCED, log 43), and no write-back or CWR store waits at a migrating page (R295). -/
def State.retirable (s : State) (kid : Nat) : Bool :=
  let k := s.kernel kid
  k.st == .draining && decide (k.stagingDue ≤ s.cycle) &&
    s.ops.all (fun o => !s.threads.has o.thr || (s.thread o.thr).kid != kid) &&
    s.threads.all (fun e => e.2.kid != kid || e.2.late.isEmpty) &&
    s.engs.all (fun e => e.1 / 4096 != k.ctx || e.2.queue.all (fun c => c.kid != kid)) &&
    !(List.range k.ncore).any (fun c => (List.range 8).any (fun n => s.winWaits (ccKey kid c) n)) &&
    !(match s.cwr kid with | .store va => s.migratingAt va | _ => false)

/-- The completion actions in their order (R328): first the DONE advance, which a page that the store waits for does not delay. -/
def State.advanceDone (s : State) (kid : Nat) : State :=
  let k := s.kernel kid
  let u := s.lqueue k.ctx k.q
  if k.record.getLsbD 25 then s.setLqueue k.ctx k.q { u with done := u.done + 1 } else s
/-- Then the store and the vector. -/
def State.complete (s : State) (kid : Nat) : State :=
  let k := s.kernel kid
  let report (s : State) (what : Nat) : State := s.report .hostAccess (leBytes 2 k.ctx ++ leBytes 1 k.q ++ leBytes 1 what ++ leBytes 4 0 ++ leBytes 8 (recField k.record 384 64))
  let s := match s.cwr kid with
    | .store va => s.poke va (leBytes 8 (recField k.record 448 64))
    | .off => s
    | _ => (report s 1).heard noCore (· == recField k.record 384 64 / 65536)
  let v := recField k.record 27 3
  if !k.record.getLsbD 26 then s
  else if v ≤ (s.ctx k.ctx).nmsix then s.msix k.ctx v else report s 2

/-- Everything the device keeps of a kernel's threads and cores given up. -/
def State.forget (s : State) (kid : Nat) : State :=
  let k := s.kernel kid
  let s := s.hold (k.clusters.filter (fun c => (s.cluster c).holder == some kid)) none
  let gone (o : Op) : Bool := o.cc / 1024 == kid && o.cc != noCore
  { s with
    threads := s.threads.filter (fun e => e.2.kid != kid)
    ccs := s.ccs.filter (fun e => e.1 / 1024 != kid || e.1 == noCore)
    banks := s.banks.filter (fun e => e.1 / 2048 != kid)
    ops := s.ops.filter (fun o => !gone o)
    faultReqs := s.faultReqs.filter (fun q => q.2 / 1024 != kid || q.2 == noCore)
    units := s.units.mapV (fun _ u => { u with arb := u.arb.filter (fun r => r.cc / 1024 != kid) }) }

/-- A retired kernel's clusters given up, and the task records, messages and deque entries left in its core-contexts discarded (R346);
its threads have ended, and its LM and banks stay as they are until they are used again. -/
def State.empty (s : State) (kid : Nat) : State :=
  let k := s.kernel kid
  let s := s.hold (k.clusters.filter (fun c => (s.cluster c).holder == some kid)) none
  let mine (cc : Nat) : Bool := cc / 1024 == kid && cc != noCore
  { s with
    ccs := s.ccs.mapV (fun cc c => if mine cc then { c with tq := [], task := none, taskReady := false, rq := [], dq := [], feq := [] } else c)
    ops := s.ops.filter (fun o => !mine o.cc)
    faultReqs := s.faultReqs.filter (fun q => !mine q.2)
    units := s.units.mapV (fun u e => { e with
      arb := e.arb.filter (fun r => r.cc / 1024 != kid)
      loaded := if u < 128 && e.loaded.any mine then none else e.loaded }) }

/-- A context whose last kernel is gone is resident again (R303). -/
def State.idleCtx (s : State) (ctx : Nat) : State :=
  let busy := s.kernels.any (fun e => e.2.ctx == ctx && (e.2.st == .running || e.2.st == .draining))
  if (s.ctx ctx).state = ctxRunning && !busy then s.setCtx ctx ((s.ctx ctx).setState ctxResident) else s

/-- The completion report of a kernel (R346): what is left in its core-contexts, counted. -/
def State.countLeft (s : State) (kid : Nat) : State :=
  let k := s.kernel kid
  let sum (f : CoreCtx → Nat) : Nat := ((List.range k.ncore).map (fun c => f (s.coreCtx (ccKey kid c)))).sum
  s.report .completion (leBytes 2 k.ctx ++ leBytes 1 k.q ++ leBytes 5 0 ++ leBytes 8 kid ++
    leBytes 8 (sum (fun c => c.tq.length + if c.task.isSome then 1 else 0)) ++ leBytes 8 (sum (fun c => c.rq.length)) ++ leBytes 8 (sum (fun c => c.dq.length)))

/-- KERNEL_RETIRE: windows written back and unmapped, what is left counted, reported and discarded, then the completion actions. -/
def execKernelRetire (kid : Nat) (s : State) : Res :=
  if !s.retirable kid then notNow "KERNEL_RETIRE" else
  let k := s.kernel kid
  let wait (s : State) (va cc : Nat) : Res :=
    let (due, s) := (s.faultReq va cc).later
    done (s.setKernel kid { s.kernel kid with stagingDue := due })
  let close := (List.range k.ncore).foldl (fun (r : State × Option (Nat × Nat)) c =>
    match r with
    | (s, some x) => (s, some x)
    | (s, none) => match s.closeWins (ccKey kid c) with
      | (s, some va) => (s, some (va, ccKey kid c))
      | (s, none) => (s, none)) (s, none)
  match close with
  | (s, some (va, cc)) => wait s va cc
  | (s, none) =>
    let s := if k.told then s else (s.countLeft kid).advanceDone kid
    let s := s.setKernel kid { s.kernel kid with told := true }
    match s.cwr kid with
    | .wait va => wait s va noCore
    | _ =>
      let s := s.passLeases (fun cc => cc / 1024 == kid)
      let s := ((s.complete kid).writeDesc kid false).empty kid
      let k := s.kernel kid
      let old : Kernel := { st := .retired, ctx := k.ctx, q := k.q, record := k.record, accepted := k.accepted }
      done ((s.setKernel kid old).idleCtx k.ctx)

/-! ## Fatal faults (R313, R314, R316) -/

/-- One PEER notice: to the first enabled thread of a running peer, else held in its save area. -/
def State.peerNotice (s : State) (ctx cause peer : Nat) : State :=
  let c := s.ctx peer
  if c.state ≠ ctxRunning && c.state ≠ ctxSuspended then s else
  match (if c.state = ctxRunning then (s.threadsOf peer).find? (fun k => (s.thread k).umask.getLsbD 5) else none) with
  | some k => s.pendCause k causePEER (peerWord ctx cause) 0
  | none =>
    let n := (match c.peers with | some (n, _, _) => n | none => 0) + 1
    (s.setCtx peer { c with peers := some (n, ctx, cause) }).poke (c.savebase + 32) (leBytes 8 n ++ leBytes 8 (peerWord ctx cause).toNat ++ leBytes 16 0)

/-- A fatal fault stands to be taken; or a context in fault-hold has not yet been saved. -/
def State.fatalDue (s : State) (ctx : Nat) : Bool :=
  let c := s.ctx ctx
  (c.fatal.any (fun f => decide (f.due ≤ s.cycle)) && (c.state == ctxRunning || c.state == ctxSuspended)) || (c.stop && c.state == ctxHold && s.stopDue ctx)

/-- The fault record of R313. -/
def Fatal.bytes (f : Fatal) : List Byte :=
  leBytes 8 f.time.toNat ++ leBytes 4 f.tid.toNat ++ leBytes 1 f.cause ++ leBytes 1 f.inner ++ leBytes 2 0 ++ leBytes 8 f.fva.toNat ++ leBytes 8 f.pc.toNat

/-- The context enters fault-hold: its running queues drain without admission, one that drains by command goes on (R329); its kernels'
groups are discarded, and their descriptors are no longer valid (R319, R354). -/
def State.enterHold (s : State) (ctx : Nat) (f : Fatal) : State :=
  let rec_ := f.bytes
  let c := s.ctx ctx
  let s := s.poke c.savebase rec_
  let s := (s.report .faultRecord (rec_ ++ leBytes 2 ctx)).msix ctx 0
  let s := s.kernels.foldl (fun s k => if k.2.ctx = ctx && k.2.described then s.writeDesc k.1 false else s) s
  let s := { s with kernels := s.kernels.mapV (fun _ k => if k.ctx = ctx && k.st ≠ KState.retired then { k with st := .faulted, groups := [] } else k) }
  let c := { (s.ctx ctx).setState ctxHold with
    fatal := none
    queues := c.queues.mapV (fun _ u => if u.st = lqOpen || u.st = lqFull then { u with st := lqDraining, frozen := true } else u) }
  let s := (s.setCtx ctx c).beginStop ctx
  (List.range 8).foldl (fun s i => if c.peerv i then s.peerNotice ctx f.cause (c.peer i) else s) s

/-- FATAL_FAULT: the context enters fault-hold; once it is at rest its images are written, its LM left in place. -/
def execFatalFault (ctx : Nat) (s : State) : Res :=
  if !s.fatalDue ctx then notNow "FATAL_FAULT" else
  match (s.ctx ctx).fatal, (s.ctx ctx).state == ctxHold with
  | some f, false => done (s.enterHold ctx f)
  | _, _ =>
    if s.sendStuck ctx then done (s.stopThreads (s.threadsOf ctx))
    else if !(s.held (s.ofContext ctx)).isEmpty then done (s.passLeases (s.ofContext ctx))
    else done (s.saveAll ctx false)

end Sys2Proof.Machine
end

