-- ==== Sys2Proof/Machine/Host.lean ====
section
/-! DEFINITION. The host and other devices at the device's memory: host reads and writes (R252, R297), launch records (R325,
R326), the switch of a migrating page (R295), and far requests served at this home (R281, R290, R402), with the exported windows. -/

namespace Sys2Proof.Machine

/-! ## Power and the host (R410, R417) -/

/-- A host access wakes a sleeping package. -/
def State.awake (s : State) : State := if s.power = .asleep then { s with power := .active } else s
/-- What the host does to a device without power has no effect; a sleeping one wakes first. -/
def State.hosted (s : State) (f : State → State) : Res := if s.power = .off then done s else done (f s.awake)

/-! ## Commands of the host mailbox (R410, R416) -/

/-- A command: none is answered without power or before boot; in recovery only the four of R410 are; and before
negotiation every one but VERSION is refused (DEDUCED, log 50). It is served in the step that brings it, so that none finds an earlier
one in service (R416; DESIGN CHOICE, log 97). -/
def State.command (s : State) (tag : BitVec 16) (always : Bool) (f : State → State) : Res :=
  if s.power = .off || s.power = .started || (s.power = .recovery && !always) then done s
  else
    let s := s.awake
    if s.version = 0 then done (s.respond tag 1 []) else done (f s)

/-- Done, or refused. -/
def State.answer (s : State) (tag : BitVec 16) (ok : Bool) : State := s.respond tag (if ok then 0 else 1) []

/-! ## Host accesses to device memory (R297) -/

/-- Where the launch-queue BAR, whose address VERSION reports (R325), and the mailbox region stand among the addresses of host reads and posted writes (DESIGN CHOICE, log 32). -/
def barQueues : Nat := 2 ^ 52
def barMailbox : Nat := 2 ^ 53

def State.hostVisible (s : State) (pa : Nat) : Bool := decide (pa < mainMemory) && s.hostRegions.any (fun r => r.1 ≤ pa && pa < r.1 + r.2)

/-- The bytes of a write, by the physical granule they fall in: address, bytes. -/
def paParts (pa : Nat) (bs : List Byte) : List (Nat × List Byte) :=
  (granules (bs.length / 65536 + 2) pa bs.length).map (fun g => (g.1, (bs.drop (g.1 - pa)).take g.2))

/-- The present page that holds a physical address of local memory: the VA, and its leaf. -/
def State.vaOfPa (s : State) (pa : Nat) : Option (Nat × BitVec 128) :=
  (s.leaves.find? (fun p => pteP p.2 && pteLoc p.2 = 0 && ptePa p.2 ≤ pa && pa < ptePa p.2 + pageBytes (pteSize p.2) && s.locate p.1 == .at_ 0 (ptePa p.2))).map
    (fun p => (p.1 + (pa - ptePa p.2), p.2))
/-- The VA of a migrating page that holds a physical address of local memory. -/
def State.migratingPa (s : State) (pa : Nat) : Option Nat := (s.vaOfPa pa).bind (fun p => if pteMig p.2 then some p.1 else none)

/-- A host access outside the host-visible regions reported. -/
def State.reportHost (s : State) (pa what : Nat) : State := s.report .hostAccess (leBytes 8 pa ++ leBytes 8 what)

/-- Runs of bytes inside the host-visible regions. -/
def State.visibleRuns (s : State) (pa : Nat) : List Byte → List (Nat × List Byte)
  | [] => []
  | b :: rest =>
    let more := s.visibleRuns (pa + 1) rest
    if !s.hostVisible pa then more
    else match more with
      | (a, bs) :: t => if a = pa + 1 then (pa, b :: bs) :: t else (pa, [b]) :: more
      | [] => [(pa, [b])]

/-- Bytes written at a VA by an agent outside the device, line by line at their homes, after every copy is invalidated (R252, R297); an
uncorrectable word of which a part would be left is not written, and reported (R141). -/
def State.outsideWrite (s : State) (va : Nat) (bs : List Byte) : State :=
  (partsOf va bs.length).foldl (fun s p =>
    match s.homeWrite p.1 ((bs.drop (p.1 - va)).take p.2) outsideWant with
    | (.bytes _, s) => s
    | (.absent a, s) | (.dataError a, s) => s.reportData 0xFFFF a) s

/-- One granule of a host write performed. -/
def State.hostPlace (s : State) (pa : Nat) (bs : List Byte) : State :=
  match s.vaOfPa pa with
  | some (va, _) => s.outsideWrite va bs
  | none => s.writePa 0 pa bs

/-- A granule of a host access must wait for its turn at the homes of its lines (R150, R279). -/
def State.hostWaits (s : State) (pa n : Nat) (write : Bool) : Bool :=
  match s.vaOfPa pa with
  | some (va, _) => s.placeWaits (.glob va) n write
  | none => false

/-- A host access kept until it can go. -/
def State.holdHost (s : State) (w : HeldWrite) : State := { s with heldWrites := s.heldWrites ++ [{ w with at_ := s.cycle }] }

/-- One run of a host write: it waits at a migrating page (R295), for its turn (R150, R279), and behind a host access that waits
(R252). -/
def State.hostPut (s : State) (pa : Nat) (bs : List Byte) : State :=
  (paParts pa bs).foldl (fun s p =>
    match s.migratingPa p.1 with
    | some va => s.holdHost { va := va, data := p.2 }
    | none =>
      if !s.heldWrites.isEmpty || s.hostWaits p.1 p.2.length true then s.holdHost { va := p.1, data := p.2, free := true }
      else s.hostPlace p.1 p.2) s

/-- Held messages posted after the host has returned entries (R416). -/
def State.returnEntries (s : State) (n : Nat) : State :=
  let s := { s with returned := max s.returned (min n s.writeIdx) }
  s.drainHeld s.heldEvents.length

/-- HOST_WRITE: posted or CXL.mem. To a queue window it is dropped and reported (R326); at 0x048 of the mailbox it returns
entries (R416). -/
def State.hostWrite (s : State) (pa : Nat) (data : List Byte) : State :=
  if pa = barMailbox + 0x48 && data.length = 8 then s.returnEntries (leNat data)
  else if barQueues ≤ pa then s.reportHost pa 1
  else
    let all := (List.range data.length).all (fun i => s.hostVisible (pa + i))
    let s := if all then s else s.reportHost pa 1
    (s.visibleRuns pa data).foldl (fun s r => s.hostPut r.1 r.2) s
def execHostWrite (pa : Nat) (data : List Byte) (s : State) : Res := s.hosted (fun s => s.hostWrite pa data)

/-- The status word of a launch queue (R325). -/
def LQueue.word (u : LQueue) : Word := BitVec.ofNat 64 (u.st + u.recs.length * 2 ^ 8)

/-- The 8-byte word of a queue window or of the mailbox region at an offset. -/
def State.windowWord (s : State) (off : Nat) : Word :=
  let u := s.lqueue (off / 0x8000) (off / 0x1000 % 8)
  if 0x200_0000 ≤ off then 0
  else if off % 0x1000 / 8 = 8 then u.word else if off % 0x1000 / 8 = 9 then u.accepted else if off % 0x1000 / 8 = 10 then u.done else 0
def State.mailboxWord (s : State) (off : Nat) : Word := if off / 8 = 8 then BitVec.ofNat 64 s.writeIdx else if off / 8 = 9 then BitVec.ofNat 64 s.returned else 0

/-- A byte as the host reads it. -/
def State.hostByte (s : State) (pa : Nat) : Byte :=
  if barMailbox ≤ pa then BitVec.ofNat 8 ((s.mailboxWord (pa - barMailbox)).toNat / 2 ^ (8 * (pa % 8)))
  else if barQueues ≤ pa then BitVec.ofNat 8 ((s.windowWord (pa - barQueues)).toNat / 2 ^ (8 * (pa % 8)))
  else if !s.hostVisible pa then 0
  else if s.eccBad pa 1 then (Config.freeWord (s.drawn + pa)).truncate 8
  else s.mem.get pa

/-- The granules of the visible bytes of a host read. -/
def State.readGranules (s : State) (pa n : Nat) : List (Nat × Nat) :=
  if barQueues ≤ pa then [] else
  (s.visibleRuns pa (List.replicate n 0)).flatMap (fun r => granules (r.2.length / 65536 + 2) r.1 r.2.length)

/-- A host read of visible bytes at the homes of their lines, after the recalls of R274; a hit changes no line (R262). -/
def State.hostReach (s : State) (pa n : Nat) : State :=
  (s.readGranules pa n).foldl (fun s g =>
    match s.vaOfPa g.1 with
    | some (va, _) => (s.homeRead va g.2 outsideWant).2
    | none => s) s

/-- A host read performed. -/
def State.readNow (s : State) (pa n : Nat) : State :=
  if barQueues ≤ pa then { s with out := s.out ++ [.readData ((List.range n).map (fun i => s.hostByte (pa + i)))] } else
  let s := s.hostReach pa n
  let s := if (List.range n).all (fun i => s.hostVisible (pa + i)) then s else s.reportHost pa 0
  let s := if s.eccBad pa n then s.errorRecord errAccess 0 pa 0xFFFF else s
  { s with out := s.out ++ [.readData ((List.range n).map (fun i => s.hostByte (pa + i)))] }

/-- A host read must wait for its turn at a line's home (R279). -/
def State.readWaits (s : State) (pa n : Nat) : Bool := (s.readGranules pa n).any (fun g => s.hostWaits g.1 g.2 false)

/-- HOST_READ: it completes after the earlier posted writes are accepted (R252). -/
def State.hostRead (s : State) (pa n : Nat) : State :=
  if s.heldWrites.isEmpty && !s.readWaits pa n then s.readNow pa n
  else s.holdHost { va := pa, data := [], free := true, what := .read n }
def execHostRead (pa n : Nat) (s : State) : Res := s.hosted (fun s => s.hostRead pa n)

/-! ## Launch records (R326): 0 Successful Completion, 1 Memory Request Retry Status, 2 Unsupported Request -/

def State.dmwr (s : State) (r : Nat) : State := { s with out := s.out ++ [.dmwr r] }

/-- A queue takes one record a cycle (R330): one that comes after another of the cycle waits. -/
def State.launchNow (s : State) (off : Nat) (data : List Byte) : State :=
  if data.length ≠ 64 || off % 0x1000 ≠ 0 || 8192 ≤ off / 0x1000 then (s.reportHost (barQueues + off) 2).dmwr 2
  else match s.enqueue (off / 0x8000) (off / 0x1000 % 8) (wordOf 512 data) with
    | (s, .accepted) => s.dmwr 0
    | (s, .full) => s.dmwr 1
    | (s, .busy) => s.holdHost { va := off, data := data, free := true, what := .launch }
    | (s, .closed) => (s.reportHost (barQueues + off) 3).dmwr 1

/-- A launch record is taken after the host writes before it (R248). -/
def State.launchWrite (s : State) (off : Nat) (data : List Byte) : State :=
  if s.heldWrites.isEmpty then s.launchNow off data
  else s.holdHost { va := off, data := data, free := true, what := .launch }
def execLaunchRecordWrite (off : Nat) (data : List Byte) (s : State) : Res := s.hosted (fun s => s.launchWrite off data)

/-! ## Exported windows and far requests (R281) -/

/-- EXPORTED_WINDOW_SET: firmware sets a tenant's window and the context that judges it. -/
def execExportedWindowSet (tenant base size home : Nat) (s : State) : Res :=
  if 64 ≤ tenant || 2 ^ 44 < size || 2 ^ 56 < base + size || 1024 ≤ home then notNow "EXPORTED_WINDOW_SET"
  else done { s with windows := s.windows.put tenant (base, size), homes := s.homes.put tenant home }

/-- Bytes a far request names, the right it needs, and the access it stands for. -/
def farBytesOf : FarOp → Nat
  | .read n _ => n
  | .write bs => bs.length
  | .part n _ _ => n
  | .amo _ sz _ _ | .cas sz _ _ | .lr sz _ | .sc sz _ _ => aBytes sz
  | .xacc _ _ | .xrd _ | .xclr => 64
def farNeed : FarOp → Need
  | .read _ g => if g then .gather else .read
  | .lr _ _ | .xrd _ => .read
  | .write _ | .part _ _ _ => .write
  | .xclr | .xacc _ _ | .amo _ _ _ _ | .cas _ _ _ | .sc _ _ _ => .rmw
def farWrites : FarOp → Bool
  | .read _ _ | .lr _ _ | .xrd _ => false
  | _ => true
def farKind : FarOp → Op → Op
  | .amo op sz b m, o => { o with kind := .amo op sz, n := aBytes sz, data := b, mul := m }
  | .cas sz e n, o => { o with kind := .cas sz, n := aBytes sz, data := n, data2 := e }
  | .lr sz _, o => { o with kind := .lr (aSigned sz), n := aBytes sz }
  | .sc sz d _, o => { o with kind := .sc, n := aBytes sz, data := d }
  | .xacc x m, o => { o with kind := .xacc, n := 64, data := x.zeroExtend 64, mul := m }
  | .xrd rm, o => { o with kind := .xrd rm, n := 64 }
  | .xclr, o => { o with kind := .xclr, n := 64 }
  | .read n _, o => { o with kind := .load false, n := n }
  | _, o => o

/-- The value of a far request over the bytes it finds, and the bytes it writes; of a part, the bits of its mask. -/
def farEffect (op : FarOp) (hit : Bool) (bs : List Byte) : VReg × Option (List Byte) :=
  match op with
  | .read _ _ => (BitVec.ofNat 512 (leNat bs), none)
  | .write d => (0, some d)
  | .part n m v => (0, some (leBytes n (((BitVec.ofNat 512 (leNat bs) &&& ~~~(BitVec.ofNat 512 m)) ||| (BitVec.ofNat 512 v &&& BitVec.ofNat 512 m)).toNat)))
  | op =>
    let e := (farKind op { id := 0, thr := 0, cc := 0, kind := .load false }).effect hit bs
    (e.res.zeroExtend 512 ||| (BitVec.ofNat 512 e.fl.toNat <<< 32), e.new)

/-- The reservation a far LR sets and a far SC uses, at the home (R149; DESIGN CHOICE, log 39). -/
def State.farReserve (s : State) (r : FarReq) (key : Nat) : State :=
  let mine (thr : Nat) : List (Nat × Nat × Nat) := s.farResv.filter (fun x => !(x.1 == r.src.toNat && x.2.1 == thr))
  match r.op with
  | .lr _ thr => { s with farResv := mine thr ++ [(r.src.toNat, thr, key)] }
  | .sc _ _ thr => { s with farResv := mine thr }
  | _ => s

/-- How a far request ends at its home: a reply, or a page to wait for. -/
inductive Served where
  | reply (r : FarReply) (s : State)
  | wait (s : State)
deriving DecidableEq, Repr

/-- A far request that met uncorrectable data, reported here and told to the requester. -/
def State.farLost (s : State) (va : Nat) : Served := .reply { value := 0, denied := false, bad := true } (s.reportData 0xFFFF va)

/-- A far request performed at a place. -/
def State.farPerform (s : State) (r : FarReq) (p : Place) (n : Nat) : Served :=
  let hit (key : Nat) : Bool := match r.op with | .sc _ _ thr => s.farResv.contains (r.src.toNat, thr, key) | _ => false
  match p with
  | .lm cc off =>
    if s.lmBad cc off n then s.farLost (lmPa cc off) else
    let s := s.lmCorrect cc off n
    let (v, new) := farEffect r.op (hit (lmKey cc off)) (s.lmRead cc off n)
    let s := s.farReserve r (lmKey cc off)
    .reply { value := v, denied := false } (match new with | some bs => s.lmWrite cc off bs | none => s)
  | .glob va =>
    let write (s : State) (v : VReg) (bs : List Byte) : Served :=
      (partsOf va bs.length).foldl (fun r p =>
        match r with
        | .reply q s =>
          if q.bad then .reply q s else
          (match s.homeWrite p.1 ((bs.drop (p.1 - va)).take p.2) outsideWant with
          | (.bytes _, s) => .reply q s
          | (.absent a, s) | (.dataError a, s) => s.farLost a)
        | r => r) (.reply { value := v, denied := false } s)
    match r.op with
    | .write bs => write s 0 bs
    | _ =>
      (match s.homeRead va n outsideWant with
      | (.bytes bs, s) =>
        let key := match s.locate va with | .at_ loc pa => globKey loc pa | _ => 0
        let (v, new) := farEffect r.op (hit key) bs
        let s := s.farReserve r key
        (match new with | some bs => write s v bs | none => .reply { value := v, denied := false } s)
      | (.absent a, s) | (.dataError a, s) => s.farLost a)
  | .far a => s.farLost a

/-- The home's checks: its window, the rights of the tenant's home domain, and the tag of every page (R281, R287, R290). -/
def State.serveFar (s : State) (r : FarReq) : Served :=
  let n := farBytesOf r.op
  let ten := r.tenant.toNat
  let (base, size) := s.windows.get (0, 0) ten
  let home := s.homes.get 0 ten
  let la := base + r.offset
  let no (s : State) (a : Nat) (tag : BitVec 16) : Served :=
    .reply { value := 0, denied := true, tag := tag } (s.logDenial home (BitVec.ofNat 64 a) 0xFFFF_FFFF r.prin tag 4)
  if size < r.offset + n then no s la 0 else
  match s.placeOf (s.shownKernel home) 0 la n with
  | none => no s la 0
  | some p =>
    let gs := (granules (n / 65536 + 2) la (max n 1)).map (·.1)
    let ok := gs.all (fun g => let e := s.protRights home g; Rights.covers e.r e.w e.x e.g true (farNeed r.op))
    let s := match p with | .glob _ => gs.foldl (fun s g => s.clrSettle home r.prin (s.tagOf g)) s | _ => s
    let bad := if !ok then some la else match p with | .glob _ => gs.find? (fun g => !s.allowed home r.prin (s.tagOf g)) | _ => none
    match bad, p with
    | some a, _ => no s a (s.tagOf a)
    | none, .glob _ =>
      (match gs.find? (fun g => s.locate g == .absent) with
      | some g =>
        if (s.coreCtx noCore).noPage.contains (g / 65536) then (s.heard noCore (· == g / 65536)).farLost g
        else .wait (s.faultReq g noCore)
      | none => if (farWrites r.op && gs.any s.migratingAt) || s.placeWaits p n (farWrites r.op) then .wait s else s.farPerform r p n)
    | none, p => if s.placeWaits p n (farWrites r.op) then .wait s else s.farPerform r p n

/-- The reply of this home, and its response flit. -/
def State.farAnswer (s : State) (r : FarReq) (q : FarReply) : State :=
  let s : State := { s with out := s.out ++ [Out.farReply { req := r, reply := q }] }
  s.route 2 0 r.src.toNat s.deviceId.toNat r.tenant.toNat r.prin.toNat (Config.farBody s.drawn)

/-- The lines of a far request, by tenant. -/
def farLines (r : FarReq) : List (Nat × Nat) := (Machine.lines r.offset (max (farBytesOf r.op) 1)).map (fun l => (r.tenant.toNat, l))
/-- Requests of one device for one line stay in order (R253). -/
def farBehind (r x : FarReq) : Bool := r.src == x.src && (farLines r).any (fun l => (farLines x).contains l)

/-- A far request served, or it waits here. -/
def State.farServe (s : State) (r : FarReq) : State :=
  match s.serveFar r with
  | .reply q s => s.farAnswer r q
  | .wait s => { s with farWait := s.farWait ++ [{ req := r, at_ := s.cycle }] }

/-- FAR_REQUEST: a request from a link; it waits behind an earlier one for its line that waits here for a page. -/
def execFarRequest (r : FarReq) (s : State) : Res :=
  s.hosted (fun s => if s.farWait.any (fun x => farBehind r x.req) then { s with farWait := s.farWait ++ [{ req := r, at_ := s.cycle }] } else s.farServe r)

/-- The waiting far request of a place can be served now, behind none of its line. -/
def State.farGoes (s : State) (n : Nat) : Bool :=
  match s.farWait[n]? with
  | some r => !(s.farWait.take n).any (fun x => farBehind r.req x.req) && (match s.serveFar r.req with | .wait _ => false | _ => true)
  | none => false
/-- A waiting far request that can be served now: its place among those that wait. -/
def State.farReady (s : State) : Option Nat := (List.range s.farWait.length).find? s.farGoes

/-- A far request that waited, served. -/
def State.farAgain (s : State) (n : Nat) : State :=
  match s.farWait[n]? with
  | some r => { s with farWait := s.farWait.eraseIdx n }.farServe r.req
  | none => s

/-- A far request writes the page of va. -/
def State.farOn (s : State) (va n : Nat) (r : FarReq) : Bool :=
  let la := (s.windows.get (0, 0) r.tenant.toNat).1 + r.offset
  farWrites r.op && decide (la < va + n) && decide (va < la + farBytesOf r.op)

/-! ## Host accesses that waited (R252, R295) -/

/-- A write in flight of a thread to the page of va, which arrived there by a cycle. -/
def Op.arrivedAt (o : Op) (va n cycle : Nat) : Bool :=
  let on (p : Place) : Bool := match p with | .glob a => decide (va ≤ a) && decide (a < va + n) | _ => false
  o.kind.isWrite && decide (o.due ≤ cycle) && (on o.place || o.pieces.any (fun p => on p.place))

/-- The operation that arrived first. -/
def earliest (l : List Op) : Option Op :=
  l.foldl (fun b o => match b with | some x => if o.due < x.due || (o.due = x.due && o.id < x.id) then some o else b | none => some o) none

/-- The write of a thread, or of another device, to the page of va that arrived first of those that can be performed now. -/
inductive Arrival where
  | op (o : Op)
  | far (n : Nat)
deriving DecidableEq, Repr

def State.firstArrival (s : State) (va n cycle : Nat) : Option Arrival :=
  let o := earliest (s.ops.filter (fun o => o.arrivedAt va n cycle && s.ready o))
  let f := s.farWait.zipIdx.find? (fun r => decide (r.1.at_ ≤ cycle) && s.farOn va n r.1.req && s.farGoes r.2)
  match o, f with
  | some o, some r => some (if o.due ≤ r.1.at_ then .op o else .far r.2)
  | some o, none => some (.op o)
  | none, some r => some (.far r.2)
  | none, none => none

/-- The writes that waited at a page, performed in the order of their arrival up to a cycle (R295). -/
def State.releaseTo (va n cycle : Nat) : Nat → State → State
  | 0, s => s
  | k + 1, s =>
    match s.firstArrival va n cycle with
    | some (.op o) => State.releaseTo va n cycle k (s.performOp o)
    | some (.far i) => State.releaseTo va n cycle k (s.farAgain i)
    | none => s
def State.releasePage (s : State) (va n cycle : Nat) : State := State.releaseTo va n cycle (s.ops.length + s.farWait.length) s

/-- One host access that waited, performed; the writes that reached its page before it perform first. -/
def State.performHeld (s : State) (w : HeldWrite) : State :=
  match w.what with
  | .read n => s.readNow w.va n
  | .launch => s.launchNow w.va w.data
  | .write =>
    if w.free then s.hostPlace w.va w.data
    else match s.walk w.va with
      | .leaf e _ =>
        let n := pageBytes (pteSize e)
        let s := s.releasePage (w.va / n * n) n w.at_
        if pteP e then s.outsideWrite w.va w.data else s.writePa (pteLoc e) (pteBase e + w.va % n) w.data
      | _ => s.outsideWrite w.va w.data

/-- A host access that waits can go: no migrating page holds it (R295), its lines are free (R150, R279), and its queue takes a
record (R330). -/
def State.heldGoes (s : State) (w : HeldWrite) : Bool :=
  match w.what with
  | .read n => !s.readWaits w.va n
  | .launch => (s.lqueue (w.va / 0x8000) (w.va / 0x1000 % 8)).acceptAt != s.cycle + 1
  | .write => if w.free then !s.hostWaits w.va w.data.length true else !s.migratingAt w.va && !s.placeWaits (.glob w.va) w.data.length true
def State.heldReady (s : State) : Bool := match s.heldWrites with | w :: _ => s.heldGoes w | [] => false

/-- Host accesses that waited, in order, as far as one can go. -/
def State.releaseHeld : Nat → State → State
  | 0, s => s
  | n + 1, s =>
    match s.heldWrites with
    | [] => s
    | w :: rest =>
      if !s.heldGoes w then s
      else State.releaseHeld n ({ s with heldWrites := rest }.performHeld w)

/-! ## The switch of a migrating page (R295) -/

/-- MIGRATION_SWITCH (R295): lines written back and invalidated, the new PTE, and the waiting writes at the new copy; a new TAG
comes with a shootdown (R286). -/
def execMigrationSwitch (va : Nat) (pte : BitVec 128) (s : State) : Res :=
  match s.walk va with
  | .leaf e at_ =>
    if !(pteMig e && pteP e) || !s.pteOk pte || pteSize pte ≠ pteSize e || (pteLoc pte = 0 && !pteP pte) then notNow "MIGRATION_SWITCH" else
    let n := pageBytes (pteSize e)
    let base := va / n * n
    let s := s.flushRange (pteLoc e) (pteBase e) n
    let s := (s.copyPage (pteLoc e) (pteBase e) (pteLoc pte) (pteBase pte) n).seal e
    let new := if pteLoc pte = 0 then s.filled pte else pteWithDue pte (ptePdue e)
    let s := { s with mem := s.mem.write at_ (leBytes 16 new.toNat) }
    let s := if pteTag pte = pteTag e then s else s.dropPlb base n
    done ((State.releaseHeld s.heldWrites.length s).releasePage base n s.cycle)
  | _ => notNow "MIGRATION_SWITCH"

end Sys2Proof.Machine
end

