-- ==== Sys2Proof/Machine/Links.lean ====
section
/-! DEFINITION. The device links (R395 to R401): their state table, flits received, replay, and the time base (R403). -/

namespace Sys2Proof.Machine

/-! ## Status and reports (R396, R397) -/

/-- The status word of a link. -/
def Link.word (k : Link) : Word :=
  BitVec.ofNat 64 (k.st + k.lanes * 2 ^ 4 + k.ver.toNat * 2 ^ 8 + k.peer.toNat * 2 ^ 16 + k.plink.toNat * 2 ^ 34 + (if k.sync then 2 ^ 39 else 0) + k.retry.toNat * 2 ^ 48)

/-- SYNC links that carry flits, and whether the device is its own time source: the reference, or one without a SYNC link (R403). -/
def State.syncPaths (s : State) : List Nat := (s.links.filter (fun l => l.2.sync && l.2.carries)).map (·.1)
def State.hasSync (s : State) : Bool := s.links.any (fun l => l.2.sync)
def State.ownSource (s : State) : Bool := s.isReference || !s.hasSync

/-- The last SYNC path of a device that had one is lost between two states (R403). -/
def State.notePath (s0 s : State) : State :=
  if !s0.syncPaths.isEmpty && s.syncPaths.isEmpty && !s.ownSource then { s with pathLost := true } else s

/-- A transition, reported to the host mailbox. -/
def State.linkTo (s : State) (l : Nat) (k : Link) : State := (s.notePath (s.setLink l k)).report .linkState (leBytes 8 l ++ leBytes 8 k.word.toNat)

/-! ## Flits not acknowledged (R399, R402) -/

/-- A flit sent again with its fields on another link. -/
def State.resendOn (s : State) (f : List Byte) : State :=
  s.route (flitField f 0 1) (flitField f 1 1) (flitField f 6 3) (flitField f 9 3) (flitField f 12 1) (flitField f 16 4) ((f.drop 20).take 228)

/-- RETRY counts flits resent, and saturates (R396). -/
def Link.resends (k : Link) (n : Nat) : Link := { k with retry := BitVec.ofNat 16 (min (k.retry.toNat + n) 65535) }

/-- A request or response: what another link may carry. -/
def movable (f : List Byte) : Bool := flitField f 0 1 = 1 || flitField f 0 1 = 2

/-- A link that has left up or degraded: its flits not acknowledged go over other links, where one is up (R402); `keep` leaves them in
its replay buffer too, as retraining does (R397; DESIGN CHOICE, log 35). -/
def State.moveFlits (s : State) (l : Nat) (keep : Bool) : State :=
  let k := s.link l
  if s.upLinks.isEmpty then s else
  let fs := (k.replay.map (·.flit)).filter movable
  let k := (if keep then k else { k with replay := [] }).resends fs.length
  (fs ++ k.waiting).foldl State.resendOn (s.setLink l { k with waiting := [] })

/-- Every flit not acknowledged resent in SEQ order, each with the ACK of that moment; one resent 16 times sends a link that is up back
to training, where the count begins anew (R397, R399). -/
def State.replay (s : State) (l : Nat) : State :=
  let k := s.link l
  let again := k.replay.map (fun r => { r with flit := stampFlit r.flit r.seq k.lastRx, sentAt := s.tick, resent := r.resent + 1 })
  let k' := { k.resends k.replay.length with replay := again }
  let s := { s.setLink l k' with out := s.out ++ again.map (fun r => Out.flit l r.flit) }
  if k.carries && again.any (fun r => 16 ≤ r.resent) then
    (s.linkTo l { k' with st := linkTraining, lanes := 0, ver := 0, attempts := 0, replay := again.map (fun r => { r with resent := 0 }) }).moveFlits l true
  else s

/-- Flits acknowledged up to a SEQ leave the buffer; waiting ones take their room. -/
def State.acked (s : State) (l : Nat) (ack : BitVec 16) : State :=
  let k := s.link l
  match k.replay.findIdx? (fun r => r.seq == ack) with
  | none => s
  | some i => State.feedLink l k.waiting.length (s.setLink l { k with replay := k.replay.drop (i + 1) })

/-- A link on which flits go: up or degraded, or in negotiation, for its link-control flits (R399, R400). -/
def Link.speaks (k : Link) : Bool := k.carries || k.st == linkNegotiating

def execReplayRequest (link : Nat) (s : State) : Res := if (s.link link).speaks then done (s.replay link) else notNow "REPLAY_REQUEST"

/-- A flit without an ACK for 2,000 ticks (R399). -/
def State.ackLate (s : State) (l : Nat) : Bool := (s.link l).speaks && (s.link l).replay.any (fun r => decide (r.sentAt + 2000 ≤ s.tick))
def execAckTimeout (link : Nat) (s : State) : Res := if s.ackLate link then done (s.replay link) else notNow "ACK_TIMEOUT"

/-- FLIT_RECEIVE: only a correct flit that follows the last one is taken; a gap requests a replay. What a request, response
or time flit carries comes on as an event of its own (DESIGN CHOICE, log 14); a flit for another device is sent on, those of one source on one route. -/
def execFlitReceive (link : Nat) (flit : List Byte) (s : State) : Res :=
  let k := s.link link
  if !k.speaks then notNow "FLIT_RECEIVE"
  else if !flitOk flit then done s
  else
    let seq := BitVec.ofNat 16 (flitField flit 2 2)
    if seq ≠ k.lastRx + 1 then done { s with out := s.out ++ [.replayRequest link] }
    else
      let s := (s.setLink link { k with lastRx := seq }).acked link (BitVec.ofNat 16 (flitField flit 4 2))
      done (if movable flit && flitField flit 6 3 ≠ s.deviceId.toNat then s.resendOn flit else s)

/-! ## The state table (R397, R400) -/

/-- A link control command of the host mailbox (R395, R416): refused where the link's state has no such event (DESIGN CHOICE,
log 35). -/
def State.control (s : State) (c : LinkCmd) (may : Link → Bool) (f : State → Link → State) : Res :=
  s.command c.tag false (fun s => if c.link < 18 && may (s.link c.link) then (f s (s.link c.link)).answer c.tag true else s.answer c.tag false)

def execLinkEnable (c : LinkCmd) (s : State) : Res :=
  s.control c (fun k => k.st == linkDown) (fun s k => s.linkTo c.link { k with st := linkTraining, held := false, attempts := 0 })

def execLinkDisable (c : LinkCmd) (s : State) : Res :=
  s.control c (fun _ => true) (fun s k => (s.linkTo c.link { k with st := linkDown, lanes := 0, ver := 0 }).moveFlits c.link false)

def execLinkReset (c : LinkCmd) (s : State) : Res :=
  s.control c (fun k => k.st == linkFailed) (fun s k => s.linkTo c.link { k with st := linkDown, lanes := 0, ver := 0, retry := 0 })

/-- The version bitmap Mirroth sends in negotiation: version 1. -/
def versionBits : Nat := 2

/-- Training ends, or an attempt of three fails. -/
def execLanesTrained (link lanes : Nat) (s : State) : Res :=
  let k := s.link link
  if k.st ≠ linkTraining || 8 < lanes then notNow "LANES_TRAINED"
  else if 4 ≤ lanes then
    let s := s.linkTo link { k with st := linkNegotiating, lanes := lanes, attempts := 0 }
    done (s.sendFlit link 4 0 k.peer.toNat s.deviceId.toNat 0 0 (leBytes 8 versionBits))
  else if k.attempts < 2 then done (s.setLink link { k with attempts := k.attempts + 1 })
  else done ((s.linkTo link { k with st := linkFailed, lanes := 0 }).moveFlits link false)

/-- The highest common version. What the replay buffer holds is sent again only as R399 says. -/
def execNegotiationComplete (link : Nat) (bitmap : Word) (peer : BitVec 18) (plink : BitVec 5) (s : State) : Res :=
  let k := s.link link
  if k.st ≠ linkNegotiating || 18 ≤ plink.toNat then notNow "NEGOTIATION_COMPLETE"
  else if bitmap.getLsbD 1 then
    done (s.linkTo link { k with st := if k.lanes = 8 then linkUp else linkDegraded, ver := 1, peer := peer, plink := plink })
  else done ((s.linkTo link { k with st := linkFailed }).moveFlits link false)

def execLaneLoss (link : Nat) (s : State) : Res :=
  let k := s.link link
  if !k.carries then notNow "LANE_LOSS"
  else if 5 ≤ k.lanes then done (s.linkTo link { k with st := linkDegraded, lanes := k.lanes - 1 })
  else done ((s.linkTo link { k with st := linkFailed, lanes := k.lanes - 1 }).moveFlits link false)

/-! ## The time base (R403) -/

/-- The device locked or unlocked from this tick on. -/
def State.setLocked (s : State) (b : Bool) : State :=
  if s.locked = b then s else { s with locked := b, lockChanges := (s.tick, b) :: s.lockChanges }

/-- A device that is its own source sets its time base once, to 0, and is locked (end of boot step 7). -/
def State.ownTime (s : State) : State :=
  let s := if s.timeSet then s else { s with time := 0, lastTime := 0, frac := 0, timeSet := true }
  s.setLocked true

/-- TIME_FLIT: a new estimate of the offset, reference less own; a device whose estimate leaves the bound is no longer locked. -/
def execTimeFlit (link : Nat) (offset : Int) (s : State) : Res :=
  if !(s.syncPaths.contains link) || s.ownSource then notNow "TIME_FLIT" else
  let base := if s.timeSet then 0 else s.offset
  let near := base - 8 ≤ offset && offset ≤ base + 8
  let s1 : State := { s with
    offset := if near && !s.timeSet && s.within.isSome then s.offset else offset
    within := if near then some (s.within.getD s.tick) else if s.timeSet then none else some s.tick }
  done (if near then s1 else s1.setLocked false)

/-- The estimate has stayed within 8 ns for 2^20 ticks: of 0, or before the time base is set of its first value (DEDUCED, log 33). -/
def State.lockDue (s : State) : Bool :=
  !s.locked && !s.ownSource && !s.syncPaths.isEmpty && (match s.within with | some t => decide (t + 2 ^ 20 ≤ s.tick) | none => false)
/-- TIME_LOCK: at the first lock the time base is set by the estimate, which is then 0; later it only slews. -/
def execTimeLock (s : State) : Res :=
  if !s.lockDue then notNow "TIME_LOCK" else
  let s := if s.timeSet then s else { s with time := BitVec.ofInt 64 ((s.tick : Nat) + s.offset), lastTime := BitVec.ofInt 64 ((s.tick : Nat) + s.offset), timeSet := true, offset := 0 }
  done (s.setLocked true)

/-- The slew of the time base towards the reference: one tick more, or one less, of those a cycle brings, at most once in 10,000 ticks,
which is 100 ppm (R403; DESIGN CHOICE, log 33). -/
def State.slews (s : State) : Bool := s.timeSet && s.offset ≠ 0 && decide (s.slewAt ≤ s.tick) && !s.ownSource && !s.syncPaths.isEmpty

/-- Every SYNC path of the device is gone. -/
def State.syncLost (s : State) : Bool := (s.locked || s.pathLost) && !s.ownSource && s.syncPaths.isEmpty
def execSyncLoss (s : State) : Res :=
  if s.syncLost then done (({ s with within := none, pathLost := false }.setLocked false).report .syncLoss (leBytes 8 s.tick)) else notNow "SYNC_LOSS"

/-- SYNC_LINK_MARK: firmware names the reference and marks links; a device that gains a SYNC path locks anew. -/
def execSyncLinkMark (reference : Bool) (links : List Nat) (s : State) : Res :=
  let was := s.ownSource
  let s0 := s
  let s := { s with
    isReference := reference
    links := (List.range 18).foldl (fun (m : AMap Link) l =>
      let k := m.get {} l
      if k.sync = links.contains l then m else m.put l { k with sync := links.contains l }) s.links }
  let s := s0.notePath (if was && !s.ownSource then { s with within := none }.setLocked false else s)
  done (if s.ownSource && s.timeSet then s.setLocked true else s)

end Sys2Proof.Machine
end

