-- ==== Sys2Proof/Machine/Contexts.lean ====
section
/-! DEFINITION. The host's commands on contexts and launch queues (R303, R315, R329, R349, R405), and the end of a teardown. -/

namespace Sys2Proof.Machine

/-! ## Build and load (R302, R303) -/

/-- The bits of a context record that firmware writes. -/
def ctxMask : BitVec 1024 :=
  let f (lo n : Nat) : BitVec 1024 := BitVec.ofNat 1024 ((2 ^ n - 1) * 2 ^ lo)
  f 4 6 ||| f 16 5 ||| f 21 3 ||| f 32 32 ||| f 64 64 ||| f 128 64 ||| f 192 64 ||| f 256 5 ||| f 320 64 ||| f 384 64 ||| f 448 10 ||| f 458 10 |||
    f 468 12 ||| f 480 3 ||| f 512 80 ||| f 592 8

def execContextBuild (tag : BitVec 16) (ctx : Nat) (rec_ : BitVec 1024) (s : State) : Res :=
  s.command tag false (fun s =>
    if 1024 ≤ ctx || (s.ctx ctx).state ≠ ctxFree then s.answer tag false
    else ((s.setCtx ctx (({ record := rec_ &&& ctxMask, queues := (s.ctx ctx).queues } : Ctx).setState ctxBuilt)).report .contextState (leBytes 2 ctx ++ leBytes 2 ctxBuilt)).answer tag true)

/-- The first field of a record that keeps its context from being loaded, by its lowest bit. -/
def Ctx.badField (c : Ctx) : Option Nat :=
  if c.pmargin = 0 then some 16
  else if c.protroot % 8192 ≠ 0 || 2 ^ 52 ≤ c.protroot then some 64
  else if c.clrbase % 8192 ≠ 0 || 2 ^ 56 ≤ c.clrbase then some 128
  else if c.logbase % 32 ≠ 0 || 2 ^ 56 ≤ c.logbase then some 192
  else if 24 < c.logn then some 256
  else if c.logctl % 32 ≠ 0 || 2 ^ 56 ≤ c.logctl then some 320
  else if c.savebase % 4096 ≠ 0 || 2 ^ 56 ≤ c.savebase then some 384
  else if 1024 < c.keybase + c.keycnt then some 448
  else none

/-- CONTEXT_LOAD: a built context becomes resident and its queues open; not before the time base is set (R403). With it comes the
`.lm` image of its object, and which of its words are full (R36; DESIGN CHOICE, log 63). -/
def execContextLoad (tag : BitVec 16) (load : LoadOf) (s : State) : Res :=
  s.command tag false (fun s =>
    let ctx := load.ctx
    let c := s.ctx ctx
    if c.state ≠ ctxBuilt || !s.timeSet then s.answer tag false
    else match c.badField with
      | some f => (s.report .contextField (leBytes 2 ctx ++ leBytes 2 f)).answer tag false
      | none =>
        let queues : AMap LQueue := (List.range (c.nlq + 1)).map (fun q => (q, { st := lqOpen, runtime := (c.queues.get {} q).runtime }))
        let c := { c.setState ctxResident with
          queues := queues, fatal := none, peers := none, stop := false, arrays := []
          lmImage := Memory.write [] 0 (load.lm.take 262144)
          lmFull := ((load.full.take 32768).zipIdx.filter (·.1)).map (fun e => (e.2, true)) }
        ((s.setCtx ctx c).report .contextState (leBytes 2 ctx ++ leBytes 2 ctxResident)).answer tag true)

/-! ## Close and teardown (R315) -/

/-- Threads of a context end where they are: writes on their way still perform, everything else is discarded. -/
def State.killThreads (s : State) (ctx : Nat) : State :=
  let mine (o : Op) : Bool := s.threads.has o.thr && (s.thread o.thr).ctx == ctx
  let inLm (o : Op) : Bool := match o.place with | .lm _ _ => true | _ => o.pieces.any (fun p => match p.place with | .lm _ _ => true | _ => false)
  let keep (o : Op) : Bool := !mine o || (o.kind.isWrite && !inLm o)
  { s with
    ops := (s.ops.filter keep).map (fun o => if mine o then { o with dst := none, pred := 0, acq := false, push := [] } else o)
    threads := s.threads.mapV (fun _ t => if t.ctx = ctx then { t with life := .ended, wait := none, reply := none, late := [], streams := [], resv := none } else t) }

/-- Windows of a context's core-contexts returned to memory, as far as pages are present, and unmapped (DEDUCED, log 36). -/
def State.returnWins (s : State) (ctx : Nat) : State :=
  s.ccs.foldl (fun s c => if !s.ofContext ctx c.1 then s else
    (List.range 8).foldl (fun s n => if (s.win c.1 n).mapped then ((s.syncWin c.1 n).1).dropWin c.1 n else s) s) s

/-- What other contexts have in flight to the LMs of a context when its teardown reaches them: what is accepted performs, on the old data; the
rest is an access fault at its thread (R315). -/
def State.endLm (s : State) (ctx : Nat) : State :=
  let into (o : Op) : Bool :=
    let at_ (p : Place) : Bool := match p with | .lm cc _ => s.ofContext ctx cc | _ => false
    o.kind.isAccess && (at_ o.place || o.pieces.any (fun p => at_ p.place)) && (!s.threads.has o.thr || (s.thread o.thr).ctx != ctx)
  (s.ops.filter into).foldl (fun s o =>
    if s.ready o then s.performOp o
    else if s.threads.has o.thr then (s.dropOp o.id).fatal o.thr causeACCESS 0 (BitVec.ofNat 64 o.va) o.pc
    else s.dropOp o.id) s

/-- The actions of R315 in their order. -/
def State.teardown (s : State) (ctx : Nat) : State :=
  let s := s.endLm ctx
  let c := s.ctx ctx
  let s := s.setCtx ctx { c with queues := c.queues.mapV (fun _ u => { u with st := lqClosed, recs := [] }), fatal := none, stop := false, teardown := true }
  let s := { (s.returnWins ctx).killThreads ctx with
    engs := s.engs.filter (fun e => e.1 / 4096 != ctx)
    clauses := s.clauses.filter (fun e => e.1 / 4096 != ctx)
    units := s.units.mapV (fun _ u => { u with
      loaded := match u.loaded with | some cc => if s.ofContext ctx cc then none else some cc | none => none
      holder := match u.holder with | some cc => if s.ofContext ctx cc then none else some cc | none => none
      passing := match u.passing with | some cc => if s.ofContext ctx cc then none else some cc | none => none
      arb := u.arb.filter (fun r => !s.ofContext ctx r.cc) }) }
  { s with
    ccs := s.ccs.mapV (fun k x => if s.ofContext ctx k then {} else x)
    banks := s.banks.filter (fun b => !s.ofContext ctx (b.1 / 2))
    cores := s.cores.mapV (fun _ p => { p with plb := p.plb.filter (fun e => e.ctx != ctx), clr := p.clr.filter (fun e => e.ctx != ctx) }) }

def execContextClose (tag : BitVec 16) (ctx : Nat) (s : State) : Res :=
  s.command tag false (fun s =>
    let st := (s.ctx ctx).state
    if st ≠ ctxResident && st ≠ ctxSuspended && st ≠ ctxHold then (s.report .contextState (leBytes 2 ctx ++ leBytes 2 st)).answer tag false
    else ((s.setCtx ctx ((s.ctx ctx).setState ctxClosing)).teardown ctx).answer tag true)

/-- The teardown is complete once no write of the context is on its way (DEDUCED, log 51). -/
def State.tornDown (s : State) (ctx : Nat) : Bool :=
  (s.ctx ctx).state == ctxClosing && (s.ctx ctx).teardown && s.ops.all (fun o => !s.threads.has o.thr || (s.thread o.thr).ctx != ctx)

/-- TEARDOWN_COMPLETE: firmware clears the context's key slots, the host is told, and only TENANT stays of the record; its queues are
disabled, and show ACCEPTED and DONE until the next load (R329). -/
def execTeardownComplete (ctx : Nat) (s : State) : Res :=
  if !s.tornDown ctx then notNow "TEARDOWN_COMPLETE" else
  let c := s.ctx ctx
  let ks := s.kernels.filter (fun e => e.2.ctx == ctx)
  let s := ks.foldl (fun s k => (s.writeDesc k.1 false).forget k.1) s
  let s := { s with
    kernels := s.kernels.filter (fun e => e.2.ctx != ctx)
    keys := s.keys.filter (fun k => !(c.keybase ≤ k.1 && k.1 < c.keybase + c.keycnt)) }
  let queues := c.queues.mapV (fun _ u => ({ accepted := u.accepted, done := u.done } : LQueue))
  done ((s.setCtx ctx { record := 0x4_0000 ||| BitVec.ofNat 1024 (c.tenant * 16), queues := queues }).report .contextState (leBytes 2 ctx ++ leBytes 2 ctxFree))

/-! ## Launch queues (R329, R349) -/

def execQueueDrain (tag : BitVec 16) (ctx q : Nat) (s : State) : Res :=
  s.command tag false (fun s =>
    let u := s.lqueue ctx q
    if u.st = lqOpen || u.st = lqFull then (s.setLqueue ctx q { u with st := lqDraining }).answer tag true else s.answer tag false)

/-- No record and no kernel of a draining queue is left. -/
def State.queueEmpty (s : State) (ctx q : Nat) : Bool :=
  let u := s.lqueue ctx q
  u.st == lqDraining && !u.frozen && u.recs.isEmpty &&
    !s.kernels.any (fun e => e.2.ctx == ctx && e.2.q == q && e.2.st != .retired && e.2.st != .faulted)
def execQueueClosed (ctx q : Nat) (s : State) : Res :=
  if s.queueEmpty ctx q then done ((s.setLqueue ctx q { s.lqueue ctx q with st := lqClosed }).msix ctx 0) else notNow "QUEUE_CLOSED"

/-- QUEUE_OPEN: closed to open, while the context is resident, running ones among them. -/
def execQueueOpen (tag : BitVec 16) (ctx q : Nat) (s : State) : Res :=
  s.command tag false (fun s =>
    let st := (s.ctx ctx).state
    let u := s.lqueue ctx q
    if u.st = lqClosed && (st = ctxResident || st = ctxRunning) then (s.setLqueue ctx q { u with st := lqOpen }).answer tag true else s.answer tag false)

def execRuntimeQueueMark (tag : BitVec 16) (ctx q : Nat) (s : State) : Res :=
  s.command tag false (fun s =>
    if 1024 ≤ ctx || (s.ctx ctx).nlq < q || (s.ctx ctx).state = ctxFree then s.answer tag false
    else (s.setLqueue ctx q { s.lqueue ctx q with runtime := true }).answer tag true)

/-- GANG_RELEASE: a STRICT gang kernel held in staging starts (R405). -/
def execGangRelease (tag : BitVec 16) (kid : Nat) (s : State) : Res :=
  s.command tag false (fun s =>
    let k := s.kernel kid
    if k.st = .staging && k.gangHeld && s.engRuns k.ctx then (s.startKernel kid).answer tag true else s.answer tag false)

end Sys2Proof.Machine
end

