-- ==== Sys2Proof/Machine/Boot.lean ====
section
/-! DEFINITION. The management cores: boot steps and record (R408 to R410), identity and attestation (R411, R412), key slots
(R413), scrubbing (R414), the other mailbox commands (R416), and power (R417, R418). -/

namespace Sys2Proof.Machine

/-! ## The boot record (R409) -/

def State.entry (s : State) (n : Nat) : BootEntry := s.bootRec.get {} n
def BootEntry.word (e : BootEntry) : Word := BitVec.ofNat 64 (e.out.toNat + e.fails.toNat * 2 ^ 8 + e.code.toNat * 2 ^ 16 + e.start.toNat * 2 ^ 32)

/-- An entry written at this start: 1 success, 2 failure, 3 alternative used (DEDUCED, log 34). -/
def State.setEntry (s : State) (n : Nat) (out : BitVec 2) (code : BitVec 16) : State :=
  let old := s.entry n
  let fails : BitVec 8 := if out = 2 then BitVec.ofNat 8 (min (old.fails.toNat + 1) 255) else 0
  { s with bootRec := s.bootRec.put n { out := out, fails := fails, code := if out = 2 then code else 0, start := s.starts } }

/-- A failure at boot, reported; its code stands in the boot record, and the record names the step as the unit and no address (DESIGN
CHOICE, log 90). -/
def State.bootFail (s : State) (n : Nat) : State := s.errorRecord errBoot n 0 0xFFFF

def State.toRecovery (s : State) : State := { s with power := .recovery }

/-- What the steps are given beside their results: the clusters that fail the self-test, the image and its security version. -/
structure BootIn where
  failing : List Nat
  image : List Byte
  ver : Nat
deriving DecidableEq, Repr

def clusterMask (cs : List Nat) : BitVec 128 := cs.foldl (fun m c => m ||| BitVec.ofNat 128 (if c < 128 then 2 ^ c else 0)) 0

/-- An image is accepted: its signature verifies under the public key whose digest is fused, 4 bytes, then the root, then the seed, and
its security version is at least the rollback counter (R411). -/
def State.imageOk (s : State) (r : BootResult) (b : BootIn) : Bool :=
  Config.shake256 r.key == s.rootDigest && (r.key.drop 4).take 32 == leBytes 32 (Config.xmssRoot (r.key.drop 36) r.sig b.image).toNat &&
    decide (s.rollback.toNat ≤ b.ver)

/-- The effect of a step that succeeds (`alt`: by its alternative). -/
def State.stepOk (s : State) (n : Nat) (r : BootResult) (b : BootIn) (alt : Bool) : State :=
  if n = 2 then { s with imageVersion := BitVec.ofNat 32 b.ver, imageDigest := Config.shake256 b.image }
  else if n = 3 then { s with badChannels := [] }
  else if n = 4 then { s with halfBridges := if alt then r.units else [] }
  else if n = 5 then
    { s with
      deviceId := r.device.getD s.deviceId
      links := (List.range 18).foldl (fun (m : AMap Link) l =>
        let k := m.get {} l
        if alt && k.st = linkFailed then m.put l { k with st := linkDown, lanes := 0, held := true }
        else m.put l { sync := k.sync, st := linkTraining }) s.links }
  else if n = 6 then
    let mask := if alt then s.excludedMask else 0
    { s with
      excludedMask := mask
      clusters := (List.range 128).foldl (fun (m : AMap Cluster) c =>
        if mask.getLsbD c then m.put c { m.get {} c with excluded := true } else m) s.clusters }
  else if n = 7 then { s with keys := [] }
  else s

/-- A step whose entry shows a failure at the previous start runs its alternative: none for steps 1 and 7. -/
def hasAlt (n : Nat) : Bool := n ≠ 1 && n ≠ 7
/-- Steps without which no context can be built (DEDUCED, log 34). -/
def vital (n : Nat) : Bool := n = 1 || n = 2 || n = 7

/-- What a step that fails leaves: the memory of the channels that did not train, or fail the margin check, is not offered (R410); the
links that failed; the clusters that the next start excludes. -/
def State.stepFailed (s : State) (n : Nat) (r : BootResult) (b : BootIn) : State :=
  if n = 3 then { s with badChannels := r.units }
  else if n = 5 then
    { s with links := (List.range 18).foldl (fun (m : AMap Link) l =>
        let k := m.get {} l
        m.put l (if r.units.contains l then { sync := k.sync, st := linkFailed } else { sync := k.sync, st := linkTraining })) s.links }
  else if n = 6 then { s with excludedMask := clusterMask b.failing }
  else s

/-- One boot step (R408): its alternative, where its entry was written at the previous start and shows a failure. Steps 4, 5 and 6 need no
further check of it. -/
def State.bootStep (s : State) (n : Nat) (r : BootResult) (b : BootIn) : State :=
  let failed := (s.entry n).out = 2 && (s.entry n).start + 1 = s.starts
  if s.power = .recovery then s
  else if failed && !hasAlt n then s.toRecovery
  else
    let valid := n ≠ 2 || s.imageOk r b
    if failed then
      if (r.altOk || n = 4 || n = 5 || n = 6) && valid then
        let s := (s.stepOk n r b true).setEntry n 3 0
        if n = 4 then s.bootFail n else s
      else
        let s := ((s.setEntry n 2 r.code).bootFail n).stepFailed n r b
        if n = 2 then s.toRecovery else s
    else if r.ok && valid && (n ≠ 6 || b.failing.isEmpty) then (s.stepOk n r b false).setEntry n 1 0
    else
      let s := ((s.setEntry n 2 r.code).bootFail n).stepFailed n r b
      if vital n then s.toRecovery else s

/-- The steps in order; a power loss during step n leaves its entry with OUT = 0. -/
def State.bootSteps (s : State) (b : BootIn) : List Nat → List BootResult → State
  | [], _ => s
  | n :: _, [] => { s with bootRec := s.bootRec.put n {}, power := .off }
  | n :: ns, r :: rs => State.bootSteps (s.bootStep n r b) b ns rs

/-- Whether the fuses of a G120 take a cluster out: two of each glade (R1, R11; which two, DESIGN CHOICE, log 74). -/
def fusedPair (c : Nat) : Bool :=
  let a := Config.fusedOut (c / 32) % 32
  c % 32 == a || c % 32 == (a + 1 + Config.fusedOut (4 + c / 32) % 31) % 32

/-- What survives without power: the persistent store of the management cores, the fuses, and what the host does next. -/
def State.cold (s : State) : State :=
  { State.reset with
    deviceId := s.deviceId, bootRec := s.bootRec, excludedMask := s.excludedMask, starts := s.starts, skuG120 := s.skuG120,
    rootDigest := s.rootDigest, rollback := s.rollback, xmssIndex := s.xmssIndex, identity := s.identity, hostMem := s.hostMem, out := s.out, input := s.input,
    drawn := s.drawn, links := s.links.mapV (fun _ k => { st := if k.st = linkFailed then linkFailed else linkDown, sync := k.sync }),
    hostRegions := s.hostRegions, windows := s.windows, homes := s.homes, isReference := s.isReference,
    clusters := (List.range 128).filterMap (fun c =>
      if (s.cluster c).fused || (s.skuG120 && fusedPair c) then some (c, { fused := true }) else none) }

/-- BOOT: every start runs the seven steps; after step 7 a device that is its own time source sets its time base (R403), and
firmware has programmed the host-visible regions (R297, log 75). The host has named its event area (R416, log 7). -/
def execBoot (res : List BootResult) (failing : List Nat) (image : List Byte) (ver : Nat) (s : State) : Res :=
  let s := { s.cold with starts := s.starts + 1, power := .started, areaBase := Config.eventArea }
  let s := s.bootSteps { failing := failing, image := image, ver := ver } [1, 2, 3, 4, 5, 6, 7] res
  if s.power ≠ .started then done s
  else
    let s := { s with power := .active, hostRegions := Config.hostRegions }
    done (if s.ownSource then s.ownTime else s)

def execPowerLoss (s : State) : Res := done { s.cold with power := .off }

/-! ## Mailbox commands (R410 to R413, R416) -/

/-- VERSION: the highest common version; Mirroth supports version 1. The response also reports the address of the launch-queue BAR (R325;
DESIGN CHOICE, log 32). -/
def execVersion (tag : BitVec 16) (bitmap : Word) (s : State) : Res :=
  if s.power = .off || s.power = .started then done s
  else
    let s := s.awake
    if bitmap.getLsbD 1 then
      let s := { s with version := 1 }
      done ((s.drainHeld s.heldEvents.length).respond tag 0 (leBytes 8 1 ++ leBytes 8 barQueues))
    else done (s.respond tag 1 [])

/-- A response longer than one message goes in consecutive ones (DESIGN CHOICE, log 13). -/
def State.respondLong (s : State) (tag : BitVec 16) (body : List Byte) : State :=
  (List.range ((body.length + 55) / 56)).foldl (fun s i => s.respond tag 0 ((body.drop (56 * i)).take 56)) s

def Power.num : Power → Nat | .off => 0 | .started => 1 | .recovery => 2 | .active => 3 | .asleep => 4

/-- STATUS: the power state and the status words of the links (R395). -/
def execStatus (tag : BitVec 16) (s : State) : Res :=
  s.command tag true (fun s => s.respondLong tag (leBytes 8 s.power.num ++ (List.range 18).flatMap (fun l => leBytes 8 (s.link l).word.toNat)))

/-- The boot record in its 72 bytes. -/
def State.bootBytes (s : State) : List Byte :=
  [1, 2, 3, 4, 5, 6, 7].flatMap (fun n => leBytes 8 (s.entry n).word.toNat) ++ leBytes 16 s.excludedMask.toNat

def execBootrec (tag : BitVec 16) (s : State) : Res := s.command tag true (fun s => s.respondLong tag s.bootBytes)

def execClear (tag : BitVec 16) (stepNo : Nat) (s : State) : Res :=
  s.command tag true (fun s =>
    if stepNo = 0 || 7 < stepNo then s.answer tag false else { s with bootRec := s.bootRec.del stepNo }.answer tag true)

/-- ACCEPT: the running image's version advances the rollback counter. -/
def execAccept (tag : BitVec 16) (s : State) : Res :=
  s.command tag false (fun s =>
    (if s.rollback.toNat < s.imageVersion.toNat then { s with rollback := s.imageVersion } else s).answer tag true)

/-- The signed content of a quote: 144 bytes (R412). -/
def State.quote (s : State) (nonce : BitVec 256) : List Byte :=
  leBytes 32 nonce.toNat ++ leBytes 32 s.imageDigest.toNat ++ s.bootBytes ++
    leBytes 1 (if s.skuG120 then 120 else 128) ++ leBytes 1 s.usable.length ++ leBytes 4 s.rollback.toNat ++ leBytes 2 0

/-- ATTEST: the state index is advanced before the signature is released; past its end the request is exhausted. -/
def execAttest (tag : BitVec 16) (nonce : BitVec 256) (s : State) : Res :=
  s.command tag false (fun s =>
    if 2 ^ 20 ≤ s.xmssIndex then s.respond tag 3 []
    else
      let q := s.quote nonce
      { s with xmssIndex := s.xmssIndex + 1 }.respondLong tag (q ++ Config.xmssSign s.identity s.xmssIndex q))

/-- KEYLOAD: never slot 0, a slot of another context, or one that a present PTE names. -/
def execKeyload (tag : BitVec 16) (ctx slot : Nat) (key : BitVec 512) (s : State) : Res :=
  s.command tag false (fun s =>
    let c := s.ctx ctx
    let ok := decide (ctx < 1024) && c.state ≠ ctxFree && c.state ≠ ctxClosing && decide (1 ≤ slot) && decide (slot < 1024) && decide (c.keybase ≤ slot) &&
      decide (slot < c.keybase + c.keycnt) && !s.leaves.any (fun p => pteP p.2 && pteKey p.2 == slot)
    if ok then { s with keys := s.keys.put slot key }.answer tag true else s.answer tag false)

def execPowercap (tag : BitVec 16) (watts : Nat) (s : State) : Res :=
  s.command tag false (fun s =>
    if watts < 200 || 3200 < watts then s.answer tag false else { s with capWatts := watts, capReported := false }.answer tag true)

/-- Distances of a residency control word: 1 to 131,072 (R268). -/
def ctlOk (w : Word) : Bool :=
  decide (1 ≤ ctlDefd w) && decide (ctlDefd w ≤ 131072) && decide (1 ≤ ctlAge w) && decide (ctlAge w ≤ 131072) && w.extractLsb' 18 2 = 0 && w.extractLsb' 38 26 = 0

def execResidencyControlWrite (tag : BitVec 16) (lv : Level) (cache : Nat) (w : Word) (s : State) : Res :=
  s.command tag false (fun s =>
    if !ctlOk w then s.answer tag false
    else match lv with
      | .l1 => if 1024 ≤ cache then s.answer tag false else (s.setCore cache { s.core cache with l1 := { (s.core cache).l1 with ctl := w } }).answer tag true
      | .l2 => if 128 ≤ cache then s.answer tag false else { s with slices := s.slices.put cache { s.slice cache with ctl := w } }.answer tag true
      | .page => { s with pageCtl := w }.answer tag true)

/-- TENANT_WORD_WRITE: firmware writes SHARE alone (R269); the page level keeps no occupancy of its own
(DEDUCED, log 52). -/
def execTenantWordWrite (tag : BitVec 16) (lv : Level) (cache tenant : Nat) (share : BitVec 8) (s : State) : Res :=
  s.command tag false (fun s =>
    let top := match lv with | .l1 => 1024 | .l2 => 4 | .page => 0
    if 64 ≤ tenant || top ≤ cache then s.answer tag false
    else
      let ws := s.tenantWords lv cache
      let w := (ws.get 0 tenant &&& ~~~(0xFF00 : Word)) ||| (share.zeroExtend 64 <<< 8)
      (s.setTenantWords lv cache (ws.put tenant w)).answer tag true)

def execTenantWeightSet (tag : BitVec 16) (tenant : Nat) (weight : BitVec 8) (s : State) : Res :=
  s.command tag false (fun s =>
    if 64 ≤ tenant || weight = 0 then s.answer tag false else { s with weights := s.weights.put tenant weight.toNat }.answer tag true)

/-- PACKAGE_SLEEP: only while no context runs. -/
def execPackageSleep (tag : BitVec 16) (s : State) : Res :=
  s.command tag false (fun s =>
    if s.power ≠ .active || s.ctxs.any (fun c => c.2.state == ctxRunning) then s.answer tag false
    else { s.answer tag true with power := .asleep })
/-- PACKAGE_WAKE: by any host access or command. -/
def execPackageWake (s : State) : Res := if s.power = .asleep then done s.awake else notNow "PACKAGE_WAKE"

/-- EVENT_RETURN: the host has consumed so many entries in all. -/
def execEventReturn (consumed : Nat) (s : State) : Res := s.hosted (fun s => s.returnEntries consumed)

def execUnknownMailboxCode (tag code : BitVec 16) (s : State) : Res :=
  let _ := code
  s.command tag false (fun s => s.respond tag 2 [])

/-! ## Errors and power (R414, R418) -/

/-- A scrub of [base, base + n): correctable words corrected and counted, others reported and left, in ascending order of unit (R415). -/
def State.scrub (s : State) (base n : Nat) : State :=
  let hit (e : Nat × Nat) : Bool := decide (base ≤ e.1 * 8) && decide (e.1 * 8 < base + n)
  let found := byUnit (s.ecc.filter hit)
  let s := { s with ecc := s.ecc.filter (fun e => !(hit e && e.2 == 1)) }
  found.foldl (fun s e => s.errorRecord (if e.2 = 1 then errCorrectable else errScrub) (errUnit (e.1 * 8)) (e.1 * 8) 0xFFFF) s
def execScrubPass (base n : Nat) (s : State) : Res := if s.power ≠ .active then notNow "SCRUB_PASS" else done (s.scrub base n)

/-- Every LM word is scrubbed once in 2^34 ticks, and all of device memory once in 2^46 (R414), each at one instant (DESIGN CHOICE,
log 2). -/
def State.scrubDue (s : State) : Bool := decide (s.lmScrubAt + 2 ^ 34 ≤ s.tick) || decide (s.memScrubAt + 2 ^ 46 ≤ s.tick)
def State.scrubNow (s : State) : State :=
  if s.lmScrubAt + 2 ^ 34 ≤ s.tick then { s with lmScrubAt := s.tick }.scrub (2 ^ 60) (2 ^ 64)
  else { s with memScrubAt := s.tick }.scrub 0 mainMemory

/-- CLOCK_STEP at a measured power: 50 MHz down above the cap, up below 95 % of it, at most once per 2^20 ticks; at the
floor above the cap the device reports once. -/
def execClockStep (watts : Nat) (s : State) : Res :=
  if s.power ≠ .active || s.tick < s.stepAt then notNow "CLOCK_STEP" else
  let next := s.tick + 2 ^ 20
  if s.hot || s.capWatts < watts then
    if 750 ≤ s.mhz then done { s with mhz := s.mhz - 50, stepAt := next }
    else if watts ≤ s.capWatts || s.capReported then done s
    else done ({ s with capReported := true }.report .power (leBytes 8 watts ++ leBytes 8 s.capWatts))
  else if 100 * watts < 95 * s.capWatts && s.mhz < 1400 then done { s with mhz := s.mhz + 50, stepAt := next, capReported := false }
  else done s

/-- COLD_PLATE_TEMPERATURE_LIMIT: handled as a cap at the floor while it lasts, and reported. -/
def execColdPlateTemperatureLimit (atLimit : Bool) (s : State) : Res :=
  if s.power = .off then done s
  else done (if atLimit && !s.hot then { s with hot := true }.report .power (leBytes 8 1) else { s with hot := atLimit })

end Sys2Proof.Machine
end

