-- ==== Sys2Proof/Machine/Clauses.lean ====
section
/-! DEFINITION. The clause arrays (R220 to R228): configuration, inference, training, and the cells' dump and load. -/

namespace Sys2Proof.Machine

def Clause.cls (m : Clause) (c : Nat) : Nat := ((m.entry c).extractLsb' 0 6).toNat
def Clause.active (m : Clause) (c : Nat) : Bool := (m.entry c).getLsbD 6
def Clause.pol (m : Clause) (c : Nat) : Int := if (m.entry c).getLsbD 7 then -1 else 1

/-- Literal l of a sample given as a number (R220, R221). -/
def Clause.lit (m : Clause) (x l : Nat) : Bool := if l < m.f then x.testBit l else !x.testBit (l - m.f)

/-- The output of an active clause (R222). -/
def Clause.out (m : Clause) (empty : Bool) (x c : Nat) : Bool :=
  let inc := (List.range m.lits).filter (fun l => !(m.cell c l).getLsbD 7)
  if inc.isEmpty then empty else inc.all (m.lit x)

/-- The vote of a class from outputs (R222). -/
def Clause.vote (m : Clause) (outs : Nat → Bool) (k : Nat) : Int :=
  let v := (List.range m.c).foldl (fun a c => if m.active c && m.cls c == k && outs c then a + m.pol c else a) 0
  clampInt v (-m.t) m.t

/-- The lowest class of the largest vote. -/
def argmaxVote (vs : List Int) : Nat :=
  (vs.zipIdx.foldl (fun b e => match b with | none => some e | some x => if x.1 < e.1 then some e else some x) none).elim 0 (·.2)

def Clause.sampleBytes (m : Clause) : Nat := 8 * ((m.f + 63) / 64)
def Clause.outBytes (m : Clause) : Nat := 8 * ((2 * m.k + 2 + 7) / 8)

/-- An output record (R221). -/
def Clause.outRecord (m : Clause) (x : Nat) : List Byte :=
  let vs := (List.range m.k).map (m.vote (m.out m.emptyInf x))
  let bs := vs.flatMap (fun v => leBytes 2 (v % 65536).toNat) ++ leBytes 2 (argmaxVote vs)
  bs ++ List.replicate (m.outBytes - bs.length) 0

/-! ## CACFG and CASEED (R220, R224) -/

/-- The header of a block in range (R220). -/
def blockOk (h : BitVec 512) : Bool :=
  let c := (h.extractLsb' 0 16).toNat
  let f := (h.extractLsb' 16 16).toNat
  let k := (h.extractLsb' 32 8).toNat
  let t := (h.extractLsb' 48 16).toNat
  let th (i : Nat) : Nat := (h.extractLsb' (128 + 32 * i) 32).toNat
  c % 32 = 0 && decide (32 ≤ c) && decide (c ≤ 2048) && decide (1 ≤ f) && decide (f ≤ 1024) && decide (1 ≤ k) && decide (k ≤ 64) &&
    decide (1 ≤ t) && decide (t ≤ 32767) && h.extractLsb' 65 63 = 0 && h.extractLsb' 256 256 = 0 && (List.range 4).all (fun i => decide (th i ≤ 65536))

/-- Table entries in range: CLASS below K where ACTIVE. -/
def tableOk (k : Nat) (bs : List Byte) : Bool := bs.all (fun b => !b.getLsbD 6 || decide ((b.extractLsb' 0 6).toNat < k))

def execCacfg (w : CmdWord) (s : State) : Res :=
  s.runCmd w 0x10 "CACFG" (fun s ec c => do
    if cmdF w 0 56 ≠ 0 || w.q2 ≠ 0 || w.q3 ≠ 0 then stopField s
    else
      let (bs, s) ← s.engBlock ec (fun s => s.engReadOne ec c 0 { a := w.q1.toNat, n := 64, need := .read, al := 64 })
      let h : BitVec 512 := wordOf 512 bs
      let n := (h.extractLsb' 0 16).toNat
      if !blockOk h then .error (.stop codeBLOCK 0 s)
      else
        let (qs, s) ← s.engReady ec c 1 [{ a := w.q1.toNat, n := 64 + n, need := .read, al := 64 }]
        match qs with
        | [q] =>
          let (tb, s) ← s.engRead ec c (q.sub 64 n)
          let k := (h.extractLsb' 32 8).toNat
          if !tableOk k tb then .error (.stop codeBLOCK 0 s)
          else
            let th (i : Nat) : Nat := (h.extractLsb' (128 + 32 * i) 32).toNat
            let old := s.clause ec
            .ok (s.setClause ec { old with
              configured := true, c := n, f := (h.extractLsb' 16 16).toNat, k := k, t := (h.extractLsb' 48 16).toNat
              emptyInf := h.getLsbD 64, ti1 := th 0, ti0 := th 1, tiz := th 2, tii := th 3
              table := tb.zipIdx.map (fun e => (e.2, e.1)), init := h.extractLsb' 40 8, cells := [] })
        | _ => .ok s)

def execCaseed (w : CmdWord) (s : State) : Res :=
  s.runCmd w 0x15 "CASEED" (fun s ec _ =>
    if cmdF w 0 56 ≠ 0 || w.q3 ≠ 0 then stopField s
    else .ok (s.setClause ec { s.clause ec with seed := w.q1, ctr := w.q2, wrap := false }))

/-! ## CAINF (R225) -/

/-- The samples of a run in order, one output record each; what stops it leaves the records already written. -/
def State.inferAll (ec : Nat) (c : Cmd) (m : Clause) (x y : Span) : List Nat → RangePush → Run RangePush
  | [], r => .ok r
  | i :: rest, r =>
    if r.bad.isSome then .ok r else do
    let (b, r) ← r.read ec c (fun s => s.engRead ec c (x.sub (i * m.sampleBytes) m.sampleBytes))
    State.inferAll ec c m x y rest (r.eng ec c (y.sub (i * m.outBytes) m.outBytes) (m.outRecord (leNat b)))

def execCainf (w : CmdWord) (s : State) : Res :=
  s.runCmd w 0x11 "CAINF" (fun s ec c => do
    let n := cmdF w 0 32
    let m := s.clause ec
    if cmdF w 32 24 ≠ 0 || n = 0 || w.q3 ≠ 0 then stopField s
    else if !m.configured then .error (.stop codeNOCFG 0 s)
    else
      let (qs, s) ← s.engReady ec c 0
        [{ a := w.q1.toNat, n := n * m.sampleBytes, need := .read }, { a := w.q2.toNat, n := n * m.outBytes, need := .write }]
      match qs with
      | [x, y] =>
        let r ← State.inferAll ec c m x y (List.range n) { s := s }
        r.finish ec c none
      | _ => .ok s)

/-! ## CATRN (R226) -/

/-- d(k, n): bits [63:48] of a draw. -/
def draw16 (k n : Word) : Nat := ((draw k n).extractLsb' 48 16).toNat

/-- The negative class of a target record: none for K = 1; an error for a bad record. -/
def Clause.negative (m : Clause) (rec_ : Nat) : Except Unit (Option Nat) :=
  let y := rec_ % 64
  if m.k ≤ y || rec_ / 64 % 4 ≠ 0 || rec_ / 2 ^ 14 % 2 ≠ 0 || 2 ^ 16 ≤ rec_ then .error ()
  else if m.k = 1 then .ok none
  else if rec_.testBit 15 then
    let u := draw (m.seed ^^^ (1#64 <<< 62)) m.ctr
    let j := (u.extractLsb' 32 32).toNat * (m.k - 1) / 2 ^ 32
    .ok (some (if j < y then j else j + 1))
  else
    let neg := rec_ / 2 ^ 8 % 64
    if m.k ≤ neg || neg = y then .error () else .ok (some neg)

/-- The new value of one cell. -/
def Clause.update (m : Clause) (typeI out : Bool) (x c l : Nat) : BitVec 8 :=
  let r := draw16 m.seed ((m.ctr <<< 23) ||| BitVec.ofNat 64 (c * 2 ^ 11) ||| BitVec.ofNat 64 l)
  let cell := (m.cell c l).toInt
  let lit := m.lit x l
  let up := BitVec.ofInt 8 (clampInt (cell + 1) (-128) 127)
  let down := BitVec.ofInt 8 (clampInt (cell - 1) (-128) 127)
  if typeI then
    if out && lit && r < m.ti1 then up
    else if out && !lit && r < m.ti0 then down
    else if !out && r < m.tiz then down
    else m.cell c l
  else if out && !lit && cell < 0 && r < m.tii then up
  else m.cell c l

/-- One sample (R226): the model after it, or none for a bad record. -/
def Clause.train (m : Clause) (allfb : Bool) (x rec_ : Nat) : Option Clause :=
  match m.negative rec_ with
  | .error _ => none
  | .ok neg =>
    let y := rec_ % 64
    let outs := (List.range m.c).map (fun c => m.active c && m.out true x c)
    let o (c : Nat) : Bool := outs.getD c false
    let v (k : Nat) : Int := m.vote o k
    let sel (c : Nat) : Bool :=
      if allfb then true
      else
        let r := draw16 (m.seed ^^^ (1#64 <<< 63)) ((m.ctr <<< 11) ||| BitVec.ofNat 64 c)
        if m.cls c = y then decide ((r : Int) * (2 * m.t) < (m.t - v y) * 65536)
        else decide ((r : Int) * (2 * m.t) < (m.t + v (neg.getD 0)) * 65536)
    let fed := (List.range m.c).filter (fun c => m.active c && (m.cls c == y || some (m.cls c) == neg) && sel c)
    let cells := fed.foldl (fun cells c =>
      let typeI := (m.cls c == y) == (m.pol c == 1)
      (List.range m.lits).foldl (fun cells l =>
        let n := m.update typeI (o c) x c l
        if n = m.cell c l then cells else cells.put (c * 2048 + l) n) cells) m.cells
    let ctr := m.ctr + 1
    some { m with cells := cells, ctr := ctr, wrap := m.wrap || ctr = 0 }

/-- The samples of a run in order; what stops it leaves the earlier samples applied (R226). -/
def State.trainAll (ec : Nat) (c : Cmd) (allfb : Bool) (x y : Span) : List Nat → State → Run State
  | [], s => .ok s
  | i :: rest, s => do
    let m := s.clause ec
    let (a, s) ← s.engRead ec c (x.sub (i * m.sampleBytes) m.sampleBytes)
    let (b, s) ← s.engRead ec c (y.sub (i * 8) 8)
    match m.train allfb (leNat a) (leNat b) with
    | some m => State.trainAll ec c allfb x y rest (s.setClause ec m)
    | none => .error (.stop codeRECORD 0 s)

def execCatrn (w : CmdWord) (s : State) : Res :=
  s.runCmd w 0x12 "CATRN" (fun s ec c => do
    let n := cmdF w 0 32
    let m := s.clause ec
    if cmdF w 32 16 ≠ 0 || cmdF w 49 7 ≠ 0 || n = 0 || w.q3 ≠ 0 then stopField s
    else if !m.configured then .error (.stop codeNOCFG 0 s)
    else
      let (qs, s) ← s.engReady ec c 0
        [{ a := w.q1.toNat, n := n * m.sampleBytes, need := .read }, { a := w.q2.toNat, n := n * 8, need := .read }]
      match qs with
      | [x, y] => State.trainAll ec c (cmdB w 48) x y (List.range n) s
      | _ => .ok s)

/-! ## CARD and CAWR (R227) -/

/-- The header CARD writes. -/
def Clause.header (m : Clause) : List Byte := m.fields ++ List.replicate 39 0

/-- First clause and count of CARD and CAWR. -/
def cardFields (w : CmdWord) : Nat × Nat := (cmdF w 0 12, cmdF w 12 12)

def execCard (w : CmdWord) (s : State) : Res :=
  s.runCmd w 0x13 "CARD" (fun s ec c => do
    let (c0, nc) := cardFields w
    let m := s.clause ec
    let hdr := cmdB w 48
    if cmdF w 24 24 ≠ 0 || cmdF w 49 7 ≠ 0 || nc = 0 || 2048 < nc || w.q2 ≠ 0 || w.q3 ≠ 0 then stopField s
    else if !m.configured then .error (.stop codeNOCFG 0 s)
    else if m.c < c0 + nc then stopField s
    else
      let bs := (if hdr then m.header else []) ++ m.dump c0 nc
      let (qs, s) ← s.engReady ec c 0 [{ a := w.q1.toNat, n := bs.length, need := .write }]
      s.engWrites ec c none (qs.map (fun q => (q, bs))))

def execCawr (w : CmdWord) (s : State) : Res :=
  s.runCmd w 0x14 "CAWR" (fun s ec c => do
    let (c0, nc) := cardFields w
    let m := s.clause ec
    if cmdF w 24 32 ≠ 0 || nc = 0 || 2048 < nc || w.q2 ≠ 0 || w.q3 ≠ 0 then stopField s
    else if !m.configured then .error (.stop codeNOCFG 0 s)
    else if m.c < c0 + nc then stopField s
    else
      let (bs, s) ← s.engReadOne ec c 0 { a := w.q1.toNat, n := nc * m.lits, need := .read }
      let cells := bs.zipIdx.foldl (fun cells e => cells.put ((c0 + e.2 / m.lits) * 2048 + e.2 % m.lits) e.1) m.cells
      .ok (s.setClause ec { m with cells := cells }))

end Sys2Proof.Machine
end

