-- ==== Sys2Proof/Machine/Dispatch.lean ====
section
/-! DEFINITION. The dispatch: one arm per instruction. -/

namespace Sys2Proof.Machine

def exec (i : Instr) (s : State) : Host.Outcome State Fault Refusal :=
  match i with
  | .nop => Sys2Proof.Machine.execNop s
  | .illegalBundle op slot => Sys2Proof.Machine.execIllegalBundle op slot s
  | .add d s1 s2 => Sys2Proof.Machine.execAdd d s1 s2 s
  | .sub d s1 s2 => Sys2Proof.Machine.execSub d s1 s2 s
  | .mul d s1 s2 => Sys2Proof.Machine.execMul d s1 s2 s
  | .mulh d s1 s2 => Sys2Proof.Machine.execMulh d s1 s2 s
  | .mulhu d s1 s2 => Sys2Proof.Machine.execMulhu d s1 s2 s
  | .div d s1 s2 => Sys2Proof.Machine.execDiv d s1 s2 s
  | .divu d s1 s2 => Sys2Proof.Machine.execDivu d s1 s2 s
  | .rem d s1 s2 => Sys2Proof.Machine.execRem d s1 s2 s
  | .remu d s1 s2 => Sys2Proof.Machine.execRemu d s1 s2 s
  | .and d s1 s2 => Sys2Proof.Machine.execAnd d s1 s2 s
  | .or d s1 s2 => Sys2Proof.Machine.execOr d s1 s2 s
  | .xor d s1 s2 => Sys2Proof.Machine.execXor d s1 s2 s
  | .andn d s1 s2 => Sys2Proof.Machine.execAndn d s1 s2 s
  | .sll d s1 s2 => Sys2Proof.Machine.execSll d s1 s2 s
  | .srl d s1 s2 => Sys2Proof.Machine.execSrl d s1 s2 s
  | .sra d s1 s2 => Sys2Proof.Machine.execSra d s1 s2 s
  | .rol d s1 s2 => Sys2Proof.Machine.execRol d s1 s2 s
  | .min d s1 s2 => Sys2Proof.Machine.execMin d s1 s2 s
  | .max d s1 s2 => Sys2Proof.Machine.execMax d s1 s2 s
  | .minu d s1 s2 => Sys2Proof.Machine.execMinu d s1 s2 s
  | .maxu d s1 s2 => Sys2Proof.Machine.execMaxu d s1 s2 s
  | .addw d s1 s2 => Sys2Proof.Machine.execAddw d s1 s2 s
  | .subw d s1 s2 => Sys2Proof.Machine.execSubw d s1 s2 s
  | .mulw d s1 s2 => Sys2Proof.Machine.execMulw d s1 s2 s
  | .lea d s1 s2 sh => Sys2Proof.Machine.execLea d s1 s2 sh s
  | .addi d s1 imm => Sys2Proof.Machine.execAddi d s1 imm s
  | .andi d s1 imm => Sys2Proof.Machine.execAndi d s1 imm s
  | .ori d s1 imm => Sys2Proof.Machine.execOri d s1 imm s
  | .xori d s1 imm => Sys2Proof.Machine.execXori d s1 imm s
  | .slli d s1 n => Sys2Proof.Machine.execSlli d s1 n s
  | .srli d s1 n => Sys2Proof.Machine.execSrli d s1 n s
  | .srai d s1 n => Sys2Proof.Machine.execSrai d s1 n s
  | .lih d s1 imm => Sys2Proof.Machine.execLih d s1 imm s
  | .li d imm => Sys2Proof.Machine.execLi d imm s
  | .addwi d s1 imm => Sys2Proof.Machine.execAddwi d s1 imm s
  | .set c d s1 s2 => Sys2Proof.Machine.execSet c d s1 s2 s
  | .seti c d s1 imm => Sys2Proof.Machine.execSeti c d s1 imm s
  | .pset c pd s1 s2 => Sys2Proof.Machine.execPset c pd s1 s2 s
  | .pseti c pd s1 imm => Sys2Proof.Machine.execPseti c pd s1 imm s
  | .plog pd ps1 ps2 t => Sys2Proof.Machine.execPlog pd ps1 ps2 t s
  | .sel d s1 s2 p neg => Sys2Proof.Machine.execSel d s1 s2 p neg s
  | .clz d s1 => Sys2Proof.Machine.execClz d s1 s
  | .ctz d s1 => Sys2Proof.Machine.execCtz d s1 s
  | .popc d s1 => Sys2Proof.Machine.execPopc d s1 s
  | .brev d s1 => Sys2Proof.Machine.execBrev d s1 s
  | .bswap d s1 => Sys2Proof.Machine.execBswap d s1 s
  | .bfx d s1 pos w1 => Sys2Proof.Machine.execBfx d s1 pos w1 s
  | .bfi d s1 pos w1 => Sys2Proof.Machine.execBfi d s1 pos w1 s
  | .sext d s1 k => Sys2Proof.Machine.execSext d s1 k s
  | .zext d s1 k => Sys2Proof.Machine.execZext d s1 k s
  | .mfold d s1 s2 => Sys2Proof.Machine.execMfold d s1 s2 s
  | .b c s1 s2 disp => Sys2Proof.Machine.execB c s1 s2 disp s
  | .bp p neg disp => Sys2Proof.Machine.execBp p neg disp s
  | .j disp => Sys2Proof.Machine.execJ disp s
  | .jal d disp => Sys2Proof.Machine.execJal d disp s
  | .jr d s1 => Sys2Proof.Machine.execJr d s1 s
  | .dbnz s1 disp => Sys2Proof.Machine.execDbnz s1 disp s
  | .trap code => Sys2Proof.Machine.execTrap code s
  | .pageInRequest => Sys2Proof.Machine.execPageInRequest s
  | .enterFaultHold => Sys2Proof.Machine.execEnterFaultHold s
  | .postToHostMailbox => Sys2Proof.Machine.execPostToHostMailbox s
  | .brk code => Sys2Proof.Machine.execBrk code s
  | .eret => Sys2Proof.Machine.execEret s
  | .spawn d s1 s2 => Sys2Proof.Machine.execSpawn d s1 s2 s
  | .exit => Sys2Proof.Machine.execExit s
  | .join d s1 => Sys2Proof.Machine.execJoin d s1 s
  | .leave d s1 => Sys2Proof.Machine.execLeave d s1 s
  | .gcount d s1 => Sys2Proof.Machine.execGcount d s1 s
  | .meet d s1 s2 mid win => Sys2Proof.Machine.execMeet d s1 s2 mid win s
  | .waitm d => Sys2Proof.Machine.execWaitm d s
  | .waitr d s1 s2 => Sys2Proof.Machine.execWaitr d s1 s2 s
  | .waitt e d s1 => Sys2Proof.Machine.execWaitt e d s1 s
  | .sleep d s1 => Sys2Proof.Machine.execSleep d s1 s
  | .migr d s1 => Sys2Proof.Machine.execMigr d s1 s
  | .send s1 s2 => Sys2Proof.Machine.execSend s1 s2 s
  | .recv d s1 => Sys2Proof.Machine.execRecv d s1 s
  | .qstat d => Sys2Proof.Machine.execQstat d s
  | .taskq d s1 => Sys2Proof.Machine.execTaskq d s1 s
  | .taskd d s1 => Sys2Proof.Machine.execTaskd d s1 s
  | .tret => Sys2Proof.Machine.execTret s
  | .dqpush d s1 s2 => Sys2Proof.Machine.execDqpush d s1 s2 s
  | .dqpop d => Sys2Proof.Machine.execDqpop d s
  | .dqsplit d => Sys2Proof.Machine.execDqsplit d s
  | .dqsteal d s1 => Sys2Proof.Machine.execDqsteal d s1 s
  | .nrd dir d hn p => Sys2Proof.Machine.execNrd dir d hn p s
  | .barm bar s1 s2 => Sys2Proof.Machine.execBarm bar s1 s2 s
  | .barr sc bar remote s1 => Sys2Proof.Machine.execBarr sc bar remote s1 s
  | .bwait sc d bar s1 s2 p => Sys2Proof.Machine.execBwait sc d bar s1 s2 p s
  | .bstat d bar w => Sys2Proof.Machine.execBstat d bar w s
  | .klaunch d s1 s2 => Sys2Proof.Machine.execKlaunch d s1 s2 s
  | .srd d sel hi => Sys2Proof.Machine.execSrd d sel hi s
  | .swr sel hi s1 => Sys2Proof.Machine.execSwr sel hi s1 s
  | .rand d => Sys2Proof.Machine.execRand d s
  | .fence k sc => Sys2Proof.Machine.execFence k sc s
  | .rfence => Sys2Proof.Machine.execRfence s
  | .lease e try_ d => Sys2Proof.Machine.execLease e try_ d s
  | .lrel e => Sys2Proof.Machine.execLrel e s
  | .enq e d s1 off => Sys2Proof.Machine.execEnq e d s1 off s
  | .enqi e d s1 s2 w => Sys2Proof.Machine.execEnqi e d s1 s2 w s
  | .ld sz cl sc d s1 off nd => Sys2Proof.Machine.execLd sz cl sc d s1 off nd s
  | .st sz cl sc s2 s1 off nd => Sys2Proof.Machine.execSt sz cl sc s2 s1 off nd s
  | .ldfe d s1 off nd => Sys2Proof.Machine.execLdfe d s1 off nd s
  | .stfe s2 s1 off nd => Sys2Proof.Machine.execStfe s2 s1 off nd s
  | .ldff d s1 off nd => Sys2Proof.Machine.execLdff d s1 off nd s
  | .feset full s1 off nd => Sys2Proof.Machine.execFeset full s1 off nd s
  | .pref sc s1 off nd => Sys2Proof.Machine.execPref sc s1 off nd s
  | .lwb sc s1 off nd => Sys2Proof.Machine.execLwb sc s1 off nd s
  | .linv sc s1 off nd => Sys2Proof.Machine.execLinv sc s1 off nd s
  | .lr sz sc d s1 off nd => Sys2Proof.Machine.execLr sz sc d s1 off nd s
  | .sc sz sc d s2 s1 off nd => Sys2Proof.Machine.execSc sz sc d s2 s1 off nd s
  | .amoAdd sz sc d s2 s1 off nd => Sys2Proof.Machine.execAmoAdd sz sc d s2 s1 off nd s
  | .amoMin sz sc d s2 s1 off nd => Sys2Proof.Machine.execAmoMin sz sc d s2 s1 off nd s
  | .amoMax sz sc d s2 s1 off nd => Sys2Proof.Machine.execAmoMax sz sc d s2 s1 off nd s
  | .amoAnd sz sc d s2 s1 off nd => Sys2Proof.Machine.execAmoAnd sz sc d s2 s1 off nd s
  | .amoOr sz sc d s2 s1 off nd => Sys2Proof.Machine.execAmoOr sz sc d s2 s1 off nd s
  | .amoXchg sz sc d s2 s1 off nd => Sys2Proof.Machine.execAmoXchg sz sc d s2 s1 off nd s
  | .amoAddi sz sc d imm s1 off nd => Sys2Proof.Machine.execAmoAddi sz sc d imm s1 off nd s
  | .cas sz sc d s2 s1 off nd => Sys2Proof.Machine.execCas sz sc d s2 s1 off nd s
  | .xacc sc s2 s1 off nd => Sys2Proof.Machine.execXacc sc s2 s1 off nd s
  | .xrd rm sc d s1 off nd => Sys2Proof.Machine.execXrd rm sc d s1 off nd s
  | .xclr sc s1 off nd => Sys2Proof.Machine.execXclr sc s1 off nd s
  | .acopy d s1 s2 len => Sys2Proof.Machine.execAcopy d s1 s2 len s
  | .acopys d s1 bar barOn => Sys2Proof.Machine.execAcopys d s1 bar barOn s
  | .tilest atomic guard_ d s1 s2 n => Sys2Proof.Machine.execTilest atomic guard_ d s1 s2 n s
  | .tileld consistent d s1 s2 n => Sys2Proof.Machine.execTileld consistent d s1 s2 n s
  | .wmap stash d s1 s2 w g => Sys2Proof.Machine.execWmap stash d s1 s2 w g s
  | .wunmap d w => Sys2Proof.Machine.execWunmap d w s
  | .wsync d w => Sys2Proof.Machine.execWsync d w s
  | .wstat d w => Sys2Proof.Machine.execWstat d w s
  | .vnop => Sys2Proof.Machine.execVnop s
  | .vadd ty rm m vd vs1 vs2 => Sys2Proof.Machine.execVadd ty rm m vd vs1 vs2 s
  | .vsub ty rm m vd vs1 vs2 => Sys2Proof.Machine.execVsub ty rm m vd vs1 vs2 s
  | .vmul ty rm m vd vs1 vs2 => Sys2Proof.Machine.execVmul ty rm m vd vs1 vs2 s
  | .vfma ty rm m vd vs1 vs2 vs3 => Sys2Proof.Machine.execVfma ty rm m vd vs1 vs2 vs3 s
  | .vfms ty rm m vd vs1 vs2 vs3 => Sys2Proof.Machine.execVfms ty rm m vd vs1 vs2 vs3 s
  | .vfnma ty rm m vd vs1 vs2 vs3 => Sys2Proof.Machine.execVfnma ty rm m vd vs1 vs2 vs3 s
  | .vmin ty m vd vs1 vs2 => Sys2Proof.Machine.execVmin ty m vd vs1 vs2 s
  | .vmax ty m vd vs1 vs2 => Sys2Proof.Machine.execVmax ty m vd vs1 vs2 s
  | .vabs ty m vd vs1 => Sys2Proof.Machine.execVabs ty m vd vs1 s
  | .vneg ty m vd vs1 => Sys2Proof.Machine.execVneg ty m vd vs1 s
  | .vdiv ty rm m vd vs1 vs2 => Sys2Proof.Machine.execVdiv ty rm m vd vs1 vs2 s
  | .vsqrt ty rm m vd vs1 => Sys2Proof.Machine.execVsqrt ty rm m vd vs1 s
  | .vrcp ty m vd vs1 => Sys2Proof.Machine.execVrcp ty m vd vs1 s
  | .vrsq ty m vd vs1 => Sys2Proof.Machine.execVrsq ty m vd vs1 s
  | .vexp2 ty m vd vs1 => Sys2Proof.Machine.execVexp2 ty m vd vs1 s
  | .vlog2 ty m vd vs1 => Sys2Proof.Machine.execVlog2 ty m vd vs1 s
  | .vtanh ty m vd vs1 => Sys2Proof.Machine.execVtanh ty m vd vs1 s
  | .verf ty m vd vs1 => Sys2Proof.Machine.execVerf ty m vd vs1 s
  | .viadd ty m vd vs1 vs2 => Sys2Proof.Machine.execViadd ty m vd vs1 vs2 s
  | .visub ty m vd vs1 vs2 => Sys2Proof.Machine.execVisub ty m vd vs1 vs2 s
  | .vimul ty m vd vs1 vs2 => Sys2Proof.Machine.execVimul ty m vd vs1 vs2 s
  | .vimad ty m vd vs1 vs2 vs3 => Sys2Proof.Machine.execVimad ty m vd vs1 vs2 vs3 s
  | .vand ty m vd vs1 vs2 => Sys2Proof.Machine.execVand ty m vd vs1 vs2 s
  | .vor ty m vd vs1 vs2 => Sys2Proof.Machine.execVor ty m vd vs1 vs2 s
  | .vxor ty m vd vs1 vs2 => Sys2Proof.Machine.execVxor ty m vd vs1 vs2 s
  | .vshl ty m vd vs1 n => Sys2Proof.Machine.execVshl ty m vd vs1 n s
  | .vshr ty m vd vs1 n => Sys2Proof.Machine.execVshr ty m vd vs1 n s
  | .vsra ty m vd vs1 n => Sys2Proof.Machine.execVsra ty m vd vs1 n s
  | .vimin ty m vd vs1 vs2 => Sys2Proof.Machine.execVimin ty m vd vs1 vs2 s
  | .vimax ty m vd vs1 vs2 => Sys2Proof.Machine.execVimax ty m vd vs1 vs2 s
  | .vpopc ty m vd vs1 => Sys2Proof.Machine.execVpopc ty m vd vs1 s
  | .vclz ty m vd vs1 => Sys2Proof.Machine.execVclz ty m vd vs1 s
  | .vdot4 unsigned m vd vs1 vs2 => Sys2Proof.Machine.execVdot4 unsigned m vd vs1 vs2 s
  | .viabs ty m vd vs1 => Sys2Proof.Machine.execViabs ty m vd vs1 s
  | .vcmp ty c m qd vs1 vs2 => Sys2Proof.Machine.execVcmp ty c m qd vs1 vs2 s
  | .vicmp ty c m qd vs1 vs2 => Sys2Proof.Machine.execVicmp ty c m qd vs1 vs2 s
  | .vsel m vd vs1 vs2 q => Sys2Proof.Machine.execVsel m vd vs1 vs2 q s
  | .vmov m vd vs1 => Sys2Proof.Machine.execVmov m vd vs1 s
  | .vbcast ty m vd src => Sys2Proof.Machine.execVbcast ty m vd src s
  | .vins ty vd src idx => Sys2Proof.Machine.execVins ty vd src idx s
  | .vext ty d vs1 idx => Sys2Proof.Machine.execVext ty d vs1 idx s
  | .vperm ty m vd vs1 vs2 => Sys2Proof.Machine.execVperm ty m vd vs1 vs2 s
  | .vshuf ty m vd vs1 pat => Sys2Proof.Machine.execVshuf ty m vd vs1 pat s
  | .qlog qd qs1 qs2 t => Sys2Proof.Machine.execQlog qd qs1 qs2 t s
  | .qcnt d qs1 => Sys2Proof.Machine.execQcnt d qs1 s
  | .viota m vd => Sys2Proof.Machine.execViota m vd s
  | .vcvt dty sty rm nsat m vd vs1 => Sys2Proof.Machine.execVcvt dty sty rm nsat m vd vs1 s
  | .vqnt ety rm nsat vd vs1 vs2 => Sys2Proof.Machine.execVqnt ety rm nsat vd vs1 vs2 s
  | .vdqnt fty ety h m vd vs1 => Sys2Proof.Machine.execVdqnt fty ety h m vd vs1 s
  | .vscale ety vd vs1 vs2 => Sys2Proof.Machine.execVscale ety vd vs1 vs2 s
  | .vpack dty sty part m vd vs1 => Sys2Proof.Machine.execVpack dty sty part m vd vs1 s
  | .vunpk dty sty part m vd vs1 => Sys2Proof.Machine.execVunpk dty sty part m vd vs1 s
  | .vred ty op m d vs1 => Sys2Proof.Machine.execVred ty op m d vs1 s
  | .vscan ty op m vd vs1 => Sys2Proof.Machine.execVscan ty op m vd vs1 s
  | .vsortk vd vs1 vs2 => Sys2Proof.Machine.execVsortk vd vs1 vs2 s
  | .vmergek vd vs1 vs2 vs3 => Sys2Proof.Machine.execVmergek vd vs1 vs2 vs3 s
  | .qsum m vd n => Sys2Proof.Machine.execQsum m vd n s
  | .vargmx ty m d vs1 => Sys2Proof.Machine.execVargmx ty m d vs1 s
  | .vld ty cl m vd s1 off nd => Sys2Proof.Machine.execVld ty cl m vd s1 off nd s
  | .vst ty cl m vs2 s1 off nd => Sys2Proof.Machine.execVst ty cl m vs2 s1 off nd s
  | .vgath ty cl m vd s1 vs2 nd => Sys2Proof.Machine.execVgath ty cl m vd s1 vs2 nd s
  | .vscat ty m vs3 s1 vs2 nd => Sys2Proof.Machine.execVscat ty m vs3 s1 vs2 nd s
  | .sbind vn src => Sys2Proof.Machine.execSbind vn src s
  | .sunb vn => Sys2Proof.Machine.execSunb vn s
  | .sisect va vb => Sys2Proof.Machine.execSisect va vb s
  | .sstat d vn => Sys2Proof.Machine.execSstat d vn s
  | .sskip vn src => Sys2Proof.Machine.execSskip vn src s
  | .vmaxx int col vd vs1 p => Sys2Proof.Machine.execVmaxx int col vd vs1 p s
  | .vrand raw m vd => Sys2Proof.Machine.execVrand raw m vd s
  | .vnrd dir vd wn p => Sys2Proof.Machine.execVnrd dir vd wn p s
  | .streamElementArrival thr vn => Sys2Proof.Machine.execStreamElementArrival thr vn s
  | .loadReturn op far => Sys2Proof.Machine.execLoadReturn op far s
  | .amoReturn op far => Sys2Proof.Machine.execAmoReturn op far s
  | .translationConfirm op => Sys2Proof.Machine.execTranslationConfirm op s
  | .copyToken op => Sys2Proof.Machine.execCopyToken op s
  | .neighbourTimeout op => Sys2Proof.Machine.execNeighbourTimeout op s
  | .vmaxxResult inst => Sys2Proof.Machine.execVmaxxResult inst s
  | .vmaxxTimeout op => Sys2Proof.Machine.execVmaxxTimeout op s
  | .bwaitTimeout thr => Sys2Proof.Machine.execBwaitTimeout thr s
  | .sleepExpiry thr => Sys2Proof.Machine.execSleepExpiry thr s
  | .messageArrival op => Sys2Proof.Machine.execMessageArrival op s
  | .timerExpiry thr => Sys2Proof.Machine.execTimerExpiry thr s
  | .upcallDelivery thr => Sys2Proof.Machine.execUpcallDelivery thr s
  | .meetWindowExpiry table entry => Sys2Proof.Machine.execMeetWindowExpiry table entry s
  | .meetClose table entry => Sys2Proof.Machine.execMeetClose table entry s
  | .pendingDecrement op => Sys2Proof.Machine.execPendingDecrement op s
  | .mzero w => Sys2Proof.Machine.execMzero w s
  | .mloadc w => Sys2Proof.Machine.execMloadc w s
  | .mmac w => Sys2Proof.Machine.execMmac w s
  | .mstore w => Sys2Proof.Machine.execMstore w s
  | .cacfg w => Sys2Proof.Machine.execCacfg w s
  | .cainf w => Sys2Proof.Machine.execCainf w s
  | .catrn w => Sys2Proof.Machine.execCatrn w s
  | .card w => Sys2Proof.Machine.execCard w s
  | .cawr w => Sys2Proof.Machine.execCawr w s
  | .caseed w => Sys2Proof.Machine.execCaseed w s
  | .cpy w => Sys2Proof.Machine.execCpy w s
  | .cpyq w => Sys2Proof.Machine.execCpyq w s
  | .cfill w => Sys2Proof.Machine.execCfill w s
  | .enop w => Sys2Proof.Machine.execEnop w s
  | .enopResume => Sys2Proof.Machine.execEnopResume s
  | .emark w => Sys2Proof.Machine.execEmark w s
  | .efence w => Sys2Proof.Machine.execEfence w s
  | .engineCommandCompletion ec => Sys2Proof.Machine.execEngineCommandCompletion ec s
  | .leasePassage unit_ => Sys2Proof.Machine.execLeasePassage unit_ s
  | .grantExpiry unit_ => Sys2Proof.Machine.execGrantExpiry unit_ s
  | .setVisit lv cache set_ => Sys2Proof.Machine.execSetVisit lv cache set_ s
  | .trustUpdate lv cache tenant => Sys2Proof.Machine.execTrustUpdate lv cache tenant s
  | .rperWindowEnd cc => Sys2Proof.Machine.execRperWindowEnd cc s
  | .pageResidentNotice va size ans cc => Sys2Proof.Machine.execPageResidentNotice va size ans cc s
  | .migrationStart va => Sys2Proof.Machine.execMigrationStart va s
  | .migrationSwitch va pte => Sys2Proof.Machine.execMigrationSwitch va pte s
  | .hostWrite pa data => Sys2Proof.Machine.execHostWrite pa data s
  | .hostRead pa n => Sys2Proof.Machine.execHostRead pa n s
  | .farRequest r => Sys2Proof.Machine.execFarRequest r s
  | .farAccessTimeout op => Sys2Proof.Machine.execFarAccessTimeout op s
  | .launchRecordWrite off data => Sys2Proof.Machine.execLaunchRecordWrite off data s
  | .kernelAdmission ctx q => Sys2Proof.Machine.execKernelAdmission ctx q s
  | .clusterGrant kid => Sys2Proof.Machine.execClusterGrant kid s
  | .stagingComplete kid => Sys2Proof.Machine.execStagingComplete kid s
  | .threadPlacement cc slot => Sys2Proof.Machine.execThreadPlacement cc slot s
  | .kernelRetire kid => Sys2Proof.Machine.execKernelRetire kid s
  | .preemption ctx => Sys2Proof.Machine.execPreemption ctx s
  | .resumption ctx => Sys2Proof.Machine.execResumption ctx s
  | .timeshareSwitch kid g => Sys2Proof.Machine.execTimeshareSwitch kid g s
  | .hwMigration cc => Sys2Proof.Machine.execHwMigration cc s
  | .taskStagingComplete cc => Sys2Proof.Machine.execTaskStagingComplete cc s
  | .taskDispatch cc => Sys2Proof.Machine.execTaskDispatch cc s
  | .fatalFault ctx => Sys2Proof.Machine.execFatalFault ctx s
  | .contextBuild tag ctx rec => Sys2Proof.Machine.execContextBuild tag ctx rec s
  | .contextLoad tag load => Sys2Proof.Machine.execContextLoad tag load s
  | .contextClose tag ctx => Sys2Proof.Machine.execContextClose tag ctx s
  | .teardownComplete ctx => Sys2Proof.Machine.execTeardownComplete ctx s
  | .queueDrain tag ctx q => Sys2Proof.Machine.execQueueDrain tag ctx q s
  | .queueClosed ctx q => Sys2Proof.Machine.execQueueClosed ctx q s
  | .queueOpen tag ctx q => Sys2Proof.Machine.execQueueOpen tag ctx q s
  | .runtimeQueueMark tag ctx q => Sys2Proof.Machine.execRuntimeQueueMark tag ctx q s
  | .gangStart kid => Sys2Proof.Machine.execGangStart kid s
  | .gangRelease tag kid => Sys2Proof.Machine.execGangRelease tag kid s
  | .version tag bitmap => Sys2Proof.Machine.execVersion tag bitmap s
  | .status tag => Sys2Proof.Machine.execStatus tag s
  | .bootrec tag => Sys2Proof.Machine.execBootrec tag s
  | .clear tag stepNo => Sys2Proof.Machine.execClear tag stepNo s
  | .accept tag => Sys2Proof.Machine.execAccept tag s
  | .attest tag nonce => Sys2Proof.Machine.execAttest tag nonce s
  | .keyload tag ctx slot key => Sys2Proof.Machine.execKeyload tag ctx slot key s
  | .powercap tag watts => Sys2Proof.Machine.execPowercap tag watts s
  | .residencyControlWrite tag lv cache w => Sys2Proof.Machine.execResidencyControlWrite tag lv cache w s
  | .tenantWordWrite tag lv cache tenant share => Sys2Proof.Machine.execTenantWordWrite tag lv cache tenant share s
  | .packageSleep tag => Sys2Proof.Machine.execPackageSleep tag s
  | .eventReturn consumed => Sys2Proof.Machine.execEventReturn consumed s
  | .linkEnable c => Sys2Proof.Machine.execLinkEnable c s
  | .linkDisable c => Sys2Proof.Machine.execLinkDisable c s
  | .linkReset c => Sys2Proof.Machine.execLinkReset c s
  | .lanesTrained link lanes => Sys2Proof.Machine.execLanesTrained link lanes s
  | .negotiationComplete link bitmap peer plink => Sys2Proof.Machine.execNegotiationComplete link bitmap peer plink s
  | .laneLoss link => Sys2Proof.Machine.execLaneLoss link s
  | .flitReceive link flit => Sys2Proof.Machine.execFlitReceive link flit s
  | .replayRequest link => Sys2Proof.Machine.execReplayRequest link s
  | .ackTimeout link => Sys2Proof.Machine.execAckTimeout link s
  | .timeFlit link offset => Sys2Proof.Machine.execTimeFlit link offset s
  | .timeLock => Sys2Proof.Machine.execTimeLock s
  | .syncLoss => Sys2Proof.Machine.execSyncLoss s
  | .boot res failing image ver => Sys2Proof.Machine.execBoot res failing image ver s
  | .scrubPass base n => Sys2Proof.Machine.execScrubPass base n s
  | .clockStep watts => Sys2Proof.Machine.execClockStep watts s
  | .clusterSleep c => Sys2Proof.Machine.execClusterSleep c s
  | .clusterWake c => Sys2Proof.Machine.execClusterWake c s
  | .packageWake => Sys2Proof.Machine.execPackageWake s
  | .writeAcceptance op far => Sys2Proof.Machine.execWriteAcceptance op far s
  | .fixedLatencyResult thr => Sys2Proof.Machine.execFixedLatencyResult thr s
  | .unknownEngineCommand w => Sys2Proof.Machine.execUnknownEngineCommand w s
  | .unknownMailboxCode tag code => Sys2Proof.Machine.execUnknownMailboxCode tag code s
  | .pageMap va pte nodes => Sys2Proof.Machine.execPageMap va pte nodes s
  | .pageUnmap va => Sys2Proof.Machine.execPageUnmap va s
  | .protectionShootdown tag writes ptes => Sys2Proof.Machine.execProtectionShootdown tag writes ptes s
  | .powerLoss => Sys2Proof.Machine.execPowerLoss s
  | .coldPlateTemperatureLimit atLimit => Sys2Proof.Machine.execColdPlateTemperatureLimit atLimit s
  | .exportedWindowSet tenant base size home => Sys2Proof.Machine.execExportedWindowSet tenant base size home s
  | .syncLinkMark reference links => Sys2Proof.Machine.execSyncLinkMark reference links s
  | .tenantWeightSet tag tenant weight => Sys2Proof.Machine.execTenantWeightSet tag tenant weight s

end Sys2Proof.Machine
end

