-- ==== Sys2Proof/Machine/Issue.lean ====
section
/-! DEFINITION. The issue of one bundle (R79, R85 to R88, R95 to R98): fetch, decode, the checks before any effect, both
slots, and where the thread continues. -/

namespace Sys2Proof.Machine

/-- What a fetch gives (R85, R88, R108). -/
inductive Fetched where
  | bytes (bs : List Byte)
  | wait
  | trap (cause : Nat)
deriving DecidableEq, Repr

/-- Bytes of [va, va + n) at a place, for fetching (DEDUCED, log 22). -/
def State.fetchAt (s : State) (t : Thread) (va n : Nat) : Fetched × State :=
  match s.check t va n 1 .exec with
  | .error e => (.trap e.1, s)
  | .ok r =>
    match r.place with
    | .lm cc off => if s.lmBad cc off n then (.trap causeDATAERR, s.reportLm cc off) else (.bytes (s.lmRead cc off n), s.lmCorrect cc off n)
    | .far _ => (.trap causeACCESS, s)
    | .glob la =>
      if r.no then (.trap causeACCESS, s) else
      match (s.checked t r).gread t.cc la n (s.wantOf t 63) with
      | (.bytes bs, s) => (.bytes bs, s)
      | (.absent a, s) => (.wait, s.faultReq a t.cc)
      | (.dataError a, s) => (.trap causeDATAERR, s.reportData t.ctx a)

/-- The bundle at the pc of thread k, with the data bundles of an ENQI that is legal in its own bits (R95). -/
def State.fetch (s : State) (k : Nat) : Fetched × State :=
  let t := s.thread k
  let pc := t.pc.toNat
  match s.fetchAt t pc 16 with
  | (.bytes bs, s) =>
    if needsData bs then
      match decode (bs ++ List.replicate 32 0) with
      | .error _ => (.bytes (bs ++ List.replicate 32 0), s)
      | .ok _ =>
      match s.fetchAt t (pc + 16) 16 with
      | (.bytes b1, s) =>
        (match s.fetchAt t (pc + 32) 16 with
        | (.bytes b2, s) => (.bytes (bs ++ b1 ++ b2), s)
        | r => r)
      | r => r
    else (.bytes bs, s)
  | r => r

/-- Registers a bundle reads and writes under its guard (R87). -/
def bundleReads (u : Bundle) (open_ : Bool) : List RegName :=
  (if u.guard.p = 0 then [] else [RegName.p u.guard.p]) ++ (if open_ then u.a.reads else []) ++ u.v.reads
def bundleWrites (u : Bundle) (open_ : Bool) : List RegName := (if open_ then u.a.writes else []) ++ u.v.writes

/-- A private register with a scoreboarded write outstanding (R98). -/
def State.pendingReg (s : State) (k : Nat) (r : RegName) : Bool :=
  match r with
  | .s f =>
    if isShared f then s.ops.any (fun o => o.thr == k && o.dst == some r && (match o.kind with | .token _ _ => true | _ => false))
    else f ≠ 0 && s.ops.any (fun o => o.thr == k && o.dst == some r)
  | .v f => !isShared f && s.ops.any (fun o => o.thr == k && o.dst == some r)
  | .p p => p ≠ 0 && s.ops.any (fun o => o.thr == k && o.pred == p)
  | .q _ => false

/-- A fixed-latency result not yet written (R97). -/
def Thread.lateReg (t : Thread) (r : RegName) : Bool := t.late.any (fun l => l.reg == r)

/-- A register marked pending-fault, or data-error-pending (R139, R141). -/
def Thread.faultReg (t : Thread) : RegName → Bool
  | .s f => !isShared f && f ≠ 0 && t.xpf.getLsbD (low5 f).val
  | _ => false
def Thread.errorReg (t : Thread) : RegName → Bool
  | .s f => !isShared f && f ≠ 0 && t.xde.getLsbD (low5 f).val
  | .v f => !isShared f && t.vde.getLsbD (low5 f).val
  | _ => false

/-- REG and VREG of a fault word (R309). -/
def regWord : RegName → Word
  | .s f => f.zeroExtend 64 <<< 16
  | .v f => (f.zeroExtend 64 <<< 16) ||| 0x40_0000
  | _ => 0

/-- The instruction of a bundle that reads a register, for a fault word. -/
def bundleReader (u : Bundle) (open_ : Bool) (r : RegName) : Instr :=
  if open_ && (u.a.reads.contains r || r == .p u.guard.p) then u.a
  else if u.v.reads.contains r then u.v else u.a

/-- Guard of slot A (R86, R87). -/
def State.guardHolds (s : State) (g : Guard) : Bool := s.rp g.p != g.neg

/-- Guard of slot A as the pops of the bundle leave its predicate (R197). -/
def State.openNow (s : State) (k : Nat) (u : Bundle) : Bool :=
  let t := s.thread k
  let ps := (t.popPreds u.v).filter (fun e => e.1 == u.guard.p)
  (if u.guard.p = 0 then true else if ps.isEmpty then t.regs.p[u.guard.p.toFin] else andOf ps u.guard.p) != u.guard.neg

/-- An instruction that reads or writes memory for its thread: what an acquire holds back (R145). -/
def Instr.touches (i : Instr) : Bool :=
  if i.isSlotA then
    let o := (encodeAF i).op.toNat
    (0x80 ≤ o && o ≤ 0x85) || (0x89 ≤ o && o ≤ 0x93) || o = 0x57 || o = 0x60 || o = 0x61 || o = 0x63 || o = 0x64 || o = 0x6F || o = 0x79
  else
    let o := (encodeVF i).op.toNat
    (0x60 ≤ o && o ≤ 0x63) || o = 0x70
def bundleTouches (u : Bundle) (open_ : Bool) (t : Thread) : Bool :=
  (open_ && Instr.touches u.a) || Instr.touches u.v || !(t.bound (vectorDests u.v)).isEmpty

/-- A fault-frame record of a load with acquire: the load has not returned, so no later access performs, and the next bundle with
one raises PAGE (R145; DEDUCED, log 70). -/
def FaultRec.acquires (r : FaultRec) : Bool := r.info.extractLsb' 0 8 = 0x80 && r.info.extractLsb' 17 3 = 1

/-- What stops a bundle before any effect, in the order of R95, R97, R98, R139, R141. -/
inductive Before where
  | go
  | wait
  | page
  | trap (t : Trap)
deriving DecidableEq, Repr

def State.before (s : State) (k : Nat) (u : Bundle) (open_ : Bool) : Before :=
  let t := s.thread k
  let rs := bundleReads u open_
  match (if t.modeReg.getLsbD 0 then rs.find? t.lateReg else none) with
  | some r => .trap { cause := causeSTALL, info := opWord (bundleReader u open_ r), fva := 0, upc := t.pc }
  | none =>
    if (rs ++ bundleWrites u open_).any (s.pendingReg k) then .wait
    else if t.mode = .user && (rs.any t.faultReg || (t.frame.any FaultRec.acquires && bundleTouches u open_ t)) then .page
    else match rs.find? t.errorReg with
      | some r => .trap { cause := causeDATAERR, info := opWord (bundleReader u open_ r) ||| regWord r, fva := 0, upc := t.pc }
      | none => .go

/-- Thread k left at its bundle, to try again at its next turn (DESIGN CHOICE, log 23). -/
def State.holdAt (s : State) (k : Nat) (w : Wait) : State :=
  let t := s.thread k
  s.setThread k { t with latch := none, wait := some w, next := s.cycle + 1, parkedAt := s.tick }

/-- Thread k as its bundle begins: its sources latched as they stood when the cycle began, its continuation the next bundle (R79);
it is in the rotation again (R345). -/
def State.begin_ (s : State) (k len : Nat) : State :=
  let t := s.thread k
  let c := s.coreCtx t.cc
  { s.setThread k { t with
      latch := some { regs := t.regs, h := c.hAt s.cycle, w := c.wAt s.cycle }
      wait := if t.wait = some .poll then none else t.wait
      npc := t.pc + BitVec.ofNat 64 len
      issued := t.issued + 1 } with
    cur := k, issue := .done }

/-- Thread k after its bundle: it continues at npc, in turn t + 1 + SC (R96). -/
def State.finish (s : State) (k : Nat) (sc : BitVec 4) : State :=
  let t := s.thread k
  if t.life = .resident then
    s.setThread k { t with pc := t.npc, latch := none, wait := none, reply := none, got := none, next := s.cycle + 16 * (1 + sc.toNat) }
  else s.setThread k { t with latch := none, wait := none, reply := none }

/-- A trap of thread k taken from the state before its bundle (R306 to R308). -/
def State.trapFrom (s : State) (k : Nat) (t : Trap) : State :=
  let th := s.thread k
  let s := s.setThread k { th with next := s.cycle + 1 }
  s.takeTrap k t

/-- Thread k after slot A or the decoder raised and took a trap: it continues in a later turn. -/
def State.trapDone (s : State) (k : Nat) : State :=
  let t := s.thread k
  s.setThread k { t with latch := none, next := s.cycle + 1 }

/-- Whether TRAP enters runtime mode at once, so that slot V completes with it (R110, R306). -/
def State.trapEnters (s : State) (k : Nat) : Bool :=
  let t := s.thread k
  t.mode = .user && s.reservations k = 0 && t.frame.isEmpty && t.upvec ≠ 0

/-- Thread k back at its bundle with nothing popped or written, but with what its wait holds (R79, R197). -/
def State.unpop (s0 s : State) (k : Nat) : State :=
  let t := s.thread k
  s.setThread k { t with regs := (s0.thread k).regs, streams := (s0.thread k).streams }

/-- The push of a QSUM that goes on is made at its last message. -/
def qsumGoesOn (i : Instr) (t : Thread) : Bool := match i with | .qsum _ _ _ => t.npc == t.pc | _ => false

/-- An illegal-instruction fault that depends on the state: a privileged instruction in user mode (R81, R110), a stream
instruction on the wrong kind of register (R198, R200), a stream used the wrong way (R197). A false guard does not suppress it (R87). -/
def State.illegalNow (s : State) (k : Nat) (u : Bundle) : Option Instr :=
  let bad (i : Instr) : Bool :=
    match exec i (s.begin_ k u.len) with
    | .next s1 => (match s1.issue with | .trapped t => t.cause == causeILLEGAL | _ => false)
    | _ => false
  let a := match u.a with | .eret | .swr _ _ _ | .srd _ _ _ => bad u.a | _ => false
  let v := match u.v with | .sskip _ _ | .sisect _ _ => bad u.v | _ => false
  if a then some u.a else if v || (s.thread k).wrongWay u.v then some u.v else none

/-- The first element of a push that fails a check, as a trap (R197). -/
def State.pushTrap (s : State) (k : Nat) (i : Instr) : Option Trap :=
  let t := s.thread k
  (t.bound (vectorDests i)).findSome? (fun n =>
    (s.pushPieces k (t.stream n) (s.rq (encodeVF i).mask)).fail.map (fun e => { cause := e.1, info := elemInfo i, fva := e.2, upc := t.pc }))

/-- A check of slot V that fails: its fault comes before any effect of slot A (R135, R192). -/
def State.vTrap (s : State) (k : Nat) (u : Bundle) : Option Trap :=
  (match u.v with
  | .vld _ _ _ _ _ _ _ | .vst _ _ _ _ _ _ _ | .vgath _ _ _ _ _ _ _ | .vscat _ _ _ _ _ _ =>
    (match exec u.v s with
    | .next s2 => (match s2.issue with | .trapped t => some t | _ => none)
    | _ => none)
  | .sbind _ x =>
    (match s.check s.me (s.rx x).toNat 64 64 .read with
    | .error e => some { cause := e.1, info := opWord u.v, fva := e.2, upc := (s.thread k).pc }
    | .ok _ => none)
  | _ => none) <|> s.pushTrap k u.v

/-- Slot A parks with an effect: a message, an arrival, a request. -/
def parksWithEffect (i : Instr) (w : Wait) : Bool :=
  match w with
  | .poll => false
  | .hold => (match i with | .dqsteal _ _ | .tilest _ _ _ _ _ _ => true | _ => false)
  | _ => true

/-- The SBIND of a bundle follows an access of its slot A that is in flight: its descriptor can be read once that has ended (R236). -/
def State.sbindHalf (s : State) (k : Nat) (u : Bundle) : Option Half :=
  let t := s.thread k
  match u.v, t.latch with
  | .sbind vn x, some l =>
    (match s.check t (s.rx x).toNat 64 64 .read with
    | .ok r =>
      if s.slotAOut k (placeLines r.place 64) && (match r.place with | .glob va => s.present va 64 | _ => true)
      then some { latch := l, npc := t.npc, vn := vn, x := x, sc := u.sc } else none
    | .error _ => none)
  | _, _ => none

/-- The SBIND that was left of a bundle of thread k (R236): a fault that its descriptor shows leaves the access of slot A performed
(DESIGN CHOICE, log 45). -/
def State.slotVHalf (s : State) (k : Nat) (h : Half) : Res :=
  let t := s.thread k
  let s := s.setThread k { t with latch := some h.latch, npc := h.npc, wait := none }
  let ls := match s.check (s.thread k) (s.rx h.x).toNat 64 64 .read with | .ok r => placeLines r.place 64 | .error _ => []
  if s.slotAOut k ls || s.reservations k ≠ 0 then .next (s.holdAt k .hold)
  else if t.mode = .user && t.frame.any FaultRec.acquires then .next (((s.setThread k { s.thread k with half := none }).takePage k t.pc).trapDone k)
  else match exec (.sbind h.vn h.x) s with
  | .next s2 =>
    let t := s2.thread k
    (match s2.issue with
    | .done => .next ((s2.setThread k { t with half := none }).finish k h.sc)
    | .parked => .next (s2.holdAt k (match t.wait with | some (.page va) => .page va | _ => .hold))
    | .trapped _ => .next ((s2.setThread k { t with half := none }).trapDone k))
  | r => r

/-- Slot V, and the end of the bundle. `s0` is the state before the bundle, `sb` that at its start, `s` that after slot A, `p` its
pops (DEDUCED, log 45). `last` is a write of a special register in slot A, which later bundles alone see (R79, R287; DESIGN CHOICE,
log 71). -/
def State.slotV (s0 sb s : State) (k : Nat) (u : Bundle) (open_ : Bool) (p : Pops) (tr : Option Trap) (last : Bool) : Res :=
  if (s.thread k).life ≠ .resident then .next (s.finish k u.sc) else
  match s.sbindHalf k u with
  | some h => .next ((s.setThread k { s.thread k with half := some h }).holdAt k .hold)
  | none =>
  match exec u.v s with
  | .next s2 =>
    match s2.issue with
    | .done =>
      if qsumGoesOn u.v (s2.thread k) then .next (s2.finish k u.sc) else
      match s2.pushStreams k u.v (bundleWrites u open_) p with
      | .error (.trap t) => .next (s0.trapFrom k t)
      | .error .wait => .next (s0.holdAt k .poll)
      | .ok s3 =>
        let s3 := if last then (match exec u.a s3 with | .next x => x | _ => s3) else s3
        match tr with
        | none => .next (s3.finish k u.sc)
        | some t => .next ((s3.finish k u.sc).takeTrap k t)
    | .parked =>
      match (if u.a = .nop then Host.Outcome.next s2 else exec u.v sb) with
      | .next s4 =>
        if s4.issue = .parked then .next ((s0.unpop s4 k).holdAt k ((s4.thread k).wait.getD .poll))
        else .next ({ s0 with faultReqs := s2.faultReqs }.holdAt k ((s2.thread k).wait.getD .poll))
      | r => r
    | .trapped t => .next ({ s0 with faultReqs := s2.faultReqs }.trapFrom k t)
  | r => r

/-- Both slots of a bundle that may go (R79, R87, R236). -/
def State.slots (s0 : State) (p : Pops) (k : Nat) (u : Bundle) : Res :=
  let s := p.s.begin_ k u.len
  if s.guardHolds u.guard then
    match exec u.a s with
    | .next s1 =>
      match s1.issue with
      | .done =>
        (match u.a with
        | .swr _ _ _ => s0.slotV s s k u true p none true
        | _ => s0.slotV s s1 k u true p none false)
      | .parked =>
        let w := (s1.thread k).wait.getD .poll
        (match (if parksWithEffect u.a w then s.vTrap k u else none) with
        | some t => .next (s0.trapFrom k t)
        | none => .next ((s0.unpop s1 k).holdAt k w))
      | .trapped t =>
        if t.cause = causeTRAP && s0.trapEnters k then s0.slotV s s k u true p (some t) false else .next ((s0.unpop s1 k).trapDone k)
    | r => r
  else s0.slotV s s k u false p none false

/-- The core of thread k has issued its bundle of this cycle (R19). -/
def State.markIssue (s : State) (k : Nat) : State :=
  let pc := s.physCore (s.thread k)
  s.setCore pc { s.core pc with issuedAt := s.cycle + 1 }

/-- A decoded bundle: the faults of R95, then of R97, then what R98, R139 and R141 stop, then its pops, then both slots. -/
def State.runBundle (s : State) (k : Nat) (u : Bundle) : Res :=
  match s.illegalNow k u with
  | some i => .next (s.trapFrom k { cause := causeILLEGAL, info := opWord i, fva := 0, upc := (s.thread k).pc })
  | none =>
    match s.before k u (s.openNow k u) with
    | .wait => .next (s.holdAt k .poll)
    | .page =>
      if s.reservations k ≠ 0 then .next (s.holdAt k .poll)
      else .next (s.takePage k (s.thread k).pc)
    | .trap t => .next (s.trapFrom k t)
    | .go =>
      match s.popStreams k u.v with
      | .wait none => .next (s.holdAt k .poll)
      | .wait (some n) => .next ((s.orderUpcall k n).holdAt k .poll)
      | .trap t n =>
        .next ((match n with
          | some n => s.setStream k n { (s.thread k).stream n with fail := none, due := s.cycle }
          | none => s).trapFrom k t)
      | .ok p => s.slots p k u

/-- THE ISSUE of the bundle at the pc of thread k. -/
def State.issueBundle (s : State) (k : Nat) : Res :=
  let s := { s.markIssue k with cur := k, issue := .done }
  match (s.thread k).half with
  | some h => s.slotVHalf k h
  | none =>
  match s.fetch k with
  | (.wait, s) => .next (s.holdAt k .poll)
  | (.trap c, s) => .next (s.trapFrom k { cause := c, info := 0, fva := (s.thread k).pc, upc := (s.thread k).pc })
  | (.bytes bs, s) =>
    match decode bs with
    | .error e =>
      match exec (.illegalBundle e.op e.slotV) s with
      | .next s1 => .next (s1.trapDone k)
      | r => r
    | .ok u => s.runBundle k u

end Sys2Proof.Machine
end

