-- ==== Sys2Proof/Machine/Events.lean ====
section
/-! DEFINITION. What the device does next by itself: the events that are due, the thread whose turn it is, and the clock.
Their order within a cycle is the model's (DESIGN CHOICE, log 1); every instant is free (DESIGN CHOICE, log 2). -/

namespace Sys2Proof.Machine

/-- The ticks that a cycle brings to the time base, of those of the clock, and what is left of the offset: one more or one less where it
slews (R403). -/
def State.slewed (s : State) (n : Nat) : Nat × Int :=
  if s.slews && 0 < s.offset then (n + 1, s.offset - 1)
  else if s.slews && s.offset < 0 && 0 < n then (n - 1, s.offset + 1)
  else (n, s.offset)

/-- One cycle of the core clock: 1,000 / mhz ticks of 1 ns (R3, R18). The clock starts in phase with the tick, and the part of a
tick already accrued stays as it is when the clock changes (DESIGN CHOICE, log 78). -/
def State.clock (s : State) : State :=
  let f := s.frac + 1000
  let (n, left) := s.slewed (f / s.mhz)
  { s with
    cycle := s.cycle + 1, lastTime := s.time, time := s.time + BitVec.ofNat 64 n, frac := f % s.mhz
    offset := left, slewAt := if left = s.offset then s.slewAt else s.tick + 10000 }

/-! ## The thread whose turn it is (R19) -/

/-- A thread in an instruction that R317 completes. -/
def Thread.completing (t : Thread) : Bool :=
  t.reply.isSome || (match t.wait with | some .hold | some (.page _) => true | _ => false)

/-- A write of thread k waits at a page that is migrating: the thread is parked (R295). -/
def State.migrationPark (s : State) (k : Nat) : Bool :=
  let at_ (p : Place) : Bool := match p with | .glob va => s.migratingAt va | _ => false
  s.ops.any (fun o => o.thr == k && o.kind.isWrite && !o.reserves && decide (o.due ≤ s.cycle) && (at_ o.place || o.pieces.any (fun p => at_ p.place)))

/-- The context and the logical cluster of a thread let it issue: they run, or what it is in must complete (R303, R313,
R317, R343). -/
def State.runsNow (s : State) (t : Thread) : Bool :=
  let c := s.ctx t.ctx
  let k := s.kernel t.kid
  (c.state == ctxRunning && !c.stop && k.hasTurn (k.lcOf t.core)) || ((c.state == ctxRunning || c.stop) && t.completing)

/-- The cycle is one of a thread's slot, and its stall has passed (R19, R96). -/
def State.onTurn (s : State) (t : Thread) : Bool := t.life == .resident && t.slot == s.cycle % 16 && decide (t.next ≤ s.cycle)

/-- Whether thread k may issue in this cycle: its core has not, and no upcall is due at its boundary (R19, R96, R111, R295,
R303, R306, R308). -/
def State.mayIssue (s : State) (k : Nat) (t : Thread) : Bool :=
  s.onTurn t && t.tries && s.runsNow t && t.after.all (fun n => !s.awaits n) && !s.migrationPark k &&
    !s.upcallDue t && (s.core (s.physCore t)).issuedAt != s.cycle + 1

/-- The thread that issues next in this cycle: in ascending order of logical core and slot (R113, R206, R330), then of kernel
(DESIGN CHOICE, log 1). -/
def State.nextThread (s : State) : Option Nat :=
  if s.power ≠ .active then none else
  let place (t : Thread) : Nat := (t.core * 16 + t.slot) * 2 ^ 64 + t.kid
  ((s.threads.filter (fun e => s.mayIssue e.1 e.2)).foldl (fun (b : Option (Nat × Thread)) e =>
    match b with | some x => if place e.2 < place x.2 then some e else b | none => some e) none).map (·.1)

/-! ## The events of R19's memory system, of the engines, the dispatcher and the links -/

/-- The meaning of an event for the first number that admits it. -/
def whenSome {α : Type} (x : Option α) (f : α → Res) : Option Res := x.map f

/-- A command word at the head of its queue runs by its opcode (R94). -/
def runWord (w : CmdWord) (s : State) : Res :=
  match cmdOp w with
  | 0x00 => execEnop w s
  | 0x01 => execMzero w s
  | 0x02 => execMloadc w s
  | 0x03 => execMmac w s
  | 0x04 => execMstore w s
  | 0x10 => execCacfg w s
  | 0x11 => execCainf w s
  | 0x12 => execCatrn w s
  | 0x13 => execCard w s
  | 0x14 => execCawr w s
  | 0x15 => execCaseed w s
  | 0x20 => execCpy w s
  | 0x21 => execCpyq w s
  | 0x22 => execCfill w s
  | 0x30 => execEmark w s
  | 0x31 => execEfence w s
  | _ => execUnknownEngineCommand w s

/-- A command for the wrong engine, or none that is listed. -/
def wordStrange (ec : Nat) (w : CmdWord) : Bool :=
  match opcodeEngines (cmdOp w) with
  | none => true
  | some f => !f (unitEng (ec % 4096))

def Cmd.isWord (c : Cmd) : Option CmdWord := match c.work with | .word w => some w | _ => none

/-- The command word that runs next, with whether its engine knows it. -/
def State.nextWord (s : State) : Option (CmdWord × Bool) :=
  (s.engs.filterMap (fun e => match s.headCmd e.1 with | some c => c.isWord.map (fun w => (w, wordStrange e.1 w)) | none => none)).head?

/-- Home lines that an access evicts where it fills a line (R265). -/
def State.evictions (s : State) (o : Op) : List Nat :=
  o.lines.filterMap (fun l =>
    match s.locate (l.2 * 128) with
    | .at_ loc pa =>
      let key := lineKey loc pa
      if l.1 ≠ 0 || !(s.homeLines o).contains key || (waysFind ((s.slice (s.sliceFor (l.2 * 128) key)).sets.get [] (l2Set key)) key).isSome then none
      else match s.l2Room (l.2 * 128) key with | some (some v) => some v.addr | _ => none
    | _ => none)

/-- Of accesses of one cycle an eviction goes before a request to its line (R279). -/
def State.evictFirst (s : State) : List Op → Nat → Op → Op
  | _, 0, c => c
  | cs, n + 1, c =>
    let ks := s.homeLines c
    match (if ks.isEmpty then none else cs.find? (fun d => d.id != c.id && (s.evictions d).any (fun k => ks.contains k))) with
    | some d => State.evictFirst s (cs.filter (fun x => x.id != c.id)) n d
    | none => c

/-- A request of another core that its own core's request of the cycle goes before (R128, R147, R370). -/
def OpKind.comesLast : OpKind → Bool
  | .steal _ | .feReq _ _ _ | .feset _ | .arrive _ _ => true
  | _ => false

/-- The next access that ends in this cycle, in order of arrival (R279). -/
def State.nextEnding (s : State) (last : Bool) : Option Op :=
  let near (o : Op) : Bool := match o.kind with | .nrd _ _ | .vnrd _ _ => s.answers (s.thread o.thr).kid | _ => true
  let cs := s.ops.filter (fun o => !o.isFar && decide (o.kind.ending ≤ 2) && o.kind.comesLast == last && s.performable o && near o)
  (earliest cs).map (s.evictFirst cs cs.length)

/-- The event that ends an access. -/
def State.ending (s : State) (o : Op) : Res :=
  match o.kind.ending with
  | 0 => execLoadReturn o.id none s
  | 1 => execAmoReturn o.id none s
  | _ => execWriteAcceptance o.id none s

/-- Accesses, replies and messages on their way. -/
def State.opEvents (s : State) : List (Unit → Option Res) :=
  let op (f : Op → Bool) : Option Nat := (earliest (s.ops.filter f)).map (·.id)
  let due (o : Op) : Bool := decide (o.due ≤ s.cycle)
  [ fun _ => whenSome (if s.heldReady then some () else none) (fun _ => .next (State.releaseHeld s.heldWrites.length s)),
    fun _ => whenSome (op s.confirmable) (execTranslationConfirm · s),
    fun _ => whenSome (earliest (s.ops.filter s.sendable)) (fun o => .next (s.sendNow o)),
    fun _ => whenSome (s.nextEnding false) s.ending,
    fun _ => whenSome (op (fun o => due o && (match o.kind with | .message _ _ _ => s.messageReady o | _ => false))) (execMessageArrival · s),
    fun _ => whenSome (op s.tokenReady) (execCopyToken · s),
    fun _ => whenSome (s.ops.findSome? (fun o => match o.kind with | .vmaxx i => if (s.vmaxxReady i).isEmpty then none else some i | _ => none)) (execVmaxxResult · s),
    fun _ => whenSome (op s.vmaxxLate) (execVmaxxTimeout · s),
    fun _ => whenSome (op s.nearLate) (execNeighbourTimeout · s),
    fun _ => whenSome (op s.farLate) (execFarAccessTimeout · s) ]

/-- Threads, streams and core-contexts. -/
def State.threadEvents (s : State) : List (Unit → Option Res) :=
  let thr (f : Nat → Bool) : Option Nat := s.threads.findKey (fun k _ => f k)
  let streams : Option (Nat × Nat) := s.threads.findSome? (fun t =>
    if t.2.streams.isEmpty || !s.engRuns t.2.ctx then none else ((List.range 8).find? (fun n => s.arrivable t.1 n)).map (fun n => (t.1, n)))
  [ fun _ => whenSome (thr s.lateDue) (execFixedLatencyResult · s),
    fun _ => whenSome streams (fun p => execStreamElementArrival p.1 (BitVec.ofNat 3 p.2) s),
    fun _ => whenSome (thr s.sleepDue) (execSleepExpiry · s),
    fun _ => whenSome (thr s.timerDue) (execTimerExpiry · s),
    fun _ => whenSome (s.threads.findSome? (fun t => if t.2.life == .waiting && (s.placeable t.2.cc t.2.slot).isSome then some t.2 else none)) (fun t => execThreadPlacement t.cc t.slot s),
    fun _ => whenSome (s.ccs.findKey (fun cc _ => s.stagingTask cc)) (execTaskStagingComplete · s),
    fun _ => whenSome (s.ccs.findKey (fun cc _ => s.rperDue cc)) (execRperWindowEnd · s),
    fun _ => whenSome (if s.cycle % 16 = 0 then s.ccs.findKey (fun cc _ => (s.migrant cc).isSome) else none) (execHwMigration · s) ]

/-- Engines and their leases. -/
def State.engineEvents (s : State) : List (Unit → Option Res) :=
  [ fun _ => whenSome (s.engs.findKey (fun ec _ => s.completes ec)) (execEngineCommandCompletion · s),
    fun _ => whenSome s.resumable (fun _ => execEnopResume s),
    fun _ => whenSome s.nextWord (fun p => if p.2 then execUnknownEngineCommand p.1 s else runWord p.1 s),
    fun _ => whenSome (s.units.findKey (fun u _ => s.passageDue u)) (execLeasePassage · s),
    fun _ => whenSome (s.units.findKey (fun u _ => s.grantOver u)) (execGrantExpiry · s) ]

/-- Kernels, contexts, queues and clusters. -/
def State.kernelEvents (s : State) : List (Unit → Option Res) :=
  let kern (f : Nat → Bool) : Option Nat := s.kernels.findKey (fun k _ => f k)
  let ctx (f : Nat → Bool) : Option Nat := s.ctxs.findKey (fun c _ => f c)
  let turn : Option (Nat × Nat) := s.kernels.findSome? (fun k => ((List.range k.2.clusters.length).find? (fun g => s.turnOver k.1 g)).map (fun g => (k.1, g)))
  let queue : Option (Nat × Nat) := s.ctxs.findSome? (fun c => (c.2.queues.find? (fun q => s.queueEmpty c.1 q.1)).map (fun q => (c.1, q.1)))
  [ fun _ => whenSome (ctx s.fatalDue) (execFatalFault · s),
    fun _ => whenSome (ctx s.preempting) (execPreemption · s),
    fun _ => whenSome (s.clusters.findKey (fun c _ => s.wakes c)) (execClusterWake · s),
    fun _ => whenSome (kern s.staging) (execStagingComplete · s),
    fun _ => whenSome (kern s.gangDue) (execGangStart · s),
    fun _ => whenSome (kern s.retirable) (execKernelRetire · s),
    fun _ => whenSome queue (fun p => execQueueClosed p.1 p.2 s),
    fun _ => whenSome (ctx s.tornDown) (execTeardownComplete · s),
    fun _ => whenSome turn (fun p => execTimeshareSwitch p.1 p.2 s),
    fun _ => whenSome s.schedule (fun c => match c with
      | .accept ctx q => execKernelAdmission ctx q s
      | .grant kid => execClusterGrant kid s
      | .preempt ctx => execPreemption ctx s
      | .resume ctx => execResumption ctx s) ]

/-- A present page whose PDUE has come behind the window that the page level's visits keep (R263, R293). -/
def State.unvisitedPage (s : State) : Option Nat :=
  if s.tick < 2 ^ 26 then none else
  (s.leaves.find? (fun p => pteP p.2 && (let d := (s.now8 - ptePdue p.2).toNat; decide (2 ^ 18 + 2 ^ 15 ≤ d) && decide (d < 2 ^ 19)))).map (fun p => p.1 / 65536)

/-- What the caches do at the start of a cycle: trust updates of earlier cycles, and visits (R263, R271). -/
def State.cacheEvents (s : State) : List (Unit → Option Res) :=
  let tenant (f : Nat → AMap Word) (ks : List Nat) : Option (Nat × Nat) :=
    ks.findSome? (fun k => ((List.range 64).find? (fun t => trustDue (f k) s.cycle t)).map (fun t => (k, t)))
  let set (l : List (Nat × Cache)) : Option (Nat × Nat) := l.findSome? (fun e => (s.unvisited e.2).map (fun n => (e.1, n)))
  [ fun _ => whenSome (tenant (fun k => (s.core k).tenants) (s.cores.map (·.1))) (fun p => execTrustUpdate .l1 p.1 p.2 s),
    fun _ => whenSome (tenant s.glade (s.glades.map (·.1))) (fun p => execTrustUpdate .l2 p.1 p.2 s),
    fun _ => whenSome (set (s.cores.map (fun e => (e.1, e.2.l1)))) (fun p => execSetVisit .l1 p.1 p.2 s),
    fun _ => whenSome (set s.slices) (fun p => execSetVisit .l2 p.1 p.2 s),
    fun _ => whenSome s.unvisitedPage (execSetVisit .page 0 · s) ]

/-- Links, time, and far requests that waited. -/
def State.otherEvents (s : State) : List (Unit → Option Res) :=
  [ fun _ => whenSome (s.links.findKey (fun l _ => s.ackLate l)) (execAckTimeout · s),
    fun _ => whenSome (if s.lockDue then some () else none) (fun _ => execTimeLock s),
    fun _ => whenSome (if s.syncLost then some () else none) (fun _ => execSyncLoss s),
    fun _ => whenSome s.farReady (fun n => .next (s.farAgain n)),
    fun _ => whenSome (if s.scrubDue then some () else none) (fun _ => .next s.scrubNow),
    fun _ => whenSome (s.clusters.findKey (fun c _ => s.sleepy c)) (execClusterSleep · s) ]

/-- An upcall is delivered at its thread's turn, before its bundle (R308). -/
def State.upcallEvents (s : State) : List (Unit → Option Res) :=
  [ fun _ => whenSome (s.threads.findKey (fun k t => t.pend ≠ 0 && s.onTurn t && s.runsNow t && s.deliverable k)) (execUpcallDelivery · s) ]

/-- The state after the first event of a list that is due. -/
def firstDue : List (Unit → Option Res) → Option State
  | [] => none
  | f :: rest => match f () with | some (.next s) => some s | _ => firstDue rest

/-- The state after the event that is due next; none where only threads and the clock go on. The visits of the caches go on while the
package sleeps (R263). -/
def State.event (s : State) : Option State :=
  if s.power = .asleep then firstDue s.cacheEvents
  else if s.power ≠ .active then none
  else (firstDue s.cacheEvents).orElse fun _ => (firstDue s.kernelEvents).orElse fun _ => (firstDue s.opEvents).orElse fun _ => (firstDue s.threadEvents).orElse fun _ =>
    (firstDue s.engineEvents).orElse fun _ => (firstDue s.otherEvents).orElse fun _ => firstDue s.upcallEvents

/-- What ends a cycle, once every thread whose turn it is has issued: requests of other cores, remote arrivals among them, before
the decrements of copies (R128, R147, R370); time-outs of BWAIT, which a flip of the cycle comes before (R373); meets that close, with
the arrivals of the cycle (R359); ready records for parked TASKDs, then for free slots, after the TASKDs of the cycle (R332); the threads
parked on receive queues (R310); and the saved records of core-contexts that are not resident (R344). -/
def State.lastEvent (s : State) : Option State :=
  let meets (f : Nat → Nat → Meet → Bool) : Option (Nat × Nat) :=
    s.kernels.findSome? (fun k => (k.2.meets.find? (fun e => f k.1 e.1 e.2)).map (fun e => (k.1 * 1024 + e.1 / 256, e.1 % 256)))
  let decrement (o : Op) : Bool := decide (o.due ≤ s.cycle) && !s.needing o && (match o.kind with | .decrement _ _ _ => true | _ => false)
  if s.power ≠ .active then none
  else firstDue
    [ fun _ => whenSome (s.nextEnding true) s.ending,
      fun _ => whenSome ((earliest (s.ops.filter decrement)).map (·.id)) (execPendingDecrement · s),
      fun _ => whenSome (s.threads.findKey (fun k _ => s.bwaitDue k)) (execBwaitTimeout · s),
      fun _ => whenSome (meets (fun _ _ e => !e.home && e.closing && decide (e.due ≤ s.cycle))) (fun p => execMeetClose p.1 p.2 s),
      fun _ => whenSome (meets (fun k n _ => s.windowDue k n)) (fun p => execMeetWindowExpiry p.1 p.2 s),
      fun _ => whenSome (s.ccs.findKey (fun cc c => c.readyTask.isSome && s.waitersOf cc isTaskd ≠ [])) (fun cc => .next (s.giveTasks cc (s.waitersOf cc isTaskd))),
      fun _ => whenSome (s.ccs.findKey (fun cc c => (!c.tq.isEmpty || c.task.isSome) && (s.dispatchable cc).isSome)) (execTaskDispatch · s),
      fun _ => whenSome (s.ccs.findKey (fun cc _ => s.queueDue cc)) (fun cc => .next (s.serveQueue cc)),
      fun _ => whenSome (s.kernels.findKey (fun k _ => s.syncDue k)) (fun k => .next (s.sync k)) ]

end Sys2Proof.Machine
end

