-- ==== Sys2Proof/Machine/Step.lean ====
section
/-! DEFINITION. One step of the device, and the placement of an instruction where the next step fetches it. -/

namespace Sys2Proof.Machine

/-- ONE STEP: what the outside world does first, else the event that is due, else the bundle of the thread whose turn it
is, else what ends the cycle, else the clock. A device without power does nothing (DESIGN CHOICE, log 1). -/
def step (s : State) : Host.Outcome State Fault Refusal :=
  match s.input with
  | i :: rest => exec i { s with input := rest }
  | [] =>
    if s.power = .off then .fault .poweredOff
    else match s.event with
      | some t => .next t
      | none =>
        match s.nextThread with
        | some k => s.issueBundle k
        | none => match s.lastEvent with
          | some t => .next t
          | none => .next s.clock

/-- Where withFetchWord places a program, its translation table and its protection table. -/
def fetchVa : Nat := 0x10_0000
def fetchRoot : Nat := 0x20_0000
def fetchProt : Nat := 0x20_6000

/-- The tables of a launch that maps the first GiB to itself with every right, and a program at fetchVa (DESIGN CHOICE, log 3). -/
def fetchMemory (m : Memory) (bs : List Byte) : Memory :=
  let m := m.write fetchRoot (leBytes 16 (1 + (fetchRoot + 0x2000) * 2 ^ 16))
  let m := m.write (fetchRoot + 0x2000) (leBytes 16 (1 + (fetchRoot + 0x4000) * 2 ^ 16))
  let m := m.write (fetchRoot + 0x4000) (leBytes 16 7)
  let m := m.write fetchProt (leBytes 8 0x3D)
  m.write fetchVa bs

/-- The thread that fetches next: thread 0 of kernel 0 of context 0, on logical core 0, at fetchVa. -/
def fetchThread (s : State) : Thread :=
  { (s.thread 0) with
    kid := 0, ctx := 0, life := .resident, latch := none, pc := BitVec.ofNat 64 fetchVa, npc := BitVec.ofNat 64 fetchVa,
    core := 0, slot := s.cycle % 16, pend := 0, late := [], streams := [], wait := none, reply := none, next := s.cycle,
    after := [], xpf := 0, xde := 0, vde := 0, tok := [] }

/-- s with one instruction where the next step fetches (DESIGN CHOICE, log 3): a kernel of one core runs it as its first bundle. -/
def State.withFetchWord (s : State) (nbits w : Nat) : State :=
  { s with
    mem := fetchMemory s.mem (leBytes 48 (w % 2 ^ nbits))
    ecc := [], ops := [], ptRoot := fetchRoot, faultReqs := [], heldWrites := []
    threads := [(0, fetchThread s)]
    ccs := [], cores := [], slices := [], units := [], engs := [], links := []
    kernels := [(0, { st := .running, ctx := 0, record := 0x101 <<< 128, clusters := [0], nthread := 1 })]
    ctxs := [(0, { record := 0x4_0003 ||| (BitVec.ofNat 1024 fetchProt <<< 64) })]
    clusters := [(0, { holder := some 0 })]
    hot := false, power := .active, heldEvents := [], input := [] }

end Sys2Proof.Machine
end

