-- ==== Sys2Proof/Safety.lean ====
section
/-! DEFINITION. What the claims speak of: the structural invariant of a safe state, and what an instruction that writes one
register does to the rest of the machine. -/

namespace Sys2Proof.Machine

/-- Both memories are in their canonical form. -/
def State.MemOk (s : State) : Prop := s.mem.wf = true ∧ s.hostMem.wf = true

/-- Every byte of the device's memory and of the memory outside it reads in t as in s. -/
def SameBytes (s t : State) : Prop := ∀ a, t.mem.get a = s.mem.get a ∧ t.hostMem.get a = s.hostMem.get a

/-- Whether a write of shared scalar register d by the bundle in issue stands over one already made this cycle (R80). -/
def State.winsX (s : State) (d : SReg) : Bool :=
  wins (lookupWriter (s.coreCtx s.me.cc).writers (low5 d).val) { cycle := s.cycle, slot := s.me.slot, issued := s.me.issued }
/-- The same for a shared vector register. -/
def State.winsV (s : State) (d : VRegF) : Bool :=
  wins (lookupWriter (s.coreCtx s.me.cc).writers ((low5 d).val + 32)) { cycle := s.cycle, slot := s.me.slot, issued := s.me.issued }

/-- A vector register of thread k, as it stands. -/
def State.vOf (s : State) (k : Nat) (f : VRegF) : VReg :=
  let t := s.thread k
  if isShared f then (s.coreCtx t.cc).w[low5 f] else t.regs.v[low5 f]

/-- The bundle in issue wrote scalar register d := v and nothing else (R77 to R80, R139): x0 stays 0, a shared register
takes the value unless an earlier write of the cycle stands, a private one loses its marks. -/
structure WroteX (s t : State) (d : SReg) (v : Word) : Prop where
  result : t.xOf s.cur d = if isShared d then (if s.winsX d then v else s.xOf s.cur d) else if d = 0 then 0 else v
  others : ∀ f, f ≠ d → t.xOf s.cur f = s.xOf s.cur f
  marks : isShared d = false → d ≠ 0 →
    t.me.xpf = setMark s.me.xpf (low5 d) false ∧ t.me.xde = setMark s.me.xde (low5 d) false ∧ t.me.tok = s.me.tok.del (low5 d).val
  own : t.me = { s.me with regs := { s.me.regs with x := t.me.regs.x }, xpf := t.me.xpf, xde := t.me.xde, tok := t.me.tok }
  threads : ∀ k, k ≠ s.cur → t.thread k = s.thread k
  cores : ∀ c, t.coreCtx c = { s.coreCtx c with h := (t.coreCtx c).h, writers := (t.coreCtx c).writers }
  otherCores : ∀ c, c ≠ s.me.cc → t.coreCtx c = s.coreCtx c
  bytes : SameBytes s t
  rest : { t with threads := s.threads, ccs := s.ccs } = s

/-- The bundle in issue wrote vector register d := v and nothing else. -/
structure WroteV (s t : State) (d : VRegF) (v : VReg) : Prop where
  result : t.vOf s.cur d = if isShared d then (if s.winsV d then v else s.vOf s.cur d) else v
  others : ∀ f, f ≠ d → t.vOf s.cur f = s.vOf s.cur f
  marks : isShared d = false → t.me.vde = setMark s.me.vde (low5 d) false
  own : t.me = { s.me with regs := { s.me.regs with v := t.me.regs.v }, vde := t.me.vde }
  threads : ∀ k, k ≠ s.cur → t.thread k = s.thread k
  cores : ∀ c, t.coreCtx c = { s.coreCtx c with w := (t.coreCtx c).w, writers := (t.coreCtx c).writers }
  otherCores : ∀ c, c ≠ s.me.cc → t.coreCtx c = s.coreCtx c
  bytes : SameBytes s t
  rest : { t with threads := s.threads, ccs := s.ccs } = s

/-- The bundle in issue wrote predicate p := b and nothing else: p0 discards (R77). -/
structure WroteP (s t : State) (p : PReg) (b : Bool) : Prop where
  result : p ≠ 0 → t.me.regs.p[p.toFin] = b
  others : ∀ r : PReg, r ≠ p ∨ p = 0 → t.me.regs.p[r.toFin] = s.me.regs.p[r.toFin]
  own : t.me = { s.me with regs := { s.me.regs with p := t.me.regs.p } }
  threads : ∀ k, k ≠ s.cur → t.thread k = s.thread k
  bytes : SameBytes s t
  rest : { t with threads := s.threads } = s

/-- The bundle in issue wrote lane mask q := b and nothing else: q0 discards (R77). -/
structure WroteQ (s t : State) (q : QReg) (b : BitVec 16) : Prop where
  result : q ≠ 0 → t.me.regs.q[q.toFin] = b
  others : ∀ r : QReg, r ≠ q ∨ q = 0 → t.me.regs.q[r.toFin] = s.me.regs.q[r.toFin]
  own : t.me = { s.me with regs := { s.me.regs with q := t.me.regs.q } }
  threads : ∀ k, k ≠ s.cur → t.thread k = s.thread k
  bytes : SameBytes s t
  rest : { t with threads := s.threads } = s

end Sys2Proof.Machine
end

