-- ==== Sys2Proof/Certificates/Slice0/Obligations.lean ====
section
/-! DEFINITION. The statements for the provers, with the notions of the spec they are written in. -/

namespace Sys2Proof.Claims

open Sys2Proof.Machine

/-! ## Slot A integer results, in the spec's arithmetic (R63, R102 to R107) -/

/-- An integer modulo 2^64. -/
def wrap (z : Int) : Word := BitVec.ofInt 64 z
/-- The word whose bit i is f i. -/
def ofBits (f : Nat → Bool) : Word := BitVec.ofFnLE (fun i : Fin 64 => f i.val)
/-- The signed value of the low n bits. -/
def lowSigned (n : Nat) (w : Word) : Int := (w.toNat : Int).bmod (2 ^ n)
/-- A condition of R86 on 64-bit values. -/
def holds (c : Cond) (a b : Word) : Bool :=
  match c with
  | .eq => decide (a.toNat = b.toNat)
  | .ne => decide (a.toNat ≠ b.toNat)
  | .lt => decide (a.toInt < b.toInt)
  | .ge => decide (b.toInt ≤ a.toInt)
  | .ltu => decide (a.toNat < b.toNat)
  | .geu => decide (b.toNat ≤ a.toNat)
def oneIf (b : Bool) : Word := if b then 1 else 0
/-- The width of SEXT and ZEXT: 8, 16 or 32 bits (64 for the illegal code). -/
def extWidth (k : BitVec 2) : Nat := if k = 0 then 8 else if k = 1 then 16 else if k = 2 then 32 else 64

/-- Destination and result of each one-turn scalar instruction. -/
def scalarNow (i : Instr) (s : State) : Option (SReg × Word) :=
  let n (r : SReg) : Nat := (s.rx r).toNat
  let z (r : SReg) : Int := (s.rx r).toInt
  let sh (r : SReg) : Nat := n r % 64
  match i with
  | .add d a b => some (d, wrap (z a + z b))
  | .sub d a b => some (d, wrap (z a - z b))
  | .mul d a b => some (d, wrap (z a * z b))
  | .mulh d a b => some (d, wrap (z a * z b / 2 ^ 64))
  | .mulhu d a b => some (d, wrap ((n a * n b / 2 ^ 64 : Nat) : Int))
  | .and d a b => some (d, ofBits (fun k => (s.rx a).getLsbD k && (s.rx b).getLsbD k))
  | .or d a b => some (d, ofBits (fun k => (s.rx a).getLsbD k || (s.rx b).getLsbD k))
  | .xor d a b => some (d, ofBits (fun k => (s.rx a).getLsbD k != (s.rx b).getLsbD k))
  | .andn d a b => some (d, ofBits (fun k => (s.rx a).getLsbD k && !(s.rx b).getLsbD k))
  | .sll d a b => some (d, wrap ((n a * 2 ^ sh b : Nat) : Int))
  | .srl d a b => some (d, wrap ((n a / 2 ^ sh b : Nat) : Int))
  | .sra d a b => some (d, wrap (z a / 2 ^ sh b))
  | .rol d a b => some (d, ofBits (fun k => (s.rx a).getLsbD ((k + 64 - sh b) % 64)))
  | .min d a b => some (d, if z b < z a then s.rx b else s.rx a)
  | .max d a b => some (d, if z a < z b then s.rx b else s.rx a)
  | .minu d a b => some (d, if n b < n a then s.rx b else s.rx a)
  | .maxu d a b => some (d, if n a < n b then s.rx b else s.rx a)
  | .addw d a b => some (d, wrap (((n a + n b : Nat) : Int).bmod (2 ^ 32)))
  | .subw d a b => some (d, wrap ((z a - z b).bmod (2 ^ 32)))
  | .mulw d a b => some (d, wrap (((n a * n b : Nat) : Int).bmod (2 ^ 32)))
  | .lea d a b k => some (d, wrap ((n a + n b * 2 ^ k.toNat : Nat) : Int))
  | .addi d a imm => some (d, wrap (z a + imm.toInt))
  | .andi d a imm => some (d, ofBits (fun k => (s.rx a).getLsbD k && (wrap imm.toInt).getLsbD k))
  | .ori d a imm => some (d, ofBits (fun k => (s.rx a).getLsbD k || (wrap imm.toInt).getLsbD k))
  | .xori d a imm => some (d, ofBits (fun k => (s.rx a).getLsbD k != (wrap imm.toInt).getLsbD k))
  | .slli d a k => some (d, wrap ((n a * 2 ^ k.toNat : Nat) : Int))
  | .srli d a k => some (d, wrap ((n a / 2 ^ k.toNat : Nat) : Int))
  | .srai d a k => some (d, wrap (z a / 2 ^ k.toNat))
  | .lih d a imm => some (d, wrap (imm.toInt * 2 ^ 28 + ((n a % 2 ^ 28 : Nat) : Int)))
  | .li d imm => some (d, imm)
  | .addwi d a imm => some (d, wrap ((z a + imm.toInt).bmod (2 ^ 32)))
  | .set c d a b => some (d, oneIf (holds c (s.rx a) (s.rx b)))
  | .seti c d a imm => some (d, oneIf (holds c (s.rx a) (wrap imm.toInt)))
  | .sel d a b p neg => some (d, if s.rp p != neg then s.rx a else s.rx b)
  | .clz d a => some (d, wrap (((List.range 64).findIdx (fun k => (s.rx a).getLsbD (63 - k)) : Nat) : Int))
  | .ctz d a => some (d, wrap (((List.range 64).findIdx (fun k => (s.rx a).getLsbD k) : Nat) : Int))
  | .popc d a => some (d, wrap ((((List.range 64).filter (fun k => (s.rx a).getLsbD k)).length : Nat) : Int))
  | .brev d a => some (d, ofBits (fun k => (s.rx a).getLsbD (63 - k)))
  | .bswap d a => some (d, ofBits (fun k => (s.rx a).getLsbD (8 * (7 - k / 8) + k % 8)))
  | .bfx d a pos w1 => some (d, wrap ((n a / 2 ^ pos.toNat % 2 ^ (w1.toNat + 1) : Nat) : Int))
  | .bfi d a pos w1 => some (d, ofBits (fun k =>
      if pos.toNat ≤ k ∧ k < pos.toNat + w1.toNat + 1 then (s.rx a).getLsbD (k - pos.toNat) else (s.rx d).getLsbD k))
  | .sext d a k => some (d, wrap (lowSigned (extWidth k) (s.rx a)))
  | .zext d a k => some (d, wrap ((n a % 2 ^ extWidth k : Nat) : Int))
  | .mfold d a b => some (d, ofBits (fun k => decide (k < 16) &&
      ((s.rx a).getLsbD ((k + 11) % 16) ^^ (s.rx b).getLsbD k ^^ (s.rx b).getLsbD (k + 16) ^^ (s.rx b).getLsbD (k + 32) ^^ (s.rx b).getLsbD (k + 48))))
  | _ => none

/-- Destination and value of each predicate instruction of slot A (R105). -/
def predicateNow (i : Instr) (s : State) : Option (PReg × Bool) :=
  match i with
  | .pset c p a b => some (p, holds c (s.rx a) (s.rx b))
  | .pseti c p a imm => some (p, holds c (s.rx a) (wrap imm.toInt))
  | .plog p a b t => some (p, t.getLsbD ((if s.rp a then 2 else 0) + (if s.rp b then 1 else 0)))
  | _ => none

/-- Destination and result of the divisions (R63). -/
def division (i : Instr) (s : State) : Option (SReg × Word) :=
  let a (r : SReg) : Word := s.rx r
  match i with
  | .div d x y => some (d, if a y = 0 then wrap (-1) else wrap ((a x).toInt.tdiv (a y).toInt))
  | .rem d x y => some (d, if a y = 0 then a x else wrap ((a x).toInt.tmod (a y).toInt))
  | .divu d x y => some (d, if a y = 0 then wrap (-1) else wrap (((a x).toNat / (a y).toNat : Nat) : Int))
  | .remu d x y => some (d, if a y = 0 then a x else wrap (((a x).toNat % (a y).toNat : Nat) : Int))
  | _ => none

end Sys2Proof.Claims

open Sys2Proof Sys2Proof.Machine Sys2Proof.Claims

/-- R102 to R107: every one-turn scalar instruction completes with the value of its row in D, and changes nothing else. -/
def Sys2Proof.Claims.ScalarResultAndFrame : Prop :=
  ∀ (i : Instr) (s : State) (d : SReg) (v : Word), scalarNow i s = some (d, v) → ∃ t, exec i s = .next t ∧ WroteX s t d v

/-- R105: PSET, PSETI and PLOG complete with the predicate of their row, and change nothing else. -/
def Sys2Proof.Claims.PredicateResultAndFrame : Prop :=
  ∀ (i : Instr) (s : State) (p : PReg) (b : Bool), predicateNow i s = some (p, b) → ∃ t, exec i s = .next t ∧ WroteP s t p b

/-- R63, R96, R102: a division completes at once with a pending result of R63, due 4 turns later, and nothing else; the
event of that cycle or later, with no earlier result pending, writes it. -/
def Sys2Proof.Claims.DivisionResult : Prop :=
  ∀ (i : Instr) (s : State) (d : SReg) (v : Word), division i s = some (d, v) →
    ∃ t r, exec i s = .next t ∧ r.due = s.cycle + 64 ∧ r.reg = .s d ∧ r.w = v ∧ t.me.late = s.me.late ++ [r] ∧
      t.me = { s.me with late := t.me.late } ∧ (∀ k, k ≠ s.cur → t.thread k = s.thread k) ∧ { t with threads := s.threads } = s ∧ SameBytes s t
namespace Sys2Proof.Claims

/-! ## Slot V by lane and element (R49, R172) -/

/-- Element i of a register read as type t, without its sign (R49). -/
def elem (t : Ty) (v : VReg) (i : Nat) : Nat := v.toNat / 2 ^ (t.cell * i) % 2 ^ t.width
/-- The value of an element of an integer type (R46). -/
def intOf (t : Ty) (a : Nat) : Int := if t.signed then (a : Int).bmod (2 ^ t.width) else (a : Int)
/-- The code of an integer modulo 2^w. -/
def code (t : Ty) (z : Int) : Nat := (z % 2 ^ t.width).toNat
def laneN (v : VReg) (l : Nat) : Nat := v.toNat / 2 ^ (32 * l) % 2 ^ 32
/-- A lane from its elements: low w bits of each, the rest of each cell 0. -/
def laneFrom (t : Ty) (f : Nat → Nat) (l : Nat) : Nat :=
  ((List.range (perLane t)).map (fun e => f (l * perLane t + e) % 2 ^ t.width * 2 ^ (t.cell * e))).sum
/-- vwrite of R172: v is what a masked write of the lanes f leaves in VD. -/
def Masked (s : State) (m : VMask) (vd : VRegF) (v : VReg) (f : Nat → Nat) : Prop :=
  ∀ l < 16, laneN v l = if (s.rq m.q).getLsbD l then f l else if m.zero then 0 else laneN (s.rv vd) l
/-- The elements of active lanes. -/
def activeOf (t : Ty) (q : BitVec 16) : List Nat := (List.range t.count).filter (fun i => q.getLsbD (i / perLane t))
/-- The flags of some elements joined (R58). -/
def joined (is : List Nat) (f : Nat → Fl) : Fl := is.foldr (fun i a => f i ||| a) 0
/-- A thread with bits joined into %stat; they count as set in this cycle (R82). -/
def joinStat (t : Thread) (cycle : Nat) (b : Word) : Thread :=
  { t with stat := t.stat ||| b, statNew := (if t.statAt = cycle + 1 then t.statNew else 0) ||| b, statAt := cycle + 1 }
def stuck (s : State) (b : Word) : State := s.setMe (joinStat s.me s.cycle b)
/-- s with flags joined into %stat. -/
def flagged (s : State) (f : Fl) : State := if f = 0 then s else stuck s (f.zeroExtend 64)
/-- s with one draw counted (R74, R75). -/
def drew (s : State) : State :=
  let u := s.setMe { s.me with rctr := s.me.rctr + 1 }
  if s.me.rctr = 0xFFFF_FFFF_FFFF_FFFF then stuck u 0x80 else u
/-- The draw of lane l (R73), and the 16 bits of it for element e of the lane (R52). -/
def drawOf (s : State) (l : Nat) : Word := draw (s.me.rkey ^^^ (BitVec.ofNat 64 l <<< 56)) s.me.rctr
def rndOf (s : State) (rm : Rm) (l e : Nat) : Nat := if rm = .sto then (drawOf s l).toNat / 2 ^ (48 - 16 * e) % 2 ^ 16 else 0
def afterRm (s : State) (rm : Rm) : State := if rm = .sto then drew s else s

/-- The count of a shift (R177). -/
def shiftOf (s : State) (t : Ty) (n : ShCount) (i : Nat) : Nat :=
  match n with | .reg vs2 => elem t (s.rv vs2) i % t.width | .imm k => k.toNat % t.width
/-- Bits of an element, from w - 1 down, before the first that is set. -/
def zerosAbove (w n : Nat) : Nat := (List.range w).findIdx (fun k => n.testBit (w - 1 - k))

/-- Mask, VD, element type and elements of the instructions of R176 to R181 that set no flag and draw nothing. -/
def vecPlain (i : Instr) (s : State) : Option (VMask × VRegF × Ty × (Nat → Nat)) :=
  let x (t : ITy) (r : VRegF) (k : Nat) : Int := intOf t.ty (elem t.ty (s.rv r) k)
  let u (t : ITy) (r : VRegF) (k : Nat) : Nat := elem t.ty (s.rv r) k
  match i with
  | .viadd t m d a b => some (m, d, t.ty, fun k => code t.ty (x t a k + x t b k))
  | .visub t m d a b => some (m, d, t.ty, fun k => code t.ty (x t a k - x t b k))
  | .vimul t m d a b => some (m, d, t.ty, fun k => code t.ty (x t a k * x t b k))
  | .vimad t m d a b c => some (m, d, t.ty, fun k => code t.ty (x t a k * x t b k + x t c k))
  | .vand t m d a b => some (m, d, t.ty, fun k => u t a k &&& u t b k)
  | .vor t m d a b => some (m, d, t.ty, fun k => u t a k ||| u t b k)
  | .vxor t m d a b => some (m, d, t.ty, fun k => u t a k ^^^ u t b k)
  | .vshl t m d a n => some (m, d, t.ty, fun k => u t a k * 2 ^ shiftOf s t.ty n k % 2 ^ t.ty.width)
  | .vshr t m d a n => some (m, d, t.ty, fun k => u t a k / 2 ^ shiftOf s t.ty n k)
  | .vsra t m d a n => some (m, d, t.ty, fun k => code t.ty ((u t a k : Int).bmod (2 ^ t.ty.width) / 2 ^ shiftOf s t.ty n k))
  | .vimin t m d a b => some (m, d, t.ty, fun k => if x t b k < x t a k then u t b k else u t a k)
  | .vimax t m d a b => some (m, d, t.ty, fun k => if x t a k < x t b k then u t b k else u t a k)
  | .vpopc t m d a => some (m, d, t.ty, fun k => ((List.range t.ty.width).filter (fun j => (u t a k).testBit j)).length)
  | .vclz t m d a => some (m, d, t.ty, fun k => zerosAbove t.ty.width (u t a k))
  | .viabs t m d a => some (m, d, t.ty, fun k => code t.ty (x t a k).natAbs)
  | .vdot4 uns m d a b =>
    let e (r : VRegF) (k : Nat) : Int := let w := elem .n8 (s.rv r) k; if uns then w else (w : Int).bmod 256
    some (m, d, .n32, fun l => code .n32 (laneN (s.rv d) l + ((List.range 4).map (fun k => e a (4 * l + k) * e b (4 * l + k))).sum))
  | .vsel m d a b q => some (m, d, .n32, fun l => laneN (s.rv (if (s.rq q).getLsbD l then a else b)) l)
  | .vmov m d a => some (m, d, .n32, fun l => laneN (s.rv a) l)
  | .vbcast t m d r => some (m, d, t, fun _ => (s.rx r).toNat % 2 ^ t.width)
  | .vperm t m d a b => some (m, d, t, fun k => elem t (s.rv a) (elem t (s.rv b) k % t.count))
  | .vshuf t m d a pat => some (m, d, t, fun k => elem t (s.rv a) (shufIndex pat.toNat t.count k))
  | .viota m d => some (m, d, .n32, fun l => ((List.range l).filter (fun j => (s.rq m.q).getLsbD j)).length)
  | .vabs t m d a => some (m, d, t.ty, fun k => let c := elem t.ty (s.rv a) k
      if (fmtValue t.fmt c).isNan then t.fmt.nan.getD 0 else c % 2 ^ (t.ty.width - 1))
  | .vneg t m d a => some (m, d, t.ty, fun k => let c := elem t.ty (s.rv a) k
      if (fmtValue t.fmt c).isNan then t.fmt.nan.getD 0
      else if c < 2 ^ (t.ty.width - 1) then c + 2 ^ (t.ty.width - 1) else c - 2 ^ (t.ty.width - 1))
  | _ => none

/-- Operation and operands of a rounding instruction of R176, and its latency in turns. -/
def fpRow (i : Instr) (s : State) : Option (FOp × FTy × Rm × VMask × VRegF × VReg × VReg × VReg × Nat) :=
  match i with
  | .vadd t rm m d a b => some (.add, t, rm, m, d, s.rv a, s.rv b, 0, 1)
  | .vsub t rm m d a b => some (.sub, t, rm, m, d, s.rv a, s.rv b, 0, 1)
  | .vmul t rm m d a b => some (.mul, t, rm, m, d, s.rv a, s.rv b, 0, 1)
  | .vfma t rm m d a b c => some (.fma, t, rm, m, d, s.rv a, s.rv b, s.rv c, 1)
  | .vfms t rm m d a b c => some (.fms, t, rm, m, d, s.rv a, s.rv b, s.rv c, 1)
  | .vfnma t rm m d a b c => some (.fnma, t, rm, m, d, s.rv a, s.rv b, s.rv c, 1)
  | .vmin t m d a b => some (.min, t, .rne, m, d, s.rv a, s.rv b, 0, 1)
  | .vmax t m d a b => some (.max, t, .rne, m, d, s.rv a, s.rv b, 0, 1)
  | .vdiv t rm m d a b => some (.div, t, rm5 rm, m, d, s.rv a, s.rv b, 0, 3)
  | .vsqrt t rm m d a => some (.sqrt, t, rm5 rm, m, d, s.rv a, 0, 0, 3)
  | .vrcp t m d a => some (.rcp, t, .rne, m, d, s.rv a, 0, 0, 2)
  | .vrsq t m d a => some (.rsq, t, .rne, m, d, s.rv a, 0, 0, 2)
  | .vexp2 t m d a => some (.exp2, t, .rne, m, d, s.rv a, 0, 0, 2)
  | .vlog2 t m d a => some (.log2, t, .rne, m, d, s.rv a, 0, 0, 2)
  | .vtanh t m d a => some (.tanh, t, .rne, m, d, s.rv a, 0, 0, 2)
  | .verf t m d a => some (.erf, t, .rne, m, d, s.rv a, 0, 0, 2)
  | _ => none

/-- Element i of a rounding instruction. -/
def fpAt (s : State) (o : FOp) (t : FTy) (rm : Rm) (a b c : VReg) (i : Nat) : Nat × Fl :=
  fpElem o t rm (rndOf s rm (i / perLane t.ty) (i % perLane t.ty)) (elem t.ty a i) (elem t.ty b i) (elem t.ty c i)

/-- The bundle in issue leaves results of L turns, in order: register, value and the bits it writes; nothing else. -/
structure WroteLate (s t : State) (turns : Nat) (rs : List (VRegF × VReg × VReg)) : Prop where
  late : t.me = { s.me with late := s.me.late ++ rs.map (fun r => { due := s.cycle + 16 * turns, reg := .v r.1, w := 0, vv := r.2.1, mask := r.2.2, issued := s.me.issued }) }
  threads : ∀ k, k ≠ s.cur → t.thread k = s.thread k
  bytes : SameBytes s t
  rest : { t with threads := s.threads } = s

/-- The value of a finite exact value. -/
def ratOf : Val → Option ℚ
  | .fin neg n d e => some ((if neg then -1 else 1) * ((n : ℚ) / d) * (2 : ℚ) ^ e)
  | _ => none
/-- The value an operation of R59 and R61 has on finite operands, where it is a number. -/
def exactOf (o : FOp) (x y z : ℚ) : Option ℚ :=
  match o with
  | .add => some (x + y)
  | .sub => some (x - y)
  | .mul => some (x * y)
  | .fma => some (x * y + z)
  | .fms => some (x * y - z)
  | .fnma => some (-(x * y) + z)
  | .div => if y = 0 then none else some (x / y)
  | .rcp => if x = 0 then none else some (1 / x)
  | _ => none

/-! ## Rounding to a format (R50 to R53) -/

/-- A finite exact value: its denominator is not 0. -/
def Proper : Val → Prop
  | .fin _ _ d _ => 0 < d
  | _ => False
/-- The value of a code of a format, where it has a finite one. -/
def valueAt (m : Fmt) (c : Nat) : Option ℚ := ratOf (fmtValue m c)
/-- A value that some code of a format has. -/
def Representable (m : Fmt) (q : ℚ) : Prop := ∃ c < 2 ^ m.width, valueAt m c = some q
/-- q is the greatest representable value at or below w, and the least at or above it. -/
def Below (m : Fmt) (w q : ℚ) : Prop := Representable m q ∧ q ≤ w ∧ ∀ r, Representable m r → r ≤ w → r ≤ q
def Above (m : Fmt) (w q : ℚ) : Prop := Representable m q ∧ w ≤ q ∧ ∀ r, Representable m r → w ≤ r → q ≤ r
/-- The neighbours of w toward zero and away from it. -/
def Toward (m : Fmt) (w q : ℚ) : Prop := if 0 ≤ w then Below m w q else Above m w q
def Away (m : Fmt) (w q : ℚ) : Prop := if 0 ≤ w then Above m w q else Below m w q
/-- The code c of value q is what RM makes of w, where w lies within the finite range (R50 to R52). -/
def RoundsTo (m : Fmt) (rm : Rm) (rnd : Nat) (w q : ℚ) (c : Nat) : Prop :=
  match rm with
  | .rtz => Toward m w q
  | .rdn => Below m w q
  | .rup => Above m w q
  | .rne => ∀ r, Representable m r → |w - q| ≤ |w - r| ∧ (r ≠ q → |w - r| = |w - q| → c % 2 = 0)
  | .rna => ∀ r, Representable m r → |w - q| ≤ |w - r| ∧ (r ≠ q → |w - r| = |w - q| → |r| < |q|)
  | .sto => (Representable m w → q = w) ∧ (¬ Representable m w → ∀ lo hi, Toward m w lo → Away m w hi →
      q = if |hi| - |lo| ≤ |w| - |lo| + rnd * (|hi| - |lo|) / 2 ^ 16 then hi else lo)
/-- The greatest finite value of a format, and the one that would follow it (R53). -/
def greatest (m : Fmt) : ℚ := (valueAt m m.maxCode).getD 0
def following (m : Fmt) : ℚ := 2 * greatest m - (valueAt m (m.maxCode - 1)).getD 0
def signed (m : Fmt) (w : ℚ) (c : Nat) : Nat := if w < 0 then c + 2 ^ (m.width - 1) else c
/-- RM takes an overflow of w to the greatest finite value (R53). -/
def directed (rm : Rm) (w : ℚ) : Bool := match rm with | .rtz => true | .rdn => decide (0 < w) | .rup => decide (w < 0) | _ => false

/-- The integer z is what RM makes of w (R50 to R52). -/
def IntegerRoundsTo (rm : Rm) (rnd : Nat) (w : ℚ) (z : Int) : Prop :=
  let sign : Int := if w < 0 then -1 else 1
  match rm with
  | .rtz => z = sign * ⌊|w|⌋
  | .rdn => z = ⌊w⌋
  | .rup => z = ⌈w⌉
  | .rne => |w - z| ≤ 1 / 2 ∧ (|w - z| = 1 / 2 → z % 2 = 0)
  | .rna => |w - z| ≤ 1 / 2 ∧ (|w - z| = 1 / 2 → |w| ≤ |(z : ℚ)|)
  | .sto => z = sign * (if w ≠ ⌊w⌋ ∧ 1 ≤ |w| - ⌊|w|⌋ + (rnd : ℚ) / 2 ^ 16 then ⌊|w|⌋ + 1 else ⌊|w|⌋)
/-- Least and greatest value of an integer type (R46). -/
def leastOf (t : Ty) : Int := if t.signed then -2 ^ (t.width - 1) else 0
def greatestOf (t : Ty) : Int := if t.signed then 2 ^ (t.width - 1) - 1 else 2 ^ t.width - 1

end Sys2Proof.Claims

/-- R176 to R181, R172: the integer operations, VABS, VNEG, VSEL, VMOV, VBCAST, VPERM, VSHUF and VIOTA complete with their
elements in the active lanes of VD, the inactive lanes kept or zero, and nothing else changed. -/
def Obligations.VectorIntegerAndMoveResult : Prop :=
  ∀ (i : Instr) (s : State) (m : VMask) (vd : VRegF) (ty : Ty) (f : Nat → Nat), vecPlain i s = some (m, vd, ty, f) →
    ∃ t v, exec i s = .next t ∧ WroteV s t vd v ∧ Masked s m vd v (laneFrom ty f)

/-- R176, R172, R58, R52, R74: a rounding operation of one turn completes with its element results in the active lanes, their
flags joined into %stat, %rctr advanced under RM 5 alone, and nothing else changed. -/
def Sys2Proof.Claims.VectorFloatResult : Prop :=
  ∀ (i : Instr) (s : State) (o : FOp) (ty : FTy) (rm : Rm) (m : VMask) (vd : VRegF) (a b c : VReg),
    fpRow i s = some (o, ty, rm, m, vd, a, b, c, 1) →
    ∃ t v, exec i s = .next t ∧
      WroteV (flagged (afterRm s rm) (joined (activeOf ty.ty (s.rq m.q)) (fun k => (fpAt s o ty rm a b c k).2))) t vd v ∧
      Masked s m vd v (laneFrom ty.ty (fun k => (fpAt s o ty rm a b c k).1))

/-- R176, R96, R172: VDIV, VSQRT, VRCP, VRSQ, VEXP2, VLOG2, VTANH and VERF complete with a pending result due 3 or 2 turns
later, which writes the active lanes (all lanes under zero), their flags already in %stat; nothing else. -/
def Sys2Proof.Claims.VectorFloatLateResult : Prop :=
  ∀ (i : Instr) (s : State) (o : FOp) (ty : FTy) (rm : Rm) (m : VMask) (vd : VRegF) (a b c : VReg) (n : Nat),
    fpRow i s = some (o, ty, rm, m, vd, a, b, c, n) → n ≠ 1 →
    ∃ t v w, exec i s = .next t ∧
      WroteLate (flagged s (joined (activeOf ty.ty (s.rq m.q)) (fun k => (fpAt s o ty rm a b c k).2))) t n [(vd, v, w)] ∧
      (∀ l < 16, laneN v l = if (s.rq m.q).getLsbD l then laneFrom ty.ty (fun k => (fpAt s o ty rm a b c k).1) l else 0) ∧
      (∀ l < 16, laneN w l = if (s.rq m.q).getLsbD l || m.zero then 2 ^ 32 - 1 else 0)

/-- R59, R61, R62: on finite operands VADD, VSUB, VMUL, VFMA, VFMS, VFNMA, VDIV and VRCP round, once, a value that is exactly
the sum, product or quotient. -/
def Sys2Proof.Claims.OperationsAreExact : Prop :=
  ∀ (o : FOp) (ty : FTy) (rm : Rm) (rnd a b c : Nat) (x y z w : ℚ),
    ratOf (fmtValue ty.fmt a) = some x → ratOf (fmtValue ty.fmt b) = some y → ratOf (fmtValue ty.fmt c) = some z →
    exactOf o x y z = some w →
    ∃ v, Proper v ∧ ratOf v = some w ∧ fpElem o ty rm rnd a b c = roundF ty.fmt rm false rnd v

/-- R50 to R53: rounding to a format gives, within its finite range, the code of the value that RM names: the neighbour below, above or toward zero, the
nearest with ties to the even code or away from zero, or the one that the draw chooses; a value that the format has stays as it is, a zero takes the sign of
the value but in MK8, and nx is set where the value changes. Beyond the range it gives the greatest finite value under saturation or where RM is directed to it; from the
value on that would follow it, infinity, else NaN, else the greatest finite value; with of and nx. -/
def Sys2Proof.Claims.RoundingIsRight : Prop :=
  ∀ (ty : Ty) (rm : Rm) (sat : Bool) (rnd : Nat) (v : Val) (w : ℚ), ty.isInt = false → ty ≠ .e8m0 → rnd < 2 ^ 16 → Proper v → ratOf v = some w →
    let m := ty.fmt
    let c := (roundF m rm sat rnd v).1
    let fl := (roundF m rm sat rnd v).2
    (|w| ≤ greatest m → c < 2 ^ m.width ∧ ∃ q, valueAt m c = some q ∧ RoundsTo m rm rnd w q c ∧ (Representable m w → q = w) ∧
      (q = 0 → w ≠ 0 → c = if m.mk8 then 0 else signed m w 0) ∧ (fl.getLsbD 4 = true ↔ q ≠ w) ∧ fl &&& 7 = 0) ∧
    (greatest m < |w| → sat || directed rm w → c = signed m w m.maxCode ∧ fl.getLsbD 4 = true) ∧
    (following m ≤ |w| → sat = false → directed rm w = false →
      c = (match m.inf, m.nan with | some i, _ => signed m w i | none, some x => x | none, none => signed m w m.maxCode) ∧ fl = 20)

/-- R55, R50 to R52: rounding to an integer type rounds to the integer that RM names and clamps it to the type's range, with nv where that changes it
and nx where the value was no integer; NaN gives 0 and an infinity the bound of its side, with nv. -/
def Sys2Proof.Claims.IntegerRoundingIsRight : Prop :=
  ∀ (ty : Ty) (rm : Rm) (sat : Bool) (rnd : Nat), ty.isInt = true → rnd < 2 ^ 16 →
    (∀ b, roundTo ty rm sat rnd (.nan b) = (0, 1)) ∧
    (∀ neg, roundTo ty rm sat rnd (.inf neg) = (code ty (if neg then leastOf ty else greatestOf ty), 1)) ∧
    ∀ (v : Val) (w : ℚ), Proper v → ratOf v = some w → ∃ z : Int, IntegerRoundsTo rm rnd w z ∧
      (roundTo ty rm sat rnd v).1 = code ty (max (leastOf ty) (min z (greatestOf ty))) ∧
      (roundTo ty rm sat rnd v).2 = if z < leastOf ty ∨ greatestOf ty < z then 1 else if w ≠ z then 16 else 0

namespace Sys2Proof.Claims

/-! ## Conversion, quantisation, reductions and masks (R178 to R190, R204) -/

/-- Element k of VCVT with its flags (R182). -/
def cvtAt (s : State) (dty sty : Ty) (rm : Rm) (nsat : Bool) (a : VReg) (k : Nat) : Nat × Fl :=
  let l := k / perLane dty
  let e := k % perLane dty
  if e < perLane sty then roundTo dty rm (!nsat) (rndOf s rm l e) (tyValue sty (elem sty a (l * perLane sty + e))) else (0, 0)
/-- Element k of VDQNT with its flags (R186). -/
def dqntAt (fty : FTy) (ety : Ty) (h : Bool) (a : VReg) (k : Nat) : Nat × Fl :=
  let sc := elem .n8 a 32
  if sc = 255 then (fty.fmt.nan.getD 0, 0)
  else roundF fty.fmt .rne false 0 (unscale (254 - sc) (tyValue ety (elem .n8 a (if h then 16 + k else k) % 2 ^ ety.width)))

/-- The 32 values of a block (R184). -/
def block (a b : VReg) : List Val := (List.range 32).map (fun k => tyValue .f32 (if k < 16 then laneN a k else laneN b (k - 16)))

/-- The value of a floating-point reduction of values that are there: an exact sum, or R60 element by element. -/
def foldVals (op : RedOp) (xs : List Val) : Option Val :=
  match xs with
  | [] => none
  | x :: rest => some (rest.foldl (fun a y => match op with | .add => fAdd .rne a y | .min => fMinMax false a y | .max => fMinMax true a y) x)
/-- R187: the reduction of some codes, with its flags. -/
def reduction (t : Ty) (op : RedOp) (cs : List Nat) : Nat × Fl :=
  if t.isInt then
    let zs := cs.map (intOf t)
    match zs with
    | [] => (code t (match op with | .add => 0 | .min => intMax t | .max => intMin t), 0)
    | z :: rest => (code t (match op with | .add => zs.sum | .min => rest.foldl min z | .max => rest.foldl max z), 0)
  else match foldVals op (cs.map (tyValue t)) with
    | none => (match op with | .add => 0 | .min => t.fmt.inf.getD 0 | .max => withSign t.fmt true (t.fmt.inf.getD 0), 0)
    | some v => let r := roundF t.fmt .rne false 0 v
      (r.1, r.2 ||| (if cs.any (fun c => (tyValue t c).invalid) then flNV else 0))
/-- Mask, VD, rounding mode, type and elements with flags of VCVT, VDQNT, VUNPK and VSCAN. -/
def vecFlagged (i : Instr) (s : State) : Option (VMask × VRegF × Rm × Ty × (Nat → Nat × Fl)) :=
  match i with
  | .vcvt dty sty rm nsat m d a => some (m, d, rm, dty, cvtAt s dty sty rm nsat (s.rv a))
  | .vdqnt fty ety h m d a => some (m, d, .rne, fty.ty, dqntAt fty ety h (s.rv a))
  | .vunpk dty sty part m d a => some (m, d, .rne, .n32, fun j => convElem dty sty .rne true 0 (elem sty (s.rv a) (16 * part.toNat + j)))
  | .vscan ty op m d a => some (m, d, .rne, ty, fun j =>
      reduction ty op (((activeOf ty (s.rq m.q)).filter (fun k => k ≤ j)).map (elem ty (s.rv a))))
  | _ => none

/-- The extension of an element to 64 bits (R179, R187). -/
def extended (t : Ty) (c : Nat) : Word := if t.isInt then wrap (intOf t c) else wrap (c : Int)
/-- Whether code a stands above code b in VARGMX (R189). -/
def above (t : Ty) (a b : Nat) : Bool :=
  if t.isInt then decide (intOf t b < intOf t a)
  else
    let c := cmpVal (tyValue t a) (tyValue t b)
    decide (0 < c) || (decide (c = 0) && !(tyValue t a).neg? && (tyValue t b).neg?)
/-- The active elements that are numbers. -/
def numbers (t : Ty) (q : BitVec 16) (v : VReg) : List Nat :=
  (activeOf t q).filter (fun k => t.isInt || !(tyValue t (elem t v k)).isNan)

/-- Destination, value and flags of the slot V instructions that write a scalar register. -/
def vecScalar (i : Instr) (s : State) : Option (SReg × Word × Fl) :=
  match i with
  | .vext t d a k => some (d, extended t (elem t (s.rv a) k.toNat), 0)
  | .qcnt d q => some (d, wrap (((List.range 16).filter (fun l => (s.rq q).getLsbD l)).length : Nat), 0)
  | .vred t op m d a =>
    let r := reduction t op ((activeOf t (s.rq m.q)).map (elem t (s.rv a)))
    some (d, extended t r.1, r.2)
  | .vargmx t m d a =>
    let v := s.rv a
    let ks := numbers t (s.rq m.q) v
    some (d, (match ks.find? (fun k => ks.all (fun j => !above t (elem t v j) (elem t v k))) with | some k => wrap (k : Nat) | none => wrap (-1)), 0)
  | _ => none

/-- A condition of VCMP on two codes, and nv (R178). -/
def vcmpAt (c : FCond) (t : Ty) (a b : Nat) : Bool × Fl :=
  let x := tyValue t a
  let y := tyValue t b
  let nan := x.isNan || y.isNan
  let r := cmpVal x y
  (match c with
   | .eq => !nan && decide (r = 0) | .ne => nan || decide (r ≠ 0) | .lt => !nan && decide (r < 0) | .le => !nan && decide (r ≤ 0)
   | .gt => !nan && decide (0 < r) | .ge => !nan && decide (0 ≤ r) | .uno => nan | .ord => !nan,
   if x.invalid || y.invalid || (nan && (c == .lt || c == .le || c == .gt || c == .ge)) then flNV else 0)
/-- A condition of VICMP on two codes: signedness from the condition, width from the type (R178). -/
def vicmpAt (c : Cond) (w : Nat) (a b : Nat) : Bool :=
  match c with
  | .eq => decide (a = b) | .ne => decide (a ≠ b)
  | .lt => decide ((a : Int).bmod (2 ^ w) < (b : Int).bmod (2 ^ w)) | .ge => decide ((b : Int).bmod (2 ^ w) ≤ (a : Int).bmod (2 ^ w))
  | .ltu => decide (a < b) | .geu => decide (b ≤ a)

/-- Destination, bits and flags of the instructions that write a lane mask. -/
def vecMask (i : Instr) (s : State) : Option (QReg × (Nat → Bool) × Fl) :=
  let masked (m : VMask) (d : QReg) (new : Nat → Bool) (l : Nat) : Bool :=
    if (s.rq m.q).getLsbD l then new l else if m.zero then false else (s.rq d).getLsbD l
  match i with
  | .vcmp t c m d a b =>
    let f (k : Nat) : Bool × Fl := vcmpAt c t.ty (elem t.ty (s.rv a) k) (elem t.ty (s.rv b) k)
    some (d, masked m d (fun l => (List.range (perLane t.ty)).all (fun e => (f (l * perLane t.ty + e)).1)),
      joined (activeOf t.ty (s.rq m.q)) (fun k => (f k).2))
  | .vicmp t c m d a b =>
    some (d, masked m d (fun l => (List.range (perLane t.ty)).all (fun e =>
      vicmpAt c t.ty.width (elem t.ty (s.rv a) (l * perLane t.ty + e)) (elem t.ty (s.rv b) (l * perLane t.ty + e)))), 0)
  | .qlog d a b t => some (d, fun l => t.getLsbD ((if (s.rq a).getLsbD l then 2 else 0) + (if (s.rq b).getLsbD l then 1 else 0)), 0)
  | _ => none

/-- Sorting rank of an f32 key: rising with the key, -0 below +0, NaN lowest (R190). -/
def rank (c : Nat) : Int :=
  if (tyValue .f32 c).isNan then -(2 ^ 40) else if c < 2 ^ 31 then (c : Int) else -((c : Int) - 2 ^ 31) - 1
/-- Whether pair x may stand before pair y. -/
def mayPrecede (x y : Nat × Nat) : Prop := rank y.1 < rank x.1 ∨ rank x.1 = rank y.1 ∧ x.2 ≤ y.2
def pairs (k i : VReg) : List (Nat × Nat) := (List.range 16).map (fun l => (laneN k l, laneN i l))
/-- The pairs that VSORTK and VMERGEK order. -/
def sortInput (i : Instr) (s : State) : Option (VRegF × List (Nat × Nat)) :=
  match i with
  | .vsortk d a b => some (d, pairs (s.rv a) (s.rv b))
  | .vmergek d a b c => some (d, pairs (s.rv a) (s.rv b) ++ pairs (s.rv c) (s.rv (c + 1)))
  | _ => none

end Sys2Proof.Claims

/-- R182, R183, R186, R188: VCVT, VDQNT, VUNPK and VSCAN complete with their rounded elements in the active lanes, their flags
joined into %stat, %rctr advanced under RM 5 alone, and nothing else changed. -/
def Sys2Proof.Claims.VectorConversionResult : Prop :=
  ∀ (i : Instr) (s : State) (m : VMask) (vd : VRegF) (rm : Rm) (ty : Ty) (f : Nat → Nat × Fl), vecFlagged i s = some (m, vd, rm, ty, f) →
    ∃ t v, exec i s = .next t ∧
      WroteV (flagged (afterRm s rm) (joined (activeOf ty (s.rq m.q)) (fun k => (f k).2))) t vd v ∧
      Masked s m vd v (laneFrom ty (fun k => (f k).1))

/-- R184, R185: VQNT writes its 32 codes to bytes 0 to 31 and the block's scale to byte 32, VSCALE the scale to byte 0, every
other byte 0; VINS replaces one element and VPACK the 16 elements of its part. -/
def Sys2Proof.Claims.VectorQuantiseAndPackResult : Prop :=
  ∀ (s : State) (ety : Ty) (d a b : VRegF),
    (∃ t v, exec (.vscale ety d a b) s = .next t ∧ WroteV s t d v ∧ v.toNat = scaleOf ety (block (s.rv a) (s.rv b)) % 2 ^ 512) ∧
    (∀ (rm : Rm) (nsat : Bool),
      let xs := block (s.rv a) (s.rv b)
      let q (k : Nat) : Nat × Fl := quantElem ety rm (!nsat) (rndOf s rm (k % 16) (k / 16)) (scaleOf ety xs) (xs.getD k (.nan false))
      ∃ t v, exec (.vqnt ety rm nsat d a b) s = .next t ∧
        WroteV (flagged (afterRm s rm) (joined (List.range 32) (fun k => (q k).2))) t d v ∧
        ∀ k < 64, elem .n8 v k = if k < 32 then (q k).1 % 256 else if k = 32 then scaleOf ety xs % 256 else 0) ∧
    (∀ (ty : Ty) (x : SReg) (n : BitVec 6), n.toNat < ty.count →
      ∃ t v, exec (.vins ty d x n) s = .next t ∧ WroteV s t d v ∧
        ∀ k < ty.count, v.toNat / 2 ^ (ty.cell * k) % 2 ^ ty.cell =
          if k = n.toNat then (s.rx x).toNat % 2 ^ ty.width else (s.rv d).toNat / 2 ^ (ty.cell * k) % 2 ^ ty.cell) ∧
    (∀ (dty sty : Ty) (part : BitVec 2) (m : VMask), 16 * part.toNat < dty.count →
      let c (j : Nat) : Nat × Fl := convElem dty sty .rne true 0 (elem sty (s.rv a) (j * perLane sty))
      ∃ t v, exec (.vpack dty sty part m d a) s = .next t ∧
        WroteV (flagged s (joined ((List.range 16).filter (fun j => (s.rq m.q).getLsbD j)) (fun j => (c j).2))) t d v ∧
        ∀ k < dty.count, v.toNat / 2 ^ (dty.cell * k) % 2 ^ dty.cell =
          let old := (s.rv d).toNat / 2 ^ (dty.cell * k) % 2 ^ dty.cell
          if 16 * part.toNat ≤ k ∧ k < 16 * part.toNat + 16 then
            (if (s.rq m.q).getLsbD (k - 16 * part.toNat) then (c (k - 16 * part.toNat)).1 % 2 ^ dty.width else if m.zero then 0 else old)
          else old)

/-- R179, R181, R187, R189: VEXT, QCNT, VRED and VARGMX complete with their value in the scalar register, the flags of a
reduction joined into %stat, and nothing else changed. -/
def Sys2Proof.Claims.VectorToScalarResult : Prop :=
  ∀ (i : Instr) (s : State) (d : SReg) (v : Word) (fl : Fl), vecScalar i s = some (d, v, fl) →
    ∃ t, exec i s = .next t ∧ WroteX (flagged s fl) t d v

/-- R178, R181: VCMP, VICMP and QLOG complete with their bits in q(VD), the flags of VCMP joined into %stat, and nothing else
changed. -/
def Sys2Proof.Claims.LaneMaskResult : Prop :=
  ∀ (i : Instr) (s : State) (d : QReg) (f : Nat → Bool) (fl : Fl), vecMask i s = some (d, f, fl) →
    ∃ t b, exec i s = .next t ∧ WroteQ (flagged s fl) t d b ∧ ∀ l < 16, b.getLsbD l = f l

/-- R190: VSORTK and VMERGEK complete with two pending results, due 2 turns later, that hold the first 16 of their pairs in
descending order, NaN keys in the canonical form; nothing else. -/
def Obligations.SortResult : Prop :=
  ∀ (i : Instr) (s : State) (d : VRegF) (ps : List (Nat × Nat)), sortInput i s = some (d, ps) →
    ∃ (t : State) (k x : VReg) (qs : List (Nat × Nat)), exec i s = .next t ∧ WroteLate s t 2 [(d, k, BitVec.allOnes 512), (pairOf d, x, BitVec.allOnes 512)] ∧
      qs.Perm ps ∧ qs.Pairwise mayPrecede ∧
      (∀ l < 16, laneN k l = let c := (qs.getD l (0, 0)).1; if (tyValue .f32 c).isNan then 0x7FC0_0000 else c) ∧
      (∀ l < 16, laneN x l = (qs.getD l (0, 0)).2)

/-- R102, R172: NOP and VNOP complete and change nothing. -/
def Sys2Proof.Claims.NopsChangeNothing : Prop := ∀ s : State, exec .nop s = .next s ∧ exec .vnop s = .next s

namespace Sys2Proof.Claims

/-! ## Control flow and exceptions (R108 to R110, R304 to R313) -/

/-- s with the bundle in issue continuing at an address. -/
def going (s : State) (pc : Word) : State := s.setMe { s.me with npc := pc }
/-- pc + 16 × a displacement. -/
def bundleAt {n : Nat} (s : State) (disp : BitVec n) : Int := (s.me.pc.toNat : Int) + 16 * disp.toInt
def nextPc (s : State) : Word := wrap ((s.me.pc.toNat : Int) + 16)

/-- The register a branch writes and where it goes, if it is taken (R109); JR where its target is aligned. -/
def flow (i : Instr) (s : State) : Option (Option (SReg × Word) × Option Int) :=
  match i with
  | .b c a b disp => some (none, if holds c (s.rx a) (s.rx b) then some (bundleAt s disp) else none)
  | .bp p neg disp => some (none, if s.rp p != neg then some (bundleAt s disp) else none)
  | .j disp => some (none, some (bundleAt s disp))
  | .jal d disp => some (some (d, nextPc s), some (bundleAt s disp))
  | .jr d a => if (s.rx a).toNat % 16 = 0 then some (some (d, nextPc s), some ((s.rx a).toNat : Int)) else none
  | .dbnz a disp =>
    let v := wrap ((s.rx a).toInt - 1)
    some (some (a, v), if v = 0 then none else some (bundleAt s disp))
  | _ => none

def branchOp (i : Instr) : Word :=
  match i with | .b _ _ _ _ => 0x40 | .bp _ _ _ => 0x41 | .j _ => 0x42 | .jal _ _ => 0x43 | .jr _ _ => 0x44 | _ => 0x45

/-- Cause, %finfo, %fva (none: unchanged) and %upc of what an instruction raises precisely at its bundle (R307, R309). -/
def raises (i : Instr) (s : State) : Option (Nat × Word × Option Word × Word) :=
  let fault (cause : Nat) (op : Word) (a : Word) : Option (Nat × Word × Option Word × Word) := some (cause, op, some a, s.me.pc)
  let branch : Option (Nat × Word × Option Word × Word) :=
    match flow i s with
    | some (_, some z) => if z < 0 ∨ 2 ^ 56 ≤ z then fault 4 (branchOp i) (wrap z) else none
    | _ => none
  match i with
  | .trap c => some (0, wrap (c.toNat : Int), none, nextPc s)
  | .pageInRequest => some (0, 1, none, nextPc s)
  | .enterFaultHold => some (0, 2, none, nextPc s)
  | .postToHostMailbox => some (0, 3, none, nextPc s)
  | .brk c => some (1, wrap (c.toNat : Int), none, s.me.pc)
  | .illegalBundle op slot => fault 2 (wrap ((op.toNat + if slot then 256 else 0 : Nat) : Int)) 0
  | .eret => fault 2 0x47 0
  | .b _ _ _ _ => branch
  | .bp _ _ _ => branch
  | .j _ => branch
  | .jal _ _ => branch
  | .dbnz _ _ => branch
  | .jr _ a => if 2 ^ 56 ≤ (s.rx a).toNat then fault 4 0x44 (s.rx a) else if (s.rx a).toNat % 16 ≠ 0 then fault 5 0x44 (s.rx a) else none
  | .spawn _ a _ => if (s.rx a).toNat % 16 ≠ 0 then fault 5 0x50 (s.rx a) else if 2 ^ 56 ≤ (s.rx a).toNat then fault 4 0x50 (s.rx a) else none
  | .migr _ a => if 1024 ≤ (s.rx a).toNat ∧ s.rx a ≠ wrap (-1) then fault 4 0x5A (s.rx a) else none
  | .dqsteal _ a => if (s.kernel s.me.kid).ncore ≤ (s.rx a).toNat then fault 4 0x69 (s.rx a) else none
  | .barr _ _ remote a => if remote ∧ (s.kernel s.me.kid).ncore ≤ (s.rx a).toNat then fault 4 0x6C (s.rx a) else none
  | .srd _ sel _ => if 0x20 ≤ sel.toNat then fault 2 0x70 0 else none
  | .swr sel _ _ =>
    if 0x20 ≤ sel.toNat ∨ sel.toNat < 0x00A ∨ sel.toNat = 0x00C ∨ 0x01B ≤ sel.toNat ∨
      (s.me.mode = .user ∧ (sel.toNat = 0x00A ∨ sel.toNat = 0x00E ∨ sel.toNat = 0x011)) then fault 2 0x71 0 else none
  | _ => none

/-- A user-mode thread that may enter runtime mode now (R306, R308). -/
def MayEnter (s : State) : Prop := s.me.mode = .user ∧ s.reservations s.cur = 0 ∧ s.me.frame = [] ∧ s.me.upvec ≠ 0

/-- The bundle in issue took an exception and had no other effect (R110, R149, R308, R309). -/
structure Entered (s t : State) (cause : Nat) (info : Word) (fva : Option Word) (upc : Word) : Prop where
  saved : t.me.upc = upc ∧ t.me.ucause.toNat = cause ∧ t.me.finfo = info ∧ t.me.fva = fva.getD s.me.fva
  goes : t.me.mode = .runtime ∧ t.me.pc.toNat = s.me.upvec.toNat / 16 * 16 ∧ t.me.npc = t.me.pc ∧ t.me.resv = none
  keeps : t.me = { s.me with
    upc := t.me.upc, ucause := t.me.ucause, finfo := t.me.finfo, fva := t.me.fva, mode := t.me.mode, pc := t.me.pc,
    npc := t.me.npc, resv := none, wait := none, reply := none, blocks := [], tile := none }
  threads : ∀ k, k ≠ s.cur → t.thread k = s.thread k
  accesses : t.ops = s.ops.map (fun o =>
    if o.thr = s.cur then (match o.kind with | .lr sg => { o with kind := .load sg } | _ => o) else o)
  trapped : ∃ r, t.issue = .trapped r ∧ r.cause = cause
  bytes : SameBytes s t
  rest : { t with threads := s.threads, ops := s.ops, issue := s.issue } = s

/-- The bundle in issue raised a fatal fault of its context and had no other effect (R312, R313). -/
structure Fatally (s t : State) (f : Fatal) : Prop where
  noted : (t.ctx s.me.ctx).fatal = some ((s.ctx s.me.ctx).fatal.getD { f with time := s.time, due := s.cycle + 1 })
  context : t.ctx s.me.ctx = { s.ctx s.me.ctx with fatal := (t.ctx s.me.ctx).fatal }
  contexts : ∀ c, c ≠ s.me.ctx → t.ctx c = s.ctx c
  keeps : t.me = { s.me with wait := some .poll, fva := t.me.fva }
  threads : ∀ k, k ≠ s.cur → t.thread k = s.thread k
  trapped : ∃ r, t.issue = .trapped r
  bytes : SameBytes s t
  rest : { t with threads := s.threads, ctxs := s.ctxs, issue := s.issue } = s

/-- No word of [off, off + n) of an LM carries an error mark (R414). -/
def LmSound (s : State) (cc off n : Nat) : Prop := ∀ e ∈ s.ecc, e.1 * 8 + 8 ≤ lmPa cc off ∨ lmPa cc off + n ≤ e.1 * 8

/-- A special register's value (R81); selectors 0x020 and up have none. -/
def specialOf (s : State) (sel hi : Nat) : Option Word :=
  let t := s.me
  let k := s.kernel t.kid
  let n (z : Nat) : Option Word := some (wrap (z : Int))
  if hi ≠ 0 ∧ sel ≠ 0x01D then none else
  match sel with
  | 0x000 => n (t.pc.toNat / 16 * 16) | 0x001 => n t.tid.toNat | 0x002 => n t.mul.toNat | 0x003 => n t.slot | 0x004 => n t.core
  | 0x005 => n (k.lcOf t.core) | 0x006 => n (k.nrow * k.ncol) | 0x007 => n k.nthread | 0x008 => n t.ctx | 0x009 => n (s.ctx t.ctx).tenant
  | 0x00A => n t.prin.toNat | 0x00B => n t.rper.toNat | 0x00C => some s.time | 0x00D => some t.tmcmp | 0x00E => some t.upvec
  | 0x00F => some t.upc | 0x010 => n t.ucause.toNat | 0x011 => n (t.umask.toNat * 256) | 0x012 => some t.fva | 0x013 => some t.finfo
  | 0x014 => some t.rkey | 0x015 => some t.rctr | 0x016 => some t.nto | 0x017 => n t.glo.toNat | 0x018 => n t.ghi.toNat
  | 0x019 => some t.stat | 0x01A => n t.modeReg.toNat
  | 0x01B => n (s.eng (s.engOf t .mat)).completed | 0x01C => n (s.eng (s.engOf t .cpy)).completed
  | 0x01D => n (s.eng (s.engOf t (if hi = 0 then .cla0 else if hi = 1 then .cla1 else if hi = 2 then .cla2 else .cla3))).completed
  | 0x01E => n (((List.range 8).map (fun p => (match k.coreAt (k.lcOf t.core) p with | some c => s.readyCount t.kid c % 256 | none => 0) * 256 ^ p)).sum)
  | 0x01F => if k.gang then some k.gtick else some 0
  | _ => none

/-- A thread after a write of a writable special register (R81 to R83). What entered %stat in the same cycle stays (R82). -/
def swrOf (t : Thread) (cycle sel : Nat) (w : Word) : Option Thread :=
  let low (n : Nat) : Nat := w.toNat % 2 ^ n
  let entered : Word := if t.statAt = cycle + 1 then t.statNew else 0
  let denials : Nat := max (if low 32 / 2 ^ 16 = 0 then t.stat.toNat / 2 ^ 16 % 2 ^ 16 else 0) (entered.toNat / 2 ^ 16 % 2 ^ 16)
  match sel with
  | 0x00A => some { t with prin := BitVec.ofNat 32 (low 32) }
  | 0x00B => some { t with rper := BitVec.ofNat 4 (min w.toNat 10), rperSet := true }
  | 0x00D => some { t with tmcmp := w } | 0x00E => some { t with upvec := w } | 0x00F => some { t with upc := w }
  | 0x010 => some { t with ucause := BitVec.ofNat 8 (low 8) }
  | 0x011 => some { t with umask := BitVec.ofNat 6 (low 14 / 256) }
  | 0x012 => some { t with fva := w } | 0x013 => some { t with finfo := w } | 0x014 => some { t with rkey := w }
  | 0x015 => some { t with rctr := w } | 0x016 => some { t with nto := w }
  | 0x017 => some { t with glo := BitVec.ofNat 32 (low 32) } | 0x018 => some { t with ghi := BitVec.ofNat 32 (low 32) }
  | 0x019 => some { t with stat := ofBits (fun k =>
      if k < 16 then (decide (k < 10) && t.stat.getLsbD k && !w.getLsbD k) || entered.getLsbD k else decide (k < 32) && denials.testBit (k - 16)) }
  | 0x01A => some { t with modeReg := BitVec.ofNat 5 (low 4 + if t.modeReg.getLsbD 4 then 16 else 0) }
  | _ => none

/-- An operation put in flight and nothing else: it is due in a later cycle, and carries its thread's %rper (R261). -/
def Sent (s t : State) (o : Op) : Prop :=
  ∃ due, s.cycle < due ∧
    t = { s with ops := s.ops ++ [{ o with id := s.nextId, due := due, rper := (s.thread o.thr).rper.toNat }], nextId := s.nextId + 1, drawn := s.drawn + 1 }

end Sys2Proof.Claims

/-- R108, R109: a branch or jump whose target, if taken, lies in the canonical local space completes: the thread continues at
the target, or at its next bundle; JAL and JR write pc + 16, DBNZ the count less one; nothing else changes. -/
def Obligations.BranchResult : Prop :=
  ∀ (i : Instr) (s : State) (link : Option (SReg × Word)) (to_ : Option Int), s.issue = .done → flow i s = some (link, to_) →
    (∀ z, to_ = some z → 0 ≤ z ∧ z < 2 ^ 56) →
    ∃ t, exec i s = .next t ∧
      let u := match to_ with | some z => going s (wrap z) | none => s
      match link with
      | none => t = u
      | some (d, v) => WroteX u t d v

/-- R110, R306 to R309, R95, R108: where an instruction of these raises a precise cause in user mode and the thread may enter
runtime mode, it takes it: %upc, %ucause, %finfo and %fva as the cause gives them, runtime mode at %upvec, the reservation
dropped, and no other effect. -/
def Obligations.TakingAnException : Prop :=
  ∀ (i : Instr) (s : State) (cause : Nat) (info upc : Word) (fva : Option Word),
    MayEnter s → raises i s = some (cause, info, fva, upc) → ∃ t, exec i s = .next t ∧ Entered s t cause info fva upc

/-- R307, R312, R313: in runtime mode a precise cause 1 to 6 is INRUN, and in user mode any upcall with %upvec = 0 is NOVEC:
the fault is noted for the context, and nothing else is done. -/
def Sys2Proof.Claims.FatalFaultsAtTheBundle : Prop :=
  ∀ (i : Instr) (s : State) (cause : Nat) (info upc : Word) (fva : Option Word), raises i s = some (cause, info, fva, upc) →
    (s.me.mode = .runtime → cause ≠ 0 → i ≠ .eret →
      ∃ t, exec i s = .next t ∧ Fatally s t { tid := s.me.tid, cause := 16, inner := cause, fva := fva.getD s.me.fva, pc := s.me.pc }) ∧
    (s.me.mode = .user → s.reservations s.cur = 0 → s.me.frame = [] → s.me.upvec = 0 →
      ∃ t, exec i s = .next t ∧ Fatally s t { tid := s.me.tid, cause := 17, inner := 0, fva := fva.getD s.me.fva, pc := s.me.pc })

/-- R110: ERET in runtime mode returns to user mode at %upc with bits [3:0] as 0. What waited for accesses that faulted waits for
those the runtime has in flight in their stead, and nothing else changes (R111, R139; how it waits is log 100's). -/
def Sys2Proof.Claims.ReturnFromUpcall : Prop :=
  ∀ s : State, s.me.mode = .runtime →
    let dest := wrap ((s.me.upc.toNat / 16 * 16 : Nat) : Int)
    ∃ t, exec .eret s = .next t ∧
      (s.me.owed = [] → t = s.setMe { s.me with mode := .user, pc := dest, npc := dest }) ∧
      t.me = { s.me with mode := .user, pc := dest, npc := dest, owed := [], after := t.me.after } ∧
      (∀ k, k ≠ s.cur → t.thread k = { s.thread k with after := (t.thread k).after }) ∧
      (∀ k, ∀ n ∈ (s.thread k).after, if n ∈ s.me.owed then
        ∀ o ∈ s.ops, o.thr = s.cur → o.kind.isAccess = true → o.id ∈ (t.thread k).after else n ∈ (t.thread k).after) ∧
      List.Forall₂ (fun o p => p = { o with needs := p.needs }) s.ops t.ops ∧
      SameBytes s t ∧ { t with threads := s.threads, ops := s.ops } = s

/-- R305: the firmware services of TRAP in runtime mode. The thread parks until the management core answers (a latency the model
leaves open, log 2); with the answer there, the service has its effect. -/
def Sys2Proof.Claims.RuntimeServices : Prop :=
  (∀ (i : Instr) (s : State), s.me.mode = .runtime → s.me.reply = none →
    (i = .pageInRequest ∨ i = .enterFaultHold ∨ i = .postToHostMailbox ∨ ∃ c, i = .trap c) →
    ∃ t u, exec i s = .next t ∧
      Sent s u { id := 0, thr := s.cur, cc := s.me.cc, kind := .reply, slot := s.me.slot, issued := s.me.issued } ∧
      t = { u.setMe { s.me with wait := some (.message s.nextId) } with issue := .parked }) ∧
  ∀ s : State, s.me.mode = .runtime → s.me.reply.isSome →
    (∀ i : Instr, i = .trap 1 ∨ i = .pageInRequest → ∃ t, exec i s = .next t ∧
      if (s.rx 1).toNat < 2 ^ 56 then
        WroteX { s with faultReqs := t.faultReqs } t 1 0 ∧ (∀ q ∈ s.faultReqs, q ∈ t.faultReqs) ∧
          ((s.rx 1).toNat / 65536 * 65536, s.me.cc) ∈ t.faultReqs
      else WroteX s t 1 (wrap (-1))) ∧
    (∀ i : Instr, i = .trap 2 ∨ i = .enterFaultHold → ∃ t, exec i s = .next t ∧
      Fatally s t { tid := s.me.tid, cause := 18, inner := 0, fva := s.rx 1, pc := s.me.pc }) ∧
    (∀ (i : Instr) (r : Acc) (cc off : Nat), i = .trap 3 ∨ i = .postToHostMailbox →
      s.check s.me (s.rx 1).toNat 64 64 .read = .ok r → r.place = .lm cc off → LmSound s cc off 64 → s.heldEvents = [] →
      ∃ t, exec i s = .next t ∧
        if s.returned + 256 ≤ s.writeIdx then WroteX s t 1 1
        else WroteX { s with
          hostMem := s.hostMem.write (s.areaBase + s.writeIdx % 256 * 64) ((s.coreCtx cc).lm.read off 64)
          writeIdx := s.writeIdx + 1, out := s.out ++ [.msix 0] } t 1 0) ∧
    (∀ c : BitVec 16, c ≠ 1 → c ≠ 2 → c ≠ 3 → ∃ t, exec (.trap c) s = .next t ∧ WroteX s t 1 (wrap (-1)))

/-- R81 to R84, R132: SRD writes the register's value to D; SWR writes a writable register of the thread and nothing else. -/
def Obligations.SpecialRegisters : Prop :=
  ∀ s : State,
    (∀ (d : SReg) (sel : BitVec 10) (hi : BitVec 2) (v : Word), specialOf s sel.toNat hi.toNat = some v →
      ∃ t, exec (.srd d sel hi) s = .next t ∧ WroteX s t d v) ∧
    (∀ (a : SReg) (sel : BitVec 10) (u : Thread), swrOf s.me s.cycle sel.toNat (s.rx a) = some u →
      (s.me.mode = .user → sel.toNat ≠ 0x00A ∧ sel.toNat ≠ 0x00E ∧ sel.toNat ≠ 0x011) →
      exec (.swr sel 0 a) s = .next (s.setMe u))

namespace Sys2Proof.Claims

/-! ## Threads, groups, queues of a core-context, barriers (R111 to R130, R352 to R374) -/

/-- begin and end of a packed range (R128). -/
def rangeB (r : Word) : Nat := r.toNat % 2 ^ 32
def rangeE (r : Word) : Nat := r.toNat / 2 ^ 32
def packed (b e : Nat) : Word := wrap ((e * 2 ^ 32 + b : Nat) : Int)
/-- ⌊(e - b) / 2⌋ elements of a range above its begin, with the difference modulo 2^32. -/
def middle (r : Word) : Nat := (rangeB r + (rangeE r + 2 ^ 32 - rangeB r) % 2 ^ 32 / 2) % 2 ^ 32
def deque (s : State) : List Word := (s.coreCtx s.me.cc).dq
def groupNow (s : State) (a : SReg) : BitVec 16 := (s.rx a).truncate 16
def countOf (s : State) (g : BitVec 16) : Nat := ((s.kernel s.me.kid).group g).count.toNat
def timeline (s : State) (e : Eng) : Nat := (s.eng (s.engOf s.me e)).completed

/-- Destination and value of an instruction that, in this state, completes by writing D alone: at once, or after its wait
with the value that woke it. -/
def dOnly (i : Instr) (s : State) : Option (SReg × Word) :=
  let n (d : SReg) (z : Nat) : Option (SReg × Word) := some (d, wrap (z : Int))
  let all1 (d : SReg) : Option (SReg × Word) := some (d, wrap (-1))
  match i with
  | .gcount d a => n d (countOf s (groupNow s a))
  | .join d a =>
    if groupNow s a ∈ s.me.groups then n d (countOf s (groupNow s a))
    else if 4 ≤ s.me.groups.length then n d 0 else none
  | .leave d a => if groupNow s a ∈ s.me.groups then none else all1 d
  | .meet d a live _ _ =>
    match s.me.reply with
    | some v => some (d, v)
    | none =>
      if (s.me.mode = .user → s.reservations s.cur = 0 ∧ s.me.frame = [] ∧
          ∀ k : Fin 32, k.val ≠ 0 → (s.rx live).getLsbD k.val → s.me.xpf.getLsbD k.val = false) ∧ groupNow s a ∉ s.me.groups then n d 0
      else none
  | .sleep d a => match s.me.reply with | some v => some (d, v) | none => if s.rx a = 0 then some (d, s.time) else none
  | .waitm d =>
    match s.me.reply with
    | some v => some (d, v)
    | none => if (s.coreCtx s.me.cc).rq = [] then none else n d (s.coreCtx s.me.cc).rq.length
  | .waitt e d a => if (s.rx a).toNat ≤ timeline s e then n d (timeline s e) else none
  | .qstat d => n d (s.coreCtx s.me.cc).rq.length
  | .bstat d bar w =>
    let r := s.bar s.me.cc bar
    n d (if w.toNat = 0 then r.expected.toNat else if w.toNat = 1 then r.arrived.toNat else if w.toNat = 2 then r.pending.toNat else if r.phase then 1 else 0)
  | .dqsteal d a => if (s.rx a).toNat < (s.kernel s.me.kid).ncore then s.me.reply.map (fun v => (d, v)) else none
  | .wunmap d w => if (s.win s.me.cc w.toNat).mapped ∧ ¬(s.win s.me.cc w.toNat).staged then none else n d 0
  | .wstat d w =>
    let x := s.win s.me.cc w.toNat
    n d (if x.mapped then 1 + (if x.stash then 2 else 0) + (if x.staged then 4 else 0) + x.gran.toNat * 8 + x.lmg.toNat * 65536 +
      (x.lines.filter (fun e => e.2.st == 2)).length * 2 ^ 32 else 0)
  | .lease e try_ d =>
    let u := s.unit (s.unitOf s.me e)
    if u.holder = some s.me.cc then n d 1
    else if try_ ∧ (u.holder ≠ none ∨ u.passing ≠ none ∨ ∃ r ∈ u.arb, r.cc ≠ s.me.cc) then n d 0 else none
  | _ => none

/-- s with another deque in a core-context, whose deque unit has had its operation of this cycle (R128). -/
def withDq (s : State) (cc : Nat) (q : List Word) : State := s.setCoreCtx cc { s.coreCtx cc with dq := q, dqAt := s.cycle + 1 }

/-- A deque whose top range r loses its upper half to a thief (R128). -/
def stolen (q : List Word) (r : Word) : List Word := if middle r = rangeB r then q.dropLast else q.dropLast ++ [packed (rangeB r) (middle r)]
/-- Core-context, its new deque, and D of a deque instruction (R128). -/
def dequeNow (i : Instr) (s : State) : Option (Nat × List Word × SReg × Word) :=
  let q := deque s
  match i with
  | .dqpush d a b =>
    let lo := (s.rx a).toNat % 2 ^ 32
    let hi := (s.rx b).toNat % 2 ^ 32
    if hi < lo then none else if q.length < 64 then some (s.me.cc, packed lo hi :: q, d, 1) else some (s.me.cc, q, d, 0)
  | .dqpop d => match q with | [] => some (s.me.cc, q, d, 0) | r :: rest => some (s.me.cc, rest, d, r)
  | .dqsplit d =>
    match q.getLast? with
    | none => some (s.me.cc, q, d, 0)
    | some r =>
      if q.length < 64 ∧ 2 ≤ (rangeE r + 2 ^ 32 - rangeB r) % 2 ^ 32 then
        some (s.me.cc, packed (middle r) (rangeE r) :: (q.dropLast ++ [packed (rangeB r) (middle r)]), d, 1)
      else some (s.me.cc, q, d, 0)
  | .dqsteal d a =>
    if (s.rx a).toNat < (s.kernel s.me.kid).ncore ∧ s.me.reply = none ∧ ccKey s.me.kid (s.rx a).toNat = s.me.cc then
      match q.getLast? with
      | none => some (s.me.cc, q, d, 0)
      | some r => some (s.me.cc, stolen q r, d, packed (middle r) (rangeE r))
    else none
  | _ => none

/-- The barrier of a core-context and its record after an operation, before the completion check (R130, R370). -/
def barNow (i : Instr) (s : State) : Option (BitVec 7 × Bar) :=
  match i with
  | .barm b x y => some (b, { s.bar s.me.cc b with expected := BitVec.ofNat 32 ((s.rx x).toNat % 2 ^ 32), pending := s.rx y })
  | .barr sc b remote x =>
    if (remote → (s.rx x).toNat = s.me.core ∧ s.me.core < (s.kernel s.me.kid).ncore) ∧ s.me.core < 2 ^ 64 ∧ s.release sc = .ok s then
      some (b, { s.bar s.me.cc b with arrived := BitVec.ofNat 32 (min ((s.bar s.me.cc b).arrived.toNat + s.me.mul.toNat) (2 ^ 32 - 1)) })
    else none
  | _ => none
/-- The completion check: a flip clears arrived and pending and keeps expected. -/
def barChecked (r : Bar) : Bar :=
  if r.expected.toNat ≤ r.arrived.toNat ∧ r.pending = 0 then { r with arrived := 0, pending := 0, phase := !r.phase } else r
/-- Thread k waits in BWAIT on barrier b of core-context cc. -/
def waitsOn (s : State) (cc : Nat) (b : BitVec 7) (k : Nat) : Prop :=
  ∃ e ∈ s.threads, e.1 = k ∧ e.2.life = .resident ∧ e.2.cc = cc ∧ e.2.slot < 16 ∧ ∃ dl, e.2.wait = some (.bwait b dl)

/-- s with a group record of the running kernel changed: in the meet unit, and in the 8 bytes of the group area, which is written
through (R352; the model's choice, log 94). -/
def withGroup (s : State) (kid : Nat) (g : BitVec 16) (r : Group) : State :=
  let k := s.kernel kid
  let u := s.setKernel kid { k with groups := k.groups.put g.toNat r }
  if k.described then u.poke (k.area kid 2 + 8 * g.toNat) ((List.range 8).map (fun j => BitVec.ofNat 8 ((r.count.toNat + if r.live then 2 ^ 48 else 0) / 256 ^ j))) else u
/-- The record of a group after a member of multiplicity m has left it (R354). -/
def recordLeft (s : State) (kid : Nat) (g : BitVec 16) (m : Nat) : Group :=
  let r := (s.kernel kid).group g
  if r.count.toNat = m then {} else { r with count := BitVec.ofNat 48 (r.count.toNat - m) }

/-- Nothing of a kernel but its groups and meets differs, and of its groups that of g alone. -/
structure GroupChange (s t : State) (kid : Nat) (g : BitVec 16) (r : Group) : Prop where
  record : (t.kernel kid).group g = r
  others : ∀ h, h ≠ g → (t.kernel kid).group h = (s.kernel kid).group h
  kernel : t.kernel kid = { s.kernel kid with groups := (t.kernel kid).groups, meets := (t.kernel kid).meets }
  kernels : ∀ k, k ≠ kid → t.kernel k = s.kernel k

/-- A home entry of g that is open, and complete once ARR and NEED have risen (R358). -/
def completes (g : BitVec 16) (arr need : Nat) (x : Meet) : Prop :=
  x.home = true ∧ x.closing = false ∧ x.gid = g ∧ x.need + need ≤ x.arr + arr
/-- The meet tables of a kernel after ARR and NEED of every open generation of g have risen and the completion test: a generation
with ARR ≥ NEED is closed at its home, and a close is on its way to each of its local entries (R358, R359). -/
def MeetsCounted (cycle : Nat) (m m' : AMap Meet) (g : BitVec 16) (arr need : Nat) : Prop :=
  List.Forall₂ (fun a b => a.1 = b.1 ∧
    let e := if a.2.home = true ∧ a.2.closing = false ∧ a.2.gid = g then { a.2 with arr := a.2.arr + arr, need := a.2.need + need } else a.2
    ((∃ x ∈ m, x.1 = a.1 ∧ completes g arr need x.2) → b.2 = { e with closing := true, due := b.2.due }) ∧
    ((∀ x ∈ m, x.1 = a.1 → ¬completes g arr need x.2) →
      (e.home = false ∧ e.gid = g ∧ (∃ x ∈ m, completes g arr need x.2 ∧ x.2.mid = e.mid ∧ x.2.gen = e.gen) →
        b.2 = { e with closing := true, due := b.2.due } ∧ cycle < b.2.due) ∧
      (¬(e.home = false ∧ e.gid = g ∧ ∃ x ∈ m, completes g arr need x.2 ∧ x.2.mid = e.mid ∧ x.2.gen = e.gen) → b.2 = e))) m m'

/-- A meet of group g, M, with live registers L, may be entered by the thread in issue now (R114, R115). -/
def MayMeet (s : State) (g : BitVec 16) (live : BitVec 32) : Prop :=
  s.me.reply = none ∧ g ∈ s.me.groups ∧
    (s.me.mode = .user → s.reservations s.cur = 0 ∧ s.me.frame = [] ∧ ∀ k < 32, live.getLsbD k → s.me.xpf.getLsbD k = false) ∧
    ∀ o ∈ s.ops, o.thr = s.cur → ∀ k < 32, live.getLsbD k → o.dst ≠ some (.s (BitVec.ofNat 6 k))
/-- The hash of R115. -/
def hashOf (s : State) (mid : BitVec 8) (live : BitVec 32) : BitVec 16 :=
  let h := (List.range 32).foldl (fun h i => if live.getLsbD i then fold16 h (s.rx (BitVec.ofNat 6 i)) else h) (BitVec.ofNat 16 mid.toNat)
  h.rotateLeft 5 ^^^ BitVec.ofNat 16 (s.me.pc.toNat / 16 % 2 ^ 16)
/-- The first entry with a number in the meet tables of a kernel. -/
def entryAt (m : AMap Meet) (n : Nat) : Option Meet := (m.find? (fun e => e.1 == n)).map (·.2)
/-- Entry n after an arrival of multiplicity m at generation gen: the home's ARR has risen (R357). -/
def arrivedAt (g : BitVec 16) (mid : BitVec 8) (gen : BitVec 16) (m : Nat) (e : Option Meet) : Option Meet :=
  e.map (fun x => if x.home = true ∧ x.gid = g ∧ x.mid = mid ∧ x.gen = gen then { x with arr := x.arr + m } else x)
/-- A local entry that the thread in issue opens, with itself waiting in it, and a home entry of n members (R356, R357). -/
def openedAt (s : State) (g : BitVec 16) (mid : BitVec 8) (gen : BitVec 16) (win : BitVec 22) (w : Waiter) : Meet :=
  { closing := false, home := false, gid := g, mid := mid, gen := gen, win := win, opened := s.tick, need := 0, arr := 0, waiters := [w], due := 0 }
def homeOpened (g : BitVec 16) (mid : BitVec 8) (gen : BitVec 16) (n m : Nat) : Meet :=
  { closing := false, home := true, gid := g, mid := mid, gen := gen, win := 0, opened := 0, need := n, arr := m, waiters := [], due := 0 }
/-- K is the thread's kernel once it has arrived in local entry le (R357): it joins the local entry of its cluster, or opens the lowest free
one at the home's open generation, or opens both with the next generation, whose NEED is COUNT of the group. -/
def Arrived (s : State) (g : BitVec 16) (mid : BitVec 8) (win : BitVec 22) (w : Waiter) (K : Kernel) (le : Nat) : Prop :=
  let k := s.kernel s.me.kid
  let lc := k.lcOf s.me.core
  let hc := g.toNat % max k.lclusters 1
  let m := s.me.mul.toNat
  let gen := k.gens.get 0 (g.toNat * 256 + mid.toNat) + 1
  K = { k with meets := K.meets, gens := K.gens } ∧
  ((∃ e, k.findMeet lc false g mid = some le ∧ entryAt k.meets le = some e ∧ K.gens = k.gens ∧
      ∀ n, entryAt K.meets n = if n = le then some { e with waiters := e.waiters ++ [w] } else arrivedAt g mid e.gen m (entryAt k.meets n)) ∨
   (∃ he x, k.findMeet lc false g mid = none ∧ (k.freeMeet lc).map (fun n => lc * 256 + n) = some le ∧ k.findMeet hc true g mid = some he ∧
      entryAt k.meets he = some x ∧ K.gens = k.gens ∧
      ∀ n, entryAt K.meets n = if n = le then some (openedAt s g mid x.gen win w) else if n = he then some { x with arr := x.arr + m } else entryAt k.meets n) ∨
   (∃ h, k.findMeet lc false g mid = none ∧ (k.freeMeet lc).map (fun n => lc * 256 + n) = some le ∧ k.findMeet hc true g mid = none ∧
      h < 256 ∧ hc * 256 + h ≠ le ∧ k.meets.has (hc * 256 + h) = false ∧ (∀ j < h, k.meets.has (hc * 256 + j) ∨ hc * 256 + j = le) ∧
      K.gens = k.gens.put (g.toNat * 256 + mid.toNat) gen ∧
      ∀ n, entryAt K.meets n = if n = hc * 256 + h then some (homeOpened g mid gen (countOf s g) m) else if n = le then some (openedAt s g mid gen win w) else entryAt k.meets n))
/-- No entry is left for an arrival in the table of its cluster, or in the home's (R357). -/
def NoEntry (s : State) (g : BitVec 16) (mid : BitVec 8) : Prop :=
  let k := s.kernel s.me.kid
  let lc := k.lcOf s.me.core
  let hc := g.toNat % max k.lclusters 1
  k.findMeet lc false g mid = none ∧ (k.freeMeet lc = none ∨ k.findMeet hc true g mid = none ∧
    ∃ n, k.freeMeet lc = some n ∧ ∀ j < 256, k.meets.has (hc * 256 + j) ∨ hc * 256 + j = lc * 256 + n)

/-- The core of the lowest %load of the thread's cluster, the lowest position among equals (R120; the model's choice among equals, log 65). -/
def IsIdlest (s : State) (c : Nat) : Prop :=
  let k := s.kernel s.me.kid
  ∃ p < 8, k.coreAt (k.lcOf s.me.core) p = some c ∧ ∀ p' < 8, ∀ c', k.coreAt (k.lcOf s.me.core) p' = some c' →
    s.readyCount s.me.kid c ≤ s.readyCount s.me.kid c' ∧ (p' < p → s.readyCount s.me.kid c < s.readyCount s.me.kid c')
/-- The core that MIGR's x(S1) names. -/
def Names (s : State) (a : SReg) (c : Nat) : Prop := (s.rx a).toNat = c ∧ c < 1024 ∨ s.rx a = wrap (-1) ∧ IsIdlest s c
/-- MIGR to core c is allowed (R120). -/
def MayMove (s : State) (c : Nat) : Prop :=
  let k := s.kernel s.me.kid
  k.mig ∧ ¬k.det ∧ ¬k.shr ∧ s.me.modeReg.getLsbD 3 ∧ c < k.ncore ∧ k.lcOf c = k.lcOf s.me.core ∧ c ≠ s.me.core ∧
    (s.freeSlot s.me.kid c).isSome ∧ ∀ e ∈ s.me.streams, ¬e.2.bound
/-- The spawn area and the descriptor of a kernel brought up to date (R319, R339). -/
def spawnsNoted (v : State) (kid : Nat) : State :=
  let k := v.kernel kid
  if k.described then
    let x := v.poke (k.area kid 3) ((v.spawned kid).flatMap (fun t => t.image false))
    x.poke ((x.ctx k.ctx).savebase + 64 + 64 * k.saveSlot) (x.descriptor kid true)
  else v

end Sys2Proof.Claims

/-- R112 to R130, R164 to R168: each of these instructions, in the states where it completes by writing D alone, writes the
value its rule gives (a wait, the value it was woken with) and nothing else. -/
def Sys2Proof.Claims.WaitAndStatusResult : Prop :=
  ∀ (i : Instr) (s : State) (d : SReg) (v : Word), dOnly i s = some (d, v) → ∃ t, exec i s = .next t ∧ WroteX s t d v

/-- R128: the deque instructions move one entry as their rule says, or none, and write D; nothing else changes. A push of a range with
end < begin sets RANGENEG, pends RANGE with RANGETRAP, pushes nothing and answers 1. A steal from another core's deque goes in flight
towards it, and its thread parks. -/
def Sys2Proof.Claims.DequeResult : Prop :=
  (∀ (i : Instr) (s : State) (cc : Nat) (q : List Word) (d : SReg) (v : Word), dequeNow i s = some (cc, q, d, v) →
    ∃ t, exec i s = .next t ∧ WroteX (withDq s cc q) t d v) ∧
  (∀ (d a b : SReg) (s : State), (s.rx b).toNat % 2 ^ 32 < (s.rx a).toNat % 2 ^ 32 →
    ∃ t, exec (.dqpush d a b) s = .next t ∧
      let u := stuck (withDq s s.me.cc (deque s)) 0x20
      WroteX (u.setMe { u.me with
        pend := if s.me.modeReg.getLsbD 1 then s.me.pend ||| 0x400 else s.me.pend
        info := if s.me.modeReg.getLsbD 1 then s.me.info.put 10 (packed ((s.rx a).toNat % 2 ^ 32) ((s.rx b).toNat % 2 ^ 32), 0) else s.me.info }) t d 1) ∧
  ∀ (d a : SReg) (s : State), let cc := ccKey s.me.kid (s.rx a).toNat
    (s.rx a).toNat < (s.kernel s.me.kid).ncore → s.me.reply = none → cc ≠ s.me.cc → (∀ o ∈ s.ops, o.thr = s.cur → o.kind ≠ .steal cc) →
    ∃ t u, exec (.dqsteal d a) s = .next t ∧
      Sent s u { id := 0, thr := s.cur, cc := s.me.cc, kind := .steal cc, slot := s.me.slot, issued := s.me.issued } ∧
      t = { u.setMe { s.me with wait := some .hold } with issue := .parked }

/-- R130, R370, R374: BARM and an own-core BARR complete with the barrier's new record after the completion check; a flip wakes
every thread parked on it with the new phase; nothing else changes. A BARR for another core sends its arrival. -/
def Sys2Proof.Claims.BarrierResult : Prop :=
  (∀ (i : Instr) (s : State) (b : BitVec 7) (r : Bar), barNow i s = some (b, r) →
    ∃ t, exec i s = .next t ∧ t.bar s.me.cc b = barChecked r ∧
      (∀ c x, c ≠ s.me.cc ∨ x ≠ b → t.bar c x = s.bar c x) ∧
      (∀ c, t.coreCtx c = { s.coreCtx c with bars := (t.coreCtx c).bars }) ∧
      (∀ k, t.thread k = s.thread k ∨
        (r.expected.toNat ≤ r.arrived.toNat ∧ r.pending = 0 ∧ waitsOn s s.me.cc b k ∧
          t.thread k = { s.thread k with wait := none, reply := some (if r.phase then 0 else 1) })) ∧
      SameBytes s t ∧ { t with threads := s.threads, ccs := s.ccs } = s) ∧
  ∀ (sc : Scope) (b : BitVec 7) (x : SReg) (s : State), s.release sc = .ok s → (s.rx x).toNat < (s.kernel s.me.kid).ncore → (s.rx x).toNat ≠ s.me.core →
    ∃ t, exec (.barr sc b true x) s = .next t ∧
      Sent s t { id := 0, thr := s.cur, cc := ccKey s.me.kid (s.rx x).toNat, kind := .arrive (ccKey s.me.kid (s.rx x).toNat) b,
                 mul := s.me.mul.toNat, slot := s.me.slot, issued := s.me.issued, conf := true }

/-- R130: BWAIT completes at once where the phase differs from x(S1)[0], and with its reply where it was woken: D is the phase,
p(k) whether the phase changed. -/
def Sys2Proof.Claims.BarrierWaitResult : Prop :=
  ∀ (sc : Scope) (d : SReg) (b : BitVec 7) (x y : SReg) (p : PReg) (s : State) (phase changed : Bool),
    (s.me.reply = none ∧ (s.bar s.me.cc b).phase = phase ∧ (s.rx x).getLsbD 0 ≠ phase ∧ changed = true) ∨
      s.me.reply = some ((if phase then 1 else 0) + (if changed then 0 else 2)) →
    ∃ t u, exec (.bwait sc d b x y p) s = .next t ∧ WroteX s u d (if phase then 1 else 0) ∧ WroteP u t p changed

/-- R113, R352, R354, R358: JOIN of a new member adds %mul to the group, creating it, and to NEED of its open meets; LEAVE takes it off,
dissolves the group at 0, and adds it to ARR of its open meets; a meet that is complete then closes. D is the count after; only the group's
record, in its unit and its memory, the meets, the thread's memberships and D change. -/
def Sys2Proof.Claims.GroupMembership : Prop :=
  ∀ (d a : SReg) (s : State),
    let kid := s.me.kid
    let g := groupNow s a
    let m := s.me.mul.toNat
    (g ∉ s.me.groups → s.me.groups.length < 4 → countOf s g + m < 2 ^ 48 →
      let r : Group := { count := BitVec.ofNat 48 (countOf s g + m), live := true }
      ∃ t u, exec (.join d a) s = .next t ∧ u = withGroup s kid g r ∧ GroupChange s t kid g r ∧
        MeetsCounted s.cycle (s.kernel kid).meets (t.kernel kid).meets g 0 m ∧
        WroteX { (u.setMe { u.me with groups := s.me.groups ++ [g] }) with kernels := t.kernels, drawn := t.drawn } t d (wrap ((countOf s g + m : Nat) : Int))) ∧
    (g ∈ s.me.groups → m ≤ countOf s g →
      let s' := s.setMe { s.me with groups := s.me.groups.filter (· != g) }
      ∃ t u, exec (.leave d a) s = .next t ∧ u = withGroup s' kid g (recordLeft s kid g m) ∧ GroupChange s t kid g (recordLeft s kid g m) ∧
        MeetsCounted s.cycle (s.kernel kid).meets (t.kernel kid).meets g m 0 ∧
        WroteX { u with kernels := t.kernels, drawn := t.drawn } t d (wrap ((countOf s g - m : Nat) : Int)))

/-- R114, R115, R117, R357, R358: a member's MEET arrives: it joins or opens the local entry, raises ARR of its generation, and parks there;
a generation that is complete closes. With W = 0 outside DET the local entry closes at once, as at the end of its window. Where a
table has no entry left, %stat.MEETFULL is set and D is 0. -/
def Sys2Proof.Claims.MeetArrival : Prop :=
  ∀ (d a b : SReg) (mid : BitVec 8) (win : BitVec 22) (s : State),
    let kid := s.me.kid
    let g := groupNow s a
    let live : BitVec 32 := BitVec.ofNat 32 ((s.rx b).toNat / 2 * 2 % 2 ^ 32)
    MayMeet s g live → ((s.kernel kid).meets.map (·.1)).Nodup →
      (NoEntry s g mid → ∃ t, exec (.meet d a b mid win) s = .next t ∧ WroteX (stuck s 0x100) t d 0) ∧
      (¬NoEntry s g mid → ∃ K le p, Arrived s g mid win { thr := s.cur, hash := hashOf s mid live, live := live } K le ∧
        p.me = { s.me with wait := some (.meet (K.lcOf s.me.core) le) } ∧ (∀ k, k ≠ s.cur → p.thread k = s.thread k) ∧ p.issue = .parked ∧
        p.kernel kid = { K with meets := (p.kernel kid).meets } ∧ (∀ k, k ≠ kid → p.kernel k = s.kernel k) ∧
        MeetsCounted s.cycle K.meets (p.kernel kid).meets g 0 0 ∧ SameBytes s p ∧
        { p with threads := s.threads, kernels := s.kernels, issue := s.issue, drawn := s.drawn } = s ∧
        exec (.meet d a b mid win) s = .next (if win = 0 ∧ ¬(s.kernel kid).det then p.closeLocal kid le else p))

/-- R112, R199, R335, R358: EXIT leaves the thread's groups as LEAVE does and ends the thread: its slot is free, its reservation, fault
frame, groups and streams are gone, its results are discarded, its writes and pushes stay; a kernel without threads drains; registers,
memory and other threads are unchanged but for what leaving a group does. (A thread dispatched with a footprint unmaps its windows first:
TaskQueueResult.) -/
def Sys2Proof.Claims.ExitResult : Prop :=
  ∀ s : State, ¬(s.me.fromTask ∧ s.me.footed) → ∃ t u, exec .exit s = .next t ∧
    u = s.me.groups.foldl (fun v g => v.leaveGroup s.me.kid g s.me.mul) s ∧
    t.me = { u.me with life := .ended, resv := none, frame := [], owed := [], streams := [], pend := 0, groups := [], wait := none } ∧
    (∀ k, k ≠ s.cur → t.thread k = u.thread k) ∧
    (∀ o ∈ t.ops, o.thr = s.cur → o.dst = none ∧ o.pred = 0 ∧ o.acq = false ∧
      (o.push = [] → o.kind.isWrite = true ∨ ∃ c b n e, o.kind = .decrement c b n ∨ o.kind = .arrive c b ∨ o.kind = .fetch e ∨ o.kind = .engWrite e)) ∧
    (∀ o ∈ s.ops, o.kind.isWrite = true → ∃ x ∈ t.ops, x.id = o.id ∧ x.kind = o.kind ∧ x.place = o.place ∧ x.data = o.data) ∧
    ((s.kernel s.me.kid).st = .running →
      ((t.kernel s.me.kid).st = .draining ↔ ∀ e ∈ t.threads, e.2.kid = s.me.kid → e.2.life ≠ .resident ∧ e.2.life ≠ .waiting)) ∧
    (∀ g, s.me.groups = [g] → s.me.mul.toNat ≤ countOf s g →
      (t.kernel s.me.kid).group g = recordLeft s s.me.kid g s.me.mul.toNat ∧
      MeetsCounted s.cycle (s.kernel s.me.kid).meets (t.kernel s.me.kid).meets g s.me.mul.toNat 0) ∧
    SameBytes u t ∧ { t with threads := u.threads, ops := u.ops, kernels := u.kernels } = u

/-- R111, R319, R339: SPAWN at an aligned local address makes the child its rule gives, waiting for its slot and for the parent's earlier
accesses, those in flight and those that faulted, counts it in %nthread, sends %tid to D, and brings the spawn area up to date; with %nthread
at its end it sends all ones and makes none. -/
def Sys2Proof.Claims.SpawnResult : Prop :=
  ∀ (d a b : SReg) (s : State), (s.rx a).toNat % 16 = 0 → (s.rx a).toNat < 2 ^ 56 →
    let k := s.kernel s.me.kid
    let n := k.nthread
    ∃ t, exec (.spawn d a b) s = .next t ∧
      if n = 2 ^ 32 - 1 then Sent s t { id := 0, thr := s.cur, cc := s.me.cc, kind := .reply, dst := some (.s d), data := wrap (-1), slot := s.me.slot, issued := s.me.issued }
      else ∃ u v, Sent u v { id := 0, thr := s.cur, cc := u.me.cc, kind := .reply, dst := some (.s d), data := wrap (n : Int), slot := u.me.slot, issued := u.me.issued } ∧
        t = spawnsNoted v s.me.kid ∧
        (v.kernel s.me.kid) = { k with nthread := n + 1 } ∧ (∀ j, j ≠ s.me.kid → v.kernel j = s.kernel j) ∧
        (∀ j, j ≠ threadKey s.me.kid n → u.thread j = s.thread j) ∧ { u with threads := s.threads, kernels := s.kernels } = s ∧
        let c := u.thread (threadKey s.me.kid n)
        c.life = .waiting ∧ c.kid = s.me.kid ∧ c.tid.toNat = n % 2 ^ 32 ∧ c.pc = s.rx a ∧ c.mode = .user ∧ c.mul = s.me.mul ∧ c.groups = [] ∧
        (∀ f : BitVec 6, isShared f = false → u.xOf (threadKey s.me.kid n) f = if f = 1 then s.rx b else if f = 2 then wrap (s.me.tid.toNat : Int) else 0) ∧
        c.regs.v = Vector.replicate 32 0 ∧ c.prin = s.me.prin ∧ c.rper = s.me.rper ∧ c.modeReg = s.me.modeReg ∧ c.nto = s.me.nto ∧ c.umask = s.me.umask ∧
        c.upvec = s.me.upvec ∧ c.rkey = s.me.rkey ^^^ mix64 (wrap (n : Int)) ∧ c.rctr = 0 ∧ c.stat = 0 ∧
        c.core = n / 16 % max k.ncore 1 ∧ c.slot = n % 16 ∧
        (∀ x, x ∈ c.after ↔ x ∈ s.me.owed ∨ ∃ o ∈ s.ops, o.thr = s.cur ∧ o.kind.isAccess = true ∧ o.id = x)

/-- R120: MIGR to a core that R120 allows, named by its number or, with all ones, as the idlest of the cluster, with no load of the thread
outstanding, moves the thread there, every register kept, its reservation lost, with D = 1; where it is not allowed, D = 0. -/
def Sys2Proof.Claims.MigrationResult : Prop :=
  ∀ (d a : SReg) (s : State) (c : Nat), Names s a c →
    (∀ slot, MayMove s c → s.freeSlot s.me.kid c = some slot → (∀ o ∈ s.ops, o.thr = s.cur → ¬o.kind.isReturn) →
      ∃ t, exec (.migr d a) s = .next t ∧ WroteX (s.setMe { s.me with core := c, slot := slot, resv := none }) t d 1) ∧
    (¬MayMove s c → ∃ t, exec (.migr d a) s = .next t ∧ WroteX s t d 0)

namespace Sys2Proof.Claims

/-! ## Memory instructions (R134 to R157) -/

/-- The effective address (R135): exact. -/
def effAddr (s : State) (a : SReg) (off : BitVec 15) : Int := ((s.rx a).toNat : Int) + off.toInt
/-- n bytes as a register takes them. -/
def loaded (n : Nat) (signed : Bool) (z : Nat) : Word := wrap (if signed then (z : Int).bmod (2 ^ (8 * n)) else z)
def sizeOf (z : Size) : Nat := match z with | .n8 | .i8 => 1 | .n16 | .i16 => 2 | .n32 | .i32 => 4 | .b64 => 8
def sizeSigned (z : Size) : Bool := match z with | .i8 | .i16 | .i32 => true | _ => false
def aSize (z : ASize) : Nat := match z with | .n32 | .i32 => 4 | .b64 => 8
def aSign (z : ASize) : Bool := match z with | .i32 => true | _ => false

/-- A scalar memory instruction: address, bytes, the right it needs, D if it has one, what goes in flight, and from the bytes
found, as a number, the new bytes (none: nothing written), D and flags. `hit`: an SC finds its reservation. -/
structure Row where
  addr : Int
  n : Nat
  need : Need
  d : SReg
  kind : OpKind
  data : Word := 0
  data2 : Word := 0
  result : Bool → Nat → Option Nat × Word × Fl

/-- An AMO's row: new value from old and operand, and old in D (R151). -/
def amoRow (s : State) (op : Nat) (z : ASize) (d a : SReg) (off : BitVec 15) (b : Word) (f : Nat → Nat) : Row :=
  { addr := effAddr s a off, n := aSize z, need := .rmw, d := d, kind := .amo op z, data := b, result := fun _ old => (some (f old % 2 ^ (8 * aSize z)), loaded (aSize z) (aSign z) old, 0) }
/-- The signed or unsigned value an AMO compares (R151). -/
def amoVal (z : ASize) (x : Nat) : Int :=
  match z with | .n32 => ((x % 2 ^ 32 : Nat) : Int) | .i32 => (x : Int).bmod (2 ^ 32) | .b64 => (x : Int).bmod (2 ^ 64)

/-- The scope at which a releasing store at `a` releases: a store to another core's LM is performed at core scope once it is sent,
so what it releases is performed at cluster scope first (R144, R156, R241). -/
def releaseAt (s : State) (scp : Scope) (a : Int) (n : Nat) : Scope :=
  match scp, s.check s.me a n n .write with
  | .core, .ok { place := .lm cc _, .. } => if cc = s.me.cc then .core else .cluster
  | _, _ => scp

/-- The rows of R143 to R154. -/
def memRow (i : Instr) (s : State) : Option Row :=
  let v (r : SReg) : Nat := (s.rx r).toNat
  match i with
  | .ld z cl _ d a off _ => some { addr := effAddr s a off, n := sizeOf z, need := (if cl = .gth then .gather else .read), d := d, kind := .load (sizeSigned z), result := fun _ old => (none, loaded (sizeOf z) (sizeSigned z) old, 0) }
  | .st z cl scp b a off _ => if cl = .rel ∧ s.release (releaseAt s scp (effAddr s a off) (sizeOf z)) ≠ .ok s then none else
      some { addr := effAddr s a off, n := sizeOf z, need := .write, d := 0, kind := .store, data := s.rx b, result := fun _ _ => (some (v b % 2 ^ (8 * sizeOf z)), 0, 0) }
  | .lr z _ d a off _ => some { addr := effAddr s a off, n := aSize z, need := .read, d := d, kind := .lr (aSign z), result := fun _ old => (none, loaded (aSize z) (aSign z) old, 0) }
  | .sc z _ d b a off _ => if 1 < s.me.mul.toNat then none else
      some { addr := effAddr s a off, n := aSize z, need := .rmw, d := d, kind := .sc, data := s.rx b, result := fun hit _ => (if hit then some (v b % 2 ^ (8 * aSize z)) else none, if hit then 1 else 0, 0) }
  | .amoAdd z _ d b a off _ => some (amoRow s 0 z d a off (s.rx b) (fun old => old + s.me.mul.toNat * v b))
  | .amoAddi z _ d imm a off _ => some (amoRow s 6 z d a off (wrap imm.toInt) (fun old => old + s.me.mul.toNat * (wrap imm.toInt).toNat))
  | .amoMin z _ d b a off _ => some (amoRow s 1 z d a off (s.rx b) (fun old => if amoVal z (v b) < amoVal z old then v b else old))
  | .amoMax z _ d b a off _ => some (amoRow s 2 z d a off (s.rx b) (fun old => if amoVal z old < amoVal z (v b) then v b else old))
  | .amoAnd z _ d b a off _ => some (amoRow s 3 z d a off (s.rx b) (fun old => old &&& v b))
  | .amoOr z _ d b a off _ => some (amoRow s 4 z d a off (s.rx b) (fun old => old ||| v b))
  | .amoXchg z _ d b a off _ => if 1 < s.me.mul.toNat then none else some (amoRow s 5 z d a off (s.rx b) (fun _ => v b))
  | .cas z _ d b a off _ => if 1 < s.me.mul.toNat then none else
      some { addr := effAddr s a off, n := aSize z, need := .rmw, d := d, kind := .cas z, data := s.rx b, data2 := s.rx d, result := fun _ old => (if old = v d % 2 ^ (8 * aSize z) then some (v b % 2 ^ (8 * aSize z)) else none, loaded (aSize z) (aSign z) old, 0) }
  | .xacc _ b a off _ => some { addr := effAddr s a off, n := 64, need := .rmw, d := 0, kind := .xacc, data := wrap ((v b % 2 ^ 32 : Nat) : Int), result := fun _ old => (some (cellAdd (BitVec.ofNat 512 old) (xaccTerm (BitVec.ofNat 32 (v b)) s.me.mul.toNat)).toNat, 0, 0) }
  | .xrd rm _ d a off _ => some { addr := effAddr s a off, n := 64, need := .read, d := d, kind := .xrd rm, result := fun _ old => let r := cellRead (BitVec.ofNat 512 old) (rm5 rm); (none, wrap (r.1 : Int), r.2) }
  | .xclr _ a off _ => some { addr := effAddr s a off, n := 64, need := .rmw, d := 0, kind := .xclr, result := fun _ _ => (some 0, 0, 0) }
  | _ => none

/-- n bytes from an address as a number, lowest byte first. -/
def numAt (m : Memory) (a n : Nat) : Nat := ((List.range n).map (fun j => (m.get (a + j)).toNat * 256 ^ j)).sum
/-- Byte j of a number. -/
def byteAt (z j : Nat) : Byte := BitVec.ofNat 8 (z / 256 ^ j)

/-- Nothing of the thread holds the access back: no acquiring load of an earlier bundle, no earlier access to the lines; and bytes
in an LM are sound. -/
def Clear (s : State) (p : Place) (n : Nat) : Prop :=
  s.acquiring s.cur = false ∧ s.linesBusy s.cur (placeLines p n) = false ∧ ∀ cc off, p = .lm cc off → LmSound s cc off n

/-- u is s after one access of the bundle in issue to n bytes at off in its own LM: the new bytes, one memory instruction
counted, the reservation the access sets or clears, and those its write takes away. -/
structure LmStep (s u : State) (kind : OpKind) (off n : Nat) (new : Option Nat) : Prop where
  bytes : ∀ c x, (u.coreCtx c).lm.get x =
    if c = s.me.cc ∧ off ≤ x ∧ x < off + n then (match new with | some z => byteAt z (x - off) | none => (s.coreCtx c).lm.get x)
    else (s.coreCtx c).lm.get x
  cores : ∀ c, u.coreCtx c = { s.coreCtx c with lm := (u.coreCtx c).lm, memOps := (s.coreCtx c).memOps + if c = s.me.cc then 1 else 0 }
  threads : ∀ k, u.thread k = { s.thread k with
    resv := (u.thread k).resv, resvAt := (u.thread k).resvAt, resvKey := (u.thread k).resvKey, resvFrom := (u.thread k).resvFrom }
  others : ∀ k, (k ≠ s.cur ∨ ∀ sg, kind ≠ .lr sg) → (u.thread k).resvKey = (s.thread k).resvKey ∧ (u.thread k).resvFrom = (s.thread k).resvFrom
  since : ∀ k, (u.thread k).resvAt = if k = s.cur ∧ (∃ sg, kind = .lr sg) then s.cycle else (s.thread k).resvAt
  mine : new = none → u.me.resv = (match kind with | .lr _ => some (lmKey s.me.cc off) | .sc => none | _ => s.me.resv)
  theirs : ∀ k, k ≠ s.cur → (u.thread k).resv =
    if new.isSome ∧ ∃ l ∈ lines off n, (s.thread k).resv = some (lmKey s.me.cc (l * 128)) then none else (s.thread k).resv
  memory : SameBytes s u
  rest : { u with threads := s.threads, ccs := s.ccs, farResv := s.farResv } = s

/-- The tag check of an access that passed the checks, with its clearance word in the cache (R287, R288), where the home that this
device is to its own far address does not deny it (R290). -/
def tagAllows (s : State) (r : Acc) : Bool :=
  !r.no && ((s.checked s.me r).clrFill ((s.checked s.me r).physCore s.me) r.ctx s.me.prin r.tag).allowed r.ctx s.me.prin r.tag

/-- No U line and no window anywhere: every byte of global memory is at its home. -/
def AtHome (s : State) : Prop := (∀ c, (s.core c).ulines = []) ∧ (∀ c ∈ s.cores, c.2.ulines = []) ∧ (∀ c, (s.coreCtx c).wins = []) ∧ ∀ c ∈ s.ccs, c.2.wins = []
/-- The clearance word that judges an access, if one does, can be read (R141, R287). -/
def ClrSound (s : State) (r : Acc) : Prop :=
  r.tag = 0 ∨ (s.ctx r.ctx).clrcnt ≤ s.me.prin.toNat ∨ ∀ x, s.readVa (clrAddr (s.ctx r.ctx) s.me.prin.toNat r.tag.toNat) 8 ≠ .dataError x

end Sys2Proof.Claims

/-- R135, R136, R143 to R154: an access of a scalar memory instruction to the own LM that passes the checks, with nothing of the
thread before it to wait for, completes in its bundle with the bytes, D and flags of its row, and nothing else changes. -/
def Obligations.OwnMemoryAccess : Prop :=
  ∀ (i : Instr) (s : State) (m : Row) (r : Acc) (off : Nat), memRow i s = some m →
    s.check s.me m.addr m.n m.n m.need = .ok r → r.place = .lm s.me.cc off → Clear s r.place m.n → s.heldCc s.me.cc = false →
    let old := numAt (s.coreCtx s.me.cc).lm off m.n
    let res := m.result (s.me.resv == some (lmKey s.me.cc off)) old
    ∃ t u, exec i s = .next t ∧ LmStep s u m.kind off m.n res.1 ∧ WroteX (flagged u res.2.2) t m.d res.2.1

/-- R137 to R139, R153: an access to global memory, another core's LM or far space that passes the checks and the tag check, with
room for it, goes in flight with its kind, place and data; no register and no other thread changes; with nothing cached for
update or stashed, no byte of memory changes. R149: an SC to another device, with no LR of its thread on the way, goes only while
its thread holds the reservation of its line, and otherwise completes at once with D = 0 (where a far reservation stands is log 39's). -/
def Obligations.AccessInFlight : Prop :=
  ∀ (i : Instr) (s : State) (m : Row) (r : Acc), memRow i s = some m →
    s.check s.me m.addr m.n m.n m.need = .ok r → s.acquiring s.cur = false → (∀ off, r.place ≠ .lm s.me.cc off) →
    (∀ va, r.place = .glob va → tagAllows s r = true) →
    s.loadsOut s.cur < 4 → s.reservations s.cur + s.me.frame.length < 4 →
    (m.kind = .sc → (∃ x, r.place = .far x) → ∀ o ∈ s.ops, o.thr = s.cur → ∀ sg, o.kind ≠ .lr sg) →
    let lost := m.kind = .sc ∧ ∃ x, r.place = .far x ∧ s.me.resv ≠ some (globKey 4 x)
    (¬lost → ∃ t o, exec i s = .next t ∧ t.ops = s.ops ++ [o] ∧ o.id = s.nextId ∧ o.kind = m.kind ∧ o.place = r.place ∧ o.n = m.n ∧
      o.dst = (if m.d = 0 then none else some (.s m.d)) ∧ o.data = m.data ∧ o.data2 = m.data2 ∧ o.thr = s.cur ∧
      (o.mul = s.me.mul.toNat) ∧ s.cycle < o.due ∧
      (AtHome s → ClrSound s r → (∀ k, t.thread k = s.thread k) ∧ SameBytes s t) ∧ t.kernels = s.kernels ∧ t.ctxs = s.ctxs) ∧
    (lost → ∃ t, exec i s = .next t ∧ WroteX ((s.setCoreCtx s.me.cc { s.coreCtx s.me.cc with memOps := (s.coreCtx s.me.cc).memOps + 1 }).setMe
      { s.me with resv := none }) t m.d 0)

/-- R137, R149, R289: an access to global memory that its tag denies completes with D = 0 and one more in %stat.DENIED; an SC drops its
reservation all the same; nothing goes in flight. -/
def Sys2Proof.Claims.DeniedAccess : Prop :=
  ∀ (i : Instr) (s : State) (m : Row) (r : Acc) (va : Nat), memRow i s = some m → AtHome s →
    s.check s.me m.addr m.n m.n m.need = .ok r → r.place = .glob va → s.acquiring s.cur = false → (s.ctx s.me.ctx).logctl = 0 → r.far = false →
    tagAllows s r = false → ClrSound s r →
    ∃ t u, exec i s = .next t ∧ WroteX u t m.d 0 ∧
      u.me = { s.me with stat := u.me.stat, statNew := u.me.statNew, statAt := s.cycle + 1, resv := if m.kind = .sc then none else s.me.resv } ∧ (∀ k, k ≠ s.cur → u.thread k = s.thread k) ∧
      u.me.stat.toNat / 65536 = min 65535 (s.me.stat.toNat / 65536 % 65536 + 1) ∧ u.me.stat.toNat % 65536 = s.me.stat.toNat % 65536 ∧
      u.ops = s.ops ∧ SameBytes s u

/-- R135, R307: a failing check of a scalar memory instruction is precise: an address or alignment fault is taken in user mode with
%fva the address; an access fault is fatal to the context. -/
def Sys2Proof.Claims.AccessFaults : Prop :=
  ∀ (i : Instr) (s : State) (m : Row) (cause : Nat) (a : Word), memRow i s = some m → s.check s.me m.addr m.n m.n m.need = .error (cause, a) →
    a = wrap m.addr ∧ (cause = 4 ∨ cause = 5 ∨ cause = 14) ∧
    (cause ≠ 14 → MayEnter s → ∃ t, exec i s = .next t ∧ Entered s t cause (opWord i) (some a) s.me.pc) ∧
    (cause = 14 → ∃ t, exec i s = .next t ∧ Fatally s t { tid := s.me.tid, cause := 14, inner := 0, fva := a, pc := s.me.pc })

/-- R149, R151, R152, R365: SC, AMO XCHG and CAS of a thread with %mul above 1 are the fatal MULT fault of its context. -/
def Sys2Proof.Claims.MultiplicityFault : Prop :=
  ∀ (s : State) (z : ASize) (sc : Scope) (d b a : SReg) (off : BitVec 15) (nd : BitVec 6) (i : Instr), 1 < s.me.mul.toNat →
    (i = .sc z sc d b a off nd ∨ i = .amoXchg z sc d b a off nd ∨ i = .cas z sc d b a off nd) →
    ∃ t, exec i s = .next t ∧ Fatally s t { tid := s.me.tid, cause := 15, inner := 0, fva := s.me.fva, pc := s.me.pc }

namespace Sys2Proof.Claims

/-! ## Full/empty words, windows, messages and task records in local memories -/

/-- u is s after bytes were written to an LM: those bytes, and the reservations of the granules they touch. -/
structure LmWrote (s u : State) (cc off : Nat) (bs : List Byte) : Prop where
  bytes : ∀ c x, (u.coreCtx c).lm.get x =
    if c = cc ∧ off ≤ x ∧ x < off + bs.length then bs.getD (x - off) 0 else (s.coreCtx c).lm.get x
  cores : ∀ c, u.coreCtx c = { s.coreCtx c with lm := (u.coreCtx c).lm }
  threads : ∀ k, u.thread k = { s.thread k with
    resv := (if (lines off bs.length).any (fun l => (s.thread k).resv == some (lmKey cc (l * 128))) then none else (s.thread k).resv) }
  memory : SameBytes s u
  rest : { u with threads := s.threads, ccs := s.ccs, farResv := s.farResv } = s

/-- The bytes of a register, lowest first. -/
def bytesOf (n : Nat) (z : Nat) : List Byte := (List.range n).map (byteAt z)
/-- s with another core-context. -/
def withCore (s : State) (f : CoreCtx → CoreCtx) : State := s.setCoreCtx s.me.cc (f (s.coreCtx s.me.cc))
/-- s with the full/empty bit of a word of the own LM and one memory instruction counted, and a value for the thread. -/
def feDone (s : State) (word : Nat) (full : Bool) (v : Word) : State :=
  (withCore s (fun c => { c with memOps := c.memOps + 1, full := if c.full.get false word = full then c.full else c.full.put word full })).setMe
    { s.me with wait := none, reply := some v }
/-- The word of the own LM a full/empty instruction names, with its full/empty bit, and nobody waiting in the core's queue (R146). -/
def FeAt (s : State) (i : Instr) (a : SReg) (off : BitVec 15) (need : Need) (o : Nat) (full : Bool) : Prop :=
  s.feWord i (effAddr s a off) need = .ok (s.me.cc, o) ∧ (s.coreCtx s.me.cc).feq = [] ∧ (s.coreCtx s.me.cc).full.get false (o / 8) = full
def feReplyOp (s : State) (d : SReg) (v : Word) : Op :=
  { id := 0, thr := s.cur, cc := s.me.cc, kind := .reply, dst := if d = 0 then none else some (.s d), data := v, acq := true,
    slot := s.me.slot, issued := s.me.issued }
/-- The 8-byte word of the own LM that an F/E instruction names, as a number. -/
def wordAt (s : State) (o : Nat) : Nat := numAt (s.coreCtx s.me.cc).lm (o / 8 * 8) 8

/-- What LWB and LINV act on where checks 1 to 3 pass, and, outside the apertures, check 6 (R148): a local line, or none. -/
def lineChecked (s : State) (a : Int) : Option (Option Nat) :=
  match s.checkRange s.me a 1 with
  | .error _ => none
  | .ok none => some none
  | .ok (some (la, ctx, far)) =>
    if inAperture la then some none else if s.rightsOk (s.physCore s.me) ctx la 1 far .read then some (some la)
    else if far then some none else none
/-- Nothing goes in flight, no kernel changes, no thread but in its reservation, and no core-context but in its stash lines, with one memory
instruction counted: shared registers and LMs keep their contents. -/
structure Aside (s t : State) : Prop where
  cores : ∀ c, t.coreCtx c = { s.coreCtx c with wins := (t.coreCtx c).wins, memOps := (s.coreCtx c).memOps + if c = s.me.cc then 1 else 0 }
  threads : ∀ k, t.thread k = { s.thread k with resv := (t.thread k).resv }
  ops : t.ops = s.ops
  kernels : t.kernels = s.kernels
  issue : t.issue = s.issue
/-- A byte of memory stays but for page-table marks: bit A of a page's entry, and its PDUE field (R283, R293). -/
def ButPageMarks (s t : State) : Prop :=
  (∀ a, t.hostMem.get a = s.hostMem.get a) ∧
  ∀ a, t.mem.get a = s.mem.get a ∨ ∃ va e at_, s.walk va = .leaf e at_ ∧
    ((a = at_ ∧ t.mem.get a = s.mem.get a ||| 0x20) ∨ (at_ + 11 ≤ a ∧ a ≤ at_ + 14))
/-- The range of memory a window stands for, and the far address it was bound by (R164, R165). -/
def boundTo (s : State) (stash : Bool) (a : Nat) (g : BitVec 7) : Option (Nat × Nat) :=
  if stash then
    match s.checkRange s.me (a : Int) (g.toNat * 4096) with
    | .ok (some (la, _, far)) => some (la, if far then a else 0)
    | .ok none => some (a, 0)
    | .error _ => none
  else some (0, 0)

/-- A block of the own LM that a message or task instruction reads or writes. -/
def BlockAt (s : State) (a : SReg) (n : Nat) (need : Need) (off : Nat) : Prop :=
  ∃ r, s.check s.me ((s.rx a).toNat : Int) n n need = .ok r ∧ r.place = .lm s.me.cc off ∧ Clear s r.place n ∧ s.heldCc s.me.cc = false
/-- No thread of the core in a lower slot is parked for a message (R310). -/
def NoneBefore (s : State) : Prop :=
  ∀ e ∈ s.threads, e.2.life = .resident → e.2.cc = s.me.cc → e.2.slot < s.me.slot → e.2.wait ≠ some .recv ∧ e.2.wait ≠ some .qsum
/-- Whether a task record is valid (R125). -/
def recordOk (z : Nat) : Bool :=
  decide (z % 16 = 0) && decide (z / 2 ^ 61 % 4 = 0) && decide (z / 2 ^ 184 % 256 = 0) && decide (z / 2 ^ 248 % 256 = 0) &&
    decide (z / 2 ^ 128 % 4096 ≤ 64) && decide (z / 2 ^ 192 % 4096 ≤ 64)

end Sys2Proof.Claims

/-- R155, R157: FENCE and RFENCE complete, changing nothing, once no earlier access and no result of the thread is outstanding and its
fault frame is empty. -/
def Sys2Proof.Claims.FencesComplete : Prop :=
  ∀ (k : FenceKind) (sc : Scope) (s : State), (∀ o ∈ s.ops, o.thr ≠ s.cur) → s.me.frame = [] →
    exec (.fence k sc) s = .next s ∧ exec .rfence s = .next s

/-- R146, R147: on a word of the own LM whose state admits them, with nobody waiting there, LDFE takes the word and leaves it empty,
LDFF takes it and leaves it full, STFE writes it and leaves it full; the value is on its way to D. A request that was served while
parked completes so too, marked where its word met uncorrectable data. FESET sets the bit. -/
def Sys2Proof.Claims.FullEmptyResult : Prop :=
  ∀ (d b a : SReg) (off : BitVec 15) (nd : BitVec 6) (s : State) (o : Nat),
    (∀ v, s.me.reply = some v →
      let u := if s.me.replyBad then s.setMe { s.me with replyBad := false } else s
      let o : Op := { feReplyOp s d v with failed := s.me.replyBad }
      (∃ t, exec (.ldfe d a off nd) s = .next t ∧ Sent u t o) ∧ (∃ t, exec (.ldff d a off nd) s = .next t ∧ Sent u t o) ∧ exec (.stfe b a off nd) s = .next s) ∧
    (s.me.reply = none → s.me.replyBad = false → Clear s (.lm s.me.cc o) 8 →
      (FeAt s (.ldfe d a off nd) a off .read o true → ∃ t u, exec (.ldfe d a off nd) s = .next t ∧
        u = feDone s (o / 8) false (wrap (wordAt s o : Int)) ∧ Sent u t (feReplyOp u d (wrap (wordAt s o : Int)))) ∧
      (FeAt s (.ldff d a off nd) a off .read o true → ∃ t u, exec (.ldff d a off nd) s = .next t ∧
        u = feDone s (o / 8) true (wrap (wordAt s o : Int)) ∧ Sent u t (feReplyOp u d (wrap (wordAt s o : Int))))) ∧
    (s.me.reply = none → s.release .device = .ok s → FeAt s (.stfe b a off nd) a off .write o false → s.heldCc s.me.cc = false → Clear s (.lm s.me.cc o) 8 →
      ∃ (t u : State), exec (.stfe b a off nd) s = .next t ∧ LmWrote (withCore s (fun c => { c with memOps := c.memOps + 1, full := c.full.put (o / 8) true })) u
        s.me.cc (o / 8 * 8) (bytesOf 8 (s.rx b).toNat) ∧ t = u.setMe { u.me with wait := none, reply := some 0 }) ∧
    (∀ full bit, FeAt s (.feset full a off nd) a off .write o bit → Clear s (.lm s.me.cc o) 8 → s.heldCc s.me.cc = false →
      exec (.feset full a off nd) s = .next (withCore s (fun c => { c with memOps := c.memOps + 1, full := c.full.put (o / 8) full })))

/-- R148: PREF completes in every state, once no other request for its line is served at the home in its cycle (R279), and LWB and LINV
wherever checks 1 to 3 and, outside the apertures, check 6 pass: no operation goes in flight, no shared register, LM or kernel changes, and
no thread but in reservations that a copy returned to its home takes away. With nothing cached for update or stashed no byte of memory
changes but, for PREF, page-table marks; after LINV of a local line the core's L1 does not hold it. -/
def Obligations.CacheMaintenanceResult : Prop :=
  ∀ (sc : Scope) (a : SReg) (off : BitVec 15) (nd : BitVec 6) (s : State),
    ((∀ r va, s.check s.me (effAddr s a off) 1 1 .read = .ok r → r.place = .glob va → s.homeWaits s.me.cc (s.physCore s.me) va = false) →
      ∃ t, exec (.pref sc a off nd) s = .next t ∧ Aside s t ∧ t.ctxs = s.ctxs ∧
        (AtHome s → t.threads = s.threads ∧
          (s.ptRoot % 16 = 0 → (∀ r, s.check s.me (effAddr s a off) 1 1 .read = .ok r → ClrSound s r) → ButPageMarks s t))) ∧
    (∀ r va, s.check s.me (effAddr s a off) 1 1 .read = .ok r → r.place = .glob va → s.homeWaits s.me.cc (s.physCore s.me) va = true →
      exec (.pref sc a off nd) s = .next { s.setMe { s.me with wait := some .poll } with issue := .parked }) ∧
    (∀ o, lineChecked s (effAddr s a off) = some o →
      ∃ t, exec (.lwb sc a off nd) s = .next t ∧ Aside s t ∧ (AtHome s → t.threads = s.threads ∧ SameBytes s t)) ∧
    (∀ o, lineChecked s (effAddr s a off) = some o →
      ∃ t, exec (.linv sc a off nd) s = .next t ∧ Aside s t ∧ (AtHome s → t.threads = s.threads ∧ SameBytes s t) ∧
        ∀ va loc pa, o = some va → s.locate va = .at_ loc pa → t.l1Has (s.physCore s.me) loc pa = false)

/-- R119: WAITR of a word of the own LM completes with the word in D where it differs from x(S2). -/
def Sys2Proof.Claims.WaitrResult : Prop :=
  ∀ (d a b : SReg) (s : State) (off : Nat), BlockAt s a 8 .read off → numAt (s.coreCtx s.me.cc).lm off 8 ≠ (s.rx b).toNat →
    ∃ t, exec (.waitr d a b) s = .next t ∧ WroteX s t d (wrap (numAt (s.coreCtx s.me.cc).lm off 8 : Int))

/-- R121, R122, R310: SEND completes once its message has entered the queue; before, with earlier accesses performed and a payload in
the own LM, it puts the message in flight and parks. RECV, with no thread of a lower slot parked for a message, writes the head message to
the own LM and its header to D. -/
def Sys2Proof.Claims.MessageResult : Prop :=
  ∀ (d a b : SReg) (s : State) (off : Nat),
    (∀ v, s.me.reply = some v → exec (.send a b) s = .next s) ∧
    (s.me.reply = none → s.release .device = .ok s → BlockAt s b 64 .read off → (s.rx a).toNat < (s.kernel s.me.kid).ncore →
      ∃ t u o, exec (.send a b) s = .next t ∧ Sent s u o ∧
        o.kind = .message (ccKey s.me.kid (s.rx a).toNat) (BitVec.ofNat 512 (numAt (s.coreCtx s.me.cc).lm off 64))
          (wrap ((s.me.mul.toNat + s.me.core % 1024 * 2 ^ 48 : Nat) : Int)) ∧ o.thr = s.cur ∧
        t = { u.setMe { u.me with wait := some (.message s.nextId) } with issue := .parked }) ∧
    (∀ m rest, BlockAt s a 64 .write off → (s.me.got = some m ∨ s.me.got = none ∧ (s.coreCtx s.me.cc).rq = m :: rest) → NoneBefore s →
      ∃ t u, exec (.recv d a) s = .next t ∧
        LmWrote (if s.me.got = some m then s else withCore s (fun c => { c with rq := rest })) u s.me.cc off (bytesOf 64 m.payload.toNat) ∧
        WroteX u t d m.hdr)

/-- R124 to R127, R331, R332: TASKQ of a record in the own LM answers -1 for an invalid record, 0 for a full queue, else queues it with
%mul and answers 1; TASKD answers 0 for an empty queue, whatever its address, else writes a ready record without ranges, or the record it was
given while parked, to the own LM and answers 1; TRET of a thread with nothing staged or queued goes on, or ends it where it was dispatched
from the task queue; so does the EXIT of a thread dispatched with a footprint. -/
def Obligations.TaskQueueResult : Prop :=
  ∀ (d a : SReg) (s : State) (off : Nat),
    let c := s.coreCtx s.me.cc
    let z := numAt c.lm off 32
    (BlockAt s a 32 .read off → ∃ t, exec (.taskq d a) s = .next t ∧
      if recordOk z = false then WroteX s t d (wrap (-1))
      else if 256 ≤ c.tq.length + (if c.task.isSome then 1 else 0) then WroteX s t d 0
      else WroteX ((withCore s (fun c => { c with tq := c.tq ++ [{ record := BitVec.ofNat 256 z, mul := s.me.mul }] })).taskUnit s.me.cc) t d 1) ∧
    (c.tq = [] → c.task = none → s.me.got = none → ∃ t, exec (.taskd d a) s = .next t ∧ WroteX s t d 0) ∧
    (∀ r, BlockAt s a 32 .write off → s.me.got = none → c.task = none → c.tq = [r] → taskGran r.record 0 = 0 → taskGran r.record 1 = 0 →
      (∀ e ∈ s.threads, e.1 ≠ s.cur → e.2.wait ≠ some .taskd) →
      ∃ t u, exec (.taskd d a) s = .next t ∧ LmWrote (withCore s (fun c => { c with tq := [] })) u s.me.cc off (bytesOf 32 r.record.toNat) ∧ WroteX u t d 1) ∧
    (∀ m, BlockAt s a 32 .write off → s.me.got = some m → c.task = none → c.tq = [] →
      ∃ t u v, exec (.taskd d a) s = .next t ∧ LmWrote s u s.me.cc off (bytesOf 32 m.payload.toNat) ∧ WroteX u v d 1 ∧
        t = v.setMe { v.me with footed := v.me.footed || decide (m.payload.toNat / 2 ^ 128 % 4096 ≠ 0) || decide (m.payload.toNat / 2 ^ 192 % 4096 ≠ 0) }) ∧
    ((s.win s.me.cc 6).staged = false → (s.win s.me.cc 7).staged = false → c.tq = [] →
      let u := s.setMe { s.me with footed := false }
      (exec .tret s = if s.me.fromTask then exec .exit u else .next u) ∧
      (s.me.fromTask → s.me.footed → exec .exit s = .next (s.exitThread s.cur)))

/-- R131, R326, R329, R330: KLAUNCH of a record in the own LM, with earlier accesses performed, appends it to an open queue of its context
that has taken no record in this cycle and answers 1, answers 0 for a full queue, and -1 for a queue that is not open or a number of 8 or more;
where the queue has taken a record in this cycle the request waits for the next. -/
def Sys2Proof.Claims.KernelLaunchResult : Prop :=
  ∀ (d a b : SReg) (s : State) (off : Nat), s.release .device = .ok s → BlockAt s a 64 .read off →
    let q := (s.rx b).toNat
    let u := s.lqueue s.me.ctx q
    let recs := u.recs ++ [{ record := BitVec.ofNat 512 (numAt (s.coreCtx s.me.cc).lm off 64), accepted := (u.accepted + 1).toNat }]
    ∃ t, exec (.klaunch d a b) s = .next t ∧
      if 8 ≤ q ∨ (u.st ≠ 1 ∧ u.st ≠ 2) then WroteX s t d (wrap (-1))
      else if u.st = 2 then WroteX s t d 0
      else if u.acceptAt = s.cycle + 1 then t = { s.setMe { s.me with wait := some .hold } with issue := .parked }
      else WroteX (s.setLqueue s.me.ctx q { u with
        recs := recs, accepted := u.accepted + 1, acceptAt := s.cycle + 1, st := if recs.length = 64 then 2 else 1,
        headAt := if u.recs = [] then s.tick else u.headAt }) t d 1

/-- R164 to R166: WMAP of a free window onto free granules, at aligned addresses, maps it and answers its base, else answers -1; with no
access of the thread in flight, WUNMAP of a mapped window with no line unmaps it and answers 1, and WSYNC of a window with no written line
answers 0. -/
def Obligations.WindowResult : Prop :=
  ∀ (d a b : SReg) (w : BitVec 3) (s : State),
    (∀ (g : BitVec 7) (stash : Bool) (base name : Nat), (s.rx b).toNat % 4096 = 0 → (stash → (s.rx a).toNat % 4096 = 0) →
      boundTo s stash (s.rx a).toNat g = some (base, name) →
      ∃ t, exec (.wmap stash d a b w g) s = .next t ∧
        if s.mappable s.me.cc w.toNat stash base (s.rx b).toNat g.toNat then
          WroteX (s.setWin s.me.cc w.toNat
            { mapped := true, stash := stash, staged := false, gran := g, lmg := BitVec.ofNat 6 ((s.rx b).toNat / 4096), bound := base, name := name, lines := [] })
            t d (if stash then s.rx a else wrap ((0x00FC_0000_0000_0000 + w.toNat * 0x4_0000 : Nat) : Int))
        else WroteX s t d (wrap (-1))) ∧
    ((∀ o ∈ s.ops, o.thr = s.cur → o.kind.isAccess = false) →
      (s.win s.me.cc w.toNat).mapped = true → (s.win s.me.cc w.toNat).staged = false → (s.win s.me.cc w.toNat).lines = [] →
      (s.win s.me.cc w.toNat).pins = [] → (s.coreCtx s.me.cc).tq = [] →
      ∃ t, exec (.wunmap d w) s = .next t ∧ WroteX (s.setWin s.me.cc w.toNat {}) t d 1) ∧
    ((∀ o ∈ s.ops, o.thr = s.cur → o.kind.isAccess = false) → s.me.got = none → (∀ e ∈ (s.win s.me.cc w.toNat).lines, e.2.st ≠ 2) →
      ∃ t, exec (.wsync d w) s = .next t ∧ WroteX s t d 0)

namespace Sys2Proof.Claims

/-! ## Commands, leases, copies and tiles of a thread (R158 to R163, R168 to R171, R206, R213) -/

/-- An engine that is leased at all is leased to the thread's core-context, within its grant (R169, R214). -/
def EngineHeld (s : State) (e : Eng) : Prop :=
  let u := s.unit (s.unitOf s.me e)
  unitLeased (s.unitOf s.me e) → u.holder = some s.me.cc ∧ u.expired = false
/-- The engine-context of a thread takes a command now: not stopped, fewer than 32 incomplete, and its engine held. -/
def EngineTakes (s : State) (e : Eng) : Prop :=
  let x := s.eng (s.engOf s.me e)
  x.stopped = none ∧ x.accepted - x.completed < 32 ∧ EngineHeld s e
/-- The command a thread enqueues, with what it carries from its thread. -/
def cmdFrom (s : State) (e : Eng) (w : Work) (resume : Bool) : Cmd :=
  { num := (s.eng (s.engOf s.me e)).accepted + 1, work := w, thr := s.cur, cc := s.me.cc, kid := s.me.kid, tid := s.me.tid,
    prin := s.me.prin, rper := s.me.rper, resume := resume }
/-- u is s with a command accepted by the thread's engine-context, and nothing else. -/
structure Accepted (s u : State) (e : Eng) (w : Work) (resume : Bool) : Prop where
  queue : u.eng (s.engOf s.me e) = { s.eng (s.engOf s.me e) with
    accepted := (s.eng (s.engOf s.me e)).accepted + 1, queue := (s.eng (s.engOf s.me e)).queue ++ [cmdFrom s e w resume], due := (u.eng (s.engOf s.me e)).due }
  later : if (s.eng (s.engOf s.me e)).queue = [] then s.cycle < (u.eng (s.engOf s.me e)).due else (u.eng (s.engOf s.me e)).due = (s.eng (s.engOf s.me e)).due
  others : ∀ c, c ≠ s.engOf s.me e → u.eng c = s.eng c
  units : ∀ x, u.unit x = if x = s.unitOf s.me e ∧ unitLeased x then { s.unit x with granted := (s.unit x).granted + 1 } else s.unit x
  rest : { u with engs := s.engs, units := s.units, drawn := s.drawn } = s

/-- A command word from 32 bytes of an LM. -/
def cmdAt (m : Memory) (o : Nat) : CmdWord :=
  let q (k : Nat) : Word := wrap ((numAt m (o + 8 * k) 8 : Nat) : Int)
  { q0 := q 0, q1 := q 1, q2 := q 2, q3 := q 3 }
/-- The number in D. -/
def numberOf (s : State) (e : Eng) : Word := wrap (((s.eng (s.engOf s.me e)).accepted + 1 : Nat) : Int)

/-- n bytes at address z of the own LM, at offset off, with a right. -/
def InOwnLm (s : State) (z : Int) (n al : Nat) (need : Need) (off : Nat) : Prop :=
  ∃ r, s.check s.me z n al need = .ok r ∧ r.place = .lm s.me.cc off
/-- No access of the thread is in flight, no other thread holds a reservation, writes to its core's LM are not held, and no LM word carries
an error mark. -/
def Quiet (s : State) : Prop :=
  (∀ o ∈ s.ops, o.thr ≠ s.cur) ∧ (∀ e ∈ s.threads, e.1 ≠ s.cur → e.2.resv = none) ∧ s.heldCc s.me.cc = false ∧ ∀ e ∈ s.ecc, e.1 * 8 + 8 ≤ lmPa 0 0

/-- A clause array that a context leases for the first time gets a spill slot, and every descriptor of the context's kernels counts it (R318,
R319). -/
def arrayNoted (s : State) (c u : Nat) : State :=
  if u < 256 ∨ u ∈ (s.ctx c).arrays then s else
  let v := s.setCtx c { s.ctx c with arrays := (s.ctx c).arrays ++ [u] }
  v.kernels.foldl (fun x k =>
    if k.2.ctx = c ∧ k.2.described = true then x.poke ((x.ctx (x.kernel k.1).ctx).savebase + 64 + 64 * (x.kernel k.1).saveSlot) (x.descriptor k.1 true) else x) v

/-- A token on its way to D. -/
def tokenOp (s : State) (d : SReg) : Op :=
  { id := 0, thr := s.cur, cc := s.me.cc, kind := .token (s.engOf s.me .cpy) ((s.eng (s.engOf s.me .cpy)).accepted + 1),
    dst := if d = 0 then none else some (.s d), slot := s.me.slot, issued := s.me.issued }

/-- A ring in the own LM at h, with slots of `slot` units and `nslot` slots (R161), from slot x(D) on: the LM offset of unit i. -/
def unitAt (h slot nslot first i : Nat) : Nat := h + 64 + 64 * (slot * ((first + i / slot) % nslot) + i % slot)
/-- A tile instruction whose header at h, payload at m and slots all stand in the own LM, and whose checks pass. -/
structure TileAt (s : State) (ring mem first : Word) (n h m slot nslot : Nat) (store atomic guard_ : Bool) : Prop where
  head : InOwnLm s (ring.toNat : Int) 64 64 (if store && atomic then .rmw else .read) h
  size : slot = numAt (s.coreCtx s.me.cc).lm (h + 8) 2 % 2 ^ 12 ∧ nslot = numAt (s.coreCtx s.me.cc).lm (h + 12) 4
  some_ : 0 < slot ∧ 0 < nslot ∧ (n + slot - 1) / slot ≤ nslot
  payload : mem.toNat % 64 = 0 ∧ InOwnLm s (mem.toNat : Int) (64 * n) 1 (if store then .read else .write) m
  slots : ∀ k, k < (n + slot - 1) / slot → InOwnLm s ((ring.toNat + 64 + 64 * slot * ((first.toNat + k) % nslot) : Nat) : Int) (64 * slot) 1
    (if store then .write else .read) (h + 64 + 64 * slot * ((first.toNat + k) % nslot))
  guarded : guard_ = true → ∀ k, k < (n + slot - 1) / slot →
    (s.me.ghi.toNat + nslot - s.me.glo.toNat % nslot) % nslot ≤ ((first.toNat + k) % nslot + nslot - s.me.glo.toNat % nslot) % nslot
  even : atomic = true → numAt (s.coreCtx s.me.cc).lm h 8 % 2 = 0

/-- A tile operation under way whose header, payload and slots stand in the own LM, with nothing of its payload moved yet. -/
structure OwnTile (s : State) (o : TileOp) (n h m slot nslot first : Nat) : Prop where
  fresh : o.sent = false
  head : o.head.place = .lm s.me.cc h
  payload : o.mem.place = .lm s.me.cc m ∧ o.mem.n = 64 * n
  runs : o.runs.map (fun q => (q.1.place, q.1.n, q.2)) = (List.range ((n + slot - 1) / slot)).map (fun k =>
    (Place.lm s.me.cc (h + 64 + 64 * slot * ((first + k) % nslot)), 64 * min slot (n - k * slot), k * slot, min slot (n - k * slot)))

/-- Only the own LM differs, and reservations that its writes take away. -/
structure LmOnly (s t : State) : Prop where
  cores : ∀ c, t.coreCtx c = if c = s.me.cc then { s.coreCtx c with lm := (t.coreCtx c).lm } else s.coreCtx c
  threads : ∀ k, t.thread k = { s.thread k with resv := (t.thread k).resv }
  memory : SameBytes s t
  rest : { t with threads := s.threads, ccs := s.ccs, farResv := s.farResv } = s

end Sys2Proof.Claims

/-- R170, R171, R206, R213: once earlier accesses have performed, ENQI puts its word, with its registers added, at the end of its
engine-context's queue under the next number, which D receives; ENQ the 32 bytes at its address. A stopped engine-context takes the
resume word of runtime mode alone, and answers 0 to every other. -/
def Sys2Proof.Claims.CommandQueueing : Prop :=
  ∀ (s : State) (e : Eng) (d a b : SReg) (w : CmdWord), s.release .device = .ok s →
    let sum : CmdWord := { q0 := w.q0, q1 := w.q1 + s.rx a, q2 := w.q2 + s.rx b, q3 := w.q3 + s.rx d }
    (EngineTakes s e → ∃ t u, exec (.enqi e d a b w) s = .next t ∧ Accepted s u e (.word sum) false ∧ WroteX u t d (numberOf s e)) ∧
    (∀ (off : BitVec 15) (o : Nat), EngineTakes s e → s.me.got = none → InOwnLm s (((s.rx a).toNat : Int) + off.toInt) 32 32 .read o →
      Clear s (.lm s.me.cc o) 32 →
      ∃ t u, exec (.enq e d a off) s = .next t ∧ Accepted s u e (.word (cmdAt (s.coreCtx s.me.cc).lm o)) false ∧ WroteX u t d (numberOf s e)) ∧
    ((s.eng (s.engOf s.me e)).stopped ≠ none →
      ((s.me.mode = .user ∨ sum ≠ resumeWord) → ∃ t, exec (.enqi e d a b w) s = .next t ∧ WroteX s t d 0) ∧
      (s.me.mode = .runtime → sum = resumeWord → EngineHeld s e →
        ∃ t u, exec (.enqi e d a b w) s = .next t ∧ Accepted s u e (.word sum) true ∧ WroteX u t d (numberOf s e)))

/-- R168, R214, R215: LEASE of an engine that no core-context holds, gives up or waits for grants it to the thread's core-context with
D = 1, the engine's state passed on; where it holds nothing of another and nothing was saved, only the engine
changes, but for the slot that a context's first lease of a clause array gets in its save area. LREL by the holder
begins the passage, and by another does nothing. -/
def Sys2Proof.Claims.LeaseResult : Prop :=
  ∀ (s : State) (e : Eng) (d : SReg) (try_ : Bool),
    let u := s.unitOf s.me e
    ((s.unit u).holder = none → (s.unit u).passing = none → (∀ r ∈ (s.unit u).arb, r.cc = s.me.cc) →
      let s1 := s.takeUnit u s.me.cc
      (∃ t, exec (.lease e try_ d) s = .next t ∧
        WroteX (arrayNoted (s1.setUnit u { s1.unit u with holder := some s.me.cc, granted := 0, since := s.tick, expired := false, arb := [] })
          (s.kernel (s.me.cc / 1024)).ctx u) t d 1) ∧
      ((s.unit u).loaded = none ∨ (s.unit u).loaded = some s.me.cc → (s.coreCtx s.me.cc).spilled = false →
        (s.clause (engKey (s.kernel (s.me.cc / 1024)).ctx u)).spilled = false → s1 = s.setUnit u { s.unit u with loaded := some s.me.cc })) ∧
    ((s.unit u).holder = some s.me.cc →
      ∃ due, s.cycle < due ∧ exec (.lrel e) s = .next
        { s.setUnit u { s.unit u with holder := none, passing := some s.me.cc, expired := false, due := due } with drawn := s.drawn + 1 }) ∧
    ((s.unit u).holder ≠ some s.me.cc → exec (.lrel e) s = .next s)

/-- R158, R159, R375: ACOPY and ACOPYS whose checks pass put their copy in the queue of the copy engine and its token on its way to D;
a stopped copy engine answers 0. -/
def Sys2Proof.Claims.CopyIssue : Prop :=
  ∀ (s : State) (d a b : SReg) (len : BitVec 24) (bar : BitVec 7) (barOn : Bool), s.release .device = .ok s → s.issue = .done →
    (s.copyChecks (.acopy d a b len) [{ a := ((s.rx a).toNat : Int), n := len.toNat, need := .write }, { a := ((s.rx b).toNat : Int), n := len.toNat, need := .read }] = .ok () →
      (EngineTakes s .cpy → ∃ t u, exec (.acopy d a b len) s = .next t ∧
        Accepted s u .cpy (.acopy (s.rx a).toNat (s.rx b).toNat len.toNat) false ∧ Sent u t (tokenOp s d)) ∧
      ((s.eng (s.engOf s.me .cpy)).stopped ≠ none → ∃ t, exec (.acopy d a b len) s = .next t ∧ WroteX s t d 0)) ∧
    (∀ (o : Nat) (h : Shape), s.me.got = none → BlockAt s a 64 .read o →
      let block := BitVec.ofNat 512 (numAt (s.coreCtx s.me.cc).lm o 64)
      shapeOf block 0 0 = .ok h → h.scale = 0 → s.copyChecks (.acopys d a bar barOn) (h.dstRanges ++ h.srcRanges) = .ok () →
      (EngineTakes s .cpy → ∃ t u, exec (.acopys d a bar barOn) s = .next t ∧
        Accepted s u .cpy (.acopys block (if barOn then some bar else none)) false ∧ Sent u t (tokenOp s d)) ∧
      ((s.eng (s.engOf s.me .cpy)).stopped ≠ none → ∃ t, exec (.acopys d a bar barOn) s = .next t ∧ WroteX s t d 0))

/-- R161 to R163: TILEST copies its units from the range at x(S2) to the slots of the ring at x(S1) from slot x(D) on, TILELD the other
way, and every other byte keeps its value. An atomic TILEST first makes an even VERSION odd and parks; its transfer then ends with VERSION
2 higher. -/
def Sys2Proof.Claims.TileTransfer : Prop :=
  ∀ (s : State) (d a b : SReg) (n : BitVec 12) (atomic guard_ : Bool) (h m slot nslot : Nat), Quiet s →
    let first := (s.rx d).toNat
    let lm := (s.coreCtx s.me.cc).lm
    let at_ (i : Nat) : Nat := unitAt h slot nslot first i
    let stored (t : State) : Prop := ∀ i < n.toNat, ∀ j < 64, (t.coreCtx s.me.cc).lm.get (at_ i + j) = lm.get (m + 64 * i + j)
    let outside (x : Nat) : Prop := ∀ i < n.toNat, x < at_ i ∨ at_ i + 64 ≤ x
    (s.me.tile = none → TileAt s (s.rx a) (s.rx b) (s.rx d) n.toNat h m slot nslot true false guard_ →
      ∃ t, exec (.tilest false guard_ d a b n) s = .next t ∧ LmOnly s t ∧ stored t ∧ ∀ x, outside x → (t.coreCtx s.me.cc).lm.get x = lm.get x) ∧
    (s.me.tile = none → TileAt s (s.rx a) (s.rx b) (s.rx d) n.toNat h m slot nslot true true guard_ → s.release .device = .ok s →
      ∃ (t u : State) (o : TileOp), exec (.tilest true guard_ d a b n) s = .next t ∧ LmOnly s u ∧
        (∀ x, x < h ∨ h + 8 ≤ x → (u.coreCtx s.me.cc).lm.get x = lm.get x) ∧ numAt (u.coreCtx s.me.cc).lm h 8 = (numAt lm h 8 + 1) % 2 ^ 64 ∧
        t = { u.setMe { u.me with tile := some o, wait := some .hold } with issue := .parked } ∧
        OwnTile s o n.toNat h m slot nslot first ∧ o.version = wrap ((numAt lm h 8 : Nat) : Int)) ∧
    (∀ o, s.me.tile = some o → OwnTile s o n.toNat h m slot nslot first → 0 < slot → 0 < nslot → (n.toNat + slot - 1) / slot ≤ nslot →
      ∃ t u, exec (.tilest true guard_ d a b n) s = .next t ∧ t = u.setMe { u.me with tile := none } ∧ LmOnly s u ∧ stored t ∧
        (∀ x, outside x → x < h ∨ h + 8 ≤ x → (t.coreCtx s.me.cc).lm.get x = lm.get x) ∧
        numAt (t.coreCtx s.me.cc).lm h 8 = (o.version.toNat + 2) % 2 ^ 64) ∧
    (s.me.tile = none → TileAt s (s.rx a) (s.rx b) (s.rx d) n.toNat h m slot nslot false atomic false →
      ∃ t, exec (.tileld atomic d a b n) s = .next t ∧ LmOnly s t ∧
        (∀ i < n.toNat, ∀ j < 64, (t.coreCtx s.me.cc).lm.get (m + 64 * i + j) = lm.get (at_ i + j)) ∧
        ∀ x, x < m ∨ m + 64 * n.toNat ≤ x → (t.coreCtx s.me.cc).lm.get x = lm.get x)

namespace Sys2Proof.Claims

/-! ## Vector accesses, QSUM, mesh and streams (R191 to R203) -/

/-- A vector access (R192): what lane l touches, and which bit of it bit q of the lane stands for. -/
structure VRow where
  load : Bool
  need : Need
  lanes : BitVec 16
  zero : Bool
  dst : Option VRegF
  data : VReg
  aligned : Bool
  addr : Nat → Int
  n : Nat → Nat
  bit : Nat → Nat → Option Nat

/-- Element width, and the rows of VLD and VST: w < 8 packs four elements a lane. -/
def wholeRow (s : State) (ty : Ty) (load : Bool) (need : Need) (m : VMask) (dst : Option VRegF) (data : VReg) (a : SReg) (off : BitVec 11) : VRow :=
  let base : Int := ((s.rx a).toNat : Int) + off.toInt * 64
  let n := if ty.width < 8 then ty.width / 2 else 4
  { load := load, need := need, lanes := s.rq m.q, zero := m.zero, dst := dst, data := data, aligned := decide (base % 16 = 0),
    addr := fun l => base + ((n * l : Nat) : Int), n := fun _ => n,
    bit := fun _ q => if ty.width < 8 then (if q % 8 < ty.width then some (ty.width * (q / 8) + q % 8) else none) else some q }
/-- VGATH and VSCAT: one element at an index. -/
def indexRow (s : State) (ty : Ty) (load : Bool) (need : Need) (m : VMask) (dst : Option VRegF) (data : VReg) (a : SReg) (x : VRegF) : VRow :=
  let w := ty.width
  let idx (l : Nat) : Nat := laneN (s.rv x) l
  { load := load, need := need, lanes := s.rq m.q, zero := m.zero, dst := dst, data := data,
    aligned := decide (w < 8) || decide ((s.rx a).toNat % (w / 8) = 0),
    addr := fun l => (((s.rx a).toNat + idx l * w / 8 : Nat) : Int), n := fun l => (idx l * w % 8 + w + 7) / 8,
    bit := fun l q => if q < w then some (idx l * w % 8 + q) else none }
def vecMemRow (i : Instr) (s : State) : Option VRow :=
  let need (c : VClass) : Need := if c = .gth then .gather else .read
  match i with
  | .vld ty c m vd a off _ => some (wholeRow s ty true (need c) m (some vd) 0 a off)
  | .vst ty _ m v a off _ => some (wholeRow s ty false .write m none (s.rv v) a off)
  | .vgath ty c m vd a x _ => some (indexRow s ty true (need c) m (some vd) 0 a x)
  | .vscat ty m v a x _ => some (indexRow s ty false .write m none (s.rv v) a x)
  | _ => none

/-- Register bit b stands for bit k of the byte at a place. -/
def StandsFor (o : Op) (b : Nat) (p : Place) (k : Nat) : Prop :=
  ∃ x ∈ o.pieces, x.pos ≤ b ∧ b < x.pos + x.w ∧ p = x.place.plus ((b - x.pos + x.bit) / 8) ∧ k = (b - x.pos + x.bit) % 8
/-- Every page is untagged, and so is what the core's PLB holds (R287). -/
def Untagged (s : State) : Prop := (∀ va, s.tagOf va = 0) ∧ ∀ e ∈ (s.core (s.physCore s.me)).plb, e.tag = 0

/-- A NaN-free view of QSUM (R191): lane l of vd + m × payload, one rounding. -/
def qsumAt (s : State) (vd : VRegF) (g : Msg) (l : Nat) : Nat × Fl :=
  roundF fmtF32 .rne false 0 (fFma .rne (Val.ofInt ((g.hdr.toNat % 2 ^ 48 : Nat) : Int)) (tyValue .f32 (laneN g.payload l)) (tyValue .f32 (laneN (s.rv vd) l)))

def withStream (s : State) (n : Nat) (x : Stream) : State := s.setMe { s.me with streams := s.me.streams.put n x }
def streamOf (s : State) (n : BitVec 3) : Stream := s.me.streams.get {} n.toNat
/-- What the transfer unit had read ahead is dropped; it reads again in a later cycle. -/
def restarted (x : Stream) (pos due : Nat) : Stream := { x with pos := pos, fetched := none, bad := false, fail := none, denied := none, due := due, asked := none, far := [], farNo := [] }
/-- A bound coordinate read stream of u32 that is not coupled (R200). -/
def Couplable (x : Stream) : Prop := x.bound ∧ sdCoord x.desc ∧ ¬sdWrite x.desc ∧ sdTyNum x.desc = 4 ∧ x.partner = none

end Sys2Proof.Claims

/-- R192 to R194, R237, R241: VLD, VST, VGATH and VSCAT of untagged memory whose lanes all pass the checks put accesses in flight (one where
no lane lies on another device) that name, bit by bit, the memory of the active lanes; no register changes, and one memory instruction is
counted. A store whose active lanes all lie in the own LM writes them at once; of lanes that share a byte the highest stands. -/
def Obligations.VectorAccessSent : Prop :=
  ∀ (i : Instr) (s : State) (r : VRow) (place : Nat → Place), vecMemRow i s = some r → r.aligned = true → Untagged s →
    (∀ l < 16, r.lanes.getLsbD l → ∃ x, s.check s.me (r.addr l) (r.n l) 1 r.need = .ok x ∧ x.no = false ∧ x.place = place l) →
    s.acquiring s.cur = false → (r.load → s.loadsOut s.cur < 4) →
    ((∀ l < 16, r.lanes.getLsbD l → r.load ∨ ∀ off, place l ≠ .lm s.me.cc off) →
      ∃ t os, exec i s = .next t ∧ t.ops = s.ops ++ os ∧
        (∀ o ∈ os, o.thr = s.cur ∧ s.cycle < o.due ∧ s.nextId ≤ o.id ∧ o.kind = (if r.load then .vload else .vstore) ∧ o.dst = r.dst.map .v ∧ o.vdata = r.data) ∧
        ((∀ l < 16, r.lanes.getLsbD l → ∀ a, place l ≠ .far a) → os.length = if r.load ∨ r.lanes ≠ 0 then 1 else 0) ∧
        (∀ b < 512, ∀ p k, (∃ o ∈ os, StandsFor o b p k) ↔
          r.lanes.getLsbD (b / 32) ∧ ∃ m, r.bit (b / 32) (b % 32) = some m ∧ p = (place (b / 32)).plus (m / 8) ∧ k = m % 8) ∧
        (r.load → ∀ b < 512, (∃ o ∈ os, o.mask.getLsbD b) ↔ r.lanes.getLsbD (b / 32) ∨ r.zero) ∧
        (∀ c, t.coreCtx c = if c = s.me.cc then { s.coreCtx c with memOps := (s.coreCtx c).memOps + 1 } else s.coreCtx c) ∧
        { t with ops := s.ops, cores := s.cores, ccs := s.ccs, nextId := s.nextId, drawn := s.drawn, links := s.links, out := s.out, routes := s.routes } = s) ∧
    (∀ off : Nat → Nat, r.load = false → (∀ l < 16, r.lanes.getLsbD l → place l = .lm s.me.cc (off l)) → Quiet s →
      ∃ t, exec i s = .next t ∧
        LmOnly (withCore s (fun c => { c with memOps := c.memOps + 1 })) { t with cores := s.cores, drawn := s.drawn } ∧
        ∀ x, ∀ k < 8, ((t.coreCtx s.me.cc).lm.get x).getLsbD k =
          match ((List.range 512).filter (fun b => r.lanes.getLsbD (b / 32) &&
            (match r.bit (b / 32) (b % 32) with | some m => off (b / 32) + m / 8 == x && m % 8 == k | none => false))).getLast? with
          | some b => r.data.getLsbD b
          | none => ((s.coreCtx s.me.cc).lm.get x).getLsbD k)

/-- R191: QSUM with a count of 0 does nothing; else it takes the message it was woken with, or, with no thread of a lower slot parked for one,
the head of the queue, adds its payload times its multiplicity to the active lanes of VD with one rounding, lowers the count, and stays at its bundle while messages are left. -/
def Sys2Proof.Claims.MessageSum : Prop :=
  ∀ (s : State) (m : VMask) (vd : VRegF) (n : SReg),
    (s.rx n = 0 → exec (.qsum m vd n) s = .next s) ∧
    (∀ (g : Msg) (rest : List Msg), s.rx n ≠ 0 → (s.me.got = some g ∨ s.me.got = none ∧ (s.coreCtx s.me.cc).rq = g :: rest) → NoneBefore s →
      let s0 := if s.me.got = some g then s else withCore s (fun c => { c with rq := rest })
      ∃ t u1 u2 v, exec (.qsum m vd n) s = .next t ∧ Masked s m vd v (fun l => (qsumAt s vd g l).1) ∧ WroteV s0 u1 vd v ∧
        WroteX (flagged u1 (joined (activeOf .f32 (s.rq m.q)) (fun l => (qsumAt s vd g l).2))) u2 n (s.rx n - 1) ∧
        t = if s.rx n = 1 then u2 else going u2 u2.me.pc)

/-- R129, R202, R203: NRD and VNRD send their read to the neighbour, and VMAXX adds its contribution to the instance its counter names and
waits for the result, all with the time-out of %nto. -/
def Obligations.MeshInstructionsSent : Prop :=
  ∀ s : State,
    (∀ (dir : Dir) (d : SReg) (hn : BitVec 5) (p : PReg), ∃ t, exec (.nrd dir d hn p) s = .next t ∧
      Sent s t { id := 0, thr := s.cur, cc := s.me.cc, kind := .nrd dir hn, dst := some (.s d), pred := p, slot := s.me.slot, issued := s.me.issued,
                 deadline := s.tick + s.me.nto.toNat }) ∧
    (∀ (dir : Dir) (vd : VRegF) (wn : BitVec 5) (p : PReg), ∃ t, exec (.vnrd dir vd wn p) s = .next t ∧
      Sent s t { id := 0, thr := s.cur, cc := s.me.cc, kind := .vnrd dir wn, dst := some (.v vd), pred := p, slot := s.me.slot, issued := s.me.issued,
                 deadline := s.tick + s.me.nto.toNat }) ∧
    (∀ (int col : Bool) (vd vs : VRegF) (p : PReg),
      let k := s.kernel s.me.kid
      let line := if col then s.me.core % max k.ncol 1 else s.me.core / max k.ncol 1
      let c := s.coreCtx s.me.cc
      let inst := vmaxxInst s.me.kid col line (if col then c.colCount else c.rowCount)
      ∃ t u, exec (.vmaxx int col vd vs p) s = .next t ∧
        u = (withCore s (fun c => if col then { c with colCount := c.colCount + 1 } else { c with rowCount := c.rowCount + 1 })).setKernel s.me.kid
          { k with vmx := k.vmx.put inst { vals := ((k.vmx.get {} inst).vals).put s.me.core (s.rv vs) } } ∧
        Sent u t { id := 0, thr := s.cur, cc := s.me.cc, kind := .vmaxx inst, dst := some (.v vd), pred := p, data := if int then 1 else 0,
                   slot := s.me.slot, issued := s.me.issued, deadline := s.tick + s.me.nto.toNat })

/-- R196, R198, R200, R201: SBIND of a good descriptor in the own LM binds a free register at position 0 and says in its predicate whether it
has elements; SUNB unbinds a read stream, ending a partner; SISECT couples two coordinate streams; SSTAT reads the status; SSKIP moves the
position, at most to the end. -/
def Sys2Proof.Claims.StreamControl : Prop :=
  ∀ (s : State) (vn vb : BitVec 3) (x d : SReg),
    let st := streamOf s vn
    (∀ off, st.bound = false → BlockAt s x 64 .read off → (∀ o ∈ s.ops, o.thr ≠ s.cur) →
      let desc := BitVec.ofNat 512 (numAt (s.coreCtx s.me.cc).lm off 64)
      sdBad desc = false → sdMisaligned desc = false →
      ∃ t due, exec (.sbind vn x) s = .next t ∧ s.cycle < due ∧
        WroteP { withStream s vn.toNat { bound := true, desc := desc, due := due } with drawn := s.drawn + 1 } t (sdPred desc) (decide (0 < sdTotal desc))) ∧
    (st.bound = false → exec (.sunb vn) s = .next s) ∧
    (st.bound = true → sdWrite st.desc = false → st.partner = none → exec (.sunb vn) s = .next (withStream s vn.toNat {})) ∧
    (∀ m, st.bound = true → sdWrite st.desc = false → st.partner = some m → m ≠ vn →
      let o := streamOf s m
      ∃ t, exec (.sunb vn) s = .next t ∧
        WroteP (withStream (withStream s vn.toNat {}) m.toNat { o with partner := none, lead := false, pos := (if o.bound then sdTotal o.desc else 0), pairs := [], ended := true })
          t (sdPred o.desc) false) ∧
    (Couplable st → Couplable (streamOf s vb) → vb ≠ vn →
      let o := streamOf s vb
      ∃ due, s.cycle < due ∧ exec (.sisect vn vb) s = .next { withStream (withStream s vn.toNat { restarted st st.pos due with
          partner := some vb, lead := true, i := st.pos, j := o.pos, seenA := [], seenB := [], pairs := [], orderError := false, orderDue := false,
          ended := decide (sdTotal st.desc ≤ st.pos) || decide (sdTotal o.desc ≤ o.pos) })
        vb.toNat { restarted o o.pos due with partner := some vn, lead := false, shown := 0, orderError := false, ended := false } with drawn := s.drawn + 1 }) ∧
    (∃ t, exec (.sstat d vn) s = .next t ∧ WroteX s t d (wrap (((if st.partner.isSome ∨ ¬st.bound then 0 else (sdTotal st.desc - st.pos) % 2 ^ 48) +
      (if st.bound then 2 ^ 48 else 0) + (if st.bound ∧ sdWrite st.desc then 2 ^ 49 else 0) + (if st.partner.isSome then 2 ^ 50 else 0) +
      (if st.orderError then 2 ^ 51 else 0) : Nat) : Int))) ∧
    (st.partner = none → st.bound = false → exec (.sskip vn x) s = .next s) ∧
    (st.partner = none → st.bound = true →
      let pos := min (st.pos + (s.rx x).toNat) (sdTotal st.desc)
      ∃ t due, exec (.sskip vn x) s = .next t ∧ s.cycle < due ∧
        WroteP { withStream s vn.toNat (restarted st pos due) with drawn := s.drawn + 1 } t (sdPred st.desc) (decide (pos < sdTotal st.desc)))

/-- R196, R197: where a bound read stream that is not coupled may read and every element of its next pop stands in an LM, the unit fetches
them: element j is the one at position + j, zero past the end; nothing else changes. -/
def Sys2Proof.Claims.StreamElementsArrive : Prop :=
  ∀ (s : State) (thr : Nat) (vn : BitVec 3) (cc : Nat) (off : Nat → Nat), s.arrivable thr vn.toNat = true →
    let st := (s.thread thr).streams.get {} vn.toNat
    let ty := sdTy st.desc
    st.partner = none →
    (∀ j < ty.count, st.pos + j < sdTotal st.desc →
      ∃ r, s.check (s.thread thr) (sdAddr st.desc (st.pos + j)) (ty.width / 8) 1 (if sdClass st.desc = 2 then .gather else .read) = .ok r ∧ r.place = .lm cc (off j) ∧ LmSound s cc (off j) (ty.width / 8)) →
    ∃ v : VReg, exec (.streamElementArrival thr vn) s =
        .next (s.setThread thr { s.thread thr with streams := (s.thread thr).streams.put vn.toNat { st with fetched := some v, denied := none } }) ∧
      ∀ j < ty.count, v.toNat / 2 ^ (ty.cell * j) % 2 ^ ty.cell =
        if st.pos + j < sdTotal st.desc then numAt (s.coreCtx cc).lm (off j) (ty.width / 8) else 0

namespace Sys2Proof.Claims

/-! ## How accesses, replies and messages end (R98, R129, R138 to R141, R143 to R154, R202, R333, R371 to R375) -/

/-- The event that ends an access. -/
def EndedBy (o : Op) (i : Instr) : Prop :=
  match o.kind with
  | .amo _ _ => i = .amoReturn o.id none
  | .cas _ => i = .amoReturn o.id none
  | .sc => i = .amoReturn o.id none
  | .store => i = .writeAcceptance o.id none
  | .xacc => i = .writeAcceptance o.id none
  | .xclr => i = .writeAcceptance o.id none
  | _ => i = .loadReturn o.id none

/-- What a scalar access leaves, from the bytes it finds as a number: new bytes (none: nothing written), value and flags. -/
def opResult (o : Op) (hit : Bool) (old : Nat) : Option (Option Nat × Word × Fl) :=
  let b := o.data.toNat
  let amo (z : ASize) (f : Nat) : Option (Option Nat × Word × Fl) := if o.n = aSize z then some (some (f % 2 ^ (8 * aSize z)), loaded (aSize z) (aSign z) old, 0) else none
  match o.kind with
  | .load sg => some (none, loaded o.n sg old, 0)
  | .lr sg => some (none, loaded o.n sg old, 0)
  | .store => some (some (b % 2 ^ (8 * o.n)), 0, 0)
  | .sc => some (if hit then some (b % 2 ^ (8 * o.n)) else none, if hit then 1 else 0, 0)
  | .amo 0 z => amo z (old + o.mul * b)
  | .amo 6 z => amo z (old + o.mul * b)
  | .amo 1 z => amo z (if amoVal z b < amoVal z old then b else old)
  | .amo 2 z => amo z (if amoVal z old < amoVal z b then b else old)
  | .amo 3 z => amo z (old &&& b)
  | .amo 4 z => amo z (old ||| b)
  | .amo 5 z => amo z b
  | .cas z => if o.n = aSize z then some (if old = o.data2.toNat % 2 ^ (8 * o.n) then some (b % 2 ^ (8 * o.n)) else none, loaded o.n (aSign z) old, 0) else none
  | .xacc => if o.n = 64 then some (some (cellAdd (BitVec.ofNat 512 old) (xaccTerm (BitVec.ofNat 32 b) o.mul)).toNat, 0, 0) else none
  | .xrd rm => if o.n = 64 then (let r := cellRead (BitVec.ofNat 512 old) (rm5 rm); some (none, wrap (r.1 : Int), r.2)) else none
  | .xclr => if o.n = 64 then some (some 0, 0, 0) else none
  | _ => none

/-- The reservation of thread k after an access with its granule, and after the loss of others (R149). -/
def resvAfter (s : State) (o : Op) (key : Nat) (lost : List Nat) (k : Nat) : Option Nat :=
  let r := if k = o.thr then (match o.kind with | .lr _ => some key | .sc => none | _ => (s.thread k).resv) else (s.thread k).resv
  match r with
  | some x => if lost.contains x then none else some x
  | none => none

/-- A shared register as it stood when the cycle began (R79): before the cycle's writes, if there was one. -/
def hBefore (s : State) (c : Nat) (n : Fin 32) : Word :=
  match lookupWriter (s.coreCtx c).writers n.val with | some w => if w.cycle = s.cycle then w.was.truncate 64 else (s.coreCtx c).h[n] | none => (s.coreCtx c).h[n]
def wBefore (s : State) (c : Nat) (n : Fin 32) : VReg :=
  match lookupWriter (s.coreCtx c).writers (n.val + 32) with | some w => if w.cycle = s.cycle then w.was else (s.coreCtx c).w[n] | none => (s.coreCtx c).w[n]

/-- An operation has ended: its value stands in its scalar register, its thread goes on if it waited for it; nothing else. -/
structure Delivered (s t : State) (o : Op) (w : Word) (fl : Fl) : Prop where
  gone : t.ops = s.ops.filter (fun x => x.id != o.id)
  value : ∀ f, o.dst = some (.s f) → isShared f = false → t.xOf o.thr f = if f = 0 then 0 else w
  shared : ∀ f, o.dst = some (.s f) → isShared f = true → t.xOf o.thr f =
    if wins (lookupWriter (s.coreCtx (s.thread o.thr).cc).writers (low5 f).val) { cycle := s.cycle, slot := (s.thread o.thr).slot, issued := o.issued } then w else s.xOf o.thr f
  others : ∀ f, o.dst ≠ some (.s f) → t.xOf o.thr f = s.xOf o.thr f
  own : t.thread o.thr = { (if (s.thread o.thr).life = .resident ∧ fl ≠ 0 then joinStat (s.thread o.thr) s.cycle (fl.zeroExtend 64) else s.thread o.thr) with
    regs := { (s.thread o.thr).regs with x := (t.thread o.thr).regs.x }, xpf := (t.thread o.thr).xpf, xde := (t.thread o.thr).xde, tok := (t.thread o.thr).tok
    wait := (if (s.thread o.thr).wait = some (.access o.id) then none else (s.thread o.thr).wait) }
  threads : ∀ k, k ≠ o.thr → t.thread k = s.thread k
  cores : ∀ c, t.coreCtx c = { s.coreCtx c with h := (t.coreCtx c).h, writers := (t.coreCtx c).writers }
  before : ∀ c n, hBefore t c n = hBefore s c n
  bytes : SameBytes s t
  rest : { t with threads := s.threads, ccs := s.ccs, ops := s.ops } = s

/-- The operation in flight that an event names, free to end (R138, R145), and not on another device. -/
def MayEnd (s : State) (o : Op) : Prop := s.findOp o.id = some o ∧ s.performable o = true ∧ o.isFar = false
/-- The cycle from which thread k's reservation counts, after an access (R150). -/
def resvSince (s : State) (o : Op) (k : Nat) : Nat := match o.kind with | .lr _ => if k = o.thr then s.cycle else (s.thread k).resvAt | _ => (s.thread k).resvAt
/-- Thread k as an access leaves its reservation: an LR reserves its granule, from this cycle on; LRs of the granule that follow one another
within 12,800 cycles keep it from others since the first of them (DESIGN CHOICE, log 76). -/
def reservedNow (s : State) (o : Op) (key : Nat) (lost : List Nat) (k : Nat) : Thread :=
  let t := s.thread k
  let lr : Bool := decide (k = o.thr) && (match o.kind with | .lr _ => true | _ => false)
  { t with resv := resvAfter s o key lost k, resvAt := resvSince s o k, resvKey := if lr then key else t.resvKey
           resvFrom := if lr = true ∧ ¬(t.resvKey = key ∧ s.cycle < t.resvFrom + 12800) then s.cycle else t.resvFrom }
/-- Thread k after its wait ended with a value. -/
def woken (t : Thread) (v : Word) : Thread := { t with wait := none, reply := some v }
/-- Nothing is cached, stashed or marked bad anywhere. -/
def NothingCached (s : State) : Prop := s.cores = [] ∧ s.slices = [] ∧ s.ecc = [] ∧ (∀ c, (s.coreCtx c).wins = []) ∧ ∀ c ∈ s.ccs, c.2.wins = []
/-- A bit of an LM. -/
def lmBit (s : State) (p : Place) (k : Nat) : Bool := match p with | .lm cc off => ((s.coreCtx cc).lm.get off).getLsbD k | _ => false
/-- Every part of a vector access stands in an LM, without an error mark, and fits its bytes. -/
def LmParts (s : State) (o : Op) : Prop := ∀ x ∈ o.pieces, x.bit + x.w ≤ 8 * x.n ∧ ∃ cc off, x.place = .lm cc off ∧ s.heldCc cc = false ∧ LmSound s cc off x.n

/-- A value, or a vector, and the predicate of a mesh operation that ends (R129, R202, R203), for a thread in its slot with private
destinations. -/
structure MeshEnd (s t : State) (o : Op) (w : Word) (v : VReg) (ok : Bool) : Prop where
  gone : t.ops = s.ops.filter (fun x => x.id != o.id)
  scalar : ∀ f, o.dst = some (.s f) → t.xOf o.thr f = if f = 0 then 0 else w
  vector : ∀ f, o.dst = some (.v f) → t.vOf o.thr f = v
  pred : o.pred ≠ 0 → (t.thread o.thr).regs.p[o.pred.toFin] = ok
  threads : ∀ k, k ≠ o.thr → t.thread k = s.thread k
  bytes : SameBytes s t
  cores : t.ccs = s.ccs
def PrivateDst (s : State) (o : Op) : Prop := (s.thread o.thr).life = .resident ∧ o.push = [] ∧ (∀ f, o.dst = some (.s f) → isShared f = false) ∧ ∀ f, o.dst = some (.v f) → isShared f = false

end Sys2Proof.Claims

/-- R136, R141, R143 to R154, R414: an access to an LM that may end leaves its new bytes there, sets, uses and takes away reservations as R149
says, and delivers its value and flags; one that reads a word with an uncorrectable error marks its destination and changes no register and no
byte of memory of the device; a store or XCLR that meets such a word is dropped, and the error stays. -/
def Sys2Proof.Claims.LocalMemoryAccessPerforms : Prop :=
  (∀ (s : State) (i : Instr) (o : Op) (cc off : Nat) (f : SReg), MayEnd s o → EndedBy o i → o.place = .lm cc off → (opResult o true 0).isSome →
    o.kind ≠ .store → o.kind ≠ .xclr → o.push = [] → o.dst = some (.s f) → isShared f = false → f ≠ 0 →
    (∃ e ∈ s.ecc, e.2 = 2 ∧ e.1 * 8 < lmPa cc off + o.n ∧ lmPa cc off < e.1 * 8 + 8) →
    ∃ t, exec i s = .next t ∧ t.ops = s.ops.filter (fun x => x.id != o.id) ∧ (t.thread o.thr).xde = setMark (s.thread o.thr).xde (low5 f) true ∧
      (∀ k, (t.thread k).regs = (s.thread k).regs) ∧ t.mem = s.mem ∧ t.ccs = s.ccs) ∧
  (∀ (s : State) (o : Op) (cc off : Nat), MayEnd s o → o.kind = .store ∨ o.kind = .xclr ∧ o.n = 64 → o.place = .lm cc off → s.heldCc cc = false → o.dst = none →
    (∃ e ∈ s.ecc, e.2 = 2 ∧ e.1 * 8 < lmPa cc off + o.n ∧ lmPa cc off < e.1 * 8 + 8) →
    ∃ t, exec (.writeAcceptance o.id none) s = .next t ∧ t.ops = s.ops.filter (fun x => x.id != o.id) ∧ t.ecc = s.ecc ∧
      (∀ k, (t.thread k).regs = (s.thread k).regs) ∧ t.mem = s.mem ∧ t.ccs = s.ccs) ∧
  ∀ (s : State) (i : Instr) (o : Op) (cc off : Nat) (new : Option Nat) (w : Word) (fl : Fl), MayEnd s o → EndedBy o i → o.place = .lm cc off → s.heldCc cc = false →
    LmSound s cc off o.n → opResult o ((s.thread o.thr).resv == some (lmKey cc off)) (numAt (s.coreCtx cc).lm off o.n) = some (new, w, fl) →
    ∃ t u, exec i s = .next t ∧ Delivered u t o w fl ∧
      (∀ c x, (u.coreCtx c).lm.get x = if c = cc ∧ off ≤ x ∧ x < off + o.n then (match new with | some z => byteAt z (x - off) | none => (s.coreCtx c).lm.get x) else (s.coreCtx c).lm.get x) ∧
      (∀ c, u.coreCtx c = { s.coreCtx c with lm := (u.coreCtx c).lm }) ∧
      (∀ k, u.thread k = reservedNow s o (lmKey cc off) (if new.isSome then (lines off o.n).map (fun l => lmKey cc (l * 128)) else []) k) ∧
      SameBytes s u ∧ { u with threads := s.threads, ccs := s.ccs, farResv := s.farResv } = s

/-- R143 to R154, R283: an access to a present page of local memory that may end, with nothing cached anywhere, no combination left for
later (R273) and no other request merged with it (R276), leaves its new bytes at the physical address, marks the page accessed, and delivers its value and flags; every other byte
but that mark keeps its value. -/
def Obligations.GlobalMemoryAccessPerforms : Prop :=
  ∀ (s : State) (i : Instr) (o : Op) (va at_ : Nat) (pte : BitVec 128) (new : Option Nat) (w : Word) (fl : Fl),
    let pa := ptePa pte + va % pageBytes (pteSize pte)
    let m (z : Option Nat) : Memory := match z with | some z => s.mem.write pa (bytesOf o.n z) | none => s.mem
    MayEnd s o → EndedBy o i → o.place = .glob va → o.uKind = none → s.mates o = [] → NothingCached s → s.walk va = .leaf pte at_ → pteP pte → pteLoc pte = 0 → va % 65536 + o.n ≤ 65536 →
    opResult o ((s.thread o.thr).resv == some (globKey 0 pa)) (numAt s.mem pa o.n) = some (new, w, fl) →
    { s with mem := m new }.walk va = .leaf pte at_ →
    ∃ t u, exec i s = .next t ∧ Delivered u t o w fl ∧
      (∀ x, x ≠ at_ → u.mem.get x = (m new).get x) ∧ u.hostMem = s.hostMem ∧
      (∀ k, u.thread k = reservedNow s o (globKey 0 pa) (if new.isSome then (lines pa o.n).map (fun l => globKey 0 (l * 128)) else []) k) ∧
      { u with mem := s.mem, threads := s.threads, cores := s.cores, slices := s.slices, glades := s.glades, farResv := s.farResv,
               served := s.served, servedAt := s.servedAt, walks := s.walks } = s

/-- R172, R192, R193: a vector load whose parts stand in LMs writes each bit of an active lane from the bit it stands for, other bits of the
lane as 0, inactive lanes as its mask says, or keeps the register where another part of it met uncorrectable data; a vector store writes each memory bit that one register bit stands for, and no other. -/
def Sys2Proof.Claims.VectorAccessPerforms : Prop :=
  ∀ (s : State) (o : Op), MayEnd s o → LmParts s o →
    (∀ f, o.kind = .vload → o.dst = some (.v f) → isShared f = false → o.push = [] → o.vdata = 0 →
      ∃ t, exec (.loadReturn o.id none) s = .next t ∧ t.ops = s.ops.filter (fun x => x.id != o.id) ∧
        (∀ b < 512, (t.vOf o.thr f).getLsbD b =
          if o.mask.getLsbD b ∧ o.failed = false then decide (∃ x ∈ o.pieces, x.pos ≤ b ∧ b < x.pos + x.w ∧ lmBit s (x.place.plus ((b - x.pos + x.bit) / 8)) ((b - x.pos + x.bit) % 8) = true)
          else (s.vOf o.thr f).getLsbD b) ∧
        (∀ g, g ≠ f → t.vOf o.thr g = s.vOf o.thr g) ∧ (∀ k, k ≠ o.thr → t.thread k = s.thread k) ∧ SameBytes s t ∧ t.ccs = s.ccs) ∧
    (o.kind = .vstore → o.dst = none → (∀ b c p k, StandsFor o b p k → StandsFor o c p k → b = c) →
      ∃ t, exec (.writeAcceptance o.id none) s = .next t ∧ t.ops = s.ops.filter (fun x => x.id != o.id) ∧
        (∀ b cc x k, StandsFor o b (.lm cc x) k → b < 512 → ((t.coreCtx cc).lm.get x).getLsbD k = o.vdata.getLsbD b) ∧
        (∀ cc x k, (∀ b, ¬StandsFor o b (.lm cc x) k) → ((t.coreCtx cc).lm.get x).getLsbD k = ((s.coreCtx cc).lm.get x).getLsbD k) ∧
        (∀ k, (t.thread k).regs = (s.thread k).regs) ∧ SameBytes s t)

/-- R138 to R140: the translation of a scalar access to an LM or to a page that does not fault is confirmed, and the access performs later; of a
user-mode access to a page that is not present the fault frame takes its record, a private scalar destination is marked, a page-in is
requested, and later accesses to its line are confirmed anew. -/
def Sys2Proof.Claims.TranslationConfirmed : Prop :=
  ∀ (s : State) (o : Op), s.findOp o.id = some o → s.confirmable o = true →
    (((∃ cc off, o.place = .lm cc off) ∨ ∃ va, o.place = .glob va ∧ s.locate va ≠ .absent ∧ (o.runtime ∨ ∀ r ∈ (s.thread o.thr).frame, r.va.toNat / 128 ≠ o.va / 128)) →
      ∃ due, s.cycle < due ∧ exec (.translationConfirm o.id) s = .next
        { s with ops := s.ops.map (fun x => if x.id = o.id then { x with conf := true, due := due } else x), drawn := s.drawn + 1 }) ∧
    (∀ va, o.place = .glob va → s.locate va = .absent → o.runtime = false → o.far = false → (s.coreCtx o.cc).wins = [] → (s.thread o.thr).life = .resident →
      ∃ t, exec (.translationConfirm o.id) s = .next t ∧
        t.ops = (s.ops.filter (fun x => x.id != o.id)).map (fun x =>
          if x.thr = o.thr ∧ o.id < x.id ∧ (∃ l ∈ x.lines, l ∈ o.lines) then { x with conf := false } else x) ∧ (va / 65536 * 65536, o.cc) ∈ t.faultReqs ∧
        (∀ q ∈ s.faultReqs, q ∈ t.faultReqs) ∧
        t.thread o.thr = { s.thread o.thr with
          owed := (s.thread o.thr).owed ++ [o.id]
          frame := (s.thread o.thr).frame ++ [{ va := wrap (o.va : Int), data := o.data, data2 := o.data2, info := o.info }]
          xpf := (match o.dst with | some (.s f) => if isShared f || f = 0 then (s.thread o.thr).xpf else setMark (s.thread o.thr).xpf (low5 f) true | _ => (s.thread o.thr).xpf) } ∧
        (∀ k, k ≠ o.thr → t.thread k = s.thread k) ∧ { t with ops := s.ops, threads := s.threads, faultReqs := s.faultReqs } = s)

/-- R98, R129, R202, R203, R305, R375, R402: a reply and a copy token deliver their value, a reply whose word met uncorrectable data marks its destination, and the management core's answer wakes its thread; NRD,
VNRD and VMAXX deliver the neighbour's register as it stood when the cycle began, the maximum or, at their time-out with a neighbour that does not answer or a member missing, 0
or the maximum of those that came, with their predicate; a far access that is late completes as one that met uncorrectable data. -/
def Sys2Proof.Claims.RepliesReach : Prop :=
  ∀ (s : State) (o : Op), s.findOp o.id = some o →
    (o.kind = .reply → s.performable o = true → o.isFar = false →
      ((s.thread o.thr).wait ≠ some (.message o.id) → o.failed = false → ∃ t, exec (.loadReturn o.id none) s = .next t ∧ Delivered s t o o.data 0) ∧
      ((s.thread o.thr).wait ≠ some (.message o.id) → o.failed = true → ∃ t, exec (.loadReturn o.id none) s = .next t ∧
        t.ops = s.ops.filter (fun x => x.id != o.id) ∧
        (∀ f, o.dst = some (.s f) → isShared f = false → f ≠ 0 → (t.thread o.thr).xde = setMark (s.thread o.thr).xde (low5 f) true) ∧
        (∀ k, (t.thread k).regs = (s.thread k).regs) ∧ SameBytes s t) ∧
      ((s.thread o.thr).wait = some (.message o.id) → exec (.loadReturn o.id none) s = .next
        (({ s with ops := s.ops.filter (fun x => x.id != o.id) } : State).setThread o.thr (woken (s.thread o.thr) 0)))) ∧
    (∀ ec num, o.kind = .token ec num → num ≤ (s.eng ec).completed → o.info ≠ 1 →
      ∃ t, exec (.copyToken o.id) s = .next t ∧ Delivered s t o (wrap (num : Int)) 0) ∧
    (∀ dir n, o.kind = .nrd dir n → PrivateDst s o →
      let k := s.kernel (s.thread o.thr).kid
      (s.performable o = true → o.isFar = false → (s.ctx k.ctx).state = ctxRunning → ∃ t, exec (.loadReturn o.id none) s = .next t ∧
        MeshEnd s t o (hBefore s (ccKey (s.thread o.thr).kid (k.neighbour dir (s.thread o.thr).core)) n.toFin) 0 true) ∧
      (o.deadline ≤ s.tick → (s.ctx k.ctx).state ≠ ctxRunning → ∃ t, exec (.neighbourTimeout o.id) s = .next t ∧ MeshEnd s t o 0 0 false)) ∧
    (∀ dir n, o.kind = .vnrd dir n → PrivateDst s o →
      let k := s.kernel (s.thread o.thr).kid
      (s.performable o = true → o.isFar = false → (s.ctx k.ctx).state = ctxRunning → ∃ t, exec (.loadReturn o.id none) s = .next t ∧
        MeshEnd s t o 0 (wBefore s (ccKey (s.thread o.thr).kid (k.neighbour dir (s.thread o.thr).core)) n.toFin) true) ∧
      (o.deadline ≤ s.tick → (s.ctx k.ctx).state ≠ ctxRunning → ∃ t, exec (.neighbourTimeout o.id) s = .next t ∧ MeshEnd s t o 0 0 false)) ∧
    (∀ inst, o.kind = .vmaxx inst → PrivateDst s o →
      let vs := s.vmaxxVals inst
      let k := s.kernel (instKid inst)
      let all := (if instCol inst then k.nrow else k.ncol) ≤ vs.length
      (all → (s.ctx k.ctx).state = ctxRunning → o.due ≤ s.cycle → (∀ x ∈ s.ops, x.kind = .vmaxx inst → x = o) →
        ∃ t, exec (.vmaxxResult inst) s = .next t ∧ MeshEnd s t o 0 (maxOf (decide (o.data = 1)) vs) true) ∧
      (o.deadline ≤ s.tick → ¬(all ∧ (s.ctx k.ctx).state = ctxRunning) →
        ∃ t, exec (.vmaxxTimeout o.id) s = .next t ∧ MeshEnd s t o 0 (maxOf (decide (o.data = 1)) vs) false)) ∧
    (o.isFar = true → o.kind.isAccess = true → o.unsent = none → (s.upLinks = [] ∨ o.deadline ≤ s.tick) →
      ∃ t, exec (.farAccessTimeout o.id) s = .next t ∧ (∀ x ∈ t.ops, x.id ≠ o.id) ∧
        (∀ f, o.dst = some (.s f) → isShared f = false → f ≠ 0 → (t.thread o.thr).xde = setMark (s.thread o.thr).xde (low5 f) true) ∧
        (∀ f, o.dst = some (.v f) → isShared f = false → (t.thread o.thr).vde = setMark (s.thread o.thr).vde (low5 f) true) ∧
        (∀ k, k ≠ o.thr → t.thread k = s.thread k) ∧ t.mem = s.mem)

/-- R121, R128, R147, R310, R333, R369 to R374: a message reaches a queue with room, entries that woken takers have not written counted, that took none in this cycle, stands last in it, and its sender
goes on; no thread's state changes otherwise but that MESSAGE may pend, and not even that where a thread is parked on the queue or none enables
it; a steal takes the upper half of the victim's top range; another core's request for a full/empty word that nobody waits for is served or
waits; the bytes of a copied line leave a barrier's pending count, at least to 0, with BARUNDER in the copy's thread below it, and an
arrival of another core counts with its multiplicity, each followed by the completion check; an FESET of another core's word, where nobody waits,
sets its bit. -/
def Obligations.MessagesAndArrivals : Prop :=
  ∀ (s : State) (o : Op), s.findOp o.id = some o →
    (∀ cc p h, o.kind = .message cc p h → s.queued cc < 64 → (s.coreCtx cc).rqAt ≠ s.cycle + 1 →
      let x (k : Nat) : Thread := if k = o.thr ∧ o.thr ≠ noticeSender then woken (s.thread k) 0 else s.thread k
      ∃ t, exec (.messageArrival o.id) s = .next t ∧ t.ops = s.ops.filter (fun x => x.id != o.id) ∧
        t.coreCtx cc = { s.coreCtx cc with rq := (s.coreCtx cc).rq ++ [{ payload := p, hdr := h }], rqAt := s.cycle + 1 } ∧ (∀ c, c ≠ cc → t.coreCtx c = s.coreCtx c) ∧
        (∀ k, t.thread k = { x k with pend := (t.thread k).pend, info := (t.thread k).info }) ∧
        ((∀ e ∈ s.threads, e.2.cc = cc → e.2.life = .resident → e.2.umask.getLsbD 1 = false ∧ e.2.wait ≠ some .recv ∧ e.2.wait ≠ some .qsum ∧ e.2.wait ≠ some .waitm) →
          ∀ k, t.thread k = x k) ∧
        ((∃ e ∈ s.threads, e.1 ≠ o.thr ∧ e.2.cc = cc ∧ e.2.life = .resident ∧ e.2.slot < 16 ∧ (e.2.wait = some .recv ∨ e.2.wait = some .qsum ∨ e.2.wait = some .waitm)) →
          ∀ k, t.thread k = x k) ∧
        { t with ops := s.ops, ccs := s.ccs, threads := s.threads } = s) ∧
    (∀ cc, o.kind = .steal cc → s.performable o = true → o.isFar = false →
      let q := (s.coreCtx cc).dq
      ∃ t, exec (.loadReturn o.id none) s = .next t ∧ t.ops = s.ops.filter (fun x => x.id != o.id) ∧
        t.coreCtx cc = { s.coreCtx cc with dq := (match q.getLast? with | none => q | some r => stolen q r), dqAt := s.cycle + 1 } ∧ (∀ c, c ≠ cc → t.coreCtx c = s.coreCtx c) ∧
        (∀ k, t.thread k = if k = o.thr then woken (s.thread k) (match q.getLast? with | none => 0 | some r => packed (middle r) (rangeE r)) else s.thread k) ∧
        { t with ops := s.ops, ccs := s.ccs, threads := s.threads } = s) ∧
    (∀ cc word kind, o.kind = .feReq cc word kind → s.performable o = true → o.isFar = false → (s.coreCtx cc).feq = [] → s.heldCc cc = false → LmSound s cc (8 * word) 8 →
      let full := (s.coreCtx cc).full.get false word
      ∃ t, exec (.loadReturn o.id none) s = .next t ∧ t.ops = s.ops.filter (fun x => x.id != o.id) ∧
        (if (if kind = 1 then full = false else full = true) then
          (t.thread o.thr) = { woken (s.thread o.thr) (if kind = 1 then 0 else wrap ((numAt (s.coreCtx cc).lm (8 * word) 8 : Nat) : Int)) with
            resv := (t.thread o.thr).resv } ∧
          (t.coreCtx cc).feq = [] ∧ (t.coreCtx cc).full.get false word = decide (kind ≠ 0) ∧
          (∀ x, (t.coreCtx cc).lm.get x = if kind = 1 ∧ 8 * word ≤ x ∧ x < 8 * word + 8 then byteAt o.data.toNat (x - 8 * word) else (s.coreCtx cc).lm.get x)
        else t.thread o.thr = s.thread o.thr ∧
          t.coreCtx cc = { s.coreCtx cc with feq := [{ thr := o.thr, word := word, kind := kind, data := o.data, cycle := s.cycle }] }) ∧
        (∀ k, k ≠ o.thr → (t.thread k).regs = (s.thread k).regs) ∧ SameBytes s t) ∧
    (∀ cc b n, o.kind = .decrement cc b n → (∀ x ∈ s.ops, x.id ∉ o.needs) → (∀ e ∈ s.threads, ∀ n ∈ e.2.owed, n ∉ o.needs) →
      let r := s.bar cc b
      let r' : Bar := { r with pending := wrap ((r.pending.toNat - n : Nat) : Int) }
      ∃ t, exec (.pendingDecrement o.id) s = .next t ∧ t.bar cc b = barChecked r' ∧ (∀ c x, c ≠ cc ∨ x ≠ b → t.bar c x = s.bar c x) ∧
        (t.thread o.thr).stat = (if r.pending.toNat < n ∧ (s.thread o.thr).life = .resident then (s.thread o.thr).stat ||| 0x200 else (s.thread o.thr).stat) ∧
        (∀ k, (t.thread k).regs = (s.thread k).regs) ∧ SameBytes s t) ∧
    (∀ cc b, o.kind = .arrive cc b → s.performable o = true → o.isFar = false → s.heldCc cc = false →
      let r := s.bar cc b
      let r' : Bar := { r with arrived := BitVec.ofNat 32 (min (r.arrived.toNat + o.mul) (2 ^ 32 - 1)) }
      ∃ t, exec (.writeAcceptance o.id none) s = .next t ∧ t.bar cc b = barChecked r' ∧ (∀ c x, c ≠ cc ∨ x ≠ b → t.bar c x = s.bar c x) ∧
        (∀ k, (t.thread k).regs = (s.thread k).regs) ∧ SameBytes s t) ∧
    (∀ full cc off, o.kind = .feset full → o.place = .lm cc off → s.performable o = true → (s.coreCtx cc).feq = [] → s.heldCc cc = false →
      exec (.writeAcceptance o.id none) s = .next
        (({ s with ops := s.ops.filter (fun x => x.id != o.id) } : State).setCoreCtx cc { s.coreCtx cc with full := (s.coreCtx cc).full.put (off / 8) full }))

namespace Sys2Proof.Claims

/-! ## Time-outs, upcalls, meets, placement and tasks (R96, R111, R116 to R120, R126, R168, R272, R308 to R311, R339, R345, R359) -/

/-- s with thread k changed. -/
def withThread (s : State) (k : Nat) (f : Thread → Thread) : State := s.setThread k (f (s.thread k))
def wokenAt (s : State) (k : Nat) (v : Word) : State := withThread s k (fun t => woken t v)

/-- Cause c is the lowest that is pending and enabled in a thread (R308). -/
def LowestEnabled (t : Thread) (c : Nat) : Prop :=
  8 ≤ c ∧ c ≤ 13 ∧ t.pend.getLsbD c ∧ t.umask.getLsbD (c - 8) ∧ ∀ b, 7 ≤ b → b < c → ¬(t.pend.getLsbD b ∧ (b = 7 ∨ t.umask.getLsbD (b - 8)))
/-- Waits that an upcall abandons with nothing to withdraw (R100, R142). -/
def Abandonable (w : Option Wait) : Prop :=
  w = none ∨ w = some .poll ∨ w = some .recv ∨ w = some .waitm ∨ w = some .qsum ∨ w = some .taskd ∨ (∃ n, w = some (.sleep n)) ∨ ∃ b n, w = some (.bwait b n)

/-- Two waiting threads are equal (R116). -/
def Alike (s : State) (x y : Waiter) : Prop :=
  x.hash = y.hash ∧ x.live = y.live ∧ (s.thread x.thr).pc = (s.thread y.thr).pc ∧
    (∀ i < 32, x.live.getLsbD i → s.xOf x.thr (BitVec.ofNat 6 i) = s.xOf y.thr (BitVec.ofNat 6 i)) ∧
    (∀ p : Fin 8, p ≠ 0 → (s.thread x.thr).regs.p[p] = (s.thread y.thr).regs.p[p]) ∧
    ∀ g, g ∈ (s.thread x.thr).groups ↔ g ∈ (s.thread y.thr).groups
/-- A close of local entry n of kernel kid is due: its window, outside DET, or the close from the home (R359); with its event. -/
def Closes (s : State) (kid lc entry : Nat) (e : Meet) (i : Instr) : Prop :=
  lc < 1024 ∧ (s.kernel kid).meets.find? (fun x => x.1 == lc * 256 + entry) = some (lc * 256 + entry, e) ∧ e.home = false ∧
    ((i = .meetWindowExpiry (kid * 1024 + lc) entry ∧ e.closing = false ∧ (s.kernel kid).det = false ∧ e.opened + e.win.toNat ≤ s.tick) ∨
      (i = .meetClose (kid * 1024 + lc) entry ∧ e.closing = true))

/-- Nothing is held for the next thread of a core-context, and no context holds a notice. -/
def NothingHeld (s : State) (cc : Nat) : Prop := (s.coreCtx cc).held = [] ∧ ∀ c, (s.ctx c).peers = none
/-- The cycle from which a thread placed now may issue: the next, or one turn later where its core was idle (R417; DEDUCED, log 93). -/
def startsAt (s : State) (kid core : Nat) : Nat :=
  if s.threads.any (fun e => e.2.life == .resident && s.physCore e.2 == s.physCore { kid := kid, core := core }) then s.cycle + 1 else s.cycle + 16

end Sys2Proof.Claims

/-- R96, R119, R130, R308, R311: SLEEP and a timed BWAIT whose tick has come wake their thread, with %time, or with the phase and the mark of a
time-out; a timer whose %tmcmp is reached makes cause 8 pending. -/
def Sys2Proof.Claims.TimersExpire : Prop :=
  ∀ (s : State) (k : Nat), (s.thread k).life = .resident →
    (∀ n, (s.thread k).wait = some (.sleep n) → n ≤ s.tick → exec (.sleepExpiry k) s = .next (wokenAt s k s.time)) ∧
    (∀ b n, (s.thread k).wait = some (.bwait b (some n)) → n ≤ s.tick →
      exec (.bwaitTimeout k) s = .next (wokenAt s k (if (s.bar (s.thread k).cc b).phase then 3 else 2))) ∧
    ((s.thread k).pend.getLsbD 8 = false → (s.thread k).tmcmp.toNat ≤ s.time.toNat →
      exec (.timerExpiry k) s = .next (withThread s k (fun t => { t with pend := t.pend ||| 0x100, info := t.info.put 8 (s.time, 0) })))

/-- R100, R306 to R311: an upcall is delivered to a thread in user mode at a boundary, with nothing reserved and no fault recorded: the lowest
enabled pending cause is no longer pending, its word stands in %finfo (for MESSAGE the queue's length) and for ENGINE the address in
%fva, TIMER sets %tmcmp to its end, and the thread goes on in runtime mode at %upvec; with records in its frame it takes PAGE instead, with
their number. -/
def Sys2Proof.Claims.UpcallsAreDelivered : Prop :=
  ∀ (s : State) (k c : Nat),
    let t := s.thread k
    t.life = .resident → t.mode = .user → t.reply = none → Abandonable t.wait → s.reservations k = 0 → t.upvec ≠ 0 → LowestEnabled t c →
    (t.frame = [] → ∃ u, exec (.upcallDelivery k) s = .next u ∧
      u.thread k = { t with
        upc := t.pc, ucause := BitVec.ofNat 8 c, mode := .runtime, pc := t.upvec &&& ~~~0xF, npc := t.upvec &&& ~~~0xF, resv := none, wait := none, got := none, blocks := [], tile := none
        finfo := (if c = 9 then wrap ((s.coreCtx t.cc).rq.length : Int) else (t.info.get (0, t.fva) c).1)
        fva := (if c = 12 then (t.info.get (0, t.fva) c).2 else t.fva)
        tmcmp := (if c = 8 then 0xFFFF_FFFF_FFFF_FFFF else t.tmcmp)
        pend := t.pend &&& ~~~(1#14 <<< c) } ∧
      (∀ j, j ≠ k → u.thread j = s.thread j) ∧ { u with threads := s.threads, ops := s.ops } = s) ∧
    (t.frame ≠ [] → ∃ u, exec (.upcallDelivery k) s = .next u ∧
      (u.thread k).ucause = 7 ∧ (u.thread k).finfo = wrap (t.frame.length : Int) ∧ (u.thread k).upc = t.pc ∧ (u.thread k).mode = .runtime ∧
      (u.thread k).pc = t.upvec &&& ~~~0xF ∧ (u.thread k).frame = [] ∧ (u.thread k).fva = t.fva ∧ (u.thread k).regs = t.regs ∧
      (u.thread k).pend = t.pend &&& ~~~0x80)

/-- R96, R97, R172: a result whose cycle has come is written: of a private vector register the bits of its mask alone. -/
def Sys2Proof.Claims.LateResultsAreWritten : Prop :=
  ∀ (s : State) (k : Nat) (l : Late) (f : VRegF), (s.thread k).late.filter (fun x => decide (x.due ≤ s.cycle)) = [l] → l.reg = .v f → isShared f = false → l.push = [] →
    ∃ t, exec (.fixedLatencyResult k) s = .next t ∧
      (∀ b < 512, (t.vOf k f).getLsbD b = if l.mask.getLsbD b then l.vv.getLsbD b else (s.vOf k f).getLsbD b) ∧ (∀ g, g ≠ f → t.vOf k g = s.vOf k g) ∧
      t.thread k = { s.thread k with
        regs := { (s.thread k).regs with v := (t.thread k).regs.v }, vde := setMark (s.thread k).vde (low5 f) false
        late := (s.thread k).late.filter (fun x => decide (s.cycle < x.due)) } ∧
      (∀ j, j ≠ k → t.thread j = s.thread j) ∧ { t with threads := s.threads } = s

/-- R118, R359: a local entry whose close is due is freed and its threads released: a thread alone in its class with D = 0; of two equal threads
the one of lower %tid with the sum of their %mul and D = 1, while the other ends. -/
def Sys2Proof.Claims.MeetsClose : Prop :=
  ∀ (s : State) (kid lc entry : Nat) (e : Meet) (i : Instr), Closes s kid lc entry e i →
    (∀ w, e.waiters = [w] → ∃ t, exec i s = .next t ∧ (∀ x ∈ (t.kernel kid).meets, x.1 ≠ lc * 256 + entry) ∧
      t.thread w.thr = { s.thread w.thr with wait := none, reply := some 0 } ∧ (∀ j, j ≠ w.thr → t.thread j = s.thread j) ∧ t.ccs = s.ccs ∧ SameBytes s t) ∧
    (∀ x y, (e.waiters = [x, y] ∨ e.waiters = [y, x]) → x.thr ≠ y.thr → (s.thread x.thr).tid.toNat < (s.thread y.thr).tid.toNat → Alike s x y →
      (s.thread x.thr).mul.toNat + (s.thread y.thr).mul.toNat < 2 ^ 48 →
      ∃ t, exec i s = .next t ∧ (∀ z ∈ (t.kernel kid).meets, z.1 ≠ lc * 256 + entry) ∧
        t.thread x.thr = { s.thread x.thr with mul := BitVec.ofNat 48 ((s.thread x.thr).mul.toNat + (s.thread y.thr).mul.toNat), wait := none, reply := some 1 } ∧
        t.thread y.thr = { s.thread y.thr with life := .ended, resv := none, frame := [], owed := [], streams := [], pend := 0, groups := [], wait := none } ∧
        (∀ j, j ≠ x.thr → j ≠ y.thr → t.thread j = s.thread j) ∧ t.ccs = s.ccs ∧ SameBytes s t)

/-- R111, R120, R126, R319, R322, R331, R339, R345, R417: a waiting thread whose slot is free starts in it, as its record in the spawn area
gives it where it was spawned, and issues first in the next cycle, on a core that was idle one turn later; a task without ranges is dispatched into a free slot as a new
thread of the kernel with its argument and multiplicity; a task whose ranges are all staged, every line filled and pinned, becomes ready; the migrant of a core moves to the core
and slot chosen, and waits for its outstanding results. -/
def Obligations.ThreadsStartAndMove : Prop :=
  ∀ s : State,
    (∀ cc slot k, s.placeable cc slot = some k →
      let b := s.readSpawned (cc / 1024) k
      NothingHeld b cc → (b.thread k).cc = cc →
      ((s.thread k).tid.toNat < ((s.kernel (cc / 1024)).record.extractLsb' 32 32).toNat → b = s) ∧
      ∃ u, exec (.threadPlacement cc slot) s = .next (spawnsNoted u (cc / 1024)) ∧
        u.thread k = { b.thread k with life := .resident, next := startsAt b (cc / 1024) (cc % 1024) } ∧
        (∀ j, j ≠ k → u.thread j = b.thread j) ∧ (∀ c, u.coreCtx c = b.coreCtx c) ∧ { u with threads := b.threads, ccs := b.ccs } = b) ∧
    (∀ cc slot (r : Task), let kid := cc / 1024; let k := s.kernel kid; let c := s.coreCtx cc
      k.st = .running → s.freeSlot kid (cc % 1024) = some slot → c.task = none → c.tq = [r] → taskRanged r.record = false → taskHold r.record = false →
      (∀ e ∈ s.threads, e.2.wait ≠ some .taskd) → k.nthread ≠ 2 ^ 32 - 1 → NothingHeld s cc →
      ∃ t, exec (.taskDispatch cc) s = .next t ∧ t.kernel kid = { k with nthread := k.nthread + 1 } ∧ (t.coreCtx cc).tq = [] ∧
        (∀ j, j ≠ threadKey kid k.nthread → t.thread j = s.thread j) ∧
        let n := t.thread (threadKey kid k.nthread)
        n.life = .resident ∧ n.kid = kid ∧ n.ctx = k.ctx ∧ n.core = cc % 1024 ∧ n.slot = slot ∧ n.tid = BitVec.ofNat 32 k.nthread ∧ n.mul = r.mul ∧
        n.fromTask = true ∧ n.pc.toNat = r.record.toNat % 2 ^ 56 / 16 * 16 ∧ n.mode = .user ∧
        n.regs = { Regs.zero with x := Regs.zero.x.set 1 (r.record.extractLsb' 64 64) } ∧ n.rper = c.rper ∧ n.groups = [] ∧ n.rctr = 0 ∧
        n.rkey = mix64 (wrap (k.nthread : Int)) ∧ n.next = startsAt s kid (cc % 1024)) ∧
    (∀ cc, (s.coreCtx cc).task.isSome → (s.coreCtx cc).taskReady = false → (s.coreCtx cc).taskDue ≤ s.cycle → (s.coreCtx cc).noPage = [] →
      (∀ n, n = 6 ∨ n = 7 → (s.win cc n).staged → ∀ i < (s.win cc n).gran.toNat * 32, i ∈ (s.win cc n).pins) →
      exec (.taskStagingComplete cc) s = .next (s.setCoreCtx cc { s.coreCtx cc with taskReady := true })) ∧
    (∀ cc k core slot, s.migrant cc = some (k, core, slot) →
      ∃ t, exec (.hwMigration cc) s = .next t ∧ t.coreCtx cc = { s.coreCtx cc with movedAt := s.cycle + 1 } ∧ (∀ c, c ≠ cc → t.coreCtx c = s.coreCtx c) ∧
        t.thread k = { s.thread k with core := core, slot := slot, resv := none, next := max (s.thread k).next (startsAt s (cc / 1024) core), after := (t.ops.filter (fun o => o.thr == k && o.kind.isReturn)).map (·.id) } ∧
        (∀ j, j ≠ k → t.thread j = s.thread j))

/-- R168, R169, R214, R272: a passage whose outgoing commands are complete ends with the best request, the highest priority and then the earliest,
holding the engine, or, where nobody waits and the outgoing context runs, with the engine free; what the engine holds of another core-context
is saved first (this statement: where there is nothing to save or restore); a grant ends after 64 commands or 65,536 ticks; and a window of 4,096 memory instructions sets the
measured %rper to the power of two nearest to its ticks per instruction. -/
def Sys2Proof.Claims.LeasesPassAndWindowsEnd : Prop :=
  ∀ (s : State) (u : Nat),
    (s.passageDue u = true →
      (∀ cc, (s.unit u).arb = [] → (s.unit u).passing = some cc → s.engRuns (s.kernel (cc / 1024)).ctx →
        exec (.leasePassage u) s = .next (s.setUnit u { s.unit u with passing := none })) ∧
      (∀ r ∈ (s.unit u).arb, u < 256 → ((s.unit u).loaded = none ∨ (s.unit u).loaded = some r.cc) → (s.coreCtx r.cc).spilled = false →
        (s.clause (engKey (s.kernel (r.cc / 1024)).ctx u)).spilled = false → (∀ x ∈ (s.unit u).arb, x ≠ r → x.prio < r.prio ∨ x.prio = r.prio ∧ r.seq < x.seq) →
        exec (.leasePassage u) s = .next (s.setUnit u { s.unit u with
          holder := some r.cc, loaded := some r.cc, passing := none, granted := 0, since := s.tick, expired := false, arb := (s.unit u).arb.filter (fun x => x.cc != r.cc) }))) ∧
    ((s.unit u).holder.isSome → (s.unit u).expired = false → (64 ≤ (s.unit u).granted ∨ (s.unit u).since + 65536 ≤ s.tick) →
      exec (.grantExpiry u) s = .next (s.setUnit u { s.unit u with expired := true })) ∧
    (4096 ≤ (s.coreCtx u).memOps →
      let ticks := s.tick - (s.coreCtx u).winStart
      ∃ t r, exec (.rperWindowEnd u) s = .next t ∧ (ticks < 4096 → r = 0) ∧
        (∀ k, 2 ^ k * 4096 ≤ ticks → ticks < 2 ^ (k + 1) * 4096 → r = min 10 (if 3 * 2 ^ k * 4096 ≤ 2 * ticks then k + 1 else k)) ∧
        t.coreCtx u = { s.coreCtx u with rper := BitVec.ofNat 4 r, memOps := (s.coreCtx u).memOps - 4096, winStart := s.tick } ∧
        (∀ e ∈ s.threads, e.2.life = .resident ∨ e.2.life = .waiting → e.2.cc = u → e.2.rperSet = false → s.thread e.1 = e.2 → t.thread e.1 = { e.2 with rper := BitVec.ofNat 4 r }) ∧
        (∀ k, ((s.thread k).cc ≠ u ∨ (s.thread k).rperSet = true ∨ (s.thread k).life ≠ .resident ∧ (s.thread k).life ≠ .waiting) → t.thread k = s.thread k))

namespace Sys2Proof.Claims

/-! ## Engine commands (R206 to R235) -/

/-- A command word of an opcode runs next, for the first time, on an engine that accepts it. -/
def CmdRuns (s : State) (w : CmdWord) (op : Nat) (accepts : Nat → Prop) (ec : Nat) (c : Cmd) : Prop :=
  s.engFor w = some (ec, c) ∧ w.q0.toNat / 2 ^ 56 = op ∧ accepts (unitEng (ec % 4096)) ∧ (s.eng ec).passed = [] ∧ (s.eng ec).block = none
/-- Bits [lo + n - 1 : lo] of Q0. -/
def field (w : CmdWord) (lo n : Nat) : Nat := w.q0.toNat / 2 ^ lo % 2 ^ n
/-- t is u with the command at the head of ec's queue run and its completion to come; the engine-context keeps the ranges that
passed and the block it read until then. -/
def Ran (u t : State) (ec : Nat) : Prop :=
  ∃ due ps b, u.cycle < due ∧
    t = { u.setEng ec { u.eng ec with ran := true, due := due, pwait := none, passed := ps, block := b } with drawn := u.drawn + 1 }
/-- The command c of ec, of opcode op, stops its stream with a code at an address, and pends ENGINE in the thread that enqueued it (R212). -/
def StoppedWith (s t : State) (ec : Nat) (c : Cmd) (op code addr : Nat) : Prop :=
  (t.eng ec).completed = (s.eng ec).completed ∧ (t.eng ec).queue = (s.eng ec).queue ∧
    (t.eng ec).stopped = some (wrap ((code + op * 2 ^ 8 + unitEng (ec % 4096) % 8 * 2 ^ 16 + c.num % 2 ^ 32 * 2 ^ 32 : Nat) : Int), wrap (addr : Int)) ∧
    ((s.thread c.thr).life = .resident → (s.thread c.thr).tid = c.tid → (s.thread c.thr).kid = c.kid →
      (t.thread c.thr).pend = (s.thread c.thr).pend ||| 0x1000 ∧ (t.thread c.thr).regs = (s.thread c.thr).regs)
/-- The ranges of a command pass the checks of R209, range i at an offset of an LM whose writes are not held, without an error mark and
with no granule that a thread keeps for its SC (R150). -/
def RangesAt (s : State) (ec : Nat) (c : Cmd) (rs : List Rng) (at_ : Nat → Nat × Nat) : Prop :=
  ∃ qs, s.engJudge ec c rs = .ok qs ∧ qs.length = rs.length ∧
    ∀ i < rs.length, (qs[i]?).map (·.place) = some (.lm (at_ i).1 (at_ i).2) ∧ s.heldCc (at_ i).1 = false ∧ ∀ r, rs[i]? = some r →
      LmSound s (at_ i).1 (at_ i).2 r.n ∧ (r.need = .write → s.keptLines noThreadKey (placeLines (.lm (at_ i).1 (at_ i).2) r.n) = false)
/-- Only LMs differ, and reservations that their writes take away. -/
structure LmsOnly (s u : State) : Prop where
  cores : ∀ c, u.coreCtx c = { s.coreCtx c with lm := (u.coreCtx c).lm }
  threads : ∀ k, u.thread k = { s.thread k with resv := (u.thread k).resv }
  memory : SameBytes s u
  rest : { u with threads := s.threads, ccs := s.ccs, farResv := s.farResv } = s
def lmOf (s : State) (cc : Nat) : Memory := (s.coreCtx cc).lm
/-- Element e, w bits wide, of a run that starts at LM offset o (R35). -/
def codeAt (m : Memory) (o w e : Nat) : Nat := numAt m (o + e * w / 8) (w / 8 + 2) / 2 ^ (e * w % 8) % 2 ^ w
/-- Only the banks differ: those of core-context cc at bank b. -/
def BanksOnly (s u : State) (cc b : Nat) : Prop :=
  (∀ c d, (c ≠ cc ∨ d ≠ b) → d < 2 → b < 2 → u.bank c d = s.bank c d) ∧ { u with banks := s.banks } = s
def bankAt (s : State) (cc b i j : Nat) : Lane := bankGet (s.bank cc b) i j
/-- Operand ranges of k rows or columns (R216). -/
def rows (base : Word) (n k ld w : Nat) : List Rng := rowRanges base.toNat n k ld w .read
/-! Clause arrays (R220 to R222, R226): a sample and a target record are numbers. -/

/-- Literal l of a sample: a feature, or the complement of one. -/
def litOf (m : Clause) (x l : Nat) : Bool := if l < m.f then decide (x / 2 ^ l % 2 = 1) else decide (x / 2 ^ (l - m.f) % 2 = 0)
def classOf (m : Clause) (c : Nat) : Nat := (m.entry c).toNat % 64
def isActive (m : Clause) (c : Nat) : Bool := decide ((m.entry c).toNat / 64 % 2 = 1)
def isPlus (m : Clause) (c : Nat) : Bool := decide ((m.entry c).toNat / 128 = 0)
/-- The output of a clause: the AND of the literals whose cells are at least 0; `empty` where it includes none. -/
def fires (m : Clause) (empty : Bool) (x c : Nat) : Bool :=
  if ∀ l < 2 * m.f, (m.cell c l).toInt < 0 then empty else decide (∀ l < 2 * m.f, 0 ≤ (m.cell c l).toInt → litOf m x l = true)
/-- The vote of class k, clamped to T. -/
def voteOf (m : Clause) (empty : Bool) (x k : Nat) : Int :=
  max (-(m.t : Int)) (min m.t (((List.range m.c).map (fun c =>
    if isActive m c && decide (classOf m c = k) && fires m empty x c then (if isPlus m c then (1 : Int) else -1) else 0)).sum))
/-- The output record of a sample (R221): the votes as i16, the lowest class of the largest vote as n16, zeros. -/
def OutputOf (m : Clause) (x : Nat) (bs : List Byte) : Prop :=
  bs.length = 8 * ((2 * m.k + 2 + 7) / 8) ∧
    ∃ b < m.k, (∀ k < m.k, voteOf m m.emptyInf x k ≤ voteOf m m.emptyInf x b) ∧ (∀ k < b, voteOf m m.emptyInf x k < voteOf m m.emptyInf x b) ∧
      ∀ i < bs.length, bs.getD i 0 =
        if i < 2 * m.k then byteAt (voteOf m m.emptyInf x (i / 2) % 65536).toNat (i % 2) else if i < 2 * m.k + 2 then byteAt b (i - 2 * m.k) else 0
def sampleLen (m : Clause) : Nat := 8 * ((m.f + 63) / 64)
def outputLen (m : Clause) : Nat := 8 * ((2 * m.k + 2 + 7) / 8)
/-- d(k, n) of R226. -/
def drawTop (k n : Word) : Nat := (draw k n).toNat / 2 ^ 48
/-- A target record that stops the command. -/
def BadTarget (m : Clause) (z : Nat) : Prop :=
  m.k ≤ z % 64 ∨ z / 64 % 4 ≠ 0 ∨ z / 2 ^ 14 % 2 ≠ 0 ∨ 2 ^ 16 ≤ z ∨
    m.k ≠ 1 ∧ z / 2 ^ 15 % 2 = 0 ∧ (m.k ≤ z / 256 % 64 ∨ z / 256 % 64 = z % 64)
/-- The negative class: none with one class; drawn, or as the record names it. -/
def negativeOf (m : Clause) (z : Nat) : Option Nat :=
  if m.k = 1 then none else if z / 2 ^ 15 % 2 = 0 then some (z / 256 % 64) else
  let j := (draw (m.seed ^^^ 0x4000_0000_0000_0000) m.ctr).toNat / 2 ^ 32 * (m.k - 1) / 2 ^ 32
  some (if j < z % 64 then j else j + 1)
/-- Whether clause c gets feedback from a sample. -/
def fedBack (m : Clause) (allfb : Bool) (x z c : Nat) : Bool :=
  let y := z % 64
  let d : Int := (drawTop (m.seed ^^^ 0x8000_0000_0000_0000) ((m.ctr <<< 11) ||| BitVec.ofNat 64 c) : Nat)
  isActive m c &&
    if classOf m c = y then allfb || decide (d * (2 * m.t) < (m.t - voteOf m true x y) * 65536)
    else match negativeOf m z with
      | some g => decide (classOf m c = g) && (allfb || decide (d * (2 * m.t) < (m.t + voteOf m true x g) * 65536))
      | none => false
/-- What feedback adds to cell l of clause c. -/
def feedback (m : Clause) (x z c l : Nat) : Int :=
  let d := drawTop m.seed ((m.ctr <<< 23) ||| BitVec.ofNat 64 (c * 2 ^ 11) ||| BitVec.ofNat 64 l)
  let o := fires m true x c
  let lit := litOf m x l
  if decide (classOf m c = z % 64) = isPlus m c then
    (if o && lit then (if d < m.ti1 then 1 else 0) else if o then (if d < m.ti0 then -1 else 0) else if d < m.tiz then -1 else 0)
  else if o && !lit && decide ((m.cell c l).toInt < 0) && decide (d < m.tii) then 1 else 0
/-- m' is m after one sample (R226): all cells from the cells before it, the counter one up. -/
def Trained (m : Clause) (allfb : Bool) (x z : Nat) (m' : Clause) : Prop :=
  m' = { m with cells := m'.cells, ctr := m.ctr + 1, wrap := m.wrap || decide (m.ctr + 1 = 0) } ∧
    ∀ c l, l < 2048 → (m'.cell c l).toInt =
      if c < m.c ∧ l < 2 * m.f ∧ fedBack m allfb x z c then max (-128) (min 127 ((m.cell c l).toInt + feedback m x z c l)) else (m.cell c l).toInt
/-- The header that CARD writes (R227). -/
def cardHeader (m : Clause) : Nat :=
  m.seed.toNat + m.ctr.toNat * 2 ^ 64 + (if m.wrap then 2 ^ 128 else 0) + (if m.configured then 2 ^ 129 else 0) +
    m.c % 2 ^ 16 * 2 ^ 144 + m.f % 2 ^ 16 * 2 ^ 160 + m.k % 2 ^ 8 * 2 ^ 176 + m.t % 2 ^ 16 * 2 ^ 184
/-- A clause model changed and nothing else. -/
def withModel (s : State) (ec : Nat) (f : Clause → Clause) : State := s.setClause ec (f (s.clause ec))

end Sys2Proof.Claims

/-- R216 to R219: MZERO clears its bank; MLOADC loads each element, f16 and bf16 widened; MMAC adds to each element, from 0 with ZERO, the
product row of its operands, chunk by chunk, and for i8 exactly modulo 2^32; MSTORE writes each element rounded, or quantised with its
block's scale. Operands and results stand in LMs. -/
def Obligations.MatrixCommands : Prop :=
  ∀ (s : State) (w : CmdWord) (ec : Nat) (c : Cmd) (f : MFields),
    let accepts (n : Nat) : Prop := n = 0
    (CmdRuns s w 0x01 accepts ec c → field w 0 34 = 0 → field w 35 21 = 0 → w.q1 = 0 → w.q2 = 0 → w.q3 = 0 →
      ∃ t u, exec (.mzero w) s = .next t ∧ Ran u t ec ∧ BanksOnly s u c.cc (field w 34 1) ∧ ∀ i j, bankAt u c.cc (field w 34 1) i j = 0) ∧
    (∀ (ty : Ty) (cc o : Nat), CmdRuns s w 0x02 accepts ec c → mFields w = some f → tyOfNum (field w 0 4) = some ty →
      ty = .f32 ∨ ty = .i32 ∨ ty = .f16 ∨ ty = .bf16 → field w 4 12 = 0 → field w 26 8 = 0 → field w 48 4 = 0 → w.q2.toNat < 65536 → f.n ≤ w.q2.toNat → w.q3 = 0 →
      RangesAt s ec c (rows w.q1 f.m f.n w.q2.toNat ty.width) (fun i => (cc, o + i * w.q2.toNat * ty.width / 8)) →
      ∃ t u, exec (.mloadc w) s = .next t ∧ Ran u t ec ∧ BanksOnly s u c.cc f.bank ∧
        ∀ i < 256, ∀ j < 256, bankAt u c.cc f.bank i j =
          if i < f.m ∧ j < f.n then widenLoad ty (codeAt (lmOf s cc) o ty.width (i * w.q2.toNat + j)) else bankAt s c.cc f.bank i j) ∧
    (∀ (fa fb : Ty) (cc oa ob osa osb : Nat), CmdRuns s w 0x03 accepts ec c → mFields w = some f → mmacTy (field w 26 4) = some fa → mmacTy (field w 30 4) = some fb →
      let k := field w 0 16
      let lda := w.q3.toNat / 2 ^ 48
      let ldb := w.q3.toNat / 2 ^ 32 % 65536
      let soff := w.q3.toNat % 2 ^ 32
      let ta := w.q0.getLsbD 50
      let tb := w.q0.getLsbD 51
      let chunks := (k + 31) / 32
      k ≠ 0 → (if ta then f.m else k) ≤ lda → (if tb then k else f.n) ≤ ldb →
      let na := if ta then k else f.m
      let nb := if tb then f.n else k
      RangesAt s ec c ((if ta then rows w.q1 k f.m lda fa.width else rows w.q1 f.m k lda fa.width) ++ (if tb then rows w.q2 f.n k ldb fb.width else rows w.q2 k f.n ldb fb.width) ++
          (if scaledTy fa then [{ a := ((w.q1.toNat + soff : Nat) : Int), n := f.m * chunks, need := .read }] else []) ++
          (if scaledTy fb then [{ a := ((w.q2.toNat + soff : Nat) : Int), n := chunks * f.n, need := .read }] else []))
        (fun i => (cc, if i < na then oa + i * lda * fa.width / 8 else if i < na + nb then ob + (i - na) * ldb * fb.width / 8
          else if i = na + nb ∧ scaledTy fa then osa else osb)) →
      let a (i x : Nat) : Nat := codeAt (lmOf s cc) oa fa.width (if ta then x * lda + i else i * lda + x)
      let b (x j : Nat) : Nat := codeAt (lmOf s cc) ob fb.width (if tb then j * ldb + x else x * ldb + j)
      let old (i j : Nat) : Lane := if w.q0.getLsbD 48 then 0 else bankAt s c.cc f.bank i j
      let scale (ty : Ty) (o n : Nat) : Nat := if scaledTy ty then ((lmOf s cc).get (o + n)).toNat else 127
      ∃ t u, exec (.mmac w) s = .next t ∧ Ran u t ec ∧ BanksOnly s u c.cc f.bank ∧
        (∀ i j, i < 256 → j < 256 → ¬(i < f.m ∧ j < f.n) → bankAt u c.cc f.bank i j = bankAt s c.cc f.bank i j) ∧
        (fa = .i8 → fb = .i8 → ∀ i < f.m, ∀ j < f.n,
          (bankAt u c.cc f.bank i j).toNat = (((old i j).toNat : Int) + ((List.range k).map (fun x => ((a i x : Int).bmod 256) * ((b x j : Int).bmod 256))).sum) % 2 ^ 32) ∧
        (¬(fa = .i8 ∧ fb = .i8) → ∀ i < f.m, ∀ j < f.n,
          (bankAt u c.cc f.bank i j).toNat = (List.range chunks).foldl (fun e q =>
            chunkUpdate e ((List.range (min 32 (k - 32 * q))).map (fun x => (tyValue fa (a i (32 * q + x)), tyValue fb (b (32 * q + x) j))))
              (scale fa osa (i * chunks + q)) (scale fb osb (q * f.n + j))) (old i j).toNat)) ∧
    (∀ (ty : Ty) (cc o osc : Nat), CmdRuns s w 0x04 accepts ec c → mFields w = some f → tyOfNum (field w 0 4) = some ty → ty ≠ .e8m0 →
      let ldc := w.q2.toNat
      let rm := field w 4 3
      let scaled := w.q0.getLsbD 49
      let blocks := (f.n + 31) / 32
      field w 7 9 = 0 → field w 26 8 = 0 → field w 51 1 = 0 → ldc < 65536 → f.n ≤ ldc → w.q3.toNat < 2 ^ 32 → rm ≤ 4 → (scaled → scaledTy ty) →
      (scaled → osc + f.m * blocks ≤ o ∨ o + ((f.m * ldc) * ty.width + 7) / 8 ≤ osc) →
      RangesAt s ec c (rowRanges w.q1.toNat f.m f.n ldc ty.width .write ++ (if scaled then [{ a := ((w.q1.toNat + w.q3.toNat : Nat) : Int), n := f.m * blocks, need := .write }] else []))
        (fun i => (cc, if i < f.m then o + i * ldc * ty.width / 8 else osc)) →
      let vals (i : Nat) : List Val := (List.range f.n).map (fun j => bankVal (w.q0.getLsbD 50) (bankAt s c.cc f.bank i j))
      let row (i : Nat) : List Nat × List Nat := mstoreRow ty (rmOfNum rm) (!w.q0.getLsbD 48) scaled (vals i)
      ∃ t u, exec (.mstore w) s = .next t ∧ Ran u t ec ∧ LmsOnly s u ∧ (∀ d, d ≠ cc → lmOf u d = lmOf s d) ∧
        (∀ i < f.m, ∀ j < f.n, codeAt (lmOf u cc) o ty.width (i * ldc + j) = (row i).1.getD j 0) ∧
        (scaled → ∀ i < f.m, ∀ q < blocks, ((lmOf u cc).get (osc + i * blocks + q)).toNat = (row i).2.getD q 0) ∧
        (∀ x, (∀ i < f.m, x < o + i * ldc * ty.width / 8 ∨ o + ((i * ldc + f.n) * ty.width + 7) / 8 ≤ x) → (scaled → x < osc ∨ osc + f.m * blocks ≤ x) →
          (lmOf u cc).get x = (lmOf s cc).get x))

/-- R220 to R227: CACFG sets the model its block names, with every cell at INIT; CASEED sets seed and counter; CAINF writes an output record for each
sample, reading each after the records before it: the clamped votes of its clauses and the class of the largest; CATRN trains on its samples in order,
each cell by the feedback of R226, and a bad target record stops it with the earlier ones applied; CARD writes cells, with the header where asked; CAWR reads them back. The ranges stand in LMs. -/
def Obligations.ClauseCommands : Prop :=
  ∀ (s : State) (w : CmdWord) (ec : Nat) (c : Cmd),
    let accepts (n : Nat) : Prop := 2 ≤ n
    let m := s.clause ec
    (CmdRuns s w 0x15 accepts ec c → field w 0 56 = 0 → w.q3 = 0 →
      ∃ t, exec (.caseed w) s = .next t ∧ Ran (withModel s ec (fun m => { m with seed := w.q1, ctr := w.q2, wrap := false })) t ec) ∧
    (∀ cc o, CmdRuns s w 0x10 accepts ec c → field w 0 56 = 0 → w.q2 = 0 → w.q3 = 0 →
      let h : BitVec 512 := BitVec.ofNat 512 (numAt (lmOf s cc) o 64)
      let n := h.toNat % 2 ^ 16
      let entry (i : Nat) : BitVec 8 := (lmOf s cc).get (o + 64 + i)
      let th (i : Nat) : Nat := h.toNat / 2 ^ (128 + 32 * i) % 2 ^ 32
      blockOk h = true → (∀ i < n, (entry i).getLsbD 6 → (entry i).toNat % 64 < h.toNat / 2 ^ 32 % 256) →
      RangesAt s ec c [{ a := (w.q1.toNat : Int), n := 64, need := .read, al := 64 }] (fun _ => (cc, o)) →
      RangesAt s ec c [{ a := (w.q1.toNat : Int), n := 64 + n, need := .read, al := 64 }] (fun _ => (cc, o)) →
      ∃ t u, exec (.cacfg w) s = .next t ∧ Ran u t ec ∧ { u with clauses := s.clauses } = s ∧ (∀ e, e ≠ ec → u.clause e = s.clause e) ∧
        let m' := u.clause ec
        m' = { m with
          configured := true, c := n, f := h.toNat / 2 ^ 16 % 2 ^ 16, k := h.toNat / 2 ^ 32 % 2 ^ 8, t := h.toNat / 2 ^ 48 % 2 ^ 16, emptyInf := h.getLsbD 64
          ti1 := th 0, ti0 := th 1, tiz := th 2, tii := th 3, table := m'.table, init := m'.init, cells := [] } ∧
        m'.init.toNat = h.toNat / 2 ^ 40 % 2 ^ 8 ∧ m'.f ≤ 1024 ∧ ∀ i < n, m'.entry i = entry i) ∧
    (∀ cx x cy y, CmdRuns s w 0x11 accepts ec c → field w 32 24 = 0 → field w 0 32 ≠ 0 → w.q3 = 0 → m.configured = true → m.k ≠ 0 →
      let n := field w 0 32
      RangesAt s ec c [{ a := (w.q1.toNat : Int), n := n * sampleLen m, need := .read }, { a := (w.q2.toNat : Int), n := n * outputLen m, need := .write }]
        (fun i => if i = 0 then (cx, x) else (cy, y)) →
      ∃ (t : State) (u : Nat → State), exec (.cainf w) s = .next t ∧ Ran (u n) t ec ∧ u 0 = s ∧ ∀ i < n, ∃ bs,
        OutputOf m (numAt (lmOf (u i) cx) (x + i * sampleLen m) (sampleLen m)) bs ∧ LmWrote (u i) (u (i + 1)) cy (y + i * outputLen m) bs) ∧
    (∀ cx x cy y, CmdRuns s w 0x12 accepts ec c → field w 32 16 = 0 → field w 49 7 = 0 → field w 0 32 ≠ 0 → w.q3 = 0 → m.configured = true → m.f ≤ 1024 →
      let n := field w 0 32
      let sample (i : Nat) : Nat := numAt (lmOf s cx) (x + i * sampleLen m) (sampleLen m)
      let target (i : Nat) : Nat := numAt (lmOf s cy) (y + i * 8) 8
      RangesAt s ec c [{ a := (w.q1.toNat : Int), n := n * sampleLen m, need := .read }, { a := (w.q2.toNat : Int), n := n * 8, need := .read }]
        (fun i => if i = 0 then (cx, x) else (cy, y)) →
      ((∀ i < n, ¬BadTarget m (target i)) → ∃ (t : State) (ms : Nat → Clause), exec (.catrn w) s = .next t ∧ ms 0 = m ∧
        (∀ i < n, Trained (ms i) (w.q0.getLsbD 48) (sample i) (target i) (ms (i + 1))) ∧ Ran (withModel s ec (fun _ => ms n)) t ec) ∧
      (∀ j < n, (∀ i < j, ¬BadTarget m (target i)) → BadTarget m (target j) → ∃ (t : State) (ms : Nat → Clause), exec (.catrn w) s = .next t ∧
        StoppedWith s t ec c 0x12 9 0 ∧ ms 0 = m ∧ (∀ i < j, Trained (ms i) (w.q0.getLsbD 48) (sample i) (target i) (ms (i + 1))) ∧ t.clause ec = ms j)) ∧
    (∀ cc o, let c0 := field w 0 12; let nc := field w 12 12
      nc ≠ 0 → nc ≤ 2048 → c0 + nc ≤ m.c → w.q2 = 0 → w.q3 = 0 → field w 24 24 = 0 → field w 49 7 = 0 → m.configured = true →
      (CmdRuns s w 0x13 accepts ec c →
        let bytes := (if w.q0.getLsbD 48 then bytesOf 64 (cardHeader m) else []) ++ (List.range (nc * (2 * m.f))).map (fun i => m.cell (c0 + i / (2 * m.f)) (i % (2 * m.f)))
        RangesAt s ec c [{ a := (w.q1.toNat : Int), n := bytes.length, need := .write }] (fun _ => (cc, o)) →
        ∃ t u, exec (.card w) s = .next t ∧ Ran u t ec ∧ LmWrote s u cc o bytes) ∧
      (CmdRuns s w 0x14 accepts ec c → field w 48 1 = 0 → m.f ≤ 1024 → RangesAt s ec c [{ a := (w.q1.toNat : Int), n := nc * (2 * m.f), need := .read }] (fun _ => (cc, o)) →
        ∃ t u, exec (.cawr w) s = .next t ∧ Ran u t ec ∧ { u with clauses := s.clauses } = s ∧ (∀ e, e ≠ ec → u.clause e = s.clause e) ∧
          u.clause ec = { m with cells := (u.clause ec).cells } ∧
          ∀ i l, l < 2048 → (u.clause ec).cell i l = if c0 ≤ i ∧ i < c0 + nc ∧ l < 2 * m.f then (lmOf s cc).get (o + (i - c0) * (2 * m.f) + l) else m.cell i l))

/-- R229 to R235, R158, R206, R212, R213: CFILL writes its pattern; CPY and an asynchronous copy write each run of their destination from the run of the
source, converted, every byte read before any is written; CPYQ writes codes and scales; EMARK writes its word; ENOP and EFENCE do nothing more; a
command that has run completes in its timeline, or stops with DATA where a write of it to another device failed; a resume word completes all up to it; and an opcode that the engine does not know, or a bad ENOP,
stops the engine-context with its code, and pends ENGINE in the enqueuing thread. -/
def Obligations.CopyAndControlCommands : Prop :=
  ∀ (s : State) (w : CmdWord) (ec : Nat) (c : Cmd),
    let copy (n : Nat) : Prop := n = 1
    let any (_ : Nat) : Prop := True
    let stopsWith (i : Instr) (code addr : Nat) : Prop := ∃ t, exec i s = .next t ∧ StoppedWith s t ec c (w.q0.toNat / 2 ^ 56) code addr
    let kept (e : EngCtx) : EngCtx := { e with pwait := none, badPage := [], passed := [], block := none, denied := [], far := [], farBad := none }
    (∀ cc o, CmdRuns s w 0x22 copy ec c → field w 7 1 = 0 → field w 14 34 = 0 → field w 48 8 = 0 → w.q3 ≠ 0 → w.q3.toNat ≤ 2 ^ 44 →
      RangesAt s ec c [{ a := (w.q1.toNat : Int), n := w.q3.toNat, need := .write }] (fun _ => (cc, o)) →
      ∃ t u, exec (.cfill w) s = .next t ∧ Ran u t ec ∧ LmWrote s u cc o ((List.range w.q3.toNat).map (fun i => byteAt w.q2.toNat (i % 8)))) ∧
    (∀ (h : Shape) (cb ob cc : Nat) (src dst : Nat → Nat) (osc : Nat), field w 7 1 = 0 → field w 14 2 = 0 → field w 22 26 = 0 → field w 48 8 = 0 →
      RangesAt s ec c [{ a := (w.q3.toNat : Int), n := 64, need := .read, al := 64 }] (fun _ => (cb, ob)) →
      shapeOf (BitVec.ofNat 512 (numAt (lmOf s cb) ob 64)) w.q1 w.q2 = .ok h →
      let n := h.runs.length
      let bytes (r : Nat) : List Byte := (lmOf s cc).read (src r) h.srcBytes
      (∀ a < n, ∀ b < n, a ≠ b → dst a + h.dstBytes ≤ dst b ∨ dst b + h.dstBytes ≤ dst a) →
      (CmdRuns s w 0x20 copy ec c → h.scale = 0 →
        RangesAt s ec c (h.srcRanges ++ h.dstRanges) (fun i => (cc, if i < n then src i else dst (i - n))) →
        ∃ t u, exec (.cpy w) s = .next t ∧ Ran u t ec ∧ LmsOnly s u ∧
          (∀ r < n, ∀ x < h.dstBytes, (lmOf u cc).get (dst r + x) = (h.convRun (bytes r)).getD x 0) ∧
          (h.sty = h.dty → ∀ r < n, ∀ x < h.dstBytes, (lmOf u cc).get (dst r + x) = (lmOf s cc).get (src r + x)) ∧
          (∀ d x, (d ≠ cc ∨ ∀ r < n, x < dst r ∨ dst r + h.dstBytes ≤ x) → (lmOf u d).get x = (lmOf s d).get x)) ∧
      (CmdRuns s w 0x21 copy ec c → (h.sty = .f32 ∨ h.sty = .f16 ∨ h.sty = .bf16) → scaledTy h.dty → h.n0 % 32 = 0 →
        let k := h.n0 / 32
        (∀ r < n, osc + n * k ≤ dst r ∨ dst r + h.dstBytes ≤ osc) →
        RangesAt s ec c (h.srcRanges ++ h.dstRanges ++ [{ a := (h.scale : Int), n := n * k, need := .write }])
          (fun i => (cc, if i < n then src i else if i < 2 * n then dst (i - n) else osc)) →
        ∃ t u, exec (.cpyq w) s = .next t ∧ Ran u t ec ∧ LmsOnly s u ∧
          (∀ r < n, ∀ x < h.dstBytes, (lmOf u cc).get (dst r + x) = (h.quantRun (bytes r)).1.getD x 0) ∧
          (∀ r < n, ∀ q < k, (lmOf u cc).get (osc + r * k + q) = (h.quantRun (bytes r)).2.getD q 0) ∧
          (∀ d x, (d ≠ cc ∨ (∀ r < n, x < dst r ∨ dst r + h.dstBytes ≤ x) ∧ (x < osc ∨ osc + n * k ≤ x)) → (lmOf u d).get x = (lmOf s d).get x))) ∧
    (∀ cc o, CmdRuns s w 0x30 any ec c → field w 0 56 = 0 → w.q3 = 0 → RangesAt s ec c [{ a := (w.q1.toNat : Int), n := 8, need := .write, al := 8 }] (fun _ => (cc, o)) →
      ∃ t u, exec (.emark w) s = .next t ∧ Ran u t ec ∧ LmWrote s u cc o (bytesOf 8 w.q2.toNat)) ∧
    (CmdRuns s w 0x31 any ec c → field w 3 53 = 0 → field w 0 3 ≤ 5 → w.q2 = 0 → w.q3 = 0 → ∃ t, exec (.efence w) s = .next t ∧ Ran s t ec) ∧
    (CmdRuns s w 0x00 any ec c → (w.q0 = 0 → w.q1 = 0 → w.q2 = 0 → w.q3 = 0 → ∃ t, exec (.enop w) s = .next t ∧ Ran s t ec) ∧
      (¬(w.q0 = 0 ∧ w.q1 = 0 ∧ w.q2 = 0 ∧ w.q3 = 0) → stopsWith (.enop w) 3 0)) ∧
    (s.engFor w = some (ec, c) → opcodeEngines (w.q0.toNat / 2 ^ 56) = none → stopsWith (.unknownEngineCommand w) 1 0) ∧
    (∀ rest, (s.eng ec).stopped = none → (s.eng ec).ran = true → (s.eng ec).due ≤ s.cycle → (s.eng ec).queue = c :: rest → (∀ o ∈ s.ops, o.kind ≠ .engWrite ec) →
      ((s.eng ec).farBad = none → ∃ due, s.cycle < due ∧ exec (.engineCommandCompletion ec) s = .next
        { s.setEng ec { kept (s.eng ec) with completed := c.num, queue := rest, ran := false, due := due } with drawn := s.drawn + 1 }) ∧
      (∀ va, (s.eng ec).farBad = some va → c.work = .word w → stopsWith (.engineCommandCompletion ec) 7 va)) ∧
    (∀ dst src n cx x cy y, s.headCmd ec = some c → c.work = .acopy dst src n → (s.eng ec).passed = [] →
      RangesAt s ec c [{ a := (src : Int), n := n, need := .read }, { a := (dst : Int), n := n, need := .write }] (fun i => if i = 0 then (cx, x) else (cy, y)) →
      ∃ t u, exec (.engineCommandCompletion ec) s = .next t ∧ Ran u t ec ∧ LmWrote s u cy y ((lmOf s cx).read x n)) ∧
    (s.resumable = some ec → (s.eng ec).queue.find? (fun c => c.resume) = some c →
      ∃ due, s.cycle < due ∧ exec .enopResume s = .next
        { s.setEng ec { kept (s.eng ec) with completed := c.num, queue := (s.eng ec).queue.filter (fun x => decide (c.num < x.num)), stopped := none, ran := false, due := due } with drawn := s.drawn + 1 })

namespace Sys2Proof.Claims

/-! ## The host mailbox (R416) -/

/-- The number whose bytes are these, lowest first. -/
def leOf : List Byte → Nat
  | [] => 0
  | b :: t => b.toNat + 256 * leOf t
/-- A message of 64 bytes: CODE, TAG, STATUS, and the first 56 bytes of operands. -/
def mail (code tag : BitVec 16) (status : Nat) (body : List Byte) : BitVec 512 :=
  BitVec.ofNat 512 (code.toNat + tag.toNat * 2 ^ 16 + status % 2 ^ 32 * 2 ^ 32 + leOf (body.take 56) * 2 ^ 64)
/-- The event area takes no entry: 256 entries are not returned. -/
def Full (s : State) : Prop := s.returned + 256 ≤ s.writeIdx
/-- t is u with a message in the area, the write index advanced and vector 0 signalled; or held, in order, while the area is full. -/
def Posted (u : State) (m : BitVec 512) (t : State) : Prop :=
  ((Full u ∨ u.heldEvents ≠ []) → t = { u with heldEvents := u.heldEvents ++ [m] }) ∧
    (¬ Full u → u.heldEvents = [] → ∃ h : Memory, t = { u with hostMem := h, writeIdx := u.writeIdx + 1, out := u.out ++ [.msix 0] } ∧
      let slot := u.areaBase + u.writeIdx % 256 * 64
      (∀ i < 64, h.get (slot + i) = byteAt m.toNat i) ∧ ∀ a, (a < slot ∨ slot + 64 ≤ a) → h.get a = u.hostMem.get a)
def Answered (u : State) (tag : BitVec 16) (status : Nat) (body : List Byte) (t : State) : Prop := Posted u (mail (Config.mailboxCode 0) tag status body) t
def Reported (u : State) (k : MsgKind) (body : List Byte) (t : State) : Prop := Posted u (mail (Config.mailboxCode k.num) 0 0 body) t
/-- The device takes commands: it runs or sleeps, and a version is agreed. -/
def Heard (s : State) : Prop := (s.power = .active ∨ s.power = .asleep) ∧ s.version ≠ 0
/-- The host wakes a sleeping device. -/
def up (s : State) : State := { s with power := (if s.power = .asleep then .active else s.power) }
/-- A command runs: with what it changes and status 0, or changing nothing and status 1. -/
def Done (s : State) (i : Instr) (tag : BitVec 16) (u : State) : Prop := ∃ t, exec i s = .next t ∧ Answered u tag 0 [] t
def Refused (s : State) (i : Instr) (tag : BitVec 16) : Prop := ∃ t, exec i s = .next t ∧ Answered (up s) tag 1 [] t

/-! ## Cache levels and pages (R259 to R272, R282 to R295) -/

/-- Units of 256 ticks, modulo 2^20. -/
def units256 (s : State) : BitVec 20 := BitVec.ofNat 20 (s.tick / 256)
/-- a comes before b (R261). -/
def comesBefore (a b : BitVec 20) : Bool := decide (1 ≤ (b - a).toNat) && decide ((b - a).toNat < 2 ^ 19)
/-- A due far behind (R263). -/
def wayBehind (s : State) (d : BitVec 20) : Bool := decide (2 ^ 18 ≤ (units256 s - d).toNat) && decide ((units256 s - d).toNat < 2 ^ 19)
/-- A line expired under the AGE of a residency control word (R263). -/
def lapsed (s : State) (ctl : Word) (l : Line) : Bool := comesBefore l.due (units256 s - BitVec.ofNat 20 (ctl.toNat / 2 ^ 20 % 2 ^ 18))
/-- A line after a visit (R263, R270). -/
def visitedLine (s : State) (ctl : Word) (l : Line) : Line :=
  { l with due := (if wayBehind s l.due then units256 s - BitVec.ofNat 20 (2 ^ 18) else l.due), claim := l.claim && !lapsed s ctl l }

/-- One set visited: its lines; EXP of each tenant up by its claims found expired, saturating; nothing else. -/
structure Visited (s : State) (c c' : Cache) (ws ws' : AMap Word) (set_ : Nat) : Prop where
  lines : c'.sets.get [] set_ = (c.sets.get [] set_).map (fun l => l.map (visitedLine s c.ctl))
  others : ∀ k, k ≠ set_ → c'.sets.get [] k = c.sets.get [] k
  ctl : c'.ctl = c.ctl
  counts : ∀ ten, let n := ((c.sets.get [] set_).filter (fun l => match l with | some l => l.claim && lapsed s c.ctl l && l.ten == some ten | none => false)).length
    let w := (ws.get 0 ten).toNat
    let w' := (ws'.get 0 ten).toNat
    w' / 2 ^ 48 = min (w / 2 ^ 48 + n) 65535 ∧ w' % 2 ^ 3 = w % 2 ^ 3 ∧ w' / 2 ^ 8 % 2 ^ 40 = w / 2 ^ 8 % 2 ^ 40

/-- The tenant words of a level (R269). -/
def levelWords (s : State) (lv : Level) (n : Nat) : AMap Word := match lv with | .l1 => (s.core n).tenants | .l2 => s.glade n | .page => []
def withWords (s : State) (lv : Level) (n : Nat) (w : AMap Word) : State :=
  match lv with | .l1 => s.setCore n { s.core n with tenants := w } | .l2 => { s with glades := s.glades.put n w } | .page => s
def withControl (s : State) (lv : Level) (n : Nat) (w : Word) : State :=
  match lv with
  | .l1 => s.setCore n { s.core n with l1 := { (s.core n).l1 with ctl := w } }
  | .l2 => { s with slices := s.slices.put n { s.slice n with ctl := w } }
  | .page => { s with pageCtl := w }
def caches (lv : Level) : Nat := match lv with | .l1 => 1024 | .l2 => 128 | .page => 2 ^ 64

/-- Bytes of memory outside [a, a + n) are as they were. -/
def BytesBut (s t : State) (a n : Nat) : Prop := ∀ x, x < a ∨ a + n ≤ x → t.mem.get x = s.mem.get x
/-- An entry with another PDUE (R283). -/
def withPdue (e d : Nat) : Nat := e - e / 2 ^ 94 % 2 ^ 20 * 2 ^ 94 + d % 2 ^ 20 * 2 ^ 94
/-- An entry as the manager writes it now: a present local one with the due of its fill (R293). -/
def asFilled (s : State) (e : Nat) : Nat :=
  if e % 2 = 1 ∧ e / 2 ^ 3 % 4 = 0 then withPdue e ((s.tick + min (s.pageCtl.toNat % 2 ^ 18) ((2 ^ 19 - 1) * 256)) / 256) else e
/-- The node a pointer names (R283). -/
def pointer (s : State) (node va sh bits : Nat) : Option Nat :=
  let e := numAt s.mem (node + va / 2 ^ sh % 2 ^ bits * 16) 16
  if e % 8 = 1 then some (e / 2 ^ 16 % 2 ^ 52) else none
/-- Where the leaf of SIZE z for va stands, the tables above it in place (R282). -/
def leafPlace (s : State) (va z : Nat) : Option Nat := do
  let a ← pointer s s.ptRoot va 48 8
  let b ← pointer s a va 39 9
  if z = 3 then some (b + va / 2 ^ 30 % 2 ^ 9 * 16) else
  let c ← pointer s b va 30 9
  if z = 2 then some (c + va / 2 ^ 21 % 2 ^ 9 * 16) else
  let d ← pointer s c va 21 9
  if z = 1 then some (d + va / 2 ^ 16 % 2 ^ 5 * 16) else none
/-- A byte of a page's memory (R283). -/
def placeByte (s : State) (loc base i : Nat) : Byte := if loc = 0 then s.mem.get (base + i) else s.hostMem.get (extAddr loc base + i)
/-- Where the entries stand that a walk of va reads, down to the first that is no pointer (R282). -/
def walkPath (m : Memory) (va : Nat) : List (Nat × Nat) → Nat → List Nat
  | [], _ => []
  | (sh, bits) :: rest, node =>
    let a := node + va / 2 ^ sh % 2 ^ bits * 16
    a :: (if numAt m a 16 % 8 = 1 then walkPath m va rest (numAt m a 16 / 2 ^ 16 % 2 ^ 52) else [])
/-- The tables that a walk of va reads stand outside [lo, lo + n). -/
def TablesApart (s : State) (va lo n : Nat) : Prop :=
  s.ptRoot % 16 = 0 ∧ ∀ a ∈ walkPath s.mem va [(48, 8), (39, 9), (30, 9), (21, 9), (16, 5)] s.ptRoot, a + 16 ≤ lo ∨ lo + n ≤ a
/-- The 128-byte line at an address. -/
def lineAt (m : Memory) (a : Nat) : BitVec 1024 := BitVec.ofNat 1024 (numAt m a 128)
/-- The lines of a page of a key slot, put through the cipher of their controller in one direction (R296); those that meet a host-visible
region, which uses slot 0 (R297), stay as they are. -/
def Ciphered (s t : State) (e : BitVec 128) (f : BitVec 512 → Nat → BitVec 1024 → BitVec 1024) : Prop :=
  ∀ i < pageBytes (pteSize e) / 128, let a := pteBase e + 128 * i
    ((∃ r ∈ s.hostRegions, a < r.1 + r.2 ∧ r.1 < a + 128) → lineAt t.mem a = lineAt s.mem a) ∧
    ((∀ r ∈ s.hostRegions, r.1 + r.2 ≤ a ∨ a + 128 ≤ r.1) → lineAt t.mem a = f (s.keys.get 0 (pteKey e)) (a / 128) (lineAt s.mem a))
/-- A page that is encrypted: present, in local memory, with a key slot. -/
def Keyed (e : BitVec 128) : Prop := pteP e = true ∧ pteLoc e = 0 ∧ pteKey e ≠ 0
/-- n bytes from a stand apart from a page's memory. -/
def Apart (a n : Nat) (e : BitVec 128) : Prop := a + n ≤ pteBase e ∨ pteBase e + pageBytes (pteSize e) ≤ a
/-- Another page is no better victim: its PDUE is no further, its last walk no older, its PA no lower (R294). -/
def NoBetter (s : State) (va : Nat) (e : BitVec 128) (p : Nat × BitVec 128) : Prop :=
  comesBefore (ptePdue e) (ptePdue p.2) = false ∧ (ptePdue e = ptePdue p.2 → s.walkedAt va < s.walkedAt p.1 ∨ s.walkedAt va = s.walkedAt p.1 ∧ ptePa e ≤ ptePa p.2)
/-- A page the manager may choose as a victim (R294). -/
def Choosable (e : BitVec 128) : Prop := pteLoc e = 0 ∧ pteP e = true ∧ ptePin e = false ∧ pteMig e = false

end Sys2Proof.Claims

/-- R263, R268 to R271: a visit brings up dues far behind and counts claims found expired, in a set of an L1 or an L2 slice and in a page's
entry; the fill at which INS wraps finds TLOG from HON and EXP and clears both, and the trust update makes it the tenant's at the next cycle; firmware's residency control word and SHARE are written, and words out of
range are refused. -/
def Obligations.CacheLevelControl : Prop :=
  ∀ (s : State),
    (∀ n k, ∃ c ws, exec (.setVisit .l1 n k) s = .next (s.setCore n { s.core n with l1 := c, tenants := ws }) ∧ Visited s (s.core n).l1 c (s.core n).tenants ws k) ∧
    (∀ n k, ∃ c ws, exec (.setVisit .l2 n k) s = .next { s with slices := s.slices.put n c, glades := s.glades.put (n / 32) ws } ∧
      Visited s (s.slice n) c (s.glade (n / 32)) ws k) ∧
    (∀ n k pte a, s.walk (k * 65536) = .leaf pte a → ∃ t, exec (.setVisit .page n k) s = .next t ∧ { t with mem := s.mem } = s ∧ BytesBut s t a 16 ∧
      (wayBehind s (ptePdue pte) = false → t = s) ∧ (wayBehind s (ptePdue pte) = true → numAt t.mem a 16 = withPdue pte.toNat (units256 s - BitVec.ofNat 20 (2 ^ 18)).toNat)) ∧
    (∀ (ws : AMap Word) cycle ten, ten < 64 →
      let w := (ws.get 0 ten).toNat
      let hon := w / 2 ^ 32 % 2 ^ 16
      let all := hon + w / 2 ^ 48
      let g := w % 8
      let g' := if all = 0 then g else if 2 * hon < all then min (g + 1) 4 else if 7 * all < 8 * hon then g - 1 else g
      let full := w / 2 ^ 16 % 2 ^ 16 = 65535
      ((fillCount ws cycle ten).get 0 ten).toNat = (if full then g + w / 2 ^ 8 % 2 ^ 8 * 2 ^ 8 else g + w / 2 ^ 8 * 2 ^ 8 + 2 ^ 16) ∧
      (full → (fillCount ws cycle ten).get 0 (64 + ten) = wrap (((cycle + 1) * 8 + g' : Nat) : Int)) ∧
      ∀ x, x ≠ ten → (x ≠ 64 + ten ∨ ¬ full) → (fillCount ws cycle ten).get 0 x = ws.get 0 x) ∧
    (∀ lv n ten, let due := ((levelWords s lv n).get 0 (64 + ten)).toNat
      due ≠ 0 → due / 8 ≤ s.cycle → ∃ ws, exec (.trustUpdate lv n ten) s = .next (withWords s lv n ws) ∧
      let w := ((levelWords s lv n).get 0 ten).toNat
      (ws.get 0 ten).toNat = due % 8 + w / 2 ^ 8 * 2 ^ 8 ∧ ws.get 0 (64 + ten) = 0 ∧
      ∀ x, x ≠ ten → x ≠ 64 + ten → ws.get 0 x = (levelWords s lv n).get 0 x) ∧
    (Heard s → ∀ tag lv n (w : Word),
      let ok := 1 ≤ w.toNat % 2 ^ 18 ∧ w.toNat % 2 ^ 18 ≤ 131072 ∧ 1 ≤ w.toNat / 2 ^ 20 % 2 ^ 18 ∧ w.toNat / 2 ^ 20 % 2 ^ 18 ≤ 131072 ∧ w.toNat / 2 ^ 18 % 4 = 0 ∧ w.toNat / 2 ^ 38 = 0
      (ok → n < caches lv → Done s (.residencyControlWrite tag lv n w) tag (withControl (up s) lv n w)) ∧ (¬ ok → Refused s (.residencyControlWrite tag lv n w) tag)) ∧
    (Heard s → ∀ tag lv n ten (share : BitVec 8),
      (ten < 64 → (lv = .l1 ∧ n < 1024 ∨ lv = .l2 ∧ n < 4) → ∃ ws, Done s (.tenantWordWrite tag lv n ten share) tag (withWords (up s) lv n ws) ∧
        (ws.get 0 ten).toNat = (let w := ((levelWords s lv n).get 0 ten).toNat; w - w / 2 ^ 8 % 2 ^ 8 * 2 ^ 8 + share.toNat * 2 ^ 8) ∧
        ∀ x, x ≠ ten → ws.get 0 x = (levelWords s lv n).get 0 x) ∧
      (64 ≤ ten → Refused s (.tenantWordWrite tag lv n ten share) tag))

/-- R284, R286, R291 to R296: the manager's entry for an absent page is written, with the due of its fill; an unmapped page leaves no entry, PLB entry
or cached line; a shootdown writes firmware's words and leaves no PLB entry, clearance word or L1 line before it acknowledges; a page-resident
notice gives the page its place and its content, lets its accesses go on and sends the notice; the page that no other is a better victim than
becomes migrating; and a switch moves the page's bytes, performs the writes that waited, and writes the new entry. A page of a key slot is
decrypted where its entry appears and encrypted where it goes. Choices of the model that the clauses state beside the rules: a shootdown
empties every PLB, clearance cache and L1 (log 46); memory is held deciphered, so that a page changes where its entry appears or goes (log
73); the migration report's body is the page's address (log 13). -/
def Obligations.PagesChangeState : Prop :=
  ∀ (s : State) (va a : Nat) (pte : BitVec 128),
    (∀ (e : BitVec 128) nodes, (∀ x y, s.walk va ≠ .leaf x y) → s.pteOk e = true → leafPlace s va (pteSize e) = some a → numAt s.mem a 16 % 8 = 0 →
      (Keyed e → Apart a 16 e) →
      ∃ t, exec (.pageMap va e nodes) s = .next t ∧ { t with mem := s.mem, cores := s.cores } = s ∧ numAt t.mem a 16 = asFilled s e.toNat ∧
        (¬ Keyed e → BytesBut s t a 16) ∧ (Keyed e → Ciphered s t e xtsDec) ∧ (pteTag e = 0 → t.cores = s.cores) ∧
        (pteTag e ≠ 0 → let n := pageBytes (pteSize e);
          ∀ c ∈ t.cores, c.2.clr = [] ∧ ∀ x ∈ c.2.plb, x.gran < va / n * n / 65536 ∨ (va / n * n + n) / 65536 ≤ x.gran)) ∧
    (s.walk va = .leaf pte a → pteP pte = true → pteMig pte = false →
      let n := pageBytes (pteSize pte)
      ∃ t, exec (.pageUnmap va) s = .next t ∧ numAt t.mem a 16 = 0 ∧
        (∀ c ∈ t.cores, c.2.clr = [] ∧ (∀ e ∈ c.2.plb, e.gran < va / n * n / 65536 ∨ (va / n * n + n) / 65536 ≤ e.gran) ∧
          ∀ w ∈ c.2.l1.sets, ∀ l, some l ∈ w.2 → l.addr < lineKey (pteLoc pte) (pteBase pte) ∨ lineKey (pteLoc pte) (pteBase pte) + n / 128 ≤ l.addr) ∧
        (NothingCached s → { t with mem := s.mem } = s ∧ (¬ Keyed pte → BytesBut s t a 16) ∧ (Keyed pte → Apart a 16 pte → Ciphered s t pte xtsEnc))) ∧
    (∀ tag writes (ptes : List (Nat × BitVec 128)), (∀ c ∈ s.cores, c.2.ulines = []) →
      ∃ t u, exec (.protectionShootdown tag writes ptes) s = .next t ∧ Answered u tag 0 [] t ∧ { u with mem := s.mem, cores := s.cores } = s ∧
        (∀ c ∈ u.cores, c.2.plb = [] ∧ c.2.clr = [] ∧ ∀ w ∈ c.2.l1.sets, ∀ l ∈ w.2, l = none) ∧
        (let old (x : Nat) : BitVec 128 := BitVec.ofNat 128 (numAt s.mem x 16);
          ptes.Pairwise (fun x y => x.1 + 16 ≤ y.1 ∨ y.1 + 16 ≤ x.1) → (∀ w ∈ ptes, ∀ x ∈ writes, x.1 + 8 ≤ w.1 ∨ w.1 + 16 ≤ x.1) →
          ((∀ w ∈ ptes, pteKey w.2 = 0 ∧ pteKey (old w.1) = 0) →
            (∀ x, (∀ w ∈ writes, x < w.1 ∨ w.1 + 8 ≤ x) → (∀ w ∈ ptes, x < w.1 ∨ w.1 + 16 ≤ x) → u.mem.get x = s.mem.get x) ∧
            (∀ w ∈ ptes, numAt u.mem w.1 16 = w.2.toNat) ∧
            (writes.Pairwise (fun x y => x.1 + 8 ≤ y.1 ∨ y.1 + 8 ≤ x.1) → ∀ w ∈ writes, numAt u.mem w.1 8 = w.2.toNat)) ∧
          (∀ x e, ptes = [(x, e)] → writes = [] → pteKey (old x) = 0 → Keyed e → pteSize e ≠ 0 → Apart x 16 e → numAt u.mem x 16 = e.toNat ∧ Ciphered s u e xtsDec))) ∧
    (∀ size (status : BitVec 2) cc (new : BitVec 128) (content : List Byte), let hit (x : Nat) : Bool := decide (va ≤ x) && decide (x < va + size)
      let e := if new = 0 then pte ||| 1 else new
      s.walk va = .leaf pte a → size = pageBytes (pteSize pte) → va % size = 0 → pteP pte = false →
      (status = 0 → content.length ≤ size ∧ (new = 0 ∨ s.pteOk new = true ∧ pteP new = true ∧ pteSize new = pteSize pte) ∧ pteKey e = 0 ∧ (pteLoc e = 0 → Apart a 16 e)) → status ≠ 3 → cc ≠ 2 ^ 64 → (∃ q ∈ s.faultReqs, hit q.1 ∧ q.2 = cc) →
      ((s.ops.all (fun o => !o.pwait)) = true ∨ status = 0) →
      ∃ t o, exec (.pageResidentNotice va size ⟨status, new, content⟩ cc) s = .next t ∧ t.faultReqs = s.faultReqs.filter (fun q => !(hit q.1 && q.2 == cc)) ∧
        numAt t.mem a 16 = (if status = 0 then asFilled s e.toNat else pte.toNat) ∧
        (status = 0 → ∀ i < content.length, placeByte t (pteLoc e) (pteBase e) i = content.getD i 0) ∧
        (∀ x, (x < a ∨ a + 16 ≤ x) → (status ≠ 0 ∨ pteLoc e ≠ 0 ∨ x < pteBase e ∨ pteBase e + content.length ≤ x) → t.mem.get x = s.mem.get x) ∧
        (∀ x, (status ≠ 0 ∨ pteLoc e = 0 ∨ x < extAddr (pteLoc e) (pteBase e) ∨ extAddr (pteLoc e) (pteBase e) + content.length ≤ x) → t.hostMem.get x = s.hostMem.get x) ∧
        t.ops.getLast? = some o ∧ o.cc = cc ∧ o.kind = .message cc (BitVec.ofNat 512 (va + size * 2 ^ 64 + status.toNat * 2 ^ 128)) 0 ∧ s.cycle < o.due ∧
        (∀ x ∈ s.ops, x.pwait = true → x.cc = cc → (∃ y, x.place = .glob y ∧ hit y) → ∃ y ∈ t.ops, y.id = x.id ∧ y.pwait = false ∧ s.cycle < y.due) ∧
        ∀ k, (t.thread k).regs = (s.thread k).regs ∧ (t.thread k).pc = (s.thread k).pc) ∧
    (s.walk va = .leaf pte a → Choosable pte → (∀ p ∈ s.leaves, Choosable p.2 → NoBetter s va pte p) →
      ∃ t u, exec (.migrationStart va) s = .next t ∧ Reported u .migration (bytesOf 8 va) t ∧ { u with mem := s.mem, heldWrites := s.heldWrites } = s ∧ BytesBut s u a 16 ∧
        numAt u.mem a 16 = pte.toNat + 256 ∧ u.heldWrites.map (fun w => (w.data, w.what, w.at_)) = s.heldWrites.map (fun w => (w.data, w.what, w.at_)) ∧
        ((∀ w ∈ s.heldWrites, w.free = false) → u.heldWrites = s.heldWrites)) ∧
    (∀ e : BitVec 128, let n := pageBytes (pteSize pte)
      s.walk va = .leaf pte a → pteMig pte = true → pteP pte = true → s.pteOk e = true → pteSize e = pteSize pte → (pteLoc e = 0 → pteP e = true ∧ Apart a 16 e) →
      (Keyed pte → pteLoc e = 0 → pteBase pte + n ≤ pteBase e ∨ pteBase e + n ≤ pteBase pte) → (Keyed pte → Apart a 16 pte) →
      NothingCached s → (∀ o ∈ s.ops, o.kind.isWrite = false) → s.farWait = [] →
      (s.heldWrites = [] ∨ (∃ w, s.heldWrites = [w] ∧ w.what = .write ∧ w.free = false ∧ va / n * n ≤ w.va ∧ w.va + w.data.length ≤ va / n * n + n ∧
          w.data.length ≤ 65536) ∧ (∀ e ∈ s.threads, e.2.resv = none) ∧ s.servedAt ≠ s.cycle ∧
        (pteLoc e = 0 → TablesApart s va (pteBase e) n) ∧ ¬ Keyed pte) →
      ∃ t, exec (.migrationSwitch va e) s = .next t ∧ t.heldWrites = [] ∧
        (let entry := if pteLoc e = 0 then asFilled s e.toNat else withPdue e.toNat (ptePdue pte).toNat;
          (s.heldWrites = [] → numAt t.mem a 16 = entry) ∧ BitVec.ofNat 128 (numAt t.mem a 16) ||| 0x60 = BitVec.ofNat 128 entry ||| 0x60) ∧
        ∀ i < n, placeByte t (pteLoc e) (pteBase e) i = (match s.heldWrites with
          | [] => placeByte s (pteLoc pte) (pteBase pte) i
          | w :: _ => if w.va ≤ va / n * n + i ∧ va / n * n + i < w.va + w.data.length then w.data.getD (va / n * n + i - w.va) 0 else placeByte s (pteLoc pte) (pteBase pte) i))

namespace Sys2Proof.Claims

/-! ## The host and other devices at the device's memory (R252, R281, R290, R297, R325, R326, R416) -/

/-- Every byte of [a, a + n) is host-visible; none is. -/
def AllVisible (s : State) (a n : Nat) : Prop := ∀ i < n, s.hostVisible (a + i) = true
def NoneVisible (s : State) (a n : Nat) : Prop := ∀ i < n, s.hostVisible (a + i) = false
/-- Read data sent to the host. -/
def sent (s : State) (bs : List Byte) : State := { s with out := s.out ++ [.readData bs] }
/-- The offset of a window register: context, queue, register. -/
def queueReg (ctx q j : Nat) : Nat := 2 ^ 52 + ctx * 2 ^ 15 + q * 2 ^ 12 + 8 * j
/-- The launch queue's three words (R325). -/
def queueWords (u : LQueue) (j : Nat) : Nat := if j = 8 then (u.st + u.recs.length * 2 ^ 8) % 2 ^ 64 else if j = 9 then u.accepted.toNat else u.done.toNat

/-- Bytes of a far request, and the need it is judged by. -/
def farSize : FarOp → Nat
  | .read n _ => n
  | .write bs => bs.length
  | .part n _ _ => n
  | .amo _ z _ _ => aSize z
  | .cas z _ _ => aSize z
  | .lr z _ => aSize z
  | .sc z _ _ => aSize z
  | _ => 64
def farLets (r : Rights) : FarOp → Bool
  | .read _ g => if g then r.g else r.r
  | .lr _ _ => r.r
  | .xrd _ => r.r
  | .amo _ _ _ _ => r.r && r.w
  | .cas _ _ _ => r.r && r.w
  | .sc _ _ _ => r.r && r.w
  | _ => r.w
def farStores : FarOp → Bool
  | .read _ _ => false
  | .lr _ _ => false
  | .xrd _ => false
  | _ => true
/-- What a far request leaves of the number it finds, and its reply (R402): the words of R143 to R154. -/
def farResult (op : FarOp) (hit : Bool) (old : Nat) : Option (Option Nat × Nat) :=
  let o : Op := { id := 0, thr := 0, cc := 0, kind := .store, n := farSize op }
  let as (o : Op) : Option (Option Nat × Nat) := (opResult o hit old).map (fun r => (r.1, r.2.1.toNat ||| r.2.2.toNat * 2 ^ 32))
  match op with
  | .read _ _ => some (none, old)
  | .write bs => some (some (leOf bs), 0)
  | .part n m v => if n ≤ 64 ∧ m < 2 ^ (8 * n) then some (some (old - (old &&& m) + (v &&& m)), 0) else none
  | .amo k z b m => as { o with kind := .amo k z, data := b, mul := m }
  | .cas z e n => as { o with kind := .cas z, data := n, data2 := e }
  | .lr z _ => as { o with kind := .lr (aSign z) }
  | .sc _ d _ => as { o with kind := .sc, data := d }
  | .xacc x m => as { o with kind := .xacc, data := x.zeroExtend 64, mul := m }
  | .xrd rm => as { o with kind := .xrd rm }
  | .xclr => as { o with kind := .xclr }
/-- Reservations of far requests after one at a granule (R149). -/
def farHeld (s : State) (r : FarReq) (key : Nat) : List (Nat × Nat × Nat) :=
  let others (thr : Nat) := s.farResv.filter (fun x => !(x.1 == r.src.toNat && x.2.1 == thr))
  match r.op with
  | .lr _ thr => others thr ++ [(r.src.toNat, thr, key)]
  | .sc _ _ thr => others thr
  | _ => s.farResv
/-- No present page of local memory reaches into [pa, pa + n). -/
def Unmapped (s : State) (pa n : Nat) : Prop :=
  ∀ p ∈ s.leaves, pteP p.2 = true → pteLoc p.2 = 0 → pa + n ≤ ptePa p.2 ∨ ptePa p.2 + pageBytes (pteSize p.2) ≤ pa
/-- [pa, pa + n) lies in the present local page at va alone, whose leaf and tables stand elsewhere. -/
structure Mapped (s : State) (pa n va : Nat) (pte : BitVec 128) (at_ : Nat) : Prop where
  leaf : s.walk va = .leaf pte at_
  here : (va, pte) ∈ s.leaves ∧ pteP pte = true ∧ pteLoc pte = 0 ∧ pteMig pte = false
  inside : ptePa pte ≤ pa ∧ pa + n ≤ ptePa pte + pageBytes (pteSize pte)
  alone : ∀ p ∈ s.leaves, pteP p.2 = true → pteLoc p.2 = 0 → ptePa p.2 < pa + n → pa < ptePa p.2 + pageBytes (pteSize p.2) → p = (va, pte)
  tables : TablesApart s va pa n
/-- The clearance word by which a home judges a tag, if one does, can be read (R141, R287). -/
def HomeClrSound (s : State) (home : Nat) (prin : BitVec 32) (tag : BitVec 16) : Prop :=
  tag = 0 ∨ (s.ctx home).clrcnt ≤ prin.toNat ∨ ∀ x, s.readVa (clrAddr (s.ctx home) prin.toNat tag.toNat) 8 ≠ .dataError x
/-- t with s's records of cached lines, of walks and of lines served. -/
def cachedAs (s t : State) : State := { t with slices := s.slices, glades := s.glades, walks := s.walks, served := s.served, servedAt := s.servedAt }
def farOwn (s : State) (r : FarReq) (key : Nat) : Bool := match r.op with | .sc _ _ thr => s.farResv.contains (r.src.toNat, thr, key) | _ => false

end Sys2Proof.Claims

/-- R252, R295, R297, R325, R410, R416: a host write stores its visible bytes and no others, and waits at a page that is migrating; a read and a launch
record wait behind it; where a home of its lines serves another request in this cycle, or a thread keeps one for its SC, an access waits for its turn (R150, R279); what is not host-visible is dropped and reported, as is
a write to a queue window; a host read gives the visible bytes, and 0 elsewhere with a report; the windows and the mailbox region read their
words; returned entries make room for a held message; without power nothing happens; and firmware sets an exported window. The BARs' places are
the model's (log 32), and so are the bodies of the reports of host accesses, the address and then 0 or 1 (log 13). -/
def Obligations.HostAccess : Prop :=
  ∀ (s : State) (pa : Nat) (data : List Byte) (n : Nat),
    (s.power = .off → exec (.hostWrite pa data) s = .next s ∧ exec (.hostRead pa n) s = .next s ∧ exec (.launchRecordWrite pa data) s = .next s ∧ exec (.eventReturn n) s = .next s) ∧
    (s.power ≠ .off →
      (pa % 65536 + data.length ≤ 65536 → pa + data.length ≤ 2 ^ 52 → 0 < data.length → AllVisible s pa data.length → NothingCached s → s.heldWrites = [] →
        (Unmapped s pa data.length →
          ∃ t, exec (.hostWrite pa data) s = .next t ∧ (∀ x, t.mem.get x = if pa ≤ x ∧ x < pa + data.length then data.getD (x - pa) 0 else s.mem.get x) ∧
            (∀ k, t.thread k = { s.thread k with resv := (t.thread k).resv }) ∧ { t with mem := s.mem, threads := s.threads, farResv := s.farResv } = up s) ∧
        (∀ va pte at_, Mapped s pa data.length va pte at_ → s.placeWaits (.glob (va + (pa - ptePa pte))) data.length true = true →
          exec (.hostWrite pa data) s = .next { up s with heldWrites := [{ va := pa, data := data, free := true, at_ := s.cycle }] }) ∧
        (∀ va pte at_, Mapped s pa data.length va pte at_ → s.placeWaits (.glob (va + (pa - ptePa pte))) data.length true = false →
          ∃ t, exec (.hostWrite pa data) s = .next t ∧ (∀ x, x ≠ at_ → t.mem.get x = if pa ≤ x ∧ x < pa + data.length then data.getD (x - pa) 0 else s.mem.get x) ∧
            t.mem.get at_ ||| 0x60 = s.mem.get at_ ||| 0x60 ∧
            (∀ k, t.thread k = { s.thread k with resv := (t.thread k).resv }) ∧ cachedAs s { t with mem := s.mem, threads := s.threads, farResv := s.farResv } = up s)) ∧
      (∀ va pte at_, pa + data.length ≤ 2 ^ 52 → 0 < data.length → pa % 65536 + data.length ≤ 65536 → AllVisible s pa data.length → s.heldWrites = [] →
        s.walk va = .leaf pte at_ → (va, pte) ∈ s.leaves → pteP pte = true → pteLoc pte = 0 → pteMig pte = true → ptePa pte ≤ pa → pa < ptePa pte + pageBytes (pteSize pte) →
        (∀ p ∈ s.leaves, pteP p.2 = true → pteLoc p.2 = 0 → ptePa p.2 ≤ pa → pa < ptePa p.2 + pageBytes (pteSize p.2) → p = (va, pte)) →
        exec (.hostWrite pa data) s = .next { up s with heldWrites := [{ va := va + (pa - ptePa pte), data := data, at_ := s.cycle }] }) ∧
      (pa + data.length ≤ 2 ^ 52 → 0 < data.length → NoneVisible s pa data.length → ∃ t, exec (.hostWrite pa data) s = .next t ∧ Reported (up s) .hostAccess (bytesOf 8 pa ++ bytesOf 8 1) t) ∧
      (2 ^ 52 ≤ pa → pa ≠ 2 ^ 53 + 0x48 → ∃ t, exec (.hostWrite pa data) s = .next t ∧ Reported (up s) .hostAccess (bytesOf 8 pa ++ bytesOf 8 1) t) ∧
      (data.length = 8 → exec (.hostWrite (2 ^ 53 + 0x48) data) s = exec (.eventReturn (leOf data)) s) ∧
      (pa < 2 ^ 52 → AllVisible s pa n → NothingCached s → s.heldWrites = [] →
        let bytes := (List.range n).map (fun i => s.mem.get (pa + i))
        (Unmapped s pa n → exec (.hostRead pa n) s = .next (sent (up s) bytes)) ∧
        (∀ va pte at_, 0 < n → pa % 65536 + n ≤ 65536 → Mapped s pa n va pte at_ → s.placeWaits (.glob (va + (pa - ptePa pte))) n false = true →
          exec (.hostRead pa n) s = .next { up s with heldWrites := [{ va := pa, data := [], free := true, what := .read n, at_ := s.cycle }] }) ∧
        (∀ va pte at_, pa % 65536 + n ≤ 65536 → Mapped s pa n va pte at_ → s.placeWaits (.glob (va + (pa - ptePa pte))) n false = false → ∃ t, exec (.hostRead pa n) s = .next t ∧ t.out = s.out ++ [.readData bytes] ∧ BytesBut s t at_ 1 ∧
          cachedAs s { t with mem := s.mem, out := s.out } = up s)) ∧
      (s.heldWrites ≠ [] → exec (.hostRead pa n) s = .next { up s with heldWrites := s.heldWrites ++ [{ va := pa, data := [], free := true, what := .read n, at_ := s.cycle }] }) ∧
      (pa < 2 ^ 52 → 0 < n → s.heldWrites = [] → NoneVisible s pa n → NothingCached s → ∃ t u, exec (.hostRead pa n) s = .next t ∧ Reported (up s) .hostAccess (bytesOf 8 pa ++ bytesOf 8 0) u ∧
        t = sent u (List.replicate n 0)) ∧
      (∀ ctx q j, s.heldWrites = [] → ctx < 1024 → q < 8 → 8 ≤ j → j ≤ 10 → exec (.hostRead (queueReg ctx q j) 8) s = .next (sent (up s) (bytesOf 8 (queueWords (s.lqueue ctx q) j)))) ∧
      (s.heldWrites = [] → exec (.hostRead (2 ^ 53 + 0x40) 8) s = .next (sent (up s) (bytesOf 8 (s.writeIdx % 2 ^ 64))) ∧
        exec (.hostRead (2 ^ 53 + 0x48) 8) s = .next (sent (up s) (bytesOf 8 (s.returned % 2 ^ 64)))) ∧
      (let u : State := { up s with returned := max s.returned (min n s.writeIdx) };
        (s.heldEvents = [] → exec (.eventReturn n) s = .next u) ∧
        (∀ m, s.heldEvents = [m] → ¬ Full u → ∃ t, exec (.eventReturn n) s = .next t ∧ Posted { u with heldEvents := [] } m t))) ∧
    (∀ ten base size home, ten < 64 → size ≤ 2 ^ 44 → base + size ≤ 2 ^ 56 → home < 1024 →
      exec (.exportedWindowSet ten base size home) s = .next { s with windows := s.windows.put ten (base, size), homes := s.homes.put ten home })

/-- R325, R326, R329, R330: a launch record of 64 bytes at its queue's window joins an open queue and completes successfully, the 64th filling it; one that
comes after another of the same cycle waits; a full
queue answers with retry status; a queue that is neither also reports the write; and any other write to the windows is reported and unsupported. -/
def Sys2Proof.Claims.LaunchRecords : Prop :=
  ∀ (s : State) (off : Nat) (data : List Byte), s.power ≠ .off →
    let ctx := off / 2 ^ 15
    let q := off / 2 ^ 12 % 8
    let u := s.lqueue ctx q
    let recs := u.recs ++ [{ record := BitVec.ofNat 512 (leOf data), accepted := (u.accepted + 1).toNat }]
    let answer (t : State) (r : Nat) : State := { t with out := t.out ++ [.dmwr r] }
    (s.heldWrites ≠ [] → exec (.launchRecordWrite off data) s = .next
      { up s with heldWrites := s.heldWrites ++ [{ va := off, data := data, free := true, what := .launch, at_ := s.cycle }] }) ∧
    (s.heldWrites = [] → data.length = 64 → off % 2 ^ 12 = 0 → off < 2 ^ 25 →
      (u.st = 1 → u.acceptAt = s.cycle + 1 → exec (.launchRecordWrite off data) s = .next
        { up s with heldWrites := [{ va := off, data := data, free := true, what := .launch, at_ := s.cycle }] }) ∧
      (u.st = 1 → u.acceptAt ≠ s.cycle + 1 → exec (.launchRecordWrite off data) s = .next (answer ((up s).setLqueue ctx q
        { u with recs := recs, accepted := u.accepted + 1, acceptAt := s.cycle + 1, st := (if recs.length = 64 then 2 else 1), headAt := (if u.recs = [] then s.tick else u.headAt) }) 0)) ∧
      (u.st = 2 → exec (.launchRecordWrite off data) s = .next (answer (up s) 1)) ∧
      (u.st ≠ 1 → u.st ≠ 2 → ∃ v, exec (.launchRecordWrite off data) s = .next (answer v 1) ∧ Reported (up s) .hostAccess (bytesOf 8 (2 ^ 52 + off) ++ bytesOf 8 3) v)) ∧
    (s.heldWrites = [] → (data.length ≠ 64 ∨ off % 2 ^ 12 ≠ 0 ∨ 2 ^ 25 ≤ off) → ∃ v, exec (.launchRecordWrite off data) s = .next (answer v 2) ∧
      Reported (up s) .hostAccess (bytesOf 8 (2 ^ 52 + off) ++ bytesOf 8 2) v)

/-- R149, R281, R287, R290, R402: a far request inside the tenant's exported window, with its right and its tag, performs on a present local page and
is answered with its value; one outside the window, without the right or without the tag is answered as denied and performs nothing, and without a denial log it changes nothing;
one behind another of its device for the same line waits (R253), and so does one whose page migrates (R295) or whose line is not free (R150, R279). No link is up here, so the
answer is the event alone. -/
def Obligations.FarRequestsAreServed : Prop :=
  ∀ (s : State) (r : FarReq) (base size : Nat), s.power ≠ .off → s.upLinks = [] → s.windows.get (0, 0) r.tenant.toNat = (base, size) →
    let home := s.homes.get 0 r.tenant.toNat
    let la := base + r.offset
    let n := farSize r.op
    let denied (tag : BitVec 16) := exec (.farRequest r) s = .next { up s with out := s.out ++ [.farReply { req := r, reply := { value := 0, denied := true, tag := tag } }] }
    let answered (tag : BitVec 16) := ∃ t, exec (.farRequest r) s = .next t ∧ t.out.getLast? = some (.farReply { req := r, reply := { value := 0, denied := true, tag := tag } })
    let waits := exec (.farRequest r) s = .next { up s with farWait := s.farWait ++ [{ req := r, at_ := s.cycle }] }
    ((∃ x ∈ s.farWait, Machine.farBehind r x.req) → waits) ∧
    ((∀ x ∈ s.farWait, ¬ Machine.farBehind r x.req) →
    (size < r.offset + n → answered 0 ∧ ((s.ctx home).logctl = 0 → denied 0)) ∧
    (r.offset + n ≤ size → inAperture la = false → la % 65536 + max n 1 ≤ 65536 →
      (farLets (s.protRights home la) r.op = false ∨ s.allowed home r.prin (s.tagOf la) = false → NothingCached s → answered (s.tagOf la) ∧
        ((s.ctx home).logctl = 0 → HomeClrSound s home r.prin (s.tagOf la) → denied (s.tagOf la))) ∧
      (∀ pte at_, farLets (s.protRights home la) r.op = true → NothingCached s → s.walk la = .leaf pte at_ → pteP pte = true → HomeClrSound s home r.prin (pteTag pte) →
        s.allowed home r.prin (pteTag pte) = true → (farStores r.op ∧ pteMig pte = true) ∨ s.placeWaits (.glob la) n (farStores r.op) = true → waits) ∧
      (∀ pte at_ new v,
        let pa := ptePa pte + la % pageBytes (pteSize pte)
        let key := globKey 0 pa
        0 < n → farLets (s.protRights home la) r.op = true → NothingCached s → s.walk la = .leaf pte at_ → pteP pte = true → pteLoc pte = 0 → (farStores r.op → pteMig pte = false) →
        s.placeWaits (.glob la) n (farStores r.op) = false → HomeClrSound s home r.prin (pteTag pte) →
        s.allowed home r.prin (pteTag pte) = true → TablesApart s la pa n → farResult r.op (farOwn s r key) (numAt s.mem pa n) = some (new, v) →
        let lost := (lines pa n).map (fun l => globKey 0 (l * 128))
        ∃ t, exec (.farRequest r) s = .next t ∧ t.out = s.out ++ [.farReply { req := r, reply := { value := BitVec.ofNat 512 v, denied := false } }] ∧
          (∀ x, x ≠ at_ → t.mem.get x = match new with
            | some z => if pa ≤ x ∧ x < pa + n then byteAt z (x - pa) else s.mem.get x
            | none => s.mem.get x) ∧
          t.farResv = (if new.isSome then (farHeld s r key).filter (fun x => !lost.contains x.2.2) else farHeld s r key) ∧
          (∀ k, t.thread k = { s.thread k with resv := if new.isSome ∧ (lost.any (fun x => (s.thread k).resv == some x)) then none else (s.thread k).resv }) ∧
          cachedAs s { t with mem := s.mem, threads := s.threads, farResv := s.farResv, out := s.out } = up s)))

namespace Sys2Proof.Claims

/-! ## Kernels from admission to retirement, and contexts interrupted (R303, R313 to R349, R404, R405) -/

/-- n bits of a launch record from bit lo (R327). -/
def recBits (r : BitVec 512) (lo n : Nat) : Nat := r.toNat / 2 ^ lo % 2 ^ n
/-- A legal shape (R13). -/
def shapeLegal (r c : Nat) : Prop :=
  (r = 1 ∨ r % 2 = 0 ∧ 2 ≤ r ∧ r ≤ 32) ∧ (c = 1 ∨ c = 2 ∨ c % 4 = 0 ∧ 4 ≤ c ∧ c ≤ 32) ∧ (r ≤ 2 ∧ c ≤ 4 ∨ r % 2 = 0 ∧ c % 4 = 0)
/-- The first check of R336 that a record without footprint fails, or 0. -/
def admitsAs (r : BitVec 512) (runtime : Bool) (code : Nat) : Prop :=
  let f := recBits r
  let bad : Nat → Prop
    | 1 => f 0 8 ≠ 1
    | 2 => ¬(f 12 4 = 0 ∧ f 21 3 = 0 ∧ f 30 2 = 0 ∧ f 145 47 = 0)
    | 3 => ¬ shapeLegal (f 128 8) (f 136 8)
    | 4 => f 32 32 = 0
    | 5 => f 64 64 % 16 ≠ 0 ∨ 2 ^ 56 ≤ f 64 64
    | 6 => f 11 1 = 1 ∧ f 10 1 = 0
    | 7 => f 16 5 = 31 ∧ runtime = false
    | _ => False
  code ≤ 7 ∧ (∀ n, n < code ∨ code = 0 → ¬ bad n) ∧ (code ≠ 0 → bad code)
/-- A context record with another STATE (R302, R303). -/
def inState (c : Ctx) (v : Nat) : Ctx := { c with record := BitVec.ofNat 1024 (c.record.toNat / 16 * 16 + v) }
/-- MSI-X vector i of a context. -/
def signalled (s : State) (ctx i : Nat) : State := { s with out := s.out ++ [.msix ((s.ctx ctx).msixBase + i)] }

/-- A kernel's threads have started (R303, R335, R339): initial thread i on logical core ⌊i/16⌋ mod %ncore, slot i mod 16, its first bundle at ENTRY
with ARG in x1, one turn later (R417); those without a slot wait; the kernel and its context run. -/
structure Started (s t : State) (kid : Nat) : Prop where
  kernel : t.kernel kid = { s.kernel kid with st := .running, startedAt := s.tick, gangHeld := false }
  kernels : ∀ j, j ≠ kid → t.kernel j = s.kernel j
  context : t.ctx (s.kernel kid).ctx = inState (s.ctx (s.kernel kid).ctx) 3
  contexts : ∀ c, c ≠ (s.kernel kid).ctx → t.ctx c = s.ctx c
  threads : ∀ i < recBits (s.kernel kid).record 32 32, t.thread (threadKey kid i) =
    { kid := kid, ctx := (s.kernel kid).ctx, tid := BitVec.ofNat 32 i, core := i / 16 % max (s.kernel kid).ncore 1, slot := i % 16
      life := (if i < 16 * (s.kernel kid).ncore then .resident else .waiting), next := s.cycle + 16
      pc := wrap (recBits (s.kernel kid).record 64 64 : Int), npc := wrap (recBits (s.kernel kid).record 64 64 : Int)
      regs := { Regs.zero with x := Regs.zero.x.set 1 (wrap (recBits (s.kernel kid).record 256 64 : Int)) }
      rper := (s.coreCtx (ccKey kid (i / 16 % max (s.kernel kid).ncore 1))).rper, rkey := mix64 (wrap (i : Int))
      modeReg := BitVec.ofNat 5 (recBits (s.kernel kid).record 9 1 * 8 + recBits (s.kernel kid).record 8 1 * 16)
      upvec := (if (s.kernel kid).runtime ∧ recBits (s.kernel kid).record 256 64 % 16 = 0 then wrap (recBits (s.kernel kid).record 256 64 : Int) else 0) }
  others : ∀ j, (∀ i < recBits (s.kernel kid).record 32 32, j ≠ threadKey kid i) → t.thread j = s.thread j
  cores : ∀ c, t.coreCtx c = s.coreCtx c
  rest : { t with kernels := s.kernels, ctxs := s.ctxs, threads := s.threads, ccs := s.ccs } = s

/-- The words of a gang report (R405, R406). -/
def gangBody (k : Kernel) (start late : Nat) (held unsync : Bool) : List Byte :=
  bytesOf 8 k.gtick.toNat ++ bytesOf 8 start ++ bytesOf 8 late ++
    bytesOf 8 (k.ctx % 2 ^ 10 + k.q % 8 * 2 ^ 10 + (if held then 2 ^ 13 else 0) + (if unsync then 2 ^ 14 else 0))
/-- Nothing of a context is on its way and nothing is held that stopping would change. -/
def AtRest (s : State) : Prop :=
  s.ops = [] ∧ s.units = [] ∧ (∀ e ∈ s.kernels, e.2.meets = []) ∧ ∀ e ∈ s.ccs, e.2.task = none
/-- Where the descriptor of a kernel lies (R318). -/
def descAt (s : State) (k : Kernel) : Nat := (s.ctx k.ctx).savebase + 64 + 64 * k.saveSlot
/-- Records written to a save area by the device, one after another. -/
def written (v : State) (rs : List (Nat × List Byte)) : State := rs.foldl (fun x r => x.poke r.1 r.2) v
/-- Among rs are the record of every resident thread of a kernel whose core passes f, and every such core's context record (R318, R320). -/
def Recorded (v : State) (kid : Nat) (f : Nat → Bool) (rs : List (Nat × List Byte)) : Prop :=
  (∀ e ∈ v.threads, v.thread e.1 = e.2 → e.2.kid = kid → e.2.life = .resident → f e.2.core = true → v.threadRecord e.1 ∈ rs) ∧
    ∀ c < (v.kernel kid).ncore, f c = true → ((v.kernel kid).area kid 0 + c * 0xC_8000, v.ccImage (ccKey kid c)) ∈ rs
/-- Memory holds n bytes of a record as the device wrote them, or cannot be read there. -/
def AsSaved (s : State) (k : Kernel) (va n : Nat) : Prop := (s.savedBytes va n).1 = none ∨ (s.savedBytes va n).1 = some (k.saved.get [] va)
/-- The core-context records and the tables of a pre-empted kernel are as the device wrote them. -/
def TablesAsSaved (s : State) (kid : Nat) (k : Kernel) : Prop :=
  (∀ c < k.ncore, let a := k.area kid 0 + c * 0xC_8000
    AsSaved s k a 0x8000 ∧ AsSaved s k (a + 0x8000) 0x4_0000 ∧ ((s.coreCtx (ccKey kid c)).spilled = false → AsSaved s k (a + 0x4_8000) 0x8_0000)) ∧
    AsSaved s k (k.area kid 2) 0x8_0000 ∧ AsSaved s k (k.area kid 2 + 0x8_0000) (32 * (256 * k.lclusters))
/-- The registers of every thread are as they were. -/
def SameRegs (s t : State) : Prop := ∀ j, (t.thread j).regs = (s.thread j).regs ∧ (t.thread j).pc = (s.thread j).pc ∧ (t.thread j).mode = (s.thread j).mode
/-- What the mailbox and the outputs of t hold are those of w. -/
def SameMail (w t : State) : Prop := t.heldEvents = w.heldEvents ∧ t.hostMem = w.hostMem ∧ t.writeIdx = w.writeIdx ∧ t.returned = w.returned

end Sys2Proof.Claims

/-- R329, R336, R337: the head record that the dispatcher chose, without a footprint, becomes an admitted kernel of its own number where every check passes;
else it leaves its queue faulted, counted where CADV asks for it, with a report of the first failing check and MSI-X vector 0. -/
def Sys2Proof.Claims.KernelsAreAdmitted : Prop :=
  ∀ (s : State) (ctx q code : Nat) (l : Launch) (rest : List Launch), s.schedule = some (.accept ctx q) → (s.lqueue ctx q).recs = l :: rest →
    recBits l.record 192 64 = 0 → admitsAs l.record (s.lqueue ctx q).runtime code →
    let u := s.lqueue ctx q
    let popped : LQueue := { u with recs := rest, st := (if u.st = 2 then 1 else u.st), headAt := s.tick }
    (code = 0 → ∃ kid, (∀ e ∈ s.kernels, e.1 < kid) ∧ exec (.kernelAdmission ctx q) s = .next ((s.setLqueue ctx q popped).setKernel kid
      { st := .admitted, ctx := ctx, q := q, record := l.record, accepted := l.accepted, prio := recBits l.record 16 5, headAt := u.headAt, runtime := u.runtime })) ∧
    (code ≠ 0 → ∃ v t, exec (.kernelAdmission ctx q) s = .next t ∧ v.lqueue ctx q = { popped with done := u.done + (if l.record.getLsbD 25 then 1 else 0) } ∧
      { v with ctxs := s.ctxs } = s ∧ ∃ w, Reported v .admission (bytesOf 2 ctx ++ bytesOf 1 q ++ bytesOf 1 code ++ bytesOf 4 0 ++ bytesOf 8 l.accepted) w ∧ t = signalled w ctx 0)

/-- R36, R338, R340, R341: a granted kernel takes the lowest free clusters at its effective priority and is staging, with empty core-contexts but for the
`.lm` image and its full words in each LM and its footprint's windows, and its descriptor is written; staged, without a gang, its threads start. -/
def Sys2Proof.Claims.KernelsAreStaged : Prop :=
  ∀ (s : State) (kid : Nat),
    let k := s.kernel kid
    (∀ b p g, s.schedule = some (.grant kid) → s.pick = some (b, p, g) →
      ∃ t : State, exec (.clusterGrant kid) s = .next (t.poke (descAt t (t.kernel kid)) (t.descriptor kid true)) ∧ s.cycle < (t.kernel kid).stagingDue ∧
        let cs := s.freeClusters.take (min k.lclusters s.usable.length)
        t.kernel kid = { k with st := .staging, prio := b.prio, clusters := cs, stagingDue := (t.kernel kid).stagingDue
                                nthread := recBits k.record 32 32, saveSlot := (t.kernel kid).saveSlot } ∧
        (∀ c ∈ cs, t.cluster c = { s.cluster c with holder := some kid, freeSince := s.tick }) ∧ (∀ c, c ∉ cs → t.cluster c = s.cluster c) ∧
        t.rrPtr = p ∧ t.rrGranted = g + recBits k.record 32 32 ∧
        (∀ c < k.ncore, t.coreCtx (ccKey kid c) =
            { wins := (t.coreCtx (ccKey kid c)).wins, winStart := s.tick, lm := (s.ctx k.ctx).lmImage, full := (s.ctx k.ctx).lmFull } ∧
          ∀ i, ∀ h : i < k.foot.length, let w : Win := { mapped := true, stash := true, staged := false, gran := BitVec.ofNat 7 k.foot[i].2
                                                         lmg := BitVec.ofNat 6 (64 - ((k.foot.take (i + 1)).map (·.2)).sum), bound := k.foot[i].1, lines := [] }
            (isFar k.foot[i].1 = false → (t.coreCtx (ccKey kid c)).wins.get {} i = w) ∧
            (∀ la home, s.checkRange { ctx := k.ctx } k.foot[i].1 (w.gran.toNat * 4096) = .ok (some (la, home, true)) →
              (t.coreCtx (ccKey kid c)).wins.get {} i = { w with bound := la, name := k.foot[i].1 })) ∧
        (∀ e, e ∈ t.ecc ↔ e ∈ s.ecc ∧ ∀ c < k.ncore, ¬(lmPa (ccKey kid c) 0 ≤ e.1 * 8 ∧ e.1 * 8 + 8 ≤ lmPa (ccKey kid c) 0 + 0x4_0000)) ∧
        { t with kernels := s.kernels, clusters := s.clusters, ccs := s.ccs, ecc := s.ecc, rrPtr := s.rrPtr, rrGranted := s.rrGranted, drawn := s.drawn } = s) ∧
    (k.st = .staging → k.staged = false → k.stagingDue ≤ s.cycle → s.engRuns k.ctx = true → (∀ c ∈ k.clusters, (s.cluster c).asleep = false) → k.foot = [] →
      let u := s.setKernel kid { k with staged := true }
      (k.gang = true → exec (.stagingComplete kid) s = .next u) ∧
      (k.gang = false → (∀ c < k.ncore, NothingHeld s (ccKey kid c)) → ∃ t, exec (.stagingComplete kid) s = .next t ∧ Started u t kid))

/-- R404 to R406: in the first cycle that reaches GTICK a locked device starts its gang kernel; a late or unsynchronised one starts too, with a report and
MSI-X vector 0, or with STRICT is held and reported, and starts at a gang release; a release of any other kernel is refused. -/
def Sys2Proof.Claims.GangsStart : Prop :=
  ∀ (s : State) (kid : Nat), (∀ c < (s.kernel kid).ncore, NothingHeld s (ccKey kid c)) →
    let k := s.kernel kid
    let unsync := !s.lockedAt k.gtick.toNat
    let late := s.tick - k.gtick.toNat
    (k.st = .staging → k.staged = true → k.gang = true → k.gangHeld = false → k.gtick.toNat ≤ s.tick → s.engRuns k.ctx = true →
      (unsync = false → s.lastTime.toNat < k.gtick.toNat → ∃ t, exec (.gangStart kid) s = .next t ∧ Started s t kid) ∧
      ((unsync = true ∨ k.gtick.toNat ≤ s.lastTime.toNat) →
        (k.strict = false → ∃ t v w, exec (.gangStart kid) s = .next t ∧ Started s v kid ∧ Reported v .gangReport (gangBody k s.tick late false unsync) w ∧ t = signalled w k.ctx 0) ∧
        (k.strict = true → ∃ t w, exec (.gangStart kid) s = .next t ∧
          Reported (s.setKernel kid { k with gangHeld := true }) .gangReport (gangBody k 0 late true unsync) w ∧ t = signalled w k.ctx 0))) ∧
    (Heard s → ∀ tag,
      (k.st = .staging → k.gangHeld = true → s.engRuns k.ctx = true → ∃ u, Started (up s) u kid ∧ Done s (.gangRelease tag kid) tag u) ∧
      (k.st ≠ .staging ∨ k.gangHeld = false → Refused s (.gangRelease tag kid) tag))

/-- R328, R335, R346: a kernel with nothing outstanding retires: it reports what its queues still held, counts itself with CADV, stores its completion word
where CWR asks and the domain lets it, raises its vector with CMSI, gives up its clusters and what its queues held, and leaves an idle context
resident; where the store's page is absent it has reported and counted, and waits for the page. -/
def Sys2Proof.Claims.KernelsRetire : Prop :=
  ∀ (s : State) (kid : Nat) (k : Kernel) (va pa at_ : Nat) (pte : BitVec 128), s.retirable kid = true → s.kernels = [(kid, k)] → kid < 2 ^ 54 → s.units = [] →
    (∀ c < k.ncore, ∀ n < 8, (s.win (ccKey kid c) n).mapped = false) → va = recBits k.record 384 64 →
    let domain := va % 8 = 0 ∧ va + 8 ≤ 2 ^ 56 ∧ inAperture va = false ∧ (s.protRights k.ctx va).w = true
    let total (f : CoreCtx → Nat) : Nat := ((List.range k.ncore).map (fun c => f (s.coreCtx (ccKey kid c)))).sum
    let body := bytesOf 2 k.ctx ++ bytesOf 1 k.q ++ bytesOf 5 0 ++ bytesOf 8 kid ++ bytesOf 8 (total (fun c => c.tq.length + if c.task.isSome then 1 else 0)) ++
      bytesOf 8 (total (fun c => c.rq.length)) ++ bytesOf 8 (total (fun c => c.dq.length))
    let told (x : State) : Prop := ∃ w, (if k.told = true then w = s else Reported s .completion body w) ∧
      x = (if k.told = false ∧ k.record.getLsbD 25 then w.setLqueue k.ctx k.q { s.lqueue k.ctx k.q with done := (s.lqueue k.ctx k.q).done + 1 } else w).setKernel kid { k with told := true }
    (NothingCached s → (k.record.getLsbD 24 → domain ∧ s.walk va = .leaf pte at_ ∧ pteP pte = true ∧ pteLoc pte = 0 ∧ pa = ptePa pte + va % pageBytes (pteSize pte) ∧ TablesApart s va pa 8) →
      (k.record.getLsbD 26 → recBits k.record 27 3 ≤ (s.ctx k.ctx).nmsix) →
      ∃ t x y z : State, exec (.kernelRetire kid) s = .next t ∧ told x ∧
        cachedAs x { y with mem := x.mem, threads := x.threads, farResv := x.farResv } = x ∧ (∀ j, y.thread j = { s.thread j with resv := (y.thread j).resv }) ∧
        (∀ a, (k.record.getLsbD 24 → a ≠ at_) → y.mem.get a = if k.record.getLsbD 24 ∧ pa ≤ a ∧ a < pa + 8 then byteAt (recBits k.record 448 64) (a - pa) else s.mem.get a) ∧
        z = (if k.record.getLsbD 26 then signalled y k.ctx (recBits k.record 27 3) else y).poke (descAt s k) (s.descriptor kid false) ∧
        { t with kernels := z.kernels, ctxs := z.ctxs, clusters := z.clusters, ccs := z.ccs, ops := z.ops, faultReqs := z.faultReqs } = z ∧
        t.kernels = [(kid, { st := .retired, ctx := k.ctx, q := k.q, record := k.record, accepted := k.accepted })] ∧ (∀ q, t.lqueue k.ctx q = x.lqueue k.ctx q) ∧
        ((s.ctx k.ctx).state = 3 → (t.ctx k.ctx).state = 2) ∧
        (∀ c, c ≠ noCore → c / 1024 = kid → t.coreCtx c = { z.coreCtx c with tq := [], task := none, taskReady := false, rq := [], dq := [], feq := [] }) ∧
        (∀ c, c / 1024 ≠ kid → t.coreCtx c = z.coreCtx c) ∧
        (∀ c ∈ k.clusters, (s.cluster c).holder = some kid → (t.cluster c).holder = none)) ∧
    (k.record.getLsbD 24 → domain → s.locate va = .absent → (s.coreCtx noCore).noPage.contains (va / 65536) = false →
      ∃ (t x : State) (due : Nat), exec (.kernelRetire kid) s = .next t ∧ told x ∧ s.cycle < due ∧ (va / 65536 * 65536, noCore) ∈ t.faultReqs ∧
        { t with faultReqs := s.faultReqs, drawn := s.drawn } = x.setKernel kid { k with told := true, stagingDue := due })

/-- R317, R322, R342, R343: pre-emption first stops a context's issue; at rest its kernels are pre-empted, their clusters free and the context suspended,
its threads, local memories and core-contexts kept, and their records written to its save area; resumption puts a pre-empted kernel back, on its own clusters where
they are free, with the registers a thread had, or those of its record where that was changed; and a time-share switch writes the records of the outgoing logical cluster
and gives its clusters to the next. The places of the areas are the model's (log 54). -/
def Sys2Proof.Claims.ContextsAreSwapped : Prop :=
  ∀ (s : State) (ctx : Nat), AtRest s →
    (s.schedule = some (.preempt ctx) → ∃ t, exec (.preemption ctx) s = .next t ∧ t.ctx ctx = { s.ctx ctx with stop := true } ∧ SameRegs s t ∧ SameBytes s t ∧ t.kernels = s.kernels) ∧
    (s.preempting ctx = true → ∃ t, exec (.preemption ctx) s = .next t ∧ t.ctx ctx = { inState (s.ctx ctx) 4 with stop := false } ∧
      (∃ rs, let v := (s.stopThreads (s.threadsOf ctx)).markTokens ctx;
        { t with kernels := v.kernels, threads := v.threads, ctxs := v.ctxs, clusters := v.clusters } = { written v rs with kernels := v.kernels, threads := v.threads, ctxs := v.ctxs, clusters := v.clusters } ∧
          ∀ e ∈ s.kernels, s.kernel e.1 = e.2 → e.2.ctx = ctx → e.2.st = .running → e.2.clusters ≠ [] → Recorded v e.1 (fun _ => true) rs) ∧
      SameRegs s t ∧ (∀ c, (t.coreCtx c).lm = (s.coreCtx c).lm ∧ (t.coreCtx c).h = (s.coreCtx c).h ∧ (t.coreCtx c).w = (s.coreCtx c).w) ∧
      (∀ j, (t.thread j).ctx = ctx → (t.thread j).resv = none) ∧
      ∀ e ∈ s.kernels, s.kernel e.1 = e.2 → e.2.ctx = ctx → e.2.st = .running →
        t.kernel e.1 = { e.2 with st := .preempted, suspendedAt := s.tick, saved := (t.kernel e.1).saved } ∧ ∀ c ∈ e.2.clusters, (t.cluster c).holder = none) ∧
    (∀ kid k b p g, s.schedule = some (.resume ctx) → s.pick = some (b, p, g) → s.ofCtx ctx .preempted = [(kid, k)] → (∀ c, (s.ctx c).peers = none) → (∀ c, (s.coreCtx c).held = []) →
      AtHome s → TablesAsSaved s kid k →
      ∃ t, exec (.resumption ctx) s = .next t ∧ (t.ctx ctx).state = 3 ∧ ((∀ c, (s.coreCtx c).tq = []) → SameBytes s t) ∧
        (∀ j, let rec_ := k.area kid 1 + ((s.thread j).core * 16 + (s.thread j).slot) * 4160
          let from_ (x : Thread) : Prop := (t.thread j).regs = x.regs ∧ (t.thread j).pc = x.pc ∧ (t.thread j).mode = x.mode
          ((s.thread j).kid ≠ kid ∨ AsSaved s k rec_ 4160 → from_ (s.thread j)) ∧
          ∀ bs, (s.threads.filter (fun e => e.1 == j)).length = 1 → (s.thread j).kid = kid → (s.thread j).life = .resident → (s.savedBytes rec_ 4160).1 = some bs → bs ≠ k.saved.get [] rec_ → from_ ((s.thread j).restored bs)) ∧
        t.rrPtr = p ∧ t.rrGranted = g + recBits k.record 32 32 ∧
        let n := t.kernel kid
        n = { k with st := .running, clusters := n.clusters, turns := [], saved := [], startedAt := s.tick, prio := if k.prio = 31 then 31 else min (k.prio + (s.tick - k.suspendedAt) / 2 ^ 20) 30 } ∧
        (∀ c ∈ n.clusters, (t.cluster c).holder = some kid) ∧
        (k.clusters.Nodup → (∀ c ∈ k.clusters, c ∈ s.freeClusters) → k.clusters.length ≤ min k.lclusters s.usable.length →
          n.clusters = k.clusters ∧ ∀ ec, t.eng ec = s.eng ec)) ∧
    (∀ kid g, s.turnOver kid g = true → (s.kernel kid).ctx = ctx →
      let k := s.kernel kid
      let r := (k.turns.get (g, k.startedAt) g).1
      let next := if r + k.clusters.length < k.lclusters then r + k.clusters.length else g
      ∃ (t v w : State) (rs : List (Nat × List Byte)), exec (.timeshareSwitch kid g) s = .next t ∧ { v with threads := s.threads, ccs := s.ccs, units := s.units } = s ∧ SameRegs s v ∧
        (∀ j, (s.thread j).kid = kid → (s.thread j).life = .resident → k.lcOf (s.thread j).core = r → (v.thread j).resv = none) ∧ Recorded v kid (fun c => k.lcOf c == r) rs ∧
        { w with kernels := v.kernels } = written v rs ∧ (∀ j, w.kernel j = { v.kernel j with saved := (w.kernel j).saved }) ∧ { t with kernels := s.kernels } = { w.syncCores kid (fun c => k.lcOf c == next) with kernels := s.kernels } ∧
        t.kernel kid = { k with turns := k.turns.put g (next, s.tick), saved := (t.kernel kid).saved })

/-- R313, R314, R319, R329, R354: a fatal fault puts its context into fault-hold: the record of R313 is written at SAVEBASE and reported with MSI-X vector 0, its kernels are
faulted with their groups discarded and their descriptors no longer valid, its open queues drain and nothing more of it is admitted, one that drains already goes on, and
its threads keep their registers; at rest the records of its threads and core-contexts are written. -/
def Sys2Proof.Claims.FatalFaultsHold : Prop :=
  ∀ (s : State) (ctx : Nat), AtRest s → (∀ i < 8, (s.ctx ctx).peerv i = false) →
    (∀ f, (s.ctx ctx).fatal = some f → f.due ≤ s.cycle → ((s.ctx ctx).state = 3 ∨ (s.ctx ctx).state = 4) →
      let rec_ := bytesOf 8 f.time.toNat ++ bytesOf 4 f.tid.toNat ++ bytesOf 1 f.cause ++ bytesOf 1 f.inner ++ bytesOf 2 0 ++ bytesOf 8 f.fva.toNat ++ bytesOf 8 f.pc.toNat
      ∃ t w : State, exec (.fatalFault ctx) s = .next t ∧ Reported (s.poke (s.ctx ctx).savebase rec_) .faultRecord (rec_ ++ bytesOf 2 ctx) w ∧
        (let w' : State := { w with out := w.out ++ [.msix (s.ctx ctx).msixBase] }
          let x : State := s.kernels.foldl (fun (x : State) e => if e.2.ctx = ctx ∧ e.2.described = true then x.poke (descAt x (x.kernel e.1)) (x.descriptor e.1 false) else x) w';
          { t with ctxs := x.ctxs, kernels := x.kernels, threads := x.threads, ccs := x.ccs, ops := x.ops, units := x.units } = x) ∧
        t.ctx ctx = { inState (s.ctx ctx) 5 with fatal := none, stop := true, queues := (t.ctx ctx).queues } ∧
        (∀ q, (t.lqueue ctx q).recs = (s.lqueue ctx q).recs ∧
          (((s.lqueue ctx q).st = 1 ∨ (s.lqueue ctx q).st = 2) → (t.lqueue ctx q).st = 3 ∧ (t.lqueue ctx q).frozen = true) ∧
          ((s.lqueue ctx q).st ≠ 1 → (s.lqueue ctx q).st ≠ 2 → t.lqueue ctx q = s.lqueue ctx q)) ∧
        (∀ e ∈ s.kernels, s.kernel e.1 = e.2 → t.kernel e.1 = if e.2.ctx = ctx ∧ e.2.st ≠ .retired then { e.2 with st := .faulted, groups := [] } else e.2) ∧ SameRegs s t) ∧
    ((s.ctx ctx).fatal = none → (s.ctx ctx).stop = true → (s.ctx ctx).state = 5 → s.quiet ctx = true →
      ∃ (t : State) (rs : List (Nat × List Byte)), exec (.fatalFault ctx) s = .next t ∧ t.ctx ctx = { s.ctx ctx with stop := false } ∧ SameRegs s t ∧
        (let v := (s.stopThreads (s.threadsOf ctx)).markTokens ctx;
          { t with threads := v.threads, ctxs := v.ctxs } = { written v rs with threads := v.threads, ctxs := v.ctxs } ∧
            ∀ e ∈ s.kernels, s.kernel e.1 = e.2 → e.2.ctx = ctx → e.2.st = .faulted → e.2.clusters ≠ [] → Recorded v e.1 (fun _ => true) rs) ∧ ∀ c, (t.coreCtx c).lm = (s.coreCtx c).lm)

namespace Sys2Proof.Claims

/-! ## Contexts, queues and the commands of the host mailbox (R302, R303, R315, R329, R349, R396, R409 to R413, R416 to R418) -/

/-- Answers in consecutive messages. -/
def AnsweredAll : State → BitVec 16 → List (List Byte) → State → Prop
  | u, _, [], t => t = u
  | u, tag, b :: bs, t => ∃ v, Answered u tag 0 b v ∧ AnsweredAll v tag bs t
/-- A body cut into the operands of messages. -/
def pages56 (body : List Byte) : List (List Byte) := (List.range ((body.length + 55) / 56)).map (fun i => (body.drop (56 * i)).take 56)
/-- The device answers the four commands of recovery (R410). -/
def HeardAlways (s : State) : Prop := (s.power = .active ∨ s.power = .asleep ∨ s.power = .recovery) ∧ s.version ≠ 0
/-- The tag of a mailbox command, and whether it is answered in recovery. -/
def commandTag : Instr → Option (BitVec 16 × Bool)
  | .contextBuild tag _ _ => some (tag, false)
  | .contextLoad tag _ => some (tag, false)
  | .contextClose tag _ => some (tag, false)
  | .queueDrain tag _ _ => some (tag, false)
  | .queueOpen tag _ _ => some (tag, false)
  | .runtimeQueueMark tag _ _ => some (tag, false)
  | .gangRelease tag _ => some (tag, false)
  | .status tag => some (tag, true)
  | .bootrec tag => some (tag, true)
  | .clear tag _ => some (tag, true)
  | .accept tag => some (tag, false)
  | .attest tag _ => some (tag, false)
  | .keyload tag _ _ _ => some (tag, false)
  | .powercap tag _ => some (tag, false)
  | .residencyControlWrite tag _ _ _ => some (tag, false)
  | .tenantWordWrite tag _ _ _ _ => some (tag, false)
  | .packageSleep tag => some (tag, false)
  | .tenantWeightSet tag _ _ => some (tag, false)
  | .unknownMailboxCode tag _ => some (tag, false)
  | .linkEnable c => some (c.tag, false)
  | .linkDisable c => some (c.tag, false)
  | .linkReset c => some (c.tag, false)
  | _ => none
/-- The bits of a context record that firmware writes (R302): first bit and count of each field. -/
def recordFields : List (Nat × Nat) :=
  [(4, 6), (16, 5), (21, 3), (32, 32), (64, 64), (128, 64), (192, 64), (256, 5), (320, 64), (384, 64), (448, 10), (458, 10), (468, 12), (480, 3), (512, 80), (592, 8)]
/-- n bits of a context record from bit lo. -/
def ctxBits (c : Ctx) (lo n : Nat) : Nat := c.record.toNat / 2 ^ lo % 2 ^ n
/-- A field that keeps its context from being loaded (R302, R303), by its lowest bit. -/
def fieldBad (c : Ctx) : Nat → Prop
  | 16 => ctxBits c 16 5 = 0
  | 64 => ctxBits c 64 64 % 8192 ≠ 0 ∨ 2 ^ 52 ≤ ctxBits c 64 64
  | 128 => ctxBits c 128 64 % 8192 ≠ 0 ∨ 2 ^ 56 ≤ ctxBits c 128 64
  | 192 => ctxBits c 192 64 % 32 ≠ 0 ∨ 2 ^ 56 ≤ ctxBits c 192 64
  | 256 => 24 < ctxBits c 256 5
  | 320 => ctxBits c 320 64 % 32 ≠ 0 ∨ 2 ^ 56 ≤ ctxBits c 320 64
  | 384 => ctxBits c 384 64 % 4096 ≠ 0 ∨ 2 ^ 56 ≤ ctxBits c 384 64
  | 448 => 1024 < ctxBits c 448 10 + ctxBits c 458 10
  | _ => False
/-- A change of a context's state, as the host hears of it. -/
def stateBody (ctx st : Nat) : List Byte := bytesOf 2 ctx ++ bytesOf 2 st
/-- A link's status word (R396). -/
def linkWord (k : Link) : Nat :=
  (k.st + k.lanes * 2 ^ 4 + k.ver.toNat * 2 ^ 8 + k.peer.toNat * 2 ^ 16 + k.plink.toNat * 2 ^ 34 + (if k.sync then 2 ^ 39 else 0) + k.retry.toNat * 2 ^ 48) % 2 ^ 64
/-- The boot record (R409): an entry a step, then the exclusion mask. -/
def bootRecord (s : State) : List Byte :=
  ([1, 2, 3, 4, 5, 6, 7].flatMap (fun n => let e := s.entry n; bytesOf 8 (e.out.toNat + e.fails.toNat * 2 ^ 8 + e.code.toNat * 2 ^ 16 + e.start.toNat * 2 ^ 32))) ++ bytesOf 16 s.excludedMask.toNat
/-- The signed content of a quote (R412). -/
def quoteOf (s : State) (nonce : BitVec 256) : List Byte :=
  bytesOf 32 nonce.toNat ++ bytesOf 32 s.imageDigest.toNat ++ bootRecord s ++ bytesOf 1 (if s.skuG120 then 120 else 128) ++ bytesOf 1 s.usable.length ++
    bytesOf 4 s.rollback.toNat ++ bytesOf 2 0

end Sys2Proof.Claims

/-- R410, R416: without power or before boot no command is answered, and in recovery only STATUS, BOOTREC, CLEAR and VERSION are; before negotiation every
command but VERSION is refused; VERSION agrees on version 1 and gives the address of the launch-queue BAR (R325; its place and the body are the model's, logs 13 and 32), or is refused; an
unknown code is answered as such. -/
def Sys2Proof.Claims.MailboxProtocol : Prop :=
  ∀ (s : State) (tag : BitVec 16),
    (∀ i always, commandTag i = some (tag, always) →
      ((s.power = .off ∨ s.power = .started ∨ (s.power = .recovery ∧ always = false)) → exec i s = .next s) ∧
      (s.version = 0 → (s.power = .active ∨ s.power = .asleep ∨ (s.power = .recovery ∧ always = true)) → Refused s i tag)) ∧
    (∀ bits : Word,
      ((s.power = .off ∨ s.power = .started) → exec (.version tag bits) s = .next s) ∧
      ((s.power = .active ∨ s.power = .asleep ∨ s.power = .recovery) →
        (bits.getLsbD 1 = true →
          let answer := bytesOf 8 1 ++ bytesOf 8 (2 ^ 52)
          (s.heldEvents = [] ∨ Full s → ∃ t, exec (.version tag bits) s = .next t ∧ Answered { up s with version := 1 } tag 0 answer t) ∧
          (∀ m, s.heldEvents = [m] → ¬ Full s → ∃ v t, exec (.version tag bits) s = .next t ∧ Posted { up s with version := 1, heldEvents := [] } m v ∧ Answered v tag 0 answer t)) ∧
        (bits.getLsbD 1 = false → Refused s (.version tag bits) tag))) ∧
    (∀ code, Heard s → ∃ t, exec (.unknownMailboxCode tag code) s = .next t ∧ Answered (up s) tag 2 [] t)

/-- R36, R302, R303, R315: a free context is built with the fields of its record and reported; a built one is loaded once the time base is set, with the `.lm` image and full words that come with it, its queues open,
or its first bad field is reported and the load refused; a resident, suspended or held context closes: its queues close, its engine and clause state is gone, its
threads end and its core-contexts are empty; and once none of its writes is on its way it is free again, with its key slots cleared and only TENANT kept of its record, its queues disabled with the ACCEPTED and DONE they had (R329). -/
def Sys2Proof.Claims.ContextsComeAndGo : Prop :=
  ∀ (s : State) (tag : BitVec 16) (ctx : Nat), Heard s →
    (∀ r : BitVec 1024, let i : Instr := .contextBuild tag ctx r
      (ctx < 1024 → (s.ctx ctx).state = 0 → ∃ x v t, exec i s = .next t ∧ Reported ((up s).setCtx ctx { record := x, queues := (s.ctx ctx).queues }) .contextState (stateBody ctx 1) v ∧ Answered v tag 0 [] t ∧
        ∀ b, x.getLsbD b = (decide (b = 0) || (recordFields.any (fun f => decide (f.1 ≤ b) && decide (b < f.1 + f.2)) && r.getLsbD b))) ∧
      ((1024 ≤ ctx ∨ (s.ctx ctx).state ≠ 0) → Refused s i tag)) ∧
    (∀ lm full, let c := s.ctx ctx;
      (c.state ≠ 1 ∨ s.timeSet = false → Refused s (.contextLoad tag ⟨ctx, lm, full⟩) tag) ∧
      (c.state = 1 → s.timeSet = true →
        (∀ f, fieldBad c f → (∀ g < f, ¬ fieldBad c g) → ∃ v t, exec (.contextLoad tag ⟨ctx, lm, full⟩) s = .next t ∧ Reported (up s) .contextField (bytesOf 2 ctx ++ bytesOf 2 f) v ∧ Answered v tag 1 [] t) ∧
        ((∀ f, ¬ fieldBad c f) → ∃ u v t, exec (.contextLoad tag ⟨ctx, lm, full⟩) s = .next t ∧ Reported u .contextState (stateBody ctx 2) v ∧ Answered v tag 0 [] t ∧ { u with ctxs := s.ctxs } = up s ∧
          u.ctx ctx = { inState c 2 with queues := (u.ctx ctx).queues, fatal := none, peers := none, stop := false, arrays := []
                                         lmImage := (u.ctx ctx).lmImage, lmFull := (u.ctx ctx).lmFull } ∧
          (∀ a < 262144, (u.ctx ctx).lmImage.get a = lm.getD a 0) ∧ (∀ i < 32768, (u.ctx ctx).lmFull.get false i = full.getD i false) ∧
          (∀ q, u.lqueue ctx q = if q ≤ ctxBits c 21 3 then { st := 1, runtime := (c.queues.get {} q).runtime } else {}) ∧ ∀ d, d ≠ ctx → u.ctx d = s.ctx d))) ∧
    (let st := (s.ctx ctx).state;
      (st ≠ 2 → st ≠ 4 → st ≠ 5 → ∃ v t, exec (.contextClose tag ctx) s = .next t ∧ Reported (up s) .contextState (stateBody ctx st) v ∧ Answered v tag 1 [] t) ∧
      (st = 2 ∨ st = 4 ∨ st = 5 → ∃ u, Done s (.contextClose tag ctx) tag u ∧ (u.ctx ctx).state = 6 ∧ (u.ctx ctx).teardown = true ∧ (∀ e ∈ (u.ctx ctx).queues, e.2.st = 4 ∧ e.2.recs = []) ∧
        (∀ e ∈ u.engs, e.1 / 4096 ≠ ctx) ∧ (∀ e ∈ u.clauses, e.1 / 4096 ≠ ctx) ∧ (∀ e ∈ u.threads, e.2.ctx = ctx → e.2.life = .ended) ∧
        (∀ kid c, s.kernels.has kid = true → (s.kernel kid).ctx = ctx → c < 1024 → u.coreCtx (ccKey kid c) = {} ∧ ∀ b < 2, u.bank (ccKey kid c) b = []) ∧
        ∀ e ∈ u.cores, ∀ p ∈ e.2.plb, p.ctx ≠ ctx)) ∧
    ((s.ctx ctx).state = 6 → (s.ctx ctx).teardown = true → (∀ o ∈ s.ops, s.threads.has o.thr = true → (s.thread o.thr).ctx ≠ ctx) →
      ∃ u t, exec (.teardownComplete ctx) s = .next t ∧ Reported u .contextState (stateBody ctx 0) t ∧ u.ctx ctx = { record := BitVec.ofNat 1024 (0x4_0000 + (s.ctx ctx).tenant * 16), queues := (u.ctx ctx).queues } ∧
        (∀ q, u.lqueue ctx q = { accepted := (s.lqueue ctx q).accepted, done := (s.lqueue ctx q).done }) ∧
        (∀ e ∈ u.kernels, e.2.ctx ≠ ctx) ∧
        ∀ k, u.keys.get 0 k = if (s.ctx ctx).keybase ≤ k ∧ k < (s.ctx ctx).keybase + (s.ctx ctx).keycnt then 0 else s.keys.get 0 k)

/-- R329, R349: an open or full queue drains; a draining queue with no record and no kernel left closes, with MSI-X vector 0; a closed queue of a resident or
running context opens; and a queue of a context that is not free is marked for runtimes. Anything else is refused. -/
def Sys2Proof.Claims.QueuesChangeState : Prop :=
  ∀ (s : State) (tag : BitVec 16) (ctx q : Nat),
    let u := s.lqueue ctx q
    let st := (s.ctx ctx).state
    (Heard s →
      (u.st = 1 ∨ u.st = 2 → Done s (.queueDrain tag ctx q) tag ((up s).setLqueue ctx q { u with st := 3 })) ∧ (u.st ≠ 1 → u.st ≠ 2 → Refused s (.queueDrain tag ctx q) tag) ∧
      (u.st = 4 → (st = 2 ∨ st = 3) → Done s (.queueOpen tag ctx q) tag ((up s).setLqueue ctx q { u with st := 1 })) ∧ (u.st ≠ 4 ∨ st ≠ 2 ∧ st ≠ 3 → Refused s (.queueOpen tag ctx q) tag) ∧
      (ctx < 1024 → q ≤ (s.ctx ctx).nlq → st ≠ 0 → Done s (.runtimeQueueMark tag ctx q) tag ((up s).setLqueue ctx q { u with runtime := true })) ∧
      (1024 ≤ ctx ∨ (s.ctx ctx).nlq < q ∨ st = 0 → Refused s (.runtimeQueueMark tag ctx q) tag)) ∧
    (u.st = 3 → u.frozen = false → u.recs = [] → (∀ e ∈ s.kernels, e.2.ctx = ctx → e.2.q = q → e.2.st = .retired ∨ e.2.st = .faulted) →
      exec (.queueClosed ctx q) s = .next (signalled (s.setLqueue ctx q { u with st := 4 }) ctx 0))

/-- R395, R396, R408 to R413, R416 to R418: STATUS answers the power state and the link words, BOOTREC the boot record; CLEAR empties an entry; ACCEPT raises the
rollback counter to the running image's version; ATTEST spends an index of its key and answers the quote with its signature, until the key is exhausted; KEYLOAD fills a
key slot of the context's range that no present page names; POWERCAP, a tenant's weight and package sleep are set within their limits and else refused; a sleeping package
wakes. Messages of 56 bytes and their codes are the model's (log 13). -/
def Sys2Proof.Claims.DeviceCommands : Prop :=
  ∀ (s : State) (tag : BitVec 16),
    (HeardAlways s →
      (∃ t, exec (.status tag) s = .next t ∧ AnsweredAll (up s) tag
        (pages56 (bytesOf 8 (if s.power = .recovery then 2 else 3) ++ (List.range 18).flatMap (fun l => bytesOf 8 (linkWord (s.link l))))) t) ∧
      (∃ t, exec (.bootrec tag) s = .next t ∧ AnsweredAll (up s) tag (pages56 (bootRecord s)) t) ∧
      (∀ n, (1 ≤ n → n ≤ 7 → ∃ m, Done s (.clear tag n) tag { up s with bootRec := m } ∧ m.get {} n = {} ∧ ∀ k, k ≠ n → m.get {} k = s.entry k) ∧
        (n = 0 ∨ 7 < n → Refused s (.clear tag n) tag))) ∧
    (Heard s →
      Done s (.accept tag) tag { up s with rollback := BitVec.ofNat 32 (max s.rollback.toNat s.imageVersion.toNat) } ∧
      (∀ nonce, (s.xmssIndex < 2 ^ 20 → ∃ t, exec (.attest tag nonce) s = .next t ∧
          AnsweredAll { up s with xmssIndex := s.xmssIndex + 1 } tag (pages56 (quoteOf s nonce ++ Config.xmssSign s.identity s.xmssIndex (quoteOf s nonce))) t) ∧
        (2 ^ 20 ≤ s.xmssIndex → ∃ t, exec (.attest tag nonce) s = .next t ∧ Answered (up s) tag 3 [] t)) ∧
      (∀ ctx slot key, let c := s.ctx ctx
        let ok := ctx < 1024 ∧ c.state ≠ 0 ∧ c.state ≠ 6 ∧ 1 ≤ slot ∧ slot < 1024 ∧ c.keybase ≤ slot ∧ slot < c.keybase + c.keycnt ∧
          ∀ p ∈ s.leaves, ¬(pteP p.2 = true ∧ pteKey p.2 = slot)
        (ok → Done s (.keyload tag ctx slot key) tag { up s with keys := s.keys.put slot key }) ∧ (¬ ok → Refused s (.keyload tag ctx slot key) tag)) ∧
      (∀ w, (200 ≤ w → w ≤ 3200 → Done s (.powercap tag w) tag { up s with capWatts := w, capReported := false }) ∧ (w < 200 ∨ 3200 < w → Refused s (.powercap tag w) tag)) ∧
      (∀ ten (w : BitVec 8), (ten < 64 → w ≠ 0 → Done s (.tenantWeightSet tag ten w) tag { up s with weights := s.weights.put ten w.toNat }) ∧
        (64 ≤ ten ∨ w = 0 → Refused s (.tenantWeightSet tag ten w) tag)) ∧
      ((∀ e ∈ s.ctxs, e.2.state ≠ 3) → ∃ v, exec (.packageSleep tag) s = .next { v with power := .asleep } ∧ Answered (up s) tag 0 [] v) ∧
      ((∃ e ∈ s.ctxs, e.2.state = 3) → Refused s (.packageSleep tag) tag)) ∧
    (s.power = .asleep → exec .packageWake s = .next (up s))

namespace Sys2Proof.Claims

/-! ## Device links and the time base (R396 to R405) -/

/-- t is w but for the table of links, which reads the same. -/
def SameLinks (w t : State) : Prop := (∀ l, t.link l = w.link l) ∧ { t with links := w.links } = w
/-- Nothing waits for an acknowledgement on a link. -/
def Acknowledged (k : Link) : Prop := k.replay = [] ∧ k.waiting = []
/-- Flits sent on a link. -/
def flitsOut (s : State) (l : Nat) (fs : List (List Byte)) : State := { s with out := s.out ++ fs.map (Out.flit l) }
/-- A number in a flit, lowest byte first (R398). -/
def flitNum (f : List Byte) (at_ n : Nat) : Nat := leOf ((f.drop at_).take n)
/-- A link is up or degraded. -/
def Carries (k : Link) : Prop := k.st = 3 ∨ k.st = 4
/-- The device is its own source of time (R403). -/
def OwnSource (s : State) : Prop := s.isReference = true ∨ ∀ e ∈ s.links, e.2.sync = false
/-- A link with SYNC carries flits. -/
def HasPath (s : State) : Prop := ∃ e ∈ s.links, e.2.sync = true ∧ Carries e.2
/-- A link in a new state, and the report of the transition (R397); the last SYNC path that is lost so is noted (R403). -/
def LinkNow (s : State) (l : Nat) (k : Link) (w : State) : Prop :=
  ∃ p, (p = true ↔ s.pathLost = true ∨ (HasPath s ∧ ¬ HasPath (s.setLink l k) ∧ ¬ OwnSource (s.setLink l k))) ∧
    Reported { s.setLink l k with pathLost := p } .linkState (bytesOf 8 l ++ bytesOf 8 (linkWord k)) w
/-- A flit under its SEQ with another ACK (R398). -/
def stamped (f : List Byte) (seq ack : BitVec 16) : List Byte :=
  let bs := f.take 2 ++ bytesOf 2 seq.toNat ++ bytesOf 2 ack.toNat ++ (f.drop 6).take 242
  bs ++ bytesOf 8 (crc64 bs).toNat
def resent (s : State) (ack : BitVec 16) (r : Replay) : Replay := { r with flit := stamped r.flit r.seq ack, sentAt := s.tick, resent := r.resent + 1 }
/-- Every flit not acknowledged is sent again in order with the ACK of this moment, and counted; at the sixteenth time a link that is up trains anew (R397, R399). -/
def Replayed (s : State) (l : Nat) (t : State) : Prop :=
  let k := s.link l
  let again := k.replay.map (resent s k.lastRx)
  let k' : Link := { k with replay := again, retry := BitVec.ofNat 16 (min (k.retry.toNat + k.replay.length) 65535) }
  let u := flitsOut (s.setLink l k') l (again.map (·.flit))
  ((∀ r ∈ k.replay, r.resent < 15) ∨ ¬ Carries k → t = u) ∧
    ((∃ r ∈ k.replay, 15 ≤ r.resent) → Carries k → ∃ w, LinkNow u l { k' with st := 1, lanes := 0, ver := 0, attempts := 0, replay := again.map (fun r => { r with resent := 0 }) } w ∧ (w.upLinks = [] → t = w))
/-- The device is locked, or not, from this tick. -/
def lockedNow (s : State) (b : Bool) : State := { s with locked := b, lockChanges := (if s.locked = b then s.lockChanges else (s.tick, b) :: s.lockChanges) }

end Sys2Proof.Claims

/-- R395 to R397, R400, R416: firmware, by a command that is answered, enables a link that is down, disables any and resets a failed one; training ends in negotiation
with 4 to 8 lanes, and fails at the third attempt; negotiation ends up or degraded, or failed without a common version; losing a lane leaves 4 or more degraded, fewer
failed. Every transition is reported; commands in other states are refused (the model's reading, log 35). Nothing waits for an acknowledgement here. -/
def Sys2Proof.Claims.LinkStates : Prop :=
  ∀ (s : State) (l : Nat), l < 18 → Acknowledged (s.link l) →
    let k := s.link l
    let becomes (i : Instr) (k' : Link) : Prop := ∃ t w, exec i s = .next t ∧ LinkNow s l k' w ∧ SameLinks w t
    (Heard s → ∀ tag : BitVec 16,
      let commanded (i : Instr) (k' : Link) : Prop := ∃ t w u, exec i s = .next t ∧ LinkNow (up s) l k' w ∧ SameLinks w u ∧ Answered u tag 0 [] t
      (k.st = 0 → commanded (.linkEnable ⟨tag, l⟩) { k with st := 1, held := false, attempts := 0 }) ∧ (k.st ≠ 0 → Refused s (.linkEnable ⟨tag, l⟩) tag) ∧
      commanded (.linkDisable ⟨tag, l⟩) { k with st := 0, lanes := 0, ver := 0 } ∧
      (k.st = 5 → commanded (.linkReset ⟨tag, l⟩) { k with st := 0, lanes := 0, ver := 0, retry := 0 }) ∧ (k.st ≠ 5 → Refused s (.linkReset ⟨tag, l⟩) tag) ∧
      ∀ j, 18 ≤ j → Refused s (.linkEnable ⟨tag, j⟩) tag ∧ Refused s (.linkDisable ⟨tag, j⟩) tag ∧ Refused s (.linkReset ⟨tag, j⟩) tag) ∧
    (k.st = 1 → ∀ n,
      (4 ≤ n → n ≤ 8 → ∃ t w f, exec (.lanesTrained l n) s = .next t ∧ LinkNow s l { k with st := 2, lanes := n, attempts := 0 } w ∧
        t = flitsOut (w.setLink l { k with st := 2, lanes := n, attempts := 0, nextSeq := k.nextSeq + 1, replay := [{ seq := k.nextSeq, flit := f, sentAt := s.tick, resent := 0 }] }) l [f] ∧
        flitOk f = true ∧ flitNum f 0 1 = 4 ∧ flitNum f 2 2 = k.nextSeq.toNat ∧ flitNum f 4 2 = k.lastRx.toNat ∧ flitNum f 20 8 = 2) ∧
      (n < 4 → k.attempts < 2 → exec (.lanesTrained l n) s = .next (s.setLink l { k with attempts := k.attempts + 1 })) ∧
      (n < 4 → 2 ≤ k.attempts → becomes (.lanesTrained l n) { k with st := 5, lanes := 0 })) ∧
    (k.st = 2 → ∀ (bits : Word) peer (plink : BitVec 5), plink.toNat < 18 →
      (bits.getLsbD 1 = true → becomes (.negotiationComplete l bits peer plink) { k with st := if k.lanes = 8 then 3 else 4, ver := 1, peer := peer, plink := plink }) ∧
      (bits.getLsbD 1 = false → becomes (.negotiationComplete l bits peer plink) { k with st := 5 })) ∧
    (Carries k → becomes (.laneLoss l) { k with st := if 5 ≤ k.lanes then 4 else 5, lanes := k.lanes - 1 })

/-- R398, R399: a flit with a bad CRC or a nonzero reserved field is dropped; one out of order asks for a replay; the one that follows is taken, and its ACK frees the
flits up to it; a replay request, or a flit unacknowledged for 2,000 ticks, sends every flit not acknowledged again; on a link in negotiation too. -/
def Sys2Proof.Claims.FlitsArrive : Prop :=
  ∀ (s : State) (l : Nat), (Carries (s.link l) ∨ (s.link l).st = 2) →
    let k := s.link l
    (∀ f, (flitOk f = false → exec (.flitReceive l f) s = .next s) ∧
      (flitOk f = true → flitNum f 2 2 ≠ (k.lastRx.toNat + 1) % 2 ^ 16 → exec (.flitReceive l f) s = .next { s with out := s.out ++ [.replayRequest l] }) ∧
      (flitOk f = true → flitNum f 2 2 = (k.lastRx.toNat + 1) % 2 ^ 16 → (flitNum f 0 1 = 1 ∨ flitNum f 0 1 = 2 → flitNum f 6 3 = s.deviceId.toNat) → k.waiting = [] →
        ∃ t, exec (.flitReceive l f) s = .next t ∧ SameLinks s { t with links := s.links } ∧ (∀ j, j ≠ l → t.link j = s.link j) ∧
          ((∀ r ∈ k.replay, r.seq.toNat ≠ flitNum f 4 2) → t.link l = { k with lastRx := k.lastRx + 1 }) ∧
          (∀ old r new, k.replay = old ++ r :: new → new.length ≤ 256 → r.seq.toNat = flitNum f 4 2 → (∀ x ∈ old, x.seq.toNat ≠ flitNum f 4 2) → t.link l = { k with lastRx := k.lastRx + 1, replay := new }))) ∧
    (∃ t, exec (.replayRequest l) s = .next t ∧ Replayed s l t) ∧
    ((∃ r ∈ k.replay, r.sentAt + 2000 ≤ s.tick) → ∃ t, exec (.ackTimeout l) s = .next t ∧ Replayed s l t)

/-- R403, R405: a time flit on a SYNC path gives a new offset, and one out of the bound unlocks the device; when the estimate has stayed within 8 ns for 2^20 ticks the device locks, its time base set the first
time only; without a path left it unlocks and reports, and reports too where it was not locked; a device that becomes its own source is locked, one that gains a source locks anew. Near means within 8 ns of 0, or
before the first lock of the first estimate: the model's reading (log 33). -/
def Obligations.TimeIsLocked : Prop :=
  ∀ (s : State),
    (∀ l off, (∃ e ∈ s.links, e.1 = l ∧ e.2.sync = true ∧ Carries e.2) → ¬ OwnSource s →
      let base := if s.timeSet then 0 else s.offset
      let near := base - 8 ≤ off ∧ off ≤ base + 8
      ∃ t, exec (.timeFlit l off) s = .next t ∧ (near → { t with offset := s.offset, within := s.within } = s) ∧ (¬ near → { t with offset := s.offset, within := s.within } = lockedNow s false) ∧
        (near → t.within = some (s.within.getD s.tick)) ∧ (¬ near → t.within = if s.timeSet then none else some s.tick) ∧
        t.offset = if near ∧ s.timeSet = false ∧ s.within.isSome then s.offset else off) ∧
    (∀ n, s.locked = false → ¬ OwnSource s → HasPath s → s.within = some n → n + 2 ^ 20 ≤ s.tick →
      (s.timeSet = true → exec .timeLock s = .next (lockedNow s true)) ∧
      (s.timeSet = false → ∃ t, exec .timeLock s = .next t ∧ t.time = wrap (s.tick + s.offset) ∧ t.lastTime = t.time ∧ t.offset = 0 ∧ t.timeSet = true ∧ t.locked = true ∧
        { t with time := s.time, lastTime := s.lastTime, timeSet := s.timeSet, offset := s.offset, locked := s.locked, lockChanges := s.lockChanges } = s)) ∧
    (s.locked = true ∨ s.pathLost = true → ¬ OwnSource s → ¬ HasPath s → ∃ t, exec .syncLoss s = .next t ∧ Reported (lockedNow { s with within := none, pathLost := false } false) .syncLoss (bytesOf 8 s.tick) t) ∧
    (∀ ref ls, ∃ t, exec (.syncLinkMark ref ls) s = .next t ∧ t.isReference = ref ∧ (∀ l < 18, t.link l = { s.link l with sync := ls.contains l }) ∧ (∀ l, 18 ≤ l → t.link l = s.link l) ∧
      { t with isReference := s.isReference, links := s.links, locked := s.locked, lockChanges := s.lockChanges, within := s.within, pathLost := s.pathLost } = s ∧ (t.pathLost = true ↔ s.pathLost = true ∨ (HasPath s ∧ ¬ HasPath t ∧ ¬ OwnSource t)) ∧
      (ref = true → s.timeSet = true → t.locked = true) ∧
      (OwnSource s → ref = false → (∃ l < 18, ls.contains l = true) → t.locked = false ∧ t.within = none)) ∧
    (let n := (s.frac + 1000) / s.mhz
      let slews := s.timeSet = true ∧ s.slewAt ≤ s.tick ∧ ¬ OwnSource s ∧ HasPath s
      let c := { s.clock with cycle := s.cycle, time := s.time, lastTime := s.lastTime, frac := s.frac, offset := s.offset, slewAt := s.slewAt }
      c = s ∧ s.clock.cycle = s.cycle + 1 ∧ s.clock.lastTime = s.time ∧ s.clock.frac = (s.frac + 1000) % s.mhz ∧
        (slews → 0 < s.offset → s.clock.time = s.time + wrap (n + 1 : Nat) ∧ s.clock.offset = s.offset - 1 ∧ s.clock.slewAt = s.tick + 10000) ∧
        (slews → s.offset < 0 → 0 < n → s.clock.time = s.time + wrap (n - 1 : Nat) ∧ s.clock.offset = s.offset + 1 ∧ s.clock.slewAt = s.tick + 10000) ∧
        (¬ slews ∨ s.offset = 0 ∨ (s.offset < 0 ∧ n = 0) → s.clock.time = s.time + wrap (n : Nat) ∧ s.clock.offset = s.offset ∧ s.clock.slewAt = s.slewAt))

namespace Sys2Proof.Claims

/-! ## Starting, power and errors (R403, R408, R409, R414, R415, R417, R418) -/

/-- What survives without power (R409, R417): fuses, boot record and mask, counters, and what firmware set; everything in the package is gone. -/
structure Persists (s t : State) : Prop where
  store : t.skuG120 = s.skuG120 ∧ t.rootDigest = s.rootDigest ∧ t.rollback = s.rollback ∧ t.xmssIndex = s.xmssIndex ∧ t.identity = s.identity
  hostSide : t.isReference = s.isReference ∧ t.windows = s.windows ∧ t.homes = s.homes
  gone : t.mem = [] ∧ t.threads = [] ∧ t.ccs = [] ∧ t.kernels = [] ∧ t.ctxs = [] ∧ t.engs = [] ∧ t.keys = [] ∧ t.ops = [] ∧ t.version = 0
/-- A step's entry in the boot record. -/
def Entry (t : State) (n out fails code : Nat) : Prop :=
  t.entry n = { out := BitVec.ofNat 2 out, fails := BitVec.ofNat 8 fails, code := BitVec.ofNat 16 code, start := t.starts }
/-- An error record's body (R415). -/
def errorBody (s : State) (cls unit_ pa ctx : Nat) : List Byte :=
  bytesOf 8 s.tick ++ bytesOf 2 cls ++ bytesOf 2 unit_ ++ bytesOf 4 0 ++ bytesOf 8 pa ++ bytesOf 2 ctx ++ bytesOf 6 0
/-- Every step but n succeeds, the image among them: the digest of its key is fused, its signature gives the root of that key, and its version is at least the counter (R411). -/
def allBut (s : State) (res : List BootResult) (image : List Byte) (ver n : Nat) : Prop :=
  res.length = 7 ∧ (∀ i r, res[i]? = some r → i + 1 ≠ n → r.ok = true) ∧
    ∀ r, res[1]? = some r → Config.shake256 r.key = s.rootDigest ∧ (r.key.drop 4).take 32 = bytesOf 32 (Config.xmssRoot (r.key.drop 36) r.sig image).toNat ∧ s.rollback.toNat ≤ ver
/-- A step's entry shows a failure at the previous start (R408). -/
def FailedLast (s : State) (n : Nat) : Prop := (s.entry n).out = 2 ∧ (s.entry n).start = s.starts
/-- One more failure of a step, saturating. -/
def fails1 (s : State) (n : Nat) : Nat := min ((s.entry n).fails.toNat + 1) 255
/-- t has told the host of a failure of step n, and of nothing else since s (R409, R415; the record's unit is the step, log 90). -/
def ToldFailure (s t : State) (n : Nat) : Prop :=
  ∃ u v : State, u.hostMem = s.hostMem ∧ u.out = s.out ∧ u.areaBase = Config.eventArea ∧ u.writeIdx = 0 ∧ u.returned = 0 ∧ u.heldEvents = [] ∧
    Reported u .errorRecord (errorBody u 4 n 0 0xFFFF) v ∧ SameMail v t ∧ t.out = v.out

end Sys2Proof.Claims

/-- R11, R297, R403, R408 to R411: a start whose seven steps succeed leaves an active device with their entries, the image's version and digest, no excluded cluster, every link
training and no key, two clusters of each glade of a G120 fused out, the host-visible regions and the event area of its configuration, the identifier that firmware programs, its time set where it is its own source; a cluster that fails the
self-test is noted in the mask and excluded at the next start; a failure of step 3, 4 or 5 is reported and the device starts without the channels or links that failed, and at the next start
step 4 runs at half width and step 5 holds the failed links down; a failure of step 1, or an image that is not accepted,
leaves recovery, at once, and for step 1 at the next start too; a start cut short loses power with that step's entry empty; and power lost at any time keeps the persistent store alone. -/
def Sys2Proof.Claims.DeviceStarts : Prop :=
  ∀ (s : State) (res : List BootResult) (failing : List Nat) (image : List Byte) (ver : Nat),
    (allBut s res image ver 0 → (∀ n, 1 ≤ n → n ≤ 7 → ¬ FailedLast s n) →
      ∃ t, exec (.boot res failing image ver) s = .next t ∧ Persists s t ∧ t.starts = s.starts + 1 ∧ t.power = .active ∧ t.imageVersion = BitVec.ofNat 32 ver ∧
        t.imageDigest = Config.shake256 image ∧ (∀ n, n = 1 ∨ n = 2 ∨ n = 3 ∨ n = 4 ∨ n = 5 ∨ n = 7 → Entry t n 1 0 0) ∧ (∀ l < 18, (t.link l).st = 1) ∧
        (∀ r, res[4]? = some r → t.deviceId = r.device.getD s.deviceId) ∧ t.badChannels = [] ∧ t.halfBridges = [] ∧
        (OwnSource s → t.timeSet = true ∧ t.locked = true ∧ t.time = 0) ∧
        (failing = [] → Entry t 6 1 0 0 ∧ t.excludedMask = 0 ∧ t.hostMem = s.hostMem ∧ t.out = s.out) ∧
        t.hostRegions = Config.hostRegions ∧ t.areaBase = Config.eventArea ∧
        ((∀ c, (s.cluster c).fused = false) → ∀ g < 4, ((List.range 32).filter (fun i => (t.cluster (32 * g + i)).fused)).length = if s.skuG120 then 2 else 0) ∧
        (failing ≠ [] → (t.entry 6).out = 2 ∧ (∀ c < 128, t.excludedMask.getLsbD c = failing.contains c) ∧ ToldFailure s t 6)) ∧
    (allBut s res image ver 6 → (∀ n, 1 ≤ n → n ≤ 7 → n ≠ 6 → ¬ FailedLast s n) → FailedLast s 6 →
      ∃ t, exec (.boot res failing image ver) s = .next t ∧ t.power = .active ∧ Entry t 6 3 0 0 ∧ t.excludedMask = s.excludedMask ∧ ∀ c < 128, (t.cluster c).excluded = s.excludedMask.getLsbD c) ∧
    (∀ n r, (n = 3 ∨ n = 4 ∨ n = 5) → allBut s res image ver n → res[n - 1]? = some r → failing = [] → (∀ m, 1 ≤ m → m ≤ 7 → m ≠ n → ¬ FailedLast s m) →
      (¬ FailedLast s n → r.ok = false →
        ∃ t, exec (.boot res failing image ver) s = .next t ∧ t.power = .active ∧ Entry t n 2 (fails1 s n) r.code.toNat ∧ ToldFailure s t n ∧ (n = 3 → t.badChannels = r.units) ∧
          (n = 5 → ∀ l < 18, (t.link l).st = if r.units.contains l then 5 else 1)) ∧
      (FailedLast s n → n ≠ 3 → ∃ t, exec (.boot res failing image ver) s = .next t ∧ t.power = .active ∧ Entry t n 3 0 0 ∧ (n = 4 → t.halfBridges = r.units ∧ ToldFailure s t 4) ∧
          (n = 5 → ∀ l < 18, if (s.link l).st = 5 then (t.link l).st = 0 ∧ (t.link l).held = true else (t.link l).st = 1))) ∧
    (∀ r rest, res = r :: rest → rest.length = 6 → ¬ FailedLast s 1 → r.ok = false →
      ∃ t, exec (.boot res failing image ver) s = .next t ∧ t.power = .recovery ∧ Persists s t ∧ t.hostRegions = s.hostRegions ∧ Entry t 1 2 (fails1 s 1) r.code.toNat ∧ ToldFailure s t 1) ∧
    (∀ r r2 rest, res = r :: r2 :: rest → rest.length = 5 → ¬ FailedLast s 1 → ¬ FailedLast s 2 → r.ok = true → (r2.ok = false ∨ Config.shake256 r2.key ≠ s.rootDigest ∨ ver < s.rollback.toNat) →
      ∃ t, exec (.boot res failing image ver) s = .next t ∧ t.power = .recovery ∧ Persists s t ∧ Entry t 2 2 (fails1 s 2) r2.code.toNat ∧ ToldFailure s t 2) ∧
    (res.length = 7 → FailedLast s 1 → ∃ t, exec (.boot res failing image ver) s = .next t ∧ t.power = .recovery ∧ Persists s t ∧ t.hostRegions = s.hostRegions ∧ t.bootRec = s.bootRec) ∧
    (res = [] → ∃ t, exec (.boot res failing image ver) s = .next t ∧ t.power = .off ∧ Persists s t ∧ t.hostRegions = s.hostRegions ∧ t.entry 1 = {}) ∧
    (∃ t, exec .powerLoss s = .next t ∧ t.power = .off ∧ Persists s t ∧ t.deviceId = s.deviceId ∧ t.hostMem = s.hostMem ∧ t.hostRegions = s.hostRegions ∧ t.bootRec = s.bootRec ∧
      t.excludedMask = s.excludedMask ∧ t.starts = s.starts)

/-- R414, R415, R417, R418: a scrub pass corrects a correctable word, counted and reported, and reports an uncorrectable one, with the unit that log 90 numbers; a clock step moves 50 MHz down above the cap or
at the temperature limit and up below 95 % of the cap, within 700 to 1,400 MHz and at most once in 2^20 ticks, with one report at the floor; the temperature limit is reported as
it is reached; and a cluster that held no kernel for 2^20 ticks sleeps until it is granted. -/
def Sys2Proof.Claims.ErrorsAndPower : Prop :=
  ∀ (s : State),
    (s.power = .active → ∀ base n, let hit (e : Nat × Nat) : Bool := decide (base ≤ e.1 * 8) && decide (e.1 * 8 < base + n)
      (s.ecc.filter hit = [] → exec (.scrubPass base n) s = .next s) ∧
      (∀ w, s.ecc.filter hit = [(w, 1)] → let u := { s with ecc := s.ecc.filter (fun e => !hit e) }
        ∃ t, exec (.scrubPass base n) s = .next t ∧ (Full u → t = { u with droppedEvents := u.droppedEvents + 1 }) ∧ (¬ Full u → Reported u .errorRecord (errorBody s 0 (errUnit (w * 8)) (w * 8) 0xFFFF) t)) ∧
      (∀ w, s.ecc.filter hit = [(w, 2)] → ∃ t, exec (.scrubPass base n) s = .next t ∧ Reported s .errorRecord (errorBody s 2 (errUnit (w * 8)) (w * 8) 0xFFFF) t)) ∧
    (s.power = .active → s.stepAt ≤ s.tick → ∀ w,
      let high := s.hot = true ∨ s.capWatts < w
      let low := ¬ high ∧ 100 * w < 95 * s.capWatts ∧ s.mhz < 1400
      (high → 750 ≤ s.mhz → exec (.clockStep w) s = .next { s with mhz := s.mhz - 50, stepAt := s.tick + 2 ^ 20 }) ∧
      (low → exec (.clockStep w) s = .next { s with mhz := s.mhz + 50, stepAt := s.tick + 2 ^ 20, capReported := false }) ∧
      (high → s.mhz < 750 → s.capWatts < w → s.capReported = false → ∃ t, exec (.clockStep w) s = .next t ∧ Reported { s with capReported := true } .power (bytesOf 8 w ++ bytesOf 8 s.capWatts) t) ∧
      (high → s.mhz < 750 → w ≤ s.capWatts ∨ s.capReported = true → exec (.clockStep w) s = .next s) ∧
      (¬ high → ¬ low → exec (.clockStep w) s = .next s)) ∧
    (∀ b, (s.power = .off → exec (.coldPlateTemperatureLimit b) s = .next s) ∧
      (s.power ≠ .off → (b = false ∨ s.hot = true) → exec (.coldPlateTemperatureLimit b) s = .next { s with hot := b }) ∧
      (s.power ≠ .off → b = true → s.hot = false → ∃ t, exec (.coldPlateTemperatureLimit b) s = .next t ∧ Reported { s with hot := true } .power (bytesOf 8 1) t)) ∧
    (∀ c < 128, let k := s.cluster c
      (k.asleep = false → k.holder = none → k.excluded = false → k.fused = false → k.freeSince + 2 ^ 20 ≤ s.tick →
        exec (.clusterSleep c) s = .next { s with clusters := s.clusters.put c { k with asleep := true } }) ∧
      (k.asleep = true → k.holder.isSome → exec (.clusterWake c) s = .next { s with clusters := s.clusters.put c { k with asleep := false } }))

namespace Sys2Proof.Claims

/-! ## The whole machine: reset, the step, the encoding -/

/-- Every memory of the machine is in its canonical form: the device's, the memory outside it, each LM, and the image each context loads there. -/
def Canonical (s : State) : Prop := s.MemOk ∧ (∀ e ∈ s.ccs, e.2.lm.wf = true) ∧ ∀ e ∈ s.ctxs, e.2.lmImage.wf = true
/-- Nothing is due but the bundle of thread k. -/
def Turn (s : State) (k : Nat) : Prop := s.input = [] ∧ s.power = .active ∧ s.event = none ∧ s.nextThread = some k
/-- Thread k is not at a bundle of which slot V alone is left (R236). -/
def Whole (s : State) (k : Nat) : Prop := (s.thread k).half = none
/-- A bundle's 16 bytes from its two halves, lowest address first (R85). -/
def bundleOf (hi lo : BitVec 64) : List Byte := bytesOf 8 lo.toNat ++ bytesOf 8 hi.toNat
/-- The bundle of one slot A instruction, or one slot V instruction. -/
def slotAOnly (i : Instr) : Bundle := { sc := 0, guard := { neg := false, p := 0 }, a := i, v := .vnop, len := 16 }
def slotVOnly (i : Instr) : Bundle := { slotAOnly .nop with v := i }
/-- Slot V of the bundle of k runs from a, with its pushes, to t. -/
def RunsV (k : Nat) (u : Bundle) (p : Pops) (open_ : Bool) (a t : State) : Prop :=
  (a.thread k).life = .resident ∧ a.sbindHalf k u = none ∧ ∃ v, exec u.v a = .next v ∧ v.issue = .done ∧ qsumGoesOn u.v (v.thread k) = false ∧
    v.pushStreams k u.v (bundleWrites u open_) p = .ok t
/-- A write of a special register. -/
def IsSwr (i : Instr) : Prop := ∃ sel hi x, i = .swr sel hi x
/-- The state in which the bundle of thread k is fetched: its core has issued in this cycle (R19). -/
def issuing (s : State) (k : Nat) : State := { s.markIssue k with cur := k, issue := .done }

end Sys2Proof.Claims

/-- What the spec gives for reset: a device not booted; links down, last SEQ received 0xFFFF (R396, R398); residency control words at DEFD 64 and AGE
256 (R268); PMARGIN 4 and STATE 0 in a context record (R302); the round-robin pointer at tenant 0 (R340); %tmcmp all ones, %nto 65,536, %mul 1,
user mode and every register 0 in a thread's record (R311, R339); barriers, groups, windows and boot record 0 (R167, R352, R369, R409); a clause
array not configured (R215); memories canonical. -/
def Obligations.ResetState : Prop :=
  let s := State.reset
  Canonical s ∧ s.power = .started ∧ s.time = 0 ∧ s.locked = false ∧ s.rrPtr = 0 ∧ s.heldEvents = [] ∧ s.version = 0 ∧
    (∀ l, s.link l = { lastRx := 0xFFFF }) ∧
    (∀ c, (s.core c).l1 = { ctl := 64 + 256 * 2 ^ 20 } ∧ (s.core c).ulines = [] ∧ (s.core c).plb = [] ∧ (s.slice c) = { ctl := 64 + 256 * 2 ^ 20 }) ∧
    s.pageCtl = 64 + 256 * 2 ^ 20 ∧
    (∀ c, (s.ctx c).record.toNat = 4 * 2 ^ 16 ∧ (s.ctx c).state = 0 ∧ ∀ q, s.lqueue c q = {}) ∧
    (∀ k, let t := s.thread k
      t.life = .absent ∧ t.mode = .user ∧ t.regs = Regs.zero ∧ t.tmcmp = BitVec.allOnes 64 ∧ t.nto = 65536 ∧ t.mul = 1 ∧ t.stat = 0 ∧ t.ucause = 0 ∧ t.umask = 0 ∧ t.finfo = 0 ∧
        t.upvec = 0 ∧ t.prin = 0 ∧ t.glo = 0 ∧ t.ghi = 0 ∧ t.resv = none ∧ t.frame = [] ∧ t.streams = []) ∧
    (∀ c b w, s.bar c b = {} ∧ s.win c w = {} ∧ (s.coreCtx c).dq = [] ∧ (s.coreCtx c).rq = [] ∧ ∀ a, (s.coreCtx c).lm.get a = 0) ∧
    (∀ k g, (s.kernel k).group g = {}) ∧ (∀ n, s.bootRec.get {} n = {}) ∧
    (∀ e, (s.eng e).accepted = 0 ∧ (s.eng e).completed = 0 ∧ (s.clause e).configured = false ∧ (s.clause e).seed = 0 ∧ (s.clause e).ctr = 0) ∧
    ∀ c b, s.bank c b = []

/-- R19, R79, R85 to R88, R96 (in the model's order of inputs, events, threads and clock, log 1): a step runs what the outside does next; without power it
faults; else the event that is due; else the bundle at the pc of the thread whose turn it is: its bytes are fetched and decoded, an instruction illegal in this
state is trapped, and exec of its slot A (where the guard holds) and of its slot V run from the bundle's begin, which latches the sources and moves npc past the bundle; a thread whose
bundle completes continues at npc in turn t + 1 + SC; an SBIND that follows an access of its slot A in flight is left for the thread's next turns, with all else of the bundle done (R236); a write of a special register comes after slot V (log 71); a bundle whose slot A parks is tried again with nothing done; else what ends the cycle; else
the clock. -/
def Obligations.AStepRunsTheDecodedBundle : Prop :=
  ∀ (s : State),
    (∀ i rest, s.input = i :: rest → step s = exec i { s with input := rest }) ∧
    (s.input = [] → s.power = .off → step s = .fault .poweredOff) ∧
    (s.input = [] → s.power = .active → (∀ t, s.event = some t → step s = .next t) ∧
      (s.event = none → s.nextThread = none → (∀ t, s.lastEvent = some t → step s = .next t) ∧ (s.lastEvent = none → step s = .next s.clock))) ∧
    (∀ k h, Turn s k → (s.thread k).half = some h → step s = (issuing s k).slotVHalf k h) ∧
    (∀ k bs s1 u, Turn s k → Whole s k → (issuing s k).fetch k = (.bytes bs, s1) → decode bs = .ok u →
      (∀ i, s1.illegalNow k u = some i → step s = .next (s1.trapFrom k { cause := 2, info := opWord i, fva := 0, upc := (s1.thread k).pc })) ∧
      (∀ p, s1.illegalNow k u = none → s1.before k u (s1.openNow k u) = .go → s1.popStreams k u.v = .ok p →
      let b := p.s.begin_ k u.len
      (b.guardHolds u.guard = true → ∀ a t, exec u.a b = .next a → a.issue = .done → ¬ IsSwr u.a → RunsV k u p true a t → step s = .next (t.finish k u.sc)) ∧
      (b.guardHolds u.guard = true → ∀ a t x, IsSwr u.a → exec u.a b = .next a → a.issue = .done → RunsV k u p true b t → exec u.a t = .next x → step s = .next (x.finish k u.sc)) ∧
      (b.guardHolds u.guard = true → ∀ a h, exec u.a b = .next a → a.issue = .done → ¬ IsSwr u.a → (a.thread k).life = .resident → a.sbindHalf k u = some h →
        step s = .next ((a.setThread k { a.thread k with half := some h }).holdAt k .hold)) ∧
      (b.guardHolds u.guard = false → ∀ t, RunsV k u p false b t → step s = .next (t.finish k u.sc)) ∧
      (b.guardHolds u.guard = true → ∀ a, exec u.a b = .next a → a.issue = .done → ¬ IsSwr u.a → (a.thread k).life ≠ .resident → step s = .next (a.finish k u.sc)) ∧
      (b.guardHolds u.guard = true → ∀ a, exec u.a b = .next a → a.issue = .parked → let w := (a.thread k).wait.getD .poll
        (parksWithEffect u.a w = true → b.vTrap k u = none) → step s = .next ((s1.unpop a k).holdAt k w)))) ∧
    (∀ k bs s1 e, Turn s k → Whole s k → (issuing s k).fetch k = (.bytes bs, s1) → decode bs = .error e →
      ∀ a, exec (.illegalBundle e.op e.slotV) s1 = .next a → step s = .next (a.trapDone k)) ∧
    (∀ k n, let t := s.thread k
      let b := s.begin_ k n
      b.cur = k ∧ b.issue = .done ∧ b.thread k =
        { t with wait := (if t.wait = some .poll then none else t.wait), npc := wrap (t.pc.toNat + n : Nat), issued := t.issued + 1
                 latch := some { regs := t.regs, h := Vector.ofFn (hBefore s t.cc), w := Vector.ofFn (wBefore s t.cc) } }) ∧
    (∀ k (sc : BitVec 4), (s.thread k).life = .resident →
      s.finish k sc = s.setThread k { s.thread k with pc := (s.thread k).npc, latch := none, wait := none, reply := none, got := none, next := s.cycle + 16 * (1 + sc.toNat) })

/-- The words that the spec writes out decode to their instructions, and reserved ones are refused (R41, R85 to R92, R95, R107, R152, R209). -/
def Obligations.WordsDecode : Prop :=
  decode (bundleOf 0x0001_B042_0C00_0000 0x0045_1051_8700_0000) = .ok
      { sc := 0, guard := { neg := true, p := 3 }, a := .add 1 2 3, v := .vfma .f32 .rne { q := 2, zero := true } 4 5 6 7, len := 16 } ∧
    decode (bundleOf 0x003F_0249_1400_0000 0) = .ok (slotAOnly (.mfold 9 9 5)) ∧
    decode (bundleOf 0x008B_0103_1490_2800 0x8000_0000_0000_0000) = .ok (slotAOnly (.amoAdd .i32 .core 4 5 3 8 9)) ∧
    decode (bundleOf 0x0054_0109_281C_0100 0) = .ok (slotAOnly (.meet 4 9 10 7 4096)) ∧
    decode (bundleOf 0x0064_0AE1_0000_0000 0) = .ok (slotAOnly (.taskd 43 33)) ∧
    decode (bundleOf 0 0x0622_0CC6_0015_C000) = .ok (slotVOnly (.vgath .n8 .ord { q := 1, zero := false } 3 12 24 5)) ∧
    decode (bundleOf 0x0400_0000_0000_0000 0) = .error { why := .longForm, op := 0, slotV := false } ∧
    (decode (bundleOf 0x0800_0000_0000_0000 0)).toOption = none ∧ (decode (bundleOf 0x0000_8000_0000_0000 0)).toOption = none ∧
    (decode (bundleOf 0x00FF_0000_0000_0000 0)).toOption = none

/-- R41, R85 to R92: the decoder reads every well-formed bundle, with every operand at every value its encoding admits, back from the bytes of the
encoder. -/
def Obligations.DecodingUndoesEncoding : Prop := ∀ (u : Bundle) (more : List Byte), u.wf = true → decode (encode u ++ more) = .ok u

/-- Every step keeps every memory in its canonical form, from every state. -/
def Obligations.MemoriesStayCanonical : Prop := ∀ s t : State, Canonical s → step s = .next t → Canonical t

/-- R103: LEA writes D := x(S1) + (x(S2) << s) with s its FN, 0 to 7, and changes nothing else; FN 8 to 63 is illegal. -/
def Obligations.LeaResult : Prop :=
  (∀ (s : State) (d a b : SReg) (k : BitVec 3), ∃ t, exec (.lea d a b k) s = .next t ∧ WroteX s t d (s.rx a + (s.rx b <<< k.toNat))) ∧
    ∀ f : AF, f.op = 0x19 → (∀ i, decodeAF f = .ok i → f.fn.toNat < 8 ∧ i = .lea f.d f.s1 f.s2 (f.fn.truncate 3)) ∧
      (f.fn.toNat < 8 → f.grd ≠ 8 → f.imm = 0 → decodeAF f = .ok (.lea f.d f.s1 f.s2 (f.fn.truncate 3)))

/-- R133, R74, R75: RAND writes D := draw(%rkey, %rctr), then advances %rctr by 1 modulo 2^64, a wrap setting RNGWRAP; nothing else changes. Its S1 and
S2, unused, must be zero (R99). -/
def Obligations.RandResult : Prop :=
  (∀ (s : State) (d : SReg), ∃ t, exec (.rand d) s = .next t ∧ WroteX (drew s) t d (draw s.me.rkey s.me.rctr)) ∧
    ∀ f : AF, f.op = 0x72 → (∀ i, decodeAF f = .ok i → f.s1 = 0 ∧ f.s2 = 0 ∧ i = .rand f.d) ∧
      (f.grd ≠ 8 → f.s1 = 0 → f.s2 = 0 → f.fn = 0 → f.imm = 0 → decodeAF f = .ok (.rand f.d))

/-- R204: VRAND draws once per lane; each active lane receives the uniform f32 of R76, or the low 32 bits of its draw; %rctr advances once, a wrap sets
RNGWRAP, and nothing else changes; its TY is 0 or 4, with VS1 to VS3, FN and imm11 zero. -/
def Obligations.VrandResult : Prop :=
  (∀ (s : State) (raw : Bool) (m : VMask) (vd : VRegF), ∃ t v, exec (.vrand raw m vd) s = .next t ∧ WroteV (drew s) t vd v ∧
    Masked s m vd v (fun l => if raw then (drawOf s l).toNat % 2 ^ 32 else (uniformF32 (drawOf s l)).toNat)) ∧
    ∀ f : VF, f.op = 0x81 → ∀ i, decodeVF f = .ok i → (f.ty = 0 ∨ f.ty = 4) ∧ f.vs1 = 0 ∧ f.vs2 = 0 ∧ f.vs3 = 0 ∧ f.fn = 0 ∧ f.imm = 0 ∧
      i = .vrand (f.ty = 4) { q := f.mask, zero := f.mz = 1 } f.vd

/-- R76: the uniform f32 of a draw d is exactly (d >> 40) × 2^-24, from 0 to 1 - 2^-24, and takes every multiple of 2^-24 there. -/
def Obligations.UniformIsExact : Prop :=
  (∀ d : Word, ratOf (tyValue .f32 (uniformF32 d).toNat) = some (((d.toNat / 2 ^ 40 : Nat) : ℚ) / 2 ^ 24) ∧ d.toNat / 2 ^ 40 ≤ 2 ^ 24 - 1) ∧
    ∀ n < 2 ^ 24, ∃ d : Word, ratOf (tyValue .f32 (uniformF32 d).toNat) = some ((n : ℚ) / 2 ^ 24)

/-! ## Statements of several parts -/

/-- R50 to R53, R59, R61, R62: the float operations round their exact value once, and rounding gives the representable value that RM names. -/
def Obligations.FloatOperationsAreExact : Prop := Claims.OperationsAreExact ∧ Claims.RoundingIsRight

/-- R63, R96, R102 to R107, R172: the scalar instructions, the predicate instructions, the divisions and the two no-operations complete with the value of their row and
change nothing else. -/
def Obligations.ScalarInstructions : Prop := Claims.ScalarResultAndFrame ∧ Claims.PredicateResultAndFrame ∧ Claims.DivisionResult ∧ Claims.NopsChangeNothing

/-- R176, R172, R58, R52, R74, R96: the rounding vector operations, those of one turn and those of 2 or 3 turns. What rounding gives is FloatOperationsAreExact's. -/
def Obligations.VectorFloat : Prop := Claims.VectorFloatResult ∧ Claims.VectorFloatLateResult

/-- R55, R179, R182 to R188: conversion, block quantisation, scans, and the instructions that replace one element or one part. Rounding to a float format is FloatOperationsAreExact's. -/
def Obligations.ConversionAndQuantisation : Prop := Claims.VectorConversionResult ∧ Claims.VectorQuantiseAndPackResult ∧ Claims.IntegerRoundingIsRight

/-- R178, R179, R181, R187, R189: the slot V instructions that write a scalar register or a lane mask. -/
def Obligations.ScalarAndMaskResults : Prop := Claims.VectorToScalarResult ∧ Claims.LaneMaskResult

/-- R307, R312, R313: which precise causes are fatal, and what a fatal fault does to its context. -/
def Obligations.FatalFaults : Prop := Claims.FatalFaultsAtTheBundle ∧ Claims.FatalFaultsHold

/-- R110, R305: ERET returns to user mode at %upc, and TRAP in runtime mode calls the firmware services. -/
def Obligations.ServicesAndReturn : Prop := Claims.ReturnFromUpcall ∧ Claims.RuntimeServices

/-- R98, R100, R111 to R130, R142, R167: the instructions that wait or read status. -/
def Obligations.WaitsAndStatus : Prop := Claims.WaitAndStatusResult ∧ Claims.WaitrResult

/-- R128 to R130, R369 to R374: the range deque and the barriers. -/
def Obligations.DequesAndBarriers : Prop := Claims.DequeResult ∧ Claims.BarrierResult ∧ Claims.BarrierWaitResult

/-- R112 to R117, R335, R352 to R354, R357, R358: joining and leaving a group, meeting in it, and the end of a thread. -/
def Obligations.GroupsAndExit : Prop := Claims.GroupMembership ∧ Claims.MeetArrival ∧ Claims.ExitResult

/-- R111, R120, R339: the child thread, and the move to another core. -/
def Obligations.SpawnAndMigration : Prop := Claims.SpawnResult ∧ Claims.MigrationResult

/-- R135, R137, R149, R151, R152, R289, R307, R365: accesses that a tag denies, that a check stops, or that %mul forbids. -/
def Obligations.DeniedAndFaultingAccesses : Prop := Claims.DeniedAccess ∧ Claims.AccessFaults ∧ Claims.MultiplicityFault

/-- R147, R148, R155, R241 to R245: the fences, and the full/empty accesses. -/
def Obligations.FencesAndFullEmpty : Prop := Claims.FencesComplete ∧ Claims.FullEmptyResult

/-- R121 to R123, R191, R333: SEND, RECV, RTAKE and QSUM. -/
def Obligations.MessagesSent : Prop := Claims.MessageResult ∧ Claims.MessageSum

/-- R127, R325 to R330, R349: launch records from threads and from the host. -/
def Obligations.KernelLaunches : Prop := Claims.KernelLaunchResult ∧ Claims.LaunchRecords

/-- R131, R158, R168, R169, R205 to R209: commands pushed to the engines, and their leases. -/
def Obligations.CommandsAndLeases : Prop := Claims.CommandQueueing ∧ Claims.LeaseResult

/-- R159 to R163: the asynchronous copies and the tile transfers of a thread. -/
def Obligations.CopiesAndTiles : Prop := Claims.CopyIssue ∧ Claims.TileTransfer

/-- R195 to R201: binding, stepping and reading streams. -/
def Obligations.Streams : Prop := Claims.StreamControl ∧ Claims.StreamElementsArrive

/-- R136, R143 to R154, R192 to R194: the accesses in flight to an LM perform, or meet uncorrectable data, and those of a vector perform. -/
def Obligations.NearAccessesPerform : Prop := Claims.LocalMemoryAccessPerforms ∧ Claims.VectorAccessPerforms

/-- R138, R139, R140, R167, R282 to R293: an access is confirmed by its translation, and replies reach their registers. -/
def Obligations.RepliesArrive : Prop := Claims.TranslationConfirmed ∧ Claims.RepliesReach

/-- R96, R97, R116, R130, R308 to R311: what a thread's time brings: timers, results of fixed latency, upcalls. -/
def Obligations.TimedResultsAndUpcalls : Prop := Claims.TimersExpire ∧ Claims.LateResultsAreWritten ∧ Claims.UpcallsAreDelivered

/-- R115, R168, R169, R272, R356 to R364: meets close, leases pass, windows end. -/
def Obligations.MeetsLeasesAndWindowsEnd : Prop := Claims.MeetsClose ∧ Claims.LeasesPassAndWindowsEnd

/-- R329, R335 to R341, R404 to R406: kernels are admitted, granted clusters, staged and started, gangs at their tick. -/
def Obligations.KernelsStart : Prop := Claims.KernelsAreAdmitted ∧ Claims.KernelsAreStaged ∧ Claims.GangsStart

/-- R303, R317, R322, R337, R342 to R346: kernels retire; contexts are pre-empted, resumed and time-shared. -/
def Obligations.KernelsEndAndAreSwapped : Prop := Claims.KernelsRetire ∧ Claims.ContextsAreSwapped

/-- R410 to R418: the mailbox protocol, and its commands that concern the device. -/
def Obligations.MailboxCommands : Prop := Claims.MailboxProtocol ∧ Claims.DeviceCommands

/-- R302, R303, R315, R329, R349: contexts are built, loaded, closed and torn down; their queues open, drain and close. -/
def Obligations.ContextsAndQueues : Prop := Claims.ContextsComeAndGo ∧ Claims.QueuesChangeState

/-- R396 to R400: the states of a link, and the flits it takes and repeats. -/
def Obligations.LinksAndFlits : Prop := Claims.LinkStates ∧ Claims.FlitsArrive

/-- R408 to R410, R414, R417, R418: the start of the device, its error records and its power steps. -/
def Obligations.BootErrorsAndPower : Prop := Claims.DeviceStarts ∧ Claims.ErrorsAndPower
end

