-- ==== Sys2Proof/Laws/Memory.lean ====
section
/-! SUPPORT. Memory as bytes by address: the canonical form is kept by every operation, and what a byte reads as after
each of them. -/

namespace Sys2Proof.Machine

/-- Every listed address is at least `a`. -/
def Memory.above (m : Memory) (a : Nat) : Prop := ∀ c ∈ m, a ≤ c.1

theorem Memory.wf_cons {c : Host.Cell} {m : Memory} :
    Memory.wf (c :: m) = true ↔ c.2 ≠ 0 ∧ Memory.above m (c.1 + 1) ∧ Memory.wf m = true := by
  induction m generalizing c with
  | nil => simp [Memory.wf, Memory.above]
  | cons d t ih =>
    simp only [Memory.wf, Bool.and_eq_true, decide_eq_true_eq]
    constructor
    · rintro ⟨⟨h1, h2⟩, h3⟩
      refine ⟨by simpa using h1, ?_, h3⟩
      have := (ih.mp h3).2.1
      intro e he
      rcases List.mem_cons.mp he with rfl | he
      · omega
      · have := this e he; omega
    · rintro ⟨h1, h2, h3⟩
      refine ⟨⟨by simpa using h1, ?_⟩, h3⟩
      have := h2 d (by simp)
      omega

/-- Removing entries keeps the canonical form. -/
theorem Memory.wf_filter {m : Memory} {p : Host.Cell → Bool} (h : m.wf = true) : Memory.wf (m.filter p) = true := by
  induction m with
  | nil => rfl
  | cons e t ih =>
    obtain ⟨h1, h2, h3⟩ := Memory.wf_cons.mp h
    rw [List.filter_cons]
    split
    · exact Memory.wf_cons.mpr ⟨h1, fun c hc => h2 c (List.mem_filter.mp hc).1, ih h3⟩
    · exact ih h3

theorem Memory.above_enter {m : Memory} {a b : Nat} {x : Byte} (h : m.above b) (hb : b ≤ a) : (m.enter a x).above b := by
  induction m with
  | nil => intro c hc; simp only [Memory.enter, List.mem_singleton] at hc; subst hc; exact hb
  | cons e t ih =>
    have ht : Memory.above t b := fun c hc => h c (List.mem_cons_of_mem _ hc)
    have he := h e (by simp)
    obtain ⟨k, v⟩ := e
    simp only [Memory.enter]
    split
    · intro c hc
      rcases List.mem_cons.mp hc with rfl | hc
      · exact hb
      · exact ht c hc
    · split
      · intro c hc
        rcases List.mem_cons.mp hc with rfl | hc
        · exact hb
        · exact h c hc
      · intro c hc
        rcases List.mem_cons.mp hc with rfl | hc
        · exact he
        · exact ih ht c hc

theorem Memory.wf_enter {m : Memory} {a : Nat} {x : Byte} (h : m.wf = true) (hx : x ≠ 0) : (m.enter a x).wf = true := by
  induction m with
  | nil => simpa [Memory.enter, Memory.wf] using hx
  | cons e t ih =>
    obtain ⟨k, v⟩ := e
    obtain ⟨h1, h2, h3⟩ := Memory.wf_cons.mp h
    simp only [Memory.enter]
    split
    · next hk => subst hk; exact Memory.wf_cons.mpr ⟨hx, h2, h3⟩
    · next hk =>
      split
      · next hlt =>
        refine Memory.wf_cons.mpr ⟨hx, ?_, h⟩
        intro c hc
        rcases List.mem_cons.mp hc with rfl | hc
        · simpa using hlt
        · have := h2 c hc; simp only at this ⊢; omega
      · next hlt =>
        refine Memory.wf_cons.mpr ⟨h1, Memory.above_enter h2 ?_, ih h3⟩
        simp only; omega

/-- Writing a byte keeps the canonical form. -/
theorem Memory.wf_put {m : Memory} {a : Nat} {x : Byte} (h : m.wf = true) : (m.put a x).wf = true := by
  simp only [Memory.put]
  split
  · exact Memory.wf_filter h
  · exact Memory.wf_enter h (by assumption)

/-- Writing bytes keeps the canonical form. -/
theorem Memory.wf_write {m : Memory} {a : Nat} {bs : List Byte} (h : m.wf = true) : (m.write a bs).wf = true := by
  induction bs generalizing m a with
  | nil => exact h
  | cons b t ih => exact ih (Memory.wf_put h)

/-- Clearing a range keeps the canonical form. -/
theorem Memory.wf_clear {m : Memory} {a n : Nat} (h : m.wf = true) : (m.clear a n).wf = true := Memory.wf_filter h

/-- Folding writes keeps the canonical form. -/
theorem Memory.wf_foldl {α : Type} {f : Memory → α → Memory} (hf : ∀ m x, m.wf = true → (f m x).wf = true) (l : List α)
    {m : Memory} (h : m.wf = true) : (l.foldl f m).wf = true := by
  induction l generalizing m with
  | nil => exact h
  | cons x t ih => exact ih (hf _ _ h)

/-! ## Reading -/

theorem Memory.get_above {m : Memory} {a : Nat} (h : m.above (a + 1)) : m.get a = 0 := by
  induction m with
  | nil => rfl
  | cons e t ih =>
    have := h e (by simp)
    simp only [Memory.get]
    rw [if_neg (by omega)]
    exact ih (fun c hc => h c (List.mem_cons_of_mem _ hc))

theorem Memory.get_filter {m : Memory} {p : Nat → Bool} {j : Nat} :
    Memory.get (m.filter (fun c => p c.1)) j = if p j then m.get j else 0 := by
  induction m with
  | nil => simp [Memory.get]
  | cons e t ih =>
    obtain ⟨k, v⟩ := e
    rw [List.filter_cons]
    by_cases hk : k = j
    · subst hk; by_cases hp : p k <;> simp [hp, Memory.get, ih]
    · by_cases hp : p k <;> simp [hp, Memory.get, ih, hk]

theorem Memory.get_enter {m : Memory} {a j : Nat} {x : Byte} : (m.enter a x).get j = if j = a then x else m.get j := by
  induction m with
  | nil => by_cases hj : j = a
           · simp [Memory.enter, Memory.get, hj]
           · simp [Memory.enter, Memory.get, hj, Ne.symm hj]
  | cons e t ih =>
    obtain ⟨k, v⟩ := e
    simp only [Memory.enter]
    split
    · next hk =>
      subst hk
      by_cases hj : j = k
      · simp [Memory.get, hj]
      · simp [Memory.get, hj, Ne.symm hj]
    · split
      · by_cases hj : j = a
        · simp [Memory.get, hj]
        · simp [Memory.get, hj, Ne.symm hj]
      · next hk _ =>
        simp only [Memory.get, ih]
        by_cases hj : k = j
        · subst hj; simp [hk]
        · simp [hj]

/-- A byte reads as it was written, and every other byte as before. -/
theorem Memory.get_put {m : Memory} {a j : Nat} {x : Byte} : (m.put a x).get j = if j = a then x else m.get j := by
  simp only [Memory.put]
  split
  · next hx =>
    rw [Memory.get_filter (p := fun n => n != a)]
    by_cases hj : j = a <;> simp [hj, hx]
  · exact Memory.get_enter

/-- A cleared range reads as 0, every other byte as before. -/
theorem Memory.get_clear {m : Memory} {a n j : Nat} : (m.clear a n).get j = if a ≤ j ∧ j < a + n then 0 else m.get j := by
  rw [Memory.clear, Memory.get_filter (p := fun k => decide (k < a) || decide (a + n ≤ k))]
  by_cases h : a ≤ j ∧ j < a + n
  · rw [if_pos h, if_neg (by simp; omega)]
  · rw [if_neg h, if_pos (by simp; omega)]

/-- Bytes outside a written range read as before. -/
theorem Memory.get_write_out {m : Memory} {a j : Nat} {bs : List Byte} (hj : j < a ∨ a + bs.length ≤ j) :
    (m.write a bs).get j = m.get j := by
  induction bs generalizing m a with
  | nil => rfl
  | cons b t ih =>
    simp only [Memory.write, List.length_cons] at hj ⊢
    rw [ih (by omega), Memory.get_put, if_neg (by omega)]

/-- A written byte reads as it was written. -/
theorem Memory.get_write_in {m : Memory} {a j : Nat} {bs : List Byte} (hj : j < bs.length) :
    (m.write a bs).get (a + j) = bs[j] := by
  induction bs generalizing m a j with
  | nil => simp at hj
  | cons b t ih =>
    simp only [Memory.write]
    cases j with
    | zero => rw [Nat.add_zero, Memory.get_write_out (by omega), Memory.get_put]; simp
    | succ j =>
      have := ih (m := m.put a b) (a := a + 1) (j := j) (by simpa using hj)
      rw [show a + (j + 1) = a + 1 + j by omega, this]; rfl

theorem Memory.length_read (m : Memory) (a n : Nat) : (m.read a n).length = n := by
  induction n generalizing a with
  | zero => rfl
  | succ n ih => simp [Memory.read, ih]

theorem Memory.getElem_read {m : Memory} {a n i : Nat} (h : i < (m.read a n).length) : (m.read a n)[i] = m.get (a + i) := by
  induction n generalizing a i with
  | zero => simp [Memory.read] at h
  | succ n ih =>
    cases i with
    | zero => rfl
    | succ i =>
      simp only [Memory.read, List.getElem_cons_succ]
      rw [ih]; congr 1; omega

/-- Bytes read back are the bytes written. -/
theorem Memory.read_write {m : Memory} {a : Nat} {bs : List Byte} : (m.write a bs).read a bs.length = bs := by
  apply List.ext_getElem
  · exact Memory.length_read ..
  · intro i h1 h2
    rw [Memory.getElem_read, Memory.get_write_in h2]

/-- Two canonical memories that read alike are equal. -/
theorem Memory.ext {m n : Memory} (hm : m.wf = true) (hn : n.wf = true) (h : ∀ a, m.get a = n.get a) : m = n := by
  induction m generalizing n with
  | nil =>
    cases n with
    | nil => rfl
    | cons e t =>
      obtain ⟨h1, h2, h3⟩ := Memory.wf_cons.mp hn
      have := h e.1
      simp [Memory.get] at this
      exact absurd this.symm h1
  | cons e t ih =>
    obtain ⟨h1, h2, h3⟩ := Memory.wf_cons.mp hm
    cases n with
    | nil =>
      have := h e.1
      simp [Memory.get] at this
      exact absurd this h1
    | cons e' t' =>
      obtain ⟨g1, g2, g3⟩ := Memory.wf_cons.mp hn
      obtain ⟨k, v⟩ := e
      obtain ⟨k', v'⟩ := e'
      have hk : k = k' := by
        by_contra hne
        rcases Nat.lt_or_gt_of_ne hne with hlt | hlt
        · have := h k
          simp only [Memory.get, ↓reduceIte] at this
          rw [if_neg (by omega), Memory.get_above (fun c hc => by have := g2 c hc; simp only at this; omega)] at this
          exact h1 this
        · have := h k'
          simp only [Memory.get, ↓reduceIte] at this
          rw [if_neg (by omega), Memory.get_above (fun c hc => by have := h2 c hc; simp only at this; omega)] at this
          exact g1 this.symm
      subst hk
      have hv : v = v' := by simpa [Memory.get] using h k
      subst hv
      congr 1
      refine ih h3 g3 (fun a => ?_)
      by_cases ha : a ≤ k
      · rw [Memory.get_above (fun c hc => by have := h2 c hc; simp only at this; omega),
          Memory.get_above (fun c hc => by have := g2 c hc; simp only at this; omega)]
      · have := h a
        simp only [Memory.get] at this
        rwa [if_neg (by omega), if_neg (by omega)] at this

end Sys2Proof.Machine
end

