-- ==== Sys2Proof/Laws/Table.lean ====
section
/-! SUPPORT. Sparse tables: what is read after a write. -/

namespace Sys2Proof

@[simp] theorem AMap.get_put_same {α : Type} (d : α) (m : AMap α) (n : Nat) (w : α) : (m.put n w).get d n = w := by
  induction m with
  | nil => simp [AMap.put, AMap.get]
  | cons e t ih =>
    obtain ⟨k, v⟩ := e
    simp only [AMap.put]
    split
    · simp [AMap.get, *]
    · split
      · simp [AMap.get]
      · simp [AMap.get, *]

theorem AMap.get_put_ne {α : Type} (d : α) (m : AMap α) (n j : Nat) (w : α) (h : j ≠ n) :
    (m.put n w).get d j = m.get d j := by
  induction m with
  | nil => simp [AMap.put, AMap.get, Ne.symm h]
  | cons e t ih =>
    obtain ⟨k, v⟩ := e
    simp only [AMap.put]
    split
    · next hk => subst hk; simp [AMap.get, Ne.symm h]
    · split
      · simp [AMap.get, Ne.symm h]
      · simp only [AMap.get]; split <;> [rfl; exact ih]

/-- Reading after a write, at any number. -/
theorem AMap.get_put {α : Type} (d : α) (m : AMap α) (n j : Nat) (w : α) :
    (m.put n w).get d j = if j = n then w else m.get d j := by
  by_cases h : j = n
  · subst h; simp
  · simp [h, AMap.get_put_ne]

end Sys2Proof
end

