-- ==== Sys2Proof/Laws/State.lean ====
section
/-! SUPPORT. One lemma per field and update of State, so that no proof unfolds a record update. -/

namespace Sys2Proof.Machine

/-! ## setThread -/

@[simp] theorem State.setThread_mem (s : State) (k : Nat) (t : Thread) : (s.setThread k t).mem = s.mem := rfl
@[simp] theorem State.setThread_hostMem (s : State) (k : Nat) (t : Thread) : (s.setThread k t).hostMem = s.hostMem := rfl
@[simp] theorem State.setThread_ecc (s : State) (k : Nat) (t : Thread) : (s.setThread k t).ecc = s.ecc := rfl
@[simp] theorem State.setThread_ops (s : State) (k : Nat) (t : Thread) : (s.setThread k t).ops = s.ops := rfl
@[simp] theorem State.setThread_ptRoot (s : State) (k : Nat) (t : Thread) : (s.setThread k t).ptRoot = s.ptRoot := rfl
@[simp] theorem State.setThread_faultReqs (s : State) (k : Nat) (t : Thread) : (s.setThread k t).faultReqs = s.faultReqs := rfl
@[simp] theorem State.setThread_heldWrites (s : State) (k : Nat) (t : Thread) : (s.setThread k t).heldWrites = s.heldWrites := rfl
@[simp] theorem State.setThread_hostRegions (s : State) (k : Nat) (t : Thread) : (s.setThread k t).hostRegions = s.hostRegions := rfl
@[simp] theorem State.setThread_slices (s : State) (k : Nat) (t : Thread) : (s.setThread k t).slices = s.slices := rfl
@[simp] theorem State.setThread_glades (s : State) (k : Nat) (t : Thread) : (s.setThread k t).glades = s.glades := rfl
@[simp] theorem State.setThread_pageCtl (s : State) (k : Nat) (t : Thread) : (s.setThread k t).pageCtl = s.pageCtl := rfl
@[simp] theorem State.setThread_served (s : State) (k : Nat) (t : Thread) : (s.setThread k t).served = s.served := rfl
@[simp] theorem State.setThread_servedAt (s : State) (k : Nat) (t : Thread) : (s.setThread k t).servedAt = s.servedAt := rfl
@[simp] theorem State.setThread_walks (s : State) (k : Nat) (t : Thread) : (s.setThread k t).walks = s.walks := rfl
@[simp] theorem State.setThread_threads (s : State) (k : Nat) (t : Thread) : (s.setThread k t).threads = s.threads.put k t := rfl
@[simp] theorem State.setThread_ccs (s : State) (k : Nat) (t : Thread) : (s.setThread k t).ccs = s.ccs := rfl
@[simp] theorem State.setThread_cores (s : State) (k : Nat) (t : Thread) : (s.setThread k t).cores = s.cores := rfl
@[simp] theorem State.setThread_clusters (s : State) (k : Nat) (t : Thread) : (s.setThread k t).clusters = s.clusters := rfl
@[simp] theorem State.setThread_units (s : State) (k : Nat) (t : Thread) : (s.setThread k t).units = s.units := rfl
@[simp] theorem State.setThread_engs (s : State) (k : Nat) (t : Thread) : (s.setThread k t).engs = s.engs := rfl
@[simp] theorem State.setThread_banks (s : State) (k : Nat) (t : Thread) : (s.setThread k t).banks = s.banks := rfl
@[simp] theorem State.setThread_clauses (s : State) (k : Nat) (t : Thread) : (s.setThread k t).clauses = s.clauses := rfl
@[simp] theorem State.setThread_kernels (s : State) (k : Nat) (t : Thread) : (s.setThread k t).kernels = s.kernels := rfl
@[simp] theorem State.setThread_ctxs (s : State) (k : Nat) (t : Thread) : (s.setThread k t).ctxs = s.ctxs := rfl
@[simp] theorem State.setThread_weights (s : State) (k : Nat) (t : Thread) : (s.setThread k t).weights = s.weights := rfl
@[simp] theorem State.setThread_rrPtr (s : State) (k : Nat) (t : Thread) : (s.setThread k t).rrPtr = s.rrPtr := rfl
@[simp] theorem State.setThread_rrGranted (s : State) (k : Nat) (t : Thread) : (s.setThread k t).rrGranted = s.rrGranted := rfl
@[simp] theorem State.setThread_windows (s : State) (k : Nat) (t : Thread) : (s.setThread k t).windows = s.windows := rfl
@[simp] theorem State.setThread_homes (s : State) (k : Nat) (t : Thread) : (s.setThread k t).homes = s.homes := rfl
@[simp] theorem State.setThread_farResv (s : State) (k : Nat) (t : Thread) : (s.setThread k t).farResv = s.farResv := rfl
@[simp] theorem State.setThread_farWait (s : State) (k : Nat) (t : Thread) : (s.setThread k t).farWait = s.farWait := rfl
@[simp] theorem State.setThread_schedAt (s : State) (k : Nat) (t : Thread) : (s.setThread k t).schedAt = s.schedAt := rfl
@[simp] theorem State.setThread_cycle (s : State) (k : Nat) (t : Thread) : (s.setThread k t).cycle = s.cycle := rfl
@[simp] theorem State.setThread_time (s : State) (k : Nat) (t : Thread) : (s.setThread k t).time = s.time := rfl
@[simp] theorem State.setThread_frac (s : State) (k : Nat) (t : Thread) : (s.setThread k t).frac = s.frac := rfl
@[simp] theorem State.setThread_lastTime (s : State) (k : Nat) (t : Thread) : (s.setThread k t).lastTime = s.lastTime := rfl
@[simp] theorem State.setThread_mhz (s : State) (k : Nat) (t : Thread) : (s.setThread k t).mhz = s.mhz := rfl
@[simp] theorem State.setThread_stepAt (s : State) (k : Nat) (t : Thread) : (s.setThread k t).stepAt = s.stepAt := rfl
@[simp] theorem State.setThread_capWatts (s : State) (k : Nat) (t : Thread) : (s.setThread k t).capWatts = s.capWatts := rfl
@[simp] theorem State.setThread_hot (s : State) (k : Nat) (t : Thread) : (s.setThread k t).hot = s.hot := rfl
@[simp] theorem State.setThread_capReported (s : State) (k : Nat) (t : Thread) : (s.setThread k t).capReported = s.capReported := rfl
@[simp] theorem State.setThread_power (s : State) (k : Nat) (t : Thread) : (s.setThread k t).power = s.power := rfl
@[simp] theorem State.setThread_deviceId (s : State) (k : Nat) (t : Thread) : (s.setThread k t).deviceId = s.deviceId := rfl
@[simp] theorem State.setThread_links (s : State) (k : Nat) (t : Thread) : (s.setThread k t).links = s.links := rfl
@[simp] theorem State.setThread_isReference (s : State) (k : Nat) (t : Thread) : (s.setThread k t).isReference = s.isReference := rfl
@[simp] theorem State.setThread_locked (s : State) (k : Nat) (t : Thread) : (s.setThread k t).locked = s.locked := rfl
@[simp] theorem State.setThread_lockChanges (s : State) (k : Nat) (t : Thread) : (s.setThread k t).lockChanges = s.lockChanges := rfl
@[simp] theorem State.setThread_timeSet (s : State) (k : Nat) (t : Thread) : (s.setThread k t).timeSet = s.timeSet := rfl
@[simp] theorem State.setThread_offset (s : State) (k : Nat) (t : Thread) : (s.setThread k t).offset = s.offset := rfl
@[simp] theorem State.setThread_within (s : State) (k : Nat) (t : Thread) : (s.setThread k t).within = s.within := rfl
@[simp] theorem State.setThread_slewAt (s : State) (k : Nat) (t : Thread) : (s.setThread k t).slewAt = s.slewAt := rfl
@[simp] theorem State.setThread_pathLost (s : State) (k : Nat) (t : Thread) : (s.setThread k t).pathLost = s.pathLost := rfl
@[simp] theorem State.setThread_routes (s : State) (k : Nat) (t : Thread) : (s.setThread k t).routes = s.routes := rfl
@[simp] theorem State.setThread_bootRec (s : State) (k : Nat) (t : Thread) : (s.setThread k t).bootRec = s.bootRec := rfl
@[simp] theorem State.setThread_excludedMask (s : State) (k : Nat) (t : Thread) : (s.setThread k t).excludedMask = s.excludedMask := rfl
@[simp] theorem State.setThread_starts (s : State) (k : Nat) (t : Thread) : (s.setThread k t).starts = s.starts := rfl
@[simp] theorem State.setThread_skuG120 (s : State) (k : Nat) (t : Thread) : (s.setThread k t).skuG120 = s.skuG120 := rfl
@[simp] theorem State.setThread_rootDigest (s : State) (k : Nat) (t : Thread) : (s.setThread k t).rootDigest = s.rootDigest := rfl
@[simp] theorem State.setThread_rollback (s : State) (k : Nat) (t : Thread) : (s.setThread k t).rollback = s.rollback := rfl
@[simp] theorem State.setThread_imageVersion (s : State) (k : Nat) (t : Thread) : (s.setThread k t).imageVersion = s.imageVersion := rfl
@[simp] theorem State.setThread_imageDigest (s : State) (k : Nat) (t : Thread) : (s.setThread k t).imageDigest = s.imageDigest := rfl
@[simp] theorem State.setThread_xmssIndex (s : State) (k : Nat) (t : Thread) : (s.setThread k t).xmssIndex = s.xmssIndex := rfl
@[simp] theorem State.setThread_identity (s : State) (k : Nat) (t : Thread) : (s.setThread k t).identity = s.identity := rfl
@[simp] theorem State.setThread_halfBridges (s : State) (k : Nat) (t : Thread) : (s.setThread k t).halfBridges = s.halfBridges := rfl
@[simp] theorem State.setThread_badChannels (s : State) (k : Nat) (t : Thread) : (s.setThread k t).badChannels = s.badChannels := rfl
@[simp] theorem State.setThread_lmScrubAt (s : State) (k : Nat) (t : Thread) : (s.setThread k t).lmScrubAt = s.lmScrubAt := rfl
@[simp] theorem State.setThread_memScrubAt (s : State) (k : Nat) (t : Thread) : (s.setThread k t).memScrubAt = s.memScrubAt := rfl
@[simp] theorem State.setThread_keys (s : State) (k : Nat) (t : Thread) : (s.setThread k t).keys = s.keys := rfl
@[simp] theorem State.setThread_version (s : State) (k : Nat) (t : Thread) : (s.setThread k t).version = s.version := rfl
@[simp] theorem State.setThread_areaBase (s : State) (k : Nat) (t : Thread) : (s.setThread k t).areaBase = s.areaBase := rfl
@[simp] theorem State.setThread_writeIdx (s : State) (k : Nat) (t : Thread) : (s.setThread k t).writeIdx = s.writeIdx := rfl
@[simp] theorem State.setThread_returned (s : State) (k : Nat) (t : Thread) : (s.setThread k t).returned = s.returned := rfl
@[simp] theorem State.setThread_heldEvents (s : State) (k : Nat) (t : Thread) : (s.setThread k t).heldEvents = s.heldEvents := rfl
@[simp] theorem State.setThread_droppedEvents (s : State) (k : Nat) (t : Thread) : (s.setThread k t).droppedEvents = s.droppedEvents := rfl
@[simp] theorem State.setThread_out (s : State) (k : Nat) (t : Thread) : (s.setThread k t).out = s.out := rfl
@[simp] theorem State.setThread_input (s : State) (k : Nat) (t : Thread) : (s.setThread k t).input = s.input := rfl
@[simp] theorem State.setThread_cur (s : State) (k : Nat) (t : Thread) : (s.setThread k t).cur = s.cur := rfl
@[simp] theorem State.setThread_issue (s : State) (k : Nat) (t : Thread) : (s.setThread k t).issue = s.issue := rfl
@[simp] theorem State.setThread_nextId (s : State) (k : Nat) (t : Thread) : (s.setThread k t).nextId = s.nextId := rfl
@[simp] theorem State.setThread_drawn (s : State) (k : Nat) (t : Thread) : (s.setThread k t).drawn = s.drawn := rfl

/-! ## setMe -/

@[simp] theorem State.setMe_mem (s : State) (t : Thread) : (s.setMe t).mem = s.mem := rfl
@[simp] theorem State.setMe_hostMem (s : State) (t : Thread) : (s.setMe t).hostMem = s.hostMem := rfl
@[simp] theorem State.setMe_ecc (s : State) (t : Thread) : (s.setMe t).ecc = s.ecc := rfl
@[simp] theorem State.setMe_ops (s : State) (t : Thread) : (s.setMe t).ops = s.ops := rfl
@[simp] theorem State.setMe_ptRoot (s : State) (t : Thread) : (s.setMe t).ptRoot = s.ptRoot := rfl
@[simp] theorem State.setMe_faultReqs (s : State) (t : Thread) : (s.setMe t).faultReqs = s.faultReqs := rfl
@[simp] theorem State.setMe_heldWrites (s : State) (t : Thread) : (s.setMe t).heldWrites = s.heldWrites := rfl
@[simp] theorem State.setMe_hostRegions (s : State) (t : Thread) : (s.setMe t).hostRegions = s.hostRegions := rfl
@[simp] theorem State.setMe_slices (s : State) (t : Thread) : (s.setMe t).slices = s.slices := rfl
@[simp] theorem State.setMe_glades (s : State) (t : Thread) : (s.setMe t).glades = s.glades := rfl
@[simp] theorem State.setMe_pageCtl (s : State) (t : Thread) : (s.setMe t).pageCtl = s.pageCtl := rfl
@[simp] theorem State.setMe_served (s : State) (t : Thread) : (s.setMe t).served = s.served := rfl
@[simp] theorem State.setMe_servedAt (s : State) (t : Thread) : (s.setMe t).servedAt = s.servedAt := rfl
@[simp] theorem State.setMe_walks (s : State) (t : Thread) : (s.setMe t).walks = s.walks := rfl
@[simp] theorem State.setMe_threads (s : State) (t : Thread) : (s.setMe t).threads = s.threads.put s.cur t := rfl
@[simp] theorem State.setMe_ccs (s : State) (t : Thread) : (s.setMe t).ccs = s.ccs := rfl
@[simp] theorem State.setMe_cores (s : State) (t : Thread) : (s.setMe t).cores = s.cores := rfl
@[simp] theorem State.setMe_clusters (s : State) (t : Thread) : (s.setMe t).clusters = s.clusters := rfl
@[simp] theorem State.setMe_units (s : State) (t : Thread) : (s.setMe t).units = s.units := rfl
@[simp] theorem State.setMe_engs (s : State) (t : Thread) : (s.setMe t).engs = s.engs := rfl
@[simp] theorem State.setMe_banks (s : State) (t : Thread) : (s.setMe t).banks = s.banks := rfl
@[simp] theorem State.setMe_clauses (s : State) (t : Thread) : (s.setMe t).clauses = s.clauses := rfl
@[simp] theorem State.setMe_kernels (s : State) (t : Thread) : (s.setMe t).kernels = s.kernels := rfl
@[simp] theorem State.setMe_ctxs (s : State) (t : Thread) : (s.setMe t).ctxs = s.ctxs := rfl
@[simp] theorem State.setMe_weights (s : State) (t : Thread) : (s.setMe t).weights = s.weights := rfl
@[simp] theorem State.setMe_rrPtr (s : State) (t : Thread) : (s.setMe t).rrPtr = s.rrPtr := rfl
@[simp] theorem State.setMe_rrGranted (s : State) (t : Thread) : (s.setMe t).rrGranted = s.rrGranted := rfl
@[simp] theorem State.setMe_windows (s : State) (t : Thread) : (s.setMe t).windows = s.windows := rfl
@[simp] theorem State.setMe_homes (s : State) (t : Thread) : (s.setMe t).homes = s.homes := rfl
@[simp] theorem State.setMe_farResv (s : State) (t : Thread) : (s.setMe t).farResv = s.farResv := rfl
@[simp] theorem State.setMe_farWait (s : State) (t : Thread) : (s.setMe t).farWait = s.farWait := rfl
@[simp] theorem State.setMe_schedAt (s : State) (t : Thread) : (s.setMe t).schedAt = s.schedAt := rfl
@[simp] theorem State.setMe_cycle (s : State) (t : Thread) : (s.setMe t).cycle = s.cycle := rfl
@[simp] theorem State.setMe_time (s : State) (t : Thread) : (s.setMe t).time = s.time := rfl
@[simp] theorem State.setMe_frac (s : State) (t : Thread) : (s.setMe t).frac = s.frac := rfl
@[simp] theorem State.setMe_lastTime (s : State) (t : Thread) : (s.setMe t).lastTime = s.lastTime := rfl
@[simp] theorem State.setMe_mhz (s : State) (t : Thread) : (s.setMe t).mhz = s.mhz := rfl
@[simp] theorem State.setMe_stepAt (s : State) (t : Thread) : (s.setMe t).stepAt = s.stepAt := rfl
@[simp] theorem State.setMe_capWatts (s : State) (t : Thread) : (s.setMe t).capWatts = s.capWatts := rfl
@[simp] theorem State.setMe_hot (s : State) (t : Thread) : (s.setMe t).hot = s.hot := rfl
@[simp] theorem State.setMe_capReported (s : State) (t : Thread) : (s.setMe t).capReported = s.capReported := rfl
@[simp] theorem State.setMe_power (s : State) (t : Thread) : (s.setMe t).power = s.power := rfl
@[simp] theorem State.setMe_deviceId (s : State) (t : Thread) : (s.setMe t).deviceId = s.deviceId := rfl
@[simp] theorem State.setMe_links (s : State) (t : Thread) : (s.setMe t).links = s.links := rfl
@[simp] theorem State.setMe_isReference (s : State) (t : Thread) : (s.setMe t).isReference = s.isReference := rfl
@[simp] theorem State.setMe_locked (s : State) (t : Thread) : (s.setMe t).locked = s.locked := rfl
@[simp] theorem State.setMe_lockChanges (s : State) (t : Thread) : (s.setMe t).lockChanges = s.lockChanges := rfl
@[simp] theorem State.setMe_timeSet (s : State) (t : Thread) : (s.setMe t).timeSet = s.timeSet := rfl
@[simp] theorem State.setMe_offset (s : State) (t : Thread) : (s.setMe t).offset = s.offset := rfl
@[simp] theorem State.setMe_within (s : State) (t : Thread) : (s.setMe t).within = s.within := rfl
@[simp] theorem State.setMe_slewAt (s : State) (t : Thread) : (s.setMe t).slewAt = s.slewAt := rfl
@[simp] theorem State.setMe_pathLost (s : State) (t : Thread) : (s.setMe t).pathLost = s.pathLost := rfl
@[simp] theorem State.setMe_routes (s : State) (t : Thread) : (s.setMe t).routes = s.routes := rfl
@[simp] theorem State.setMe_bootRec (s : State) (t : Thread) : (s.setMe t).bootRec = s.bootRec := rfl
@[simp] theorem State.setMe_excludedMask (s : State) (t : Thread) : (s.setMe t).excludedMask = s.excludedMask := rfl
@[simp] theorem State.setMe_starts (s : State) (t : Thread) : (s.setMe t).starts = s.starts := rfl
@[simp] theorem State.setMe_skuG120 (s : State) (t : Thread) : (s.setMe t).skuG120 = s.skuG120 := rfl
@[simp] theorem State.setMe_rootDigest (s : State) (t : Thread) : (s.setMe t).rootDigest = s.rootDigest := rfl
@[simp] theorem State.setMe_rollback (s : State) (t : Thread) : (s.setMe t).rollback = s.rollback := rfl
@[simp] theorem State.setMe_imageVersion (s : State) (t : Thread) : (s.setMe t).imageVersion = s.imageVersion := rfl
@[simp] theorem State.setMe_imageDigest (s : State) (t : Thread) : (s.setMe t).imageDigest = s.imageDigest := rfl
@[simp] theorem State.setMe_xmssIndex (s : State) (t : Thread) : (s.setMe t).xmssIndex = s.xmssIndex := rfl
@[simp] theorem State.setMe_identity (s : State) (t : Thread) : (s.setMe t).identity = s.identity := rfl
@[simp] theorem State.setMe_halfBridges (s : State) (t : Thread) : (s.setMe t).halfBridges = s.halfBridges := rfl
@[simp] theorem State.setMe_badChannels (s : State) (t : Thread) : (s.setMe t).badChannels = s.badChannels := rfl
@[simp] theorem State.setMe_lmScrubAt (s : State) (t : Thread) : (s.setMe t).lmScrubAt = s.lmScrubAt := rfl
@[simp] theorem State.setMe_memScrubAt (s : State) (t : Thread) : (s.setMe t).memScrubAt = s.memScrubAt := rfl
@[simp] theorem State.setMe_keys (s : State) (t : Thread) : (s.setMe t).keys = s.keys := rfl
@[simp] theorem State.setMe_version (s : State) (t : Thread) : (s.setMe t).version = s.version := rfl
@[simp] theorem State.setMe_areaBase (s : State) (t : Thread) : (s.setMe t).areaBase = s.areaBase := rfl
@[simp] theorem State.setMe_writeIdx (s : State) (t : Thread) : (s.setMe t).writeIdx = s.writeIdx := rfl
@[simp] theorem State.setMe_returned (s : State) (t : Thread) : (s.setMe t).returned = s.returned := rfl
@[simp] theorem State.setMe_heldEvents (s : State) (t : Thread) : (s.setMe t).heldEvents = s.heldEvents := rfl
@[simp] theorem State.setMe_droppedEvents (s : State) (t : Thread) : (s.setMe t).droppedEvents = s.droppedEvents := rfl
@[simp] theorem State.setMe_out (s : State) (t : Thread) : (s.setMe t).out = s.out := rfl
@[simp] theorem State.setMe_input (s : State) (t : Thread) : (s.setMe t).input = s.input := rfl
@[simp] theorem State.setMe_cur (s : State) (t : Thread) : (s.setMe t).cur = s.cur := rfl
@[simp] theorem State.setMe_issue (s : State) (t : Thread) : (s.setMe t).issue = s.issue := rfl
@[simp] theorem State.setMe_nextId (s : State) (t : Thread) : (s.setMe t).nextId = s.nextId := rfl
@[simp] theorem State.setMe_drawn (s : State) (t : Thread) : (s.setMe t).drawn = s.drawn := rfl

/-! ## setKernel -/

@[simp] theorem State.setKernel_mem (s : State) (k : Nat) (v : Kernel) : (s.setKernel k v).mem = s.mem := rfl
@[simp] theorem State.setKernel_hostMem (s : State) (k : Nat) (v : Kernel) : (s.setKernel k v).hostMem = s.hostMem := rfl
@[simp] theorem State.setKernel_ecc (s : State) (k : Nat) (v : Kernel) : (s.setKernel k v).ecc = s.ecc := rfl
@[simp] theorem State.setKernel_ops (s : State) (k : Nat) (v : Kernel) : (s.setKernel k v).ops = s.ops := rfl
@[simp] theorem State.setKernel_ptRoot (s : State) (k : Nat) (v : Kernel) : (s.setKernel k v).ptRoot = s.ptRoot := rfl
@[simp] theorem State.setKernel_faultReqs (s : State) (k : Nat) (v : Kernel) : (s.setKernel k v).faultReqs = s.faultReqs := rfl
@[simp] theorem State.setKernel_heldWrites (s : State) (k : Nat) (v : Kernel) : (s.setKernel k v).heldWrites = s.heldWrites := rfl
@[simp] theorem State.setKernel_hostRegions (s : State) (k : Nat) (v : Kernel) : (s.setKernel k v).hostRegions = s.hostRegions := rfl
@[simp] theorem State.setKernel_slices (s : State) (k : Nat) (v : Kernel) : (s.setKernel k v).slices = s.slices := rfl
@[simp] theorem State.setKernel_glades (s : State) (k : Nat) (v : Kernel) : (s.setKernel k v).glades = s.glades := rfl
@[simp] theorem State.setKernel_pageCtl (s : State) (k : Nat) (v : Kernel) : (s.setKernel k v).pageCtl = s.pageCtl := rfl
@[simp] theorem State.setKernel_served (s : State) (k : Nat) (v : Kernel) : (s.setKernel k v).served = s.served := rfl
@[simp] theorem State.setKernel_servedAt (s : State) (k : Nat) (v : Kernel) : (s.setKernel k v).servedAt = s.servedAt := rfl
@[simp] theorem State.setKernel_walks (s : State) (k : Nat) (v : Kernel) : (s.setKernel k v).walks = s.walks := rfl
@[simp] theorem State.setKernel_threads (s : State) (k : Nat) (v : Kernel) : (s.setKernel k v).threads = s.threads := rfl
@[simp] theorem State.setKernel_ccs (s : State) (k : Nat) (v : Kernel) : (s.setKernel k v).ccs = s.ccs := rfl
@[simp] theorem State.setKernel_cores (s : State) (k : Nat) (v : Kernel) : (s.setKernel k v).cores = s.cores := rfl
@[simp] theorem State.setKernel_clusters (s : State) (k : Nat) (v : Kernel) : (s.setKernel k v).clusters = s.clusters := rfl
@[simp] theorem State.setKernel_units (s : State) (k : Nat) (v : Kernel) : (s.setKernel k v).units = s.units := rfl
@[simp] theorem State.setKernel_engs (s : State) (k : Nat) (v : Kernel) : (s.setKernel k v).engs = s.engs := rfl
@[simp] theorem State.setKernel_banks (s : State) (k : Nat) (v : Kernel) : (s.setKernel k v).banks = s.banks := rfl
@[simp] theorem State.setKernel_clauses (s : State) (k : Nat) (v : Kernel) : (s.setKernel k v).clauses = s.clauses := rfl
@[simp] theorem State.setKernel_kernels (s : State) (k : Nat) (v : Kernel) : (s.setKernel k v).kernels = s.kernels.put k v := rfl
@[simp] theorem State.setKernel_ctxs (s : State) (k : Nat) (v : Kernel) : (s.setKernel k v).ctxs = s.ctxs := rfl
@[simp] theorem State.setKernel_weights (s : State) (k : Nat) (v : Kernel) : (s.setKernel k v).weights = s.weights := rfl
@[simp] theorem State.setKernel_rrPtr (s : State) (k : Nat) (v : Kernel) : (s.setKernel k v).rrPtr = s.rrPtr := rfl
@[simp] theorem State.setKernel_rrGranted (s : State) (k : Nat) (v : Kernel) : (s.setKernel k v).rrGranted = s.rrGranted := rfl
@[simp] theorem State.setKernel_windows (s : State) (k : Nat) (v : Kernel) : (s.setKernel k v).windows = s.windows := rfl
@[simp] theorem State.setKernel_homes (s : State) (k : Nat) (v : Kernel) : (s.setKernel k v).homes = s.homes := rfl
@[simp] theorem State.setKernel_farResv (s : State) (k : Nat) (v : Kernel) : (s.setKernel k v).farResv = s.farResv := rfl
@[simp] theorem State.setKernel_farWait (s : State) (k : Nat) (v : Kernel) : (s.setKernel k v).farWait = s.farWait := rfl
@[simp] theorem State.setKernel_schedAt (s : State) (k : Nat) (v : Kernel) : (s.setKernel k v).schedAt = s.schedAt := rfl
@[simp] theorem State.setKernel_cycle (s : State) (k : Nat) (v : Kernel) : (s.setKernel k v).cycle = s.cycle := rfl
@[simp] theorem State.setKernel_time (s : State) (k : Nat) (v : Kernel) : (s.setKernel k v).time = s.time := rfl
@[simp] theorem State.setKernel_frac (s : State) (k : Nat) (v : Kernel) : (s.setKernel k v).frac = s.frac := rfl
@[simp] theorem State.setKernel_lastTime (s : State) (k : Nat) (v : Kernel) : (s.setKernel k v).lastTime = s.lastTime := rfl
@[simp] theorem State.setKernel_mhz (s : State) (k : Nat) (v : Kernel) : (s.setKernel k v).mhz = s.mhz := rfl
@[simp] theorem State.setKernel_stepAt (s : State) (k : Nat) (v : Kernel) : (s.setKernel k v).stepAt = s.stepAt := rfl
@[simp] theorem State.setKernel_capWatts (s : State) (k : Nat) (v : Kernel) : (s.setKernel k v).capWatts = s.capWatts := rfl
@[simp] theorem State.setKernel_hot (s : State) (k : Nat) (v : Kernel) : (s.setKernel k v).hot = s.hot := rfl
@[simp] theorem State.setKernel_capReported (s : State) (k : Nat) (v : Kernel) : (s.setKernel k v).capReported = s.capReported := rfl
@[simp] theorem State.setKernel_power (s : State) (k : Nat) (v : Kernel) : (s.setKernel k v).power = s.power := rfl
@[simp] theorem State.setKernel_deviceId (s : State) (k : Nat) (v : Kernel) : (s.setKernel k v).deviceId = s.deviceId := rfl
@[simp] theorem State.setKernel_links (s : State) (k : Nat) (v : Kernel) : (s.setKernel k v).links = s.links := rfl
@[simp] theorem State.setKernel_isReference (s : State) (k : Nat) (v : Kernel) : (s.setKernel k v).isReference = s.isReference := rfl
@[simp] theorem State.setKernel_locked (s : State) (k : Nat) (v : Kernel) : (s.setKernel k v).locked = s.locked := rfl
@[simp] theorem State.setKernel_lockChanges (s : State) (k : Nat) (v : Kernel) : (s.setKernel k v).lockChanges = s.lockChanges := rfl
@[simp] theorem State.setKernel_timeSet (s : State) (k : Nat) (v : Kernel) : (s.setKernel k v).timeSet = s.timeSet := rfl
@[simp] theorem State.setKernel_offset (s : State) (k : Nat) (v : Kernel) : (s.setKernel k v).offset = s.offset := rfl
@[simp] theorem State.setKernel_within (s : State) (k : Nat) (v : Kernel) : (s.setKernel k v).within = s.within := rfl
@[simp] theorem State.setKernel_slewAt (s : State) (k : Nat) (v : Kernel) : (s.setKernel k v).slewAt = s.slewAt := rfl
@[simp] theorem State.setKernel_pathLost (s : State) (k : Nat) (v : Kernel) : (s.setKernel k v).pathLost = s.pathLost := rfl
@[simp] theorem State.setKernel_routes (s : State) (k : Nat) (v : Kernel) : (s.setKernel k v).routes = s.routes := rfl
@[simp] theorem State.setKernel_bootRec (s : State) (k : Nat) (v : Kernel) : (s.setKernel k v).bootRec = s.bootRec := rfl
@[simp] theorem State.setKernel_excludedMask (s : State) (k : Nat) (v : Kernel) : (s.setKernel k v).excludedMask = s.excludedMask := rfl
@[simp] theorem State.setKernel_starts (s : State) (k : Nat) (v : Kernel) : (s.setKernel k v).starts = s.starts := rfl
@[simp] theorem State.setKernel_skuG120 (s : State) (k : Nat) (v : Kernel) : (s.setKernel k v).skuG120 = s.skuG120 := rfl
@[simp] theorem State.setKernel_rootDigest (s : State) (k : Nat) (v : Kernel) : (s.setKernel k v).rootDigest = s.rootDigest := rfl
@[simp] theorem State.setKernel_rollback (s : State) (k : Nat) (v : Kernel) : (s.setKernel k v).rollback = s.rollback := rfl
@[simp] theorem State.setKernel_imageVersion (s : State) (k : Nat) (v : Kernel) : (s.setKernel k v).imageVersion = s.imageVersion := rfl
@[simp] theorem State.setKernel_imageDigest (s : State) (k : Nat) (v : Kernel) : (s.setKernel k v).imageDigest = s.imageDigest := rfl
@[simp] theorem State.setKernel_xmssIndex (s : State) (k : Nat) (v : Kernel) : (s.setKernel k v).xmssIndex = s.xmssIndex := rfl
@[simp] theorem State.setKernel_identity (s : State) (k : Nat) (v : Kernel) : (s.setKernel k v).identity = s.identity := rfl
@[simp] theorem State.setKernel_halfBridges (s : State) (k : Nat) (v : Kernel) : (s.setKernel k v).halfBridges = s.halfBridges := rfl
@[simp] theorem State.setKernel_badChannels (s : State) (k : Nat) (v : Kernel) : (s.setKernel k v).badChannels = s.badChannels := rfl
@[simp] theorem State.setKernel_lmScrubAt (s : State) (k : Nat) (v : Kernel) : (s.setKernel k v).lmScrubAt = s.lmScrubAt := rfl
@[simp] theorem State.setKernel_memScrubAt (s : State) (k : Nat) (v : Kernel) : (s.setKernel k v).memScrubAt = s.memScrubAt := rfl
@[simp] theorem State.setKernel_keys (s : State) (k : Nat) (v : Kernel) : (s.setKernel k v).keys = s.keys := rfl
@[simp] theorem State.setKernel_version (s : State) (k : Nat) (v : Kernel) : (s.setKernel k v).version = s.version := rfl
@[simp] theorem State.setKernel_areaBase (s : State) (k : Nat) (v : Kernel) : (s.setKernel k v).areaBase = s.areaBase := rfl
@[simp] theorem State.setKernel_writeIdx (s : State) (k : Nat) (v : Kernel) : (s.setKernel k v).writeIdx = s.writeIdx := rfl
@[simp] theorem State.setKernel_returned (s : State) (k : Nat) (v : Kernel) : (s.setKernel k v).returned = s.returned := rfl
@[simp] theorem State.setKernel_heldEvents (s : State) (k : Nat) (v : Kernel) : (s.setKernel k v).heldEvents = s.heldEvents := rfl
@[simp] theorem State.setKernel_droppedEvents (s : State) (k : Nat) (v : Kernel) : (s.setKernel k v).droppedEvents = s.droppedEvents := rfl
@[simp] theorem State.setKernel_out (s : State) (k : Nat) (v : Kernel) : (s.setKernel k v).out = s.out := rfl
@[simp] theorem State.setKernel_input (s : State) (k : Nat) (v : Kernel) : (s.setKernel k v).input = s.input := rfl
@[simp] theorem State.setKernel_cur (s : State) (k : Nat) (v : Kernel) : (s.setKernel k v).cur = s.cur := rfl
@[simp] theorem State.setKernel_issue (s : State) (k : Nat) (v : Kernel) : (s.setKernel k v).issue = s.issue := rfl
@[simp] theorem State.setKernel_nextId (s : State) (k : Nat) (v : Kernel) : (s.setKernel k v).nextId = s.nextId := rfl
@[simp] theorem State.setKernel_drawn (s : State) (k : Nat) (v : Kernel) : (s.setKernel k v).drawn = s.drawn := rfl

/-! ## setCtx -/

@[simp] theorem State.setCtx_mem (s : State) (c : Nat) (v : Ctx) : (s.setCtx c v).mem = s.mem := rfl
@[simp] theorem State.setCtx_hostMem (s : State) (c : Nat) (v : Ctx) : (s.setCtx c v).hostMem = s.hostMem := rfl
@[simp] theorem State.setCtx_ecc (s : State) (c : Nat) (v : Ctx) : (s.setCtx c v).ecc = s.ecc := rfl
@[simp] theorem State.setCtx_ops (s : State) (c : Nat) (v : Ctx) : (s.setCtx c v).ops = s.ops := rfl
@[simp] theorem State.setCtx_ptRoot (s : State) (c : Nat) (v : Ctx) : (s.setCtx c v).ptRoot = s.ptRoot := rfl
@[simp] theorem State.setCtx_faultReqs (s : State) (c : Nat) (v : Ctx) : (s.setCtx c v).faultReqs = s.faultReqs := rfl
@[simp] theorem State.setCtx_heldWrites (s : State) (c : Nat) (v : Ctx) : (s.setCtx c v).heldWrites = s.heldWrites := rfl
@[simp] theorem State.setCtx_hostRegions (s : State) (c : Nat) (v : Ctx) : (s.setCtx c v).hostRegions = s.hostRegions := rfl
@[simp] theorem State.setCtx_slices (s : State) (c : Nat) (v : Ctx) : (s.setCtx c v).slices = s.slices := rfl
@[simp] theorem State.setCtx_glades (s : State) (c : Nat) (v : Ctx) : (s.setCtx c v).glades = s.glades := rfl
@[simp] theorem State.setCtx_pageCtl (s : State) (c : Nat) (v : Ctx) : (s.setCtx c v).pageCtl = s.pageCtl := rfl
@[simp] theorem State.setCtx_served (s : State) (c : Nat) (v : Ctx) : (s.setCtx c v).served = s.served := rfl
@[simp] theorem State.setCtx_servedAt (s : State) (c : Nat) (v : Ctx) : (s.setCtx c v).servedAt = s.servedAt := rfl
@[simp] theorem State.setCtx_walks (s : State) (c : Nat) (v : Ctx) : (s.setCtx c v).walks = s.walks := rfl
@[simp] theorem State.setCtx_threads (s : State) (c : Nat) (v : Ctx) : (s.setCtx c v).threads = s.threads := rfl
@[simp] theorem State.setCtx_ccs (s : State) (c : Nat) (v : Ctx) : (s.setCtx c v).ccs = s.ccs := rfl
@[simp] theorem State.setCtx_cores (s : State) (c : Nat) (v : Ctx) : (s.setCtx c v).cores = s.cores := rfl
@[simp] theorem State.setCtx_clusters (s : State) (c : Nat) (v : Ctx) : (s.setCtx c v).clusters = s.clusters := rfl
@[simp] theorem State.setCtx_units (s : State) (c : Nat) (v : Ctx) : (s.setCtx c v).units = s.units := rfl
@[simp] theorem State.setCtx_engs (s : State) (c : Nat) (v : Ctx) : (s.setCtx c v).engs = s.engs := rfl
@[simp] theorem State.setCtx_banks (s : State) (c : Nat) (v : Ctx) : (s.setCtx c v).banks = s.banks := rfl
@[simp] theorem State.setCtx_clauses (s : State) (c : Nat) (v : Ctx) : (s.setCtx c v).clauses = s.clauses := rfl
@[simp] theorem State.setCtx_kernels (s : State) (c : Nat) (v : Ctx) : (s.setCtx c v).kernels = s.kernels := rfl
@[simp] theorem State.setCtx_ctxs (s : State) (c : Nat) (v : Ctx) : (s.setCtx c v).ctxs = s.ctxs.put c v := rfl
@[simp] theorem State.setCtx_weights (s : State) (c : Nat) (v : Ctx) : (s.setCtx c v).weights = s.weights := rfl
@[simp] theorem State.setCtx_rrPtr (s : State) (c : Nat) (v : Ctx) : (s.setCtx c v).rrPtr = s.rrPtr := rfl
@[simp] theorem State.setCtx_rrGranted (s : State) (c : Nat) (v : Ctx) : (s.setCtx c v).rrGranted = s.rrGranted := rfl
@[simp] theorem State.setCtx_windows (s : State) (c : Nat) (v : Ctx) : (s.setCtx c v).windows = s.windows := rfl
@[simp] theorem State.setCtx_homes (s : State) (c : Nat) (v : Ctx) : (s.setCtx c v).homes = s.homes := rfl
@[simp] theorem State.setCtx_farResv (s : State) (c : Nat) (v : Ctx) : (s.setCtx c v).farResv = s.farResv := rfl
@[simp] theorem State.setCtx_farWait (s : State) (c : Nat) (v : Ctx) : (s.setCtx c v).farWait = s.farWait := rfl
@[simp] theorem State.setCtx_schedAt (s : State) (c : Nat) (v : Ctx) : (s.setCtx c v).schedAt = s.schedAt := rfl
@[simp] theorem State.setCtx_cycle (s : State) (c : Nat) (v : Ctx) : (s.setCtx c v).cycle = s.cycle := rfl
@[simp] theorem State.setCtx_time (s : State) (c : Nat) (v : Ctx) : (s.setCtx c v).time = s.time := rfl
@[simp] theorem State.setCtx_frac (s : State) (c : Nat) (v : Ctx) : (s.setCtx c v).frac = s.frac := rfl
@[simp] theorem State.setCtx_lastTime (s : State) (c : Nat) (v : Ctx) : (s.setCtx c v).lastTime = s.lastTime := rfl
@[simp] theorem State.setCtx_mhz (s : State) (c : Nat) (v : Ctx) : (s.setCtx c v).mhz = s.mhz := rfl
@[simp] theorem State.setCtx_stepAt (s : State) (c : Nat) (v : Ctx) : (s.setCtx c v).stepAt = s.stepAt := rfl
@[simp] theorem State.setCtx_capWatts (s : State) (c : Nat) (v : Ctx) : (s.setCtx c v).capWatts = s.capWatts := rfl
@[simp] theorem State.setCtx_hot (s : State) (c : Nat) (v : Ctx) : (s.setCtx c v).hot = s.hot := rfl
@[simp] theorem State.setCtx_capReported (s : State) (c : Nat) (v : Ctx) : (s.setCtx c v).capReported = s.capReported := rfl
@[simp] theorem State.setCtx_power (s : State) (c : Nat) (v : Ctx) : (s.setCtx c v).power = s.power := rfl
@[simp] theorem State.setCtx_deviceId (s : State) (c : Nat) (v : Ctx) : (s.setCtx c v).deviceId = s.deviceId := rfl
@[simp] theorem State.setCtx_links (s : State) (c : Nat) (v : Ctx) : (s.setCtx c v).links = s.links := rfl
@[simp] theorem State.setCtx_isReference (s : State) (c : Nat) (v : Ctx) : (s.setCtx c v).isReference = s.isReference := rfl
@[simp] theorem State.setCtx_locked (s : State) (c : Nat) (v : Ctx) : (s.setCtx c v).locked = s.locked := rfl
@[simp] theorem State.setCtx_lockChanges (s : State) (c : Nat) (v : Ctx) : (s.setCtx c v).lockChanges = s.lockChanges := rfl
@[simp] theorem State.setCtx_timeSet (s : State) (c : Nat) (v : Ctx) : (s.setCtx c v).timeSet = s.timeSet := rfl
@[simp] theorem State.setCtx_offset (s : State) (c : Nat) (v : Ctx) : (s.setCtx c v).offset = s.offset := rfl
@[simp] theorem State.setCtx_within (s : State) (c : Nat) (v : Ctx) : (s.setCtx c v).within = s.within := rfl
@[simp] theorem State.setCtx_slewAt (s : State) (c : Nat) (v : Ctx) : (s.setCtx c v).slewAt = s.slewAt := rfl
@[simp] theorem State.setCtx_pathLost (s : State) (c : Nat) (v : Ctx) : (s.setCtx c v).pathLost = s.pathLost := rfl
@[simp] theorem State.setCtx_routes (s : State) (c : Nat) (v : Ctx) : (s.setCtx c v).routes = s.routes := rfl
@[simp] theorem State.setCtx_bootRec (s : State) (c : Nat) (v : Ctx) : (s.setCtx c v).bootRec = s.bootRec := rfl
@[simp] theorem State.setCtx_excludedMask (s : State) (c : Nat) (v : Ctx) : (s.setCtx c v).excludedMask = s.excludedMask := rfl
@[simp] theorem State.setCtx_starts (s : State) (c : Nat) (v : Ctx) : (s.setCtx c v).starts = s.starts := rfl
@[simp] theorem State.setCtx_skuG120 (s : State) (c : Nat) (v : Ctx) : (s.setCtx c v).skuG120 = s.skuG120 := rfl
@[simp] theorem State.setCtx_rootDigest (s : State) (c : Nat) (v : Ctx) : (s.setCtx c v).rootDigest = s.rootDigest := rfl
@[simp] theorem State.setCtx_rollback (s : State) (c : Nat) (v : Ctx) : (s.setCtx c v).rollback = s.rollback := rfl
@[simp] theorem State.setCtx_imageVersion (s : State) (c : Nat) (v : Ctx) : (s.setCtx c v).imageVersion = s.imageVersion := rfl
@[simp] theorem State.setCtx_imageDigest (s : State) (c : Nat) (v : Ctx) : (s.setCtx c v).imageDigest = s.imageDigest := rfl
@[simp] theorem State.setCtx_xmssIndex (s : State) (c : Nat) (v : Ctx) : (s.setCtx c v).xmssIndex = s.xmssIndex := rfl
@[simp] theorem State.setCtx_identity (s : State) (c : Nat) (v : Ctx) : (s.setCtx c v).identity = s.identity := rfl
@[simp] theorem State.setCtx_halfBridges (s : State) (c : Nat) (v : Ctx) : (s.setCtx c v).halfBridges = s.halfBridges := rfl
@[simp] theorem State.setCtx_badChannels (s : State) (c : Nat) (v : Ctx) : (s.setCtx c v).badChannels = s.badChannels := rfl
@[simp] theorem State.setCtx_lmScrubAt (s : State) (c : Nat) (v : Ctx) : (s.setCtx c v).lmScrubAt = s.lmScrubAt := rfl
@[simp] theorem State.setCtx_memScrubAt (s : State) (c : Nat) (v : Ctx) : (s.setCtx c v).memScrubAt = s.memScrubAt := rfl
@[simp] theorem State.setCtx_keys (s : State) (c : Nat) (v : Ctx) : (s.setCtx c v).keys = s.keys := rfl
@[simp] theorem State.setCtx_version (s : State) (c : Nat) (v : Ctx) : (s.setCtx c v).version = s.version := rfl
@[simp] theorem State.setCtx_areaBase (s : State) (c : Nat) (v : Ctx) : (s.setCtx c v).areaBase = s.areaBase := rfl
@[simp] theorem State.setCtx_writeIdx (s : State) (c : Nat) (v : Ctx) : (s.setCtx c v).writeIdx = s.writeIdx := rfl
@[simp] theorem State.setCtx_returned (s : State) (c : Nat) (v : Ctx) : (s.setCtx c v).returned = s.returned := rfl
@[simp] theorem State.setCtx_heldEvents (s : State) (c : Nat) (v : Ctx) : (s.setCtx c v).heldEvents = s.heldEvents := rfl
@[simp] theorem State.setCtx_droppedEvents (s : State) (c : Nat) (v : Ctx) : (s.setCtx c v).droppedEvents = s.droppedEvents := rfl
@[simp] theorem State.setCtx_out (s : State) (c : Nat) (v : Ctx) : (s.setCtx c v).out = s.out := rfl
@[simp] theorem State.setCtx_input (s : State) (c : Nat) (v : Ctx) : (s.setCtx c v).input = s.input := rfl
@[simp] theorem State.setCtx_cur (s : State) (c : Nat) (v : Ctx) : (s.setCtx c v).cur = s.cur := rfl
@[simp] theorem State.setCtx_issue (s : State) (c : Nat) (v : Ctx) : (s.setCtx c v).issue = s.issue := rfl
@[simp] theorem State.setCtx_nextId (s : State) (c : Nat) (v : Ctx) : (s.setCtx c v).nextId = s.nextId := rfl
@[simp] theorem State.setCtx_drawn (s : State) (c : Nat) (v : Ctx) : (s.setCtx c v).drawn = s.drawn := rfl

/-! ## setCoreCtx -/

@[simp] theorem State.setCoreCtx_mem (s : State) (k : Nat) (v : CoreCtx) : (s.setCoreCtx k v).mem = s.mem := rfl
@[simp] theorem State.setCoreCtx_hostMem (s : State) (k : Nat) (v : CoreCtx) : (s.setCoreCtx k v).hostMem = s.hostMem := rfl
@[simp] theorem State.setCoreCtx_ecc (s : State) (k : Nat) (v : CoreCtx) : (s.setCoreCtx k v).ecc = s.ecc := rfl
@[simp] theorem State.setCoreCtx_ops (s : State) (k : Nat) (v : CoreCtx) : (s.setCoreCtx k v).ops = s.ops := rfl
@[simp] theorem State.setCoreCtx_ptRoot (s : State) (k : Nat) (v : CoreCtx) : (s.setCoreCtx k v).ptRoot = s.ptRoot := rfl
@[simp] theorem State.setCoreCtx_faultReqs (s : State) (k : Nat) (v : CoreCtx) : (s.setCoreCtx k v).faultReqs = s.faultReqs := rfl
@[simp] theorem State.setCoreCtx_heldWrites (s : State) (k : Nat) (v : CoreCtx) : (s.setCoreCtx k v).heldWrites = s.heldWrites := rfl
@[simp] theorem State.setCoreCtx_hostRegions (s : State) (k : Nat) (v : CoreCtx) : (s.setCoreCtx k v).hostRegions = s.hostRegions := rfl
@[simp] theorem State.setCoreCtx_slices (s : State) (k : Nat) (v : CoreCtx) : (s.setCoreCtx k v).slices = s.slices := rfl
@[simp] theorem State.setCoreCtx_glades (s : State) (k : Nat) (v : CoreCtx) : (s.setCoreCtx k v).glades = s.glades := rfl
@[simp] theorem State.setCoreCtx_pageCtl (s : State) (k : Nat) (v : CoreCtx) : (s.setCoreCtx k v).pageCtl = s.pageCtl := rfl
@[simp] theorem State.setCoreCtx_served (s : State) (k : Nat) (v : CoreCtx) : (s.setCoreCtx k v).served = s.served := rfl
@[simp] theorem State.setCoreCtx_servedAt (s : State) (k : Nat) (v : CoreCtx) : (s.setCoreCtx k v).servedAt = s.servedAt := rfl
@[simp] theorem State.setCoreCtx_walks (s : State) (k : Nat) (v : CoreCtx) : (s.setCoreCtx k v).walks = s.walks := rfl
@[simp] theorem State.setCoreCtx_threads (s : State) (k : Nat) (v : CoreCtx) : (s.setCoreCtx k v).threads = s.threads := rfl
@[simp] theorem State.setCoreCtx_ccs (s : State) (k : Nat) (v : CoreCtx) : (s.setCoreCtx k v).ccs = s.ccs.put k v := rfl
@[simp] theorem State.setCoreCtx_cores (s : State) (k : Nat) (v : CoreCtx) : (s.setCoreCtx k v).cores = s.cores := rfl
@[simp] theorem State.setCoreCtx_clusters (s : State) (k : Nat) (v : CoreCtx) : (s.setCoreCtx k v).clusters = s.clusters := rfl
@[simp] theorem State.setCoreCtx_units (s : State) (k : Nat) (v : CoreCtx) : (s.setCoreCtx k v).units = s.units := rfl
@[simp] theorem State.setCoreCtx_engs (s : State) (k : Nat) (v : CoreCtx) : (s.setCoreCtx k v).engs = s.engs := rfl
@[simp] theorem State.setCoreCtx_banks (s : State) (k : Nat) (v : CoreCtx) : (s.setCoreCtx k v).banks = s.banks := rfl
@[simp] theorem State.setCoreCtx_clauses (s : State) (k : Nat) (v : CoreCtx) : (s.setCoreCtx k v).clauses = s.clauses := rfl
@[simp] theorem State.setCoreCtx_kernels (s : State) (k : Nat) (v : CoreCtx) : (s.setCoreCtx k v).kernels = s.kernels := rfl
@[simp] theorem State.setCoreCtx_ctxs (s : State) (k : Nat) (v : CoreCtx) : (s.setCoreCtx k v).ctxs = s.ctxs := rfl
@[simp] theorem State.setCoreCtx_weights (s : State) (k : Nat) (v : CoreCtx) : (s.setCoreCtx k v).weights = s.weights := rfl
@[simp] theorem State.setCoreCtx_rrPtr (s : State) (k : Nat) (v : CoreCtx) : (s.setCoreCtx k v).rrPtr = s.rrPtr := rfl
@[simp] theorem State.setCoreCtx_rrGranted (s : State) (k : Nat) (v : CoreCtx) : (s.setCoreCtx k v).rrGranted = s.rrGranted := rfl
@[simp] theorem State.setCoreCtx_windows (s : State) (k : Nat) (v : CoreCtx) : (s.setCoreCtx k v).windows = s.windows := rfl
@[simp] theorem State.setCoreCtx_homes (s : State) (k : Nat) (v : CoreCtx) : (s.setCoreCtx k v).homes = s.homes := rfl
@[simp] theorem State.setCoreCtx_farResv (s : State) (k : Nat) (v : CoreCtx) : (s.setCoreCtx k v).farResv = s.farResv := rfl
@[simp] theorem State.setCoreCtx_farWait (s : State) (k : Nat) (v : CoreCtx) : (s.setCoreCtx k v).farWait = s.farWait := rfl
@[simp] theorem State.setCoreCtx_schedAt (s : State) (k : Nat) (v : CoreCtx) : (s.setCoreCtx k v).schedAt = s.schedAt := rfl
@[simp] theorem State.setCoreCtx_cycle (s : State) (k : Nat) (v : CoreCtx) : (s.setCoreCtx k v).cycle = s.cycle := rfl
@[simp] theorem State.setCoreCtx_time (s : State) (k : Nat) (v : CoreCtx) : (s.setCoreCtx k v).time = s.time := rfl
@[simp] theorem State.setCoreCtx_frac (s : State) (k : Nat) (v : CoreCtx) : (s.setCoreCtx k v).frac = s.frac := rfl
@[simp] theorem State.setCoreCtx_lastTime (s : State) (k : Nat) (v : CoreCtx) : (s.setCoreCtx k v).lastTime = s.lastTime := rfl
@[simp] theorem State.setCoreCtx_mhz (s : State) (k : Nat) (v : CoreCtx) : (s.setCoreCtx k v).mhz = s.mhz := rfl
@[simp] theorem State.setCoreCtx_stepAt (s : State) (k : Nat) (v : CoreCtx) : (s.setCoreCtx k v).stepAt = s.stepAt := rfl
@[simp] theorem State.setCoreCtx_capWatts (s : State) (k : Nat) (v : CoreCtx) : (s.setCoreCtx k v).capWatts = s.capWatts := rfl
@[simp] theorem State.setCoreCtx_hot (s : State) (k : Nat) (v : CoreCtx) : (s.setCoreCtx k v).hot = s.hot := rfl
@[simp] theorem State.setCoreCtx_capReported (s : State) (k : Nat) (v : CoreCtx) : (s.setCoreCtx k v).capReported = s.capReported := rfl
@[simp] theorem State.setCoreCtx_power (s : State) (k : Nat) (v : CoreCtx) : (s.setCoreCtx k v).power = s.power := rfl
@[simp] theorem State.setCoreCtx_deviceId (s : State) (k : Nat) (v : CoreCtx) : (s.setCoreCtx k v).deviceId = s.deviceId := rfl
@[simp] theorem State.setCoreCtx_links (s : State) (k : Nat) (v : CoreCtx) : (s.setCoreCtx k v).links = s.links := rfl
@[simp] theorem State.setCoreCtx_isReference (s : State) (k : Nat) (v : CoreCtx) : (s.setCoreCtx k v).isReference = s.isReference := rfl
@[simp] theorem State.setCoreCtx_locked (s : State) (k : Nat) (v : CoreCtx) : (s.setCoreCtx k v).locked = s.locked := rfl
@[simp] theorem State.setCoreCtx_lockChanges (s : State) (k : Nat) (v : CoreCtx) : (s.setCoreCtx k v).lockChanges = s.lockChanges := rfl
@[simp] theorem State.setCoreCtx_timeSet (s : State) (k : Nat) (v : CoreCtx) : (s.setCoreCtx k v).timeSet = s.timeSet := rfl
@[simp] theorem State.setCoreCtx_offset (s : State) (k : Nat) (v : CoreCtx) : (s.setCoreCtx k v).offset = s.offset := rfl
@[simp] theorem State.setCoreCtx_within (s : State) (k : Nat) (v : CoreCtx) : (s.setCoreCtx k v).within = s.within := rfl
@[simp] theorem State.setCoreCtx_slewAt (s : State) (k : Nat) (v : CoreCtx) : (s.setCoreCtx k v).slewAt = s.slewAt := rfl
@[simp] theorem State.setCoreCtx_pathLost (s : State) (k : Nat) (v : CoreCtx) : (s.setCoreCtx k v).pathLost = s.pathLost := rfl
@[simp] theorem State.setCoreCtx_routes (s : State) (k : Nat) (v : CoreCtx) : (s.setCoreCtx k v).routes = s.routes := rfl
@[simp] theorem State.setCoreCtx_bootRec (s : State) (k : Nat) (v : CoreCtx) : (s.setCoreCtx k v).bootRec = s.bootRec := rfl
@[simp] theorem State.setCoreCtx_excludedMask (s : State) (k : Nat) (v : CoreCtx) : (s.setCoreCtx k v).excludedMask = s.excludedMask := rfl
@[simp] theorem State.setCoreCtx_starts (s : State) (k : Nat) (v : CoreCtx) : (s.setCoreCtx k v).starts = s.starts := rfl
@[simp] theorem State.setCoreCtx_skuG120 (s : State) (k : Nat) (v : CoreCtx) : (s.setCoreCtx k v).skuG120 = s.skuG120 := rfl
@[simp] theorem State.setCoreCtx_rootDigest (s : State) (k : Nat) (v : CoreCtx) : (s.setCoreCtx k v).rootDigest = s.rootDigest := rfl
@[simp] theorem State.setCoreCtx_rollback (s : State) (k : Nat) (v : CoreCtx) : (s.setCoreCtx k v).rollback = s.rollback := rfl
@[simp] theorem State.setCoreCtx_imageVersion (s : State) (k : Nat) (v : CoreCtx) : (s.setCoreCtx k v).imageVersion = s.imageVersion := rfl
@[simp] theorem State.setCoreCtx_imageDigest (s : State) (k : Nat) (v : CoreCtx) : (s.setCoreCtx k v).imageDigest = s.imageDigest := rfl
@[simp] theorem State.setCoreCtx_xmssIndex (s : State) (k : Nat) (v : CoreCtx) : (s.setCoreCtx k v).xmssIndex = s.xmssIndex := rfl
@[simp] theorem State.setCoreCtx_identity (s : State) (k : Nat) (v : CoreCtx) : (s.setCoreCtx k v).identity = s.identity := rfl
@[simp] theorem State.setCoreCtx_halfBridges (s : State) (k : Nat) (v : CoreCtx) : (s.setCoreCtx k v).halfBridges = s.halfBridges := rfl
@[simp] theorem State.setCoreCtx_badChannels (s : State) (k : Nat) (v : CoreCtx) : (s.setCoreCtx k v).badChannels = s.badChannels := rfl
@[simp] theorem State.setCoreCtx_lmScrubAt (s : State) (k : Nat) (v : CoreCtx) : (s.setCoreCtx k v).lmScrubAt = s.lmScrubAt := rfl
@[simp] theorem State.setCoreCtx_memScrubAt (s : State) (k : Nat) (v : CoreCtx) : (s.setCoreCtx k v).memScrubAt = s.memScrubAt := rfl
@[simp] theorem State.setCoreCtx_keys (s : State) (k : Nat) (v : CoreCtx) : (s.setCoreCtx k v).keys = s.keys := rfl
@[simp] theorem State.setCoreCtx_version (s : State) (k : Nat) (v : CoreCtx) : (s.setCoreCtx k v).version = s.version := rfl
@[simp] theorem State.setCoreCtx_areaBase (s : State) (k : Nat) (v : CoreCtx) : (s.setCoreCtx k v).areaBase = s.areaBase := rfl
@[simp] theorem State.setCoreCtx_writeIdx (s : State) (k : Nat) (v : CoreCtx) : (s.setCoreCtx k v).writeIdx = s.writeIdx := rfl
@[simp] theorem State.setCoreCtx_returned (s : State) (k : Nat) (v : CoreCtx) : (s.setCoreCtx k v).returned = s.returned := rfl
@[simp] theorem State.setCoreCtx_heldEvents (s : State) (k : Nat) (v : CoreCtx) : (s.setCoreCtx k v).heldEvents = s.heldEvents := rfl
@[simp] theorem State.setCoreCtx_droppedEvents (s : State) (k : Nat) (v : CoreCtx) : (s.setCoreCtx k v).droppedEvents = s.droppedEvents := rfl
@[simp] theorem State.setCoreCtx_out (s : State) (k : Nat) (v : CoreCtx) : (s.setCoreCtx k v).out = s.out := rfl
@[simp] theorem State.setCoreCtx_input (s : State) (k : Nat) (v : CoreCtx) : (s.setCoreCtx k v).input = s.input := rfl
@[simp] theorem State.setCoreCtx_cur (s : State) (k : Nat) (v : CoreCtx) : (s.setCoreCtx k v).cur = s.cur := rfl
@[simp] theorem State.setCoreCtx_issue (s : State) (k : Nat) (v : CoreCtx) : (s.setCoreCtx k v).issue = s.issue := rfl
@[simp] theorem State.setCoreCtx_nextId (s : State) (k : Nat) (v : CoreCtx) : (s.setCoreCtx k v).nextId = s.nextId := rfl
@[simp] theorem State.setCoreCtx_drawn (s : State) (k : Nat) (v : CoreCtx) : (s.setCoreCtx k v).drawn = s.drawn := rfl

/-! ## setCore -/

@[simp] theorem State.setCore_mem (s : State) (k : Nat) (v : PCore) : (s.setCore k v).mem = s.mem := rfl
@[simp] theorem State.setCore_hostMem (s : State) (k : Nat) (v : PCore) : (s.setCore k v).hostMem = s.hostMem := rfl
@[simp] theorem State.setCore_ecc (s : State) (k : Nat) (v : PCore) : (s.setCore k v).ecc = s.ecc := rfl
@[simp] theorem State.setCore_ops (s : State) (k : Nat) (v : PCore) : (s.setCore k v).ops = s.ops := rfl
@[simp] theorem State.setCore_ptRoot (s : State) (k : Nat) (v : PCore) : (s.setCore k v).ptRoot = s.ptRoot := rfl
@[simp] theorem State.setCore_faultReqs (s : State) (k : Nat) (v : PCore) : (s.setCore k v).faultReqs = s.faultReqs := rfl
@[simp] theorem State.setCore_heldWrites (s : State) (k : Nat) (v : PCore) : (s.setCore k v).heldWrites = s.heldWrites := rfl
@[simp] theorem State.setCore_hostRegions (s : State) (k : Nat) (v : PCore) : (s.setCore k v).hostRegions = s.hostRegions := rfl
@[simp] theorem State.setCore_slices (s : State) (k : Nat) (v : PCore) : (s.setCore k v).slices = s.slices := rfl
@[simp] theorem State.setCore_glades (s : State) (k : Nat) (v : PCore) : (s.setCore k v).glades = s.glades := rfl
@[simp] theorem State.setCore_pageCtl (s : State) (k : Nat) (v : PCore) : (s.setCore k v).pageCtl = s.pageCtl := rfl
@[simp] theorem State.setCore_served (s : State) (k : Nat) (v : PCore) : (s.setCore k v).served = s.served := rfl
@[simp] theorem State.setCore_servedAt (s : State) (k : Nat) (v : PCore) : (s.setCore k v).servedAt = s.servedAt := rfl
@[simp] theorem State.setCore_walks (s : State) (k : Nat) (v : PCore) : (s.setCore k v).walks = s.walks := rfl
@[simp] theorem State.setCore_threads (s : State) (k : Nat) (v : PCore) : (s.setCore k v).threads = s.threads := rfl
@[simp] theorem State.setCore_ccs (s : State) (k : Nat) (v : PCore) : (s.setCore k v).ccs = s.ccs := rfl
@[simp] theorem State.setCore_cores (s : State) (k : Nat) (v : PCore) : (s.setCore k v).cores = s.cores.put k v := rfl
@[simp] theorem State.setCore_clusters (s : State) (k : Nat) (v : PCore) : (s.setCore k v).clusters = s.clusters := rfl
@[simp] theorem State.setCore_units (s : State) (k : Nat) (v : PCore) : (s.setCore k v).units = s.units := rfl
@[simp] theorem State.setCore_engs (s : State) (k : Nat) (v : PCore) : (s.setCore k v).engs = s.engs := rfl
@[simp] theorem State.setCore_banks (s : State) (k : Nat) (v : PCore) : (s.setCore k v).banks = s.banks := rfl
@[simp] theorem State.setCore_clauses (s : State) (k : Nat) (v : PCore) : (s.setCore k v).clauses = s.clauses := rfl
@[simp] theorem State.setCore_kernels (s : State) (k : Nat) (v : PCore) : (s.setCore k v).kernels = s.kernels := rfl
@[simp] theorem State.setCore_ctxs (s : State) (k : Nat) (v : PCore) : (s.setCore k v).ctxs = s.ctxs := rfl
@[simp] theorem State.setCore_weights (s : State) (k : Nat) (v : PCore) : (s.setCore k v).weights = s.weights := rfl
@[simp] theorem State.setCore_rrPtr (s : State) (k : Nat) (v : PCore) : (s.setCore k v).rrPtr = s.rrPtr := rfl
@[simp] theorem State.setCore_rrGranted (s : State) (k : Nat) (v : PCore) : (s.setCore k v).rrGranted = s.rrGranted := rfl
@[simp] theorem State.setCore_windows (s : State) (k : Nat) (v : PCore) : (s.setCore k v).windows = s.windows := rfl
@[simp] theorem State.setCore_homes (s : State) (k : Nat) (v : PCore) : (s.setCore k v).homes = s.homes := rfl
@[simp] theorem State.setCore_farResv (s : State) (k : Nat) (v : PCore) : (s.setCore k v).farResv = s.farResv := rfl
@[simp] theorem State.setCore_farWait (s : State) (k : Nat) (v : PCore) : (s.setCore k v).farWait = s.farWait := rfl
@[simp] theorem State.setCore_schedAt (s : State) (k : Nat) (v : PCore) : (s.setCore k v).schedAt = s.schedAt := rfl
@[simp] theorem State.setCore_cycle (s : State) (k : Nat) (v : PCore) : (s.setCore k v).cycle = s.cycle := rfl
@[simp] theorem State.setCore_time (s : State) (k : Nat) (v : PCore) : (s.setCore k v).time = s.time := rfl
@[simp] theorem State.setCore_frac (s : State) (k : Nat) (v : PCore) : (s.setCore k v).frac = s.frac := rfl
@[simp] theorem State.setCore_lastTime (s : State) (k : Nat) (v : PCore) : (s.setCore k v).lastTime = s.lastTime := rfl
@[simp] theorem State.setCore_mhz (s : State) (k : Nat) (v : PCore) : (s.setCore k v).mhz = s.mhz := rfl
@[simp] theorem State.setCore_stepAt (s : State) (k : Nat) (v : PCore) : (s.setCore k v).stepAt = s.stepAt := rfl
@[simp] theorem State.setCore_capWatts (s : State) (k : Nat) (v : PCore) : (s.setCore k v).capWatts = s.capWatts := rfl
@[simp] theorem State.setCore_hot (s : State) (k : Nat) (v : PCore) : (s.setCore k v).hot = s.hot := rfl
@[simp] theorem State.setCore_capReported (s : State) (k : Nat) (v : PCore) : (s.setCore k v).capReported = s.capReported := rfl
@[simp] theorem State.setCore_power (s : State) (k : Nat) (v : PCore) : (s.setCore k v).power = s.power := rfl
@[simp] theorem State.setCore_deviceId (s : State) (k : Nat) (v : PCore) : (s.setCore k v).deviceId = s.deviceId := rfl
@[simp] theorem State.setCore_links (s : State) (k : Nat) (v : PCore) : (s.setCore k v).links = s.links := rfl
@[simp] theorem State.setCore_isReference (s : State) (k : Nat) (v : PCore) : (s.setCore k v).isReference = s.isReference := rfl
@[simp] theorem State.setCore_locked (s : State) (k : Nat) (v : PCore) : (s.setCore k v).locked = s.locked := rfl
@[simp] theorem State.setCore_lockChanges (s : State) (k : Nat) (v : PCore) : (s.setCore k v).lockChanges = s.lockChanges := rfl
@[simp] theorem State.setCore_timeSet (s : State) (k : Nat) (v : PCore) : (s.setCore k v).timeSet = s.timeSet := rfl
@[simp] theorem State.setCore_offset (s : State) (k : Nat) (v : PCore) : (s.setCore k v).offset = s.offset := rfl
@[simp] theorem State.setCore_within (s : State) (k : Nat) (v : PCore) : (s.setCore k v).within = s.within := rfl
@[simp] theorem State.setCore_slewAt (s : State) (k : Nat) (v : PCore) : (s.setCore k v).slewAt = s.slewAt := rfl
@[simp] theorem State.setCore_pathLost (s : State) (k : Nat) (v : PCore) : (s.setCore k v).pathLost = s.pathLost := rfl
@[simp] theorem State.setCore_routes (s : State) (k : Nat) (v : PCore) : (s.setCore k v).routes = s.routes := rfl
@[simp] theorem State.setCore_bootRec (s : State) (k : Nat) (v : PCore) : (s.setCore k v).bootRec = s.bootRec := rfl
@[simp] theorem State.setCore_excludedMask (s : State) (k : Nat) (v : PCore) : (s.setCore k v).excludedMask = s.excludedMask := rfl
@[simp] theorem State.setCore_starts (s : State) (k : Nat) (v : PCore) : (s.setCore k v).starts = s.starts := rfl
@[simp] theorem State.setCore_skuG120 (s : State) (k : Nat) (v : PCore) : (s.setCore k v).skuG120 = s.skuG120 := rfl
@[simp] theorem State.setCore_rootDigest (s : State) (k : Nat) (v : PCore) : (s.setCore k v).rootDigest = s.rootDigest := rfl
@[simp] theorem State.setCore_rollback (s : State) (k : Nat) (v : PCore) : (s.setCore k v).rollback = s.rollback := rfl
@[simp] theorem State.setCore_imageVersion (s : State) (k : Nat) (v : PCore) : (s.setCore k v).imageVersion = s.imageVersion := rfl
@[simp] theorem State.setCore_imageDigest (s : State) (k : Nat) (v : PCore) : (s.setCore k v).imageDigest = s.imageDigest := rfl
@[simp] theorem State.setCore_xmssIndex (s : State) (k : Nat) (v : PCore) : (s.setCore k v).xmssIndex = s.xmssIndex := rfl
@[simp] theorem State.setCore_identity (s : State) (k : Nat) (v : PCore) : (s.setCore k v).identity = s.identity := rfl
@[simp] theorem State.setCore_halfBridges (s : State) (k : Nat) (v : PCore) : (s.setCore k v).halfBridges = s.halfBridges := rfl
@[simp] theorem State.setCore_badChannels (s : State) (k : Nat) (v : PCore) : (s.setCore k v).badChannels = s.badChannels := rfl
@[simp] theorem State.setCore_lmScrubAt (s : State) (k : Nat) (v : PCore) : (s.setCore k v).lmScrubAt = s.lmScrubAt := rfl
@[simp] theorem State.setCore_memScrubAt (s : State) (k : Nat) (v : PCore) : (s.setCore k v).memScrubAt = s.memScrubAt := rfl
@[simp] theorem State.setCore_keys (s : State) (k : Nat) (v : PCore) : (s.setCore k v).keys = s.keys := rfl
@[simp] theorem State.setCore_version (s : State) (k : Nat) (v : PCore) : (s.setCore k v).version = s.version := rfl
@[simp] theorem State.setCore_areaBase (s : State) (k : Nat) (v : PCore) : (s.setCore k v).areaBase = s.areaBase := rfl
@[simp] theorem State.setCore_writeIdx (s : State) (k : Nat) (v : PCore) : (s.setCore k v).writeIdx = s.writeIdx := rfl
@[simp] theorem State.setCore_returned (s : State) (k : Nat) (v : PCore) : (s.setCore k v).returned = s.returned := rfl
@[simp] theorem State.setCore_heldEvents (s : State) (k : Nat) (v : PCore) : (s.setCore k v).heldEvents = s.heldEvents := rfl
@[simp] theorem State.setCore_droppedEvents (s : State) (k : Nat) (v : PCore) : (s.setCore k v).droppedEvents = s.droppedEvents := rfl
@[simp] theorem State.setCore_out (s : State) (k : Nat) (v : PCore) : (s.setCore k v).out = s.out := rfl
@[simp] theorem State.setCore_input (s : State) (k : Nat) (v : PCore) : (s.setCore k v).input = s.input := rfl
@[simp] theorem State.setCore_cur (s : State) (k : Nat) (v : PCore) : (s.setCore k v).cur = s.cur := rfl
@[simp] theorem State.setCore_issue (s : State) (k : Nat) (v : PCore) : (s.setCore k v).issue = s.issue := rfl
@[simp] theorem State.setCore_nextId (s : State) (k : Nat) (v : PCore) : (s.setCore k v).nextId = s.nextId := rfl
@[simp] theorem State.setCore_drawn (s : State) (k : Nat) (v : PCore) : (s.setCore k v).drawn = s.drawn := rfl

/-! ## dropOp -/

@[simp] theorem State.dropOp_mem (s : State) (i : Nat) : (s.dropOp i).mem = s.mem := rfl
@[simp] theorem State.dropOp_hostMem (s : State) (i : Nat) : (s.dropOp i).hostMem = s.hostMem := rfl
@[simp] theorem State.dropOp_ecc (s : State) (i : Nat) : (s.dropOp i).ecc = s.ecc := rfl
@[simp] theorem State.dropOp_ops (s : State) (i : Nat) : (s.dropOp i).ops = s.ops.filter (fun o => o.id != i) := rfl
@[simp] theorem State.dropOp_ptRoot (s : State) (i : Nat) : (s.dropOp i).ptRoot = s.ptRoot := rfl
@[simp] theorem State.dropOp_faultReqs (s : State) (i : Nat) : (s.dropOp i).faultReqs = s.faultReqs := rfl
@[simp] theorem State.dropOp_heldWrites (s : State) (i : Nat) : (s.dropOp i).heldWrites = s.heldWrites := rfl
@[simp] theorem State.dropOp_hostRegions (s : State) (i : Nat) : (s.dropOp i).hostRegions = s.hostRegions := rfl
@[simp] theorem State.dropOp_slices (s : State) (i : Nat) : (s.dropOp i).slices = s.slices := rfl
@[simp] theorem State.dropOp_glades (s : State) (i : Nat) : (s.dropOp i).glades = s.glades := rfl
@[simp] theorem State.dropOp_pageCtl (s : State) (i : Nat) : (s.dropOp i).pageCtl = s.pageCtl := rfl
@[simp] theorem State.dropOp_served (s : State) (i : Nat) : (s.dropOp i).served = s.served := rfl
@[simp] theorem State.dropOp_servedAt (s : State) (i : Nat) : (s.dropOp i).servedAt = s.servedAt := rfl
@[simp] theorem State.dropOp_walks (s : State) (i : Nat) : (s.dropOp i).walks = s.walks := rfl
@[simp] theorem State.dropOp_threads (s : State) (i : Nat) : (s.dropOp i).threads = s.threads := rfl
@[simp] theorem State.dropOp_ccs (s : State) (i : Nat) : (s.dropOp i).ccs = s.ccs := rfl
@[simp] theorem State.dropOp_cores (s : State) (i : Nat) : (s.dropOp i).cores = s.cores := rfl
@[simp] theorem State.dropOp_clusters (s : State) (i : Nat) : (s.dropOp i).clusters = s.clusters := rfl
@[simp] theorem State.dropOp_units (s : State) (i : Nat) : (s.dropOp i).units = s.units := rfl
@[simp] theorem State.dropOp_engs (s : State) (i : Nat) : (s.dropOp i).engs = s.engs := rfl
@[simp] theorem State.dropOp_banks (s : State) (i : Nat) : (s.dropOp i).banks = s.banks := rfl
@[simp] theorem State.dropOp_clauses (s : State) (i : Nat) : (s.dropOp i).clauses = s.clauses := rfl
@[simp] theorem State.dropOp_kernels (s : State) (i : Nat) : (s.dropOp i).kernels = s.kernels := rfl
@[simp] theorem State.dropOp_ctxs (s : State) (i : Nat) : (s.dropOp i).ctxs = s.ctxs := rfl
@[simp] theorem State.dropOp_weights (s : State) (i : Nat) : (s.dropOp i).weights = s.weights := rfl
@[simp] theorem State.dropOp_rrPtr (s : State) (i : Nat) : (s.dropOp i).rrPtr = s.rrPtr := rfl
@[simp] theorem State.dropOp_rrGranted (s : State) (i : Nat) : (s.dropOp i).rrGranted = s.rrGranted := rfl
@[simp] theorem State.dropOp_windows (s : State) (i : Nat) : (s.dropOp i).windows = s.windows := rfl
@[simp] theorem State.dropOp_homes (s : State) (i : Nat) : (s.dropOp i).homes = s.homes := rfl
@[simp] theorem State.dropOp_farResv (s : State) (i : Nat) : (s.dropOp i).farResv = s.farResv := rfl
@[simp] theorem State.dropOp_farWait (s : State) (i : Nat) : (s.dropOp i).farWait = s.farWait := rfl
@[simp] theorem State.dropOp_schedAt (s : State) (i : Nat) : (s.dropOp i).schedAt = s.schedAt := rfl
@[simp] theorem State.dropOp_cycle (s : State) (i : Nat) : (s.dropOp i).cycle = s.cycle := rfl
@[simp] theorem State.dropOp_time (s : State) (i : Nat) : (s.dropOp i).time = s.time := rfl
@[simp] theorem State.dropOp_frac (s : State) (i : Nat) : (s.dropOp i).frac = s.frac := rfl
@[simp] theorem State.dropOp_lastTime (s : State) (i : Nat) : (s.dropOp i).lastTime = s.lastTime := rfl
@[simp] theorem State.dropOp_mhz (s : State) (i : Nat) : (s.dropOp i).mhz = s.mhz := rfl
@[simp] theorem State.dropOp_stepAt (s : State) (i : Nat) : (s.dropOp i).stepAt = s.stepAt := rfl
@[simp] theorem State.dropOp_capWatts (s : State) (i : Nat) : (s.dropOp i).capWatts = s.capWatts := rfl
@[simp] theorem State.dropOp_hot (s : State) (i : Nat) : (s.dropOp i).hot = s.hot := rfl
@[simp] theorem State.dropOp_capReported (s : State) (i : Nat) : (s.dropOp i).capReported = s.capReported := rfl
@[simp] theorem State.dropOp_power (s : State) (i : Nat) : (s.dropOp i).power = s.power := rfl
@[simp] theorem State.dropOp_deviceId (s : State) (i : Nat) : (s.dropOp i).deviceId = s.deviceId := rfl
@[simp] theorem State.dropOp_links (s : State) (i : Nat) : (s.dropOp i).links = s.links := rfl
@[simp] theorem State.dropOp_isReference (s : State) (i : Nat) : (s.dropOp i).isReference = s.isReference := rfl
@[simp] theorem State.dropOp_locked (s : State) (i : Nat) : (s.dropOp i).locked = s.locked := rfl
@[simp] theorem State.dropOp_lockChanges (s : State) (i : Nat) : (s.dropOp i).lockChanges = s.lockChanges := rfl
@[simp] theorem State.dropOp_timeSet (s : State) (i : Nat) : (s.dropOp i).timeSet = s.timeSet := rfl
@[simp] theorem State.dropOp_offset (s : State) (i : Nat) : (s.dropOp i).offset = s.offset := rfl
@[simp] theorem State.dropOp_within (s : State) (i : Nat) : (s.dropOp i).within = s.within := rfl
@[simp] theorem State.dropOp_slewAt (s : State) (i : Nat) : (s.dropOp i).slewAt = s.slewAt := rfl
@[simp] theorem State.dropOp_pathLost (s : State) (i : Nat) : (s.dropOp i).pathLost = s.pathLost := rfl
@[simp] theorem State.dropOp_routes (s : State) (i : Nat) : (s.dropOp i).routes = s.routes := rfl
@[simp] theorem State.dropOp_bootRec (s : State) (i : Nat) : (s.dropOp i).bootRec = s.bootRec := rfl
@[simp] theorem State.dropOp_excludedMask (s : State) (i : Nat) : (s.dropOp i).excludedMask = s.excludedMask := rfl
@[simp] theorem State.dropOp_starts (s : State) (i : Nat) : (s.dropOp i).starts = s.starts := rfl
@[simp] theorem State.dropOp_skuG120 (s : State) (i : Nat) : (s.dropOp i).skuG120 = s.skuG120 := rfl
@[simp] theorem State.dropOp_rootDigest (s : State) (i : Nat) : (s.dropOp i).rootDigest = s.rootDigest := rfl
@[simp] theorem State.dropOp_rollback (s : State) (i : Nat) : (s.dropOp i).rollback = s.rollback := rfl
@[simp] theorem State.dropOp_imageVersion (s : State) (i : Nat) : (s.dropOp i).imageVersion = s.imageVersion := rfl
@[simp] theorem State.dropOp_imageDigest (s : State) (i : Nat) : (s.dropOp i).imageDigest = s.imageDigest := rfl
@[simp] theorem State.dropOp_xmssIndex (s : State) (i : Nat) : (s.dropOp i).xmssIndex = s.xmssIndex := rfl
@[simp] theorem State.dropOp_identity (s : State) (i : Nat) : (s.dropOp i).identity = s.identity := rfl
@[simp] theorem State.dropOp_halfBridges (s : State) (i : Nat) : (s.dropOp i).halfBridges = s.halfBridges := rfl
@[simp] theorem State.dropOp_badChannels (s : State) (i : Nat) : (s.dropOp i).badChannels = s.badChannels := rfl
@[simp] theorem State.dropOp_lmScrubAt (s : State) (i : Nat) : (s.dropOp i).lmScrubAt = s.lmScrubAt := rfl
@[simp] theorem State.dropOp_memScrubAt (s : State) (i : Nat) : (s.dropOp i).memScrubAt = s.memScrubAt := rfl
@[simp] theorem State.dropOp_keys (s : State) (i : Nat) : (s.dropOp i).keys = s.keys := rfl
@[simp] theorem State.dropOp_version (s : State) (i : Nat) : (s.dropOp i).version = s.version := rfl
@[simp] theorem State.dropOp_areaBase (s : State) (i : Nat) : (s.dropOp i).areaBase = s.areaBase := rfl
@[simp] theorem State.dropOp_writeIdx (s : State) (i : Nat) : (s.dropOp i).writeIdx = s.writeIdx := rfl
@[simp] theorem State.dropOp_returned (s : State) (i : Nat) : (s.dropOp i).returned = s.returned := rfl
@[simp] theorem State.dropOp_heldEvents (s : State) (i : Nat) : (s.dropOp i).heldEvents = s.heldEvents := rfl
@[simp] theorem State.dropOp_droppedEvents (s : State) (i : Nat) : (s.dropOp i).droppedEvents = s.droppedEvents := rfl
@[simp] theorem State.dropOp_out (s : State) (i : Nat) : (s.dropOp i).out = s.out := rfl
@[simp] theorem State.dropOp_input (s : State) (i : Nat) : (s.dropOp i).input = s.input := rfl
@[simp] theorem State.dropOp_cur (s : State) (i : Nat) : (s.dropOp i).cur = s.cur := rfl
@[simp] theorem State.dropOp_issue (s : State) (i : Nat) : (s.dropOp i).issue = s.issue := rfl
@[simp] theorem State.dropOp_nextId (s : State) (i : Nat) : (s.dropOp i).nextId = s.nextId := rfl
@[simp] theorem State.dropOp_drawn (s : State) (i : Nat) : (s.dropOp i).drawn = s.drawn := rfl

/-! ## mapOps -/

@[simp] theorem State.mapOps_mem (s : State) (f : Op → Op) : (s.mapOps f).mem = s.mem := rfl
@[simp] theorem State.mapOps_hostMem (s : State) (f : Op → Op) : (s.mapOps f).hostMem = s.hostMem := rfl
@[simp] theorem State.mapOps_ecc (s : State) (f : Op → Op) : (s.mapOps f).ecc = s.ecc := rfl
@[simp] theorem State.mapOps_ops (s : State) (f : Op → Op) : (s.mapOps f).ops = s.ops.map f := rfl
@[simp] theorem State.mapOps_ptRoot (s : State) (f : Op → Op) : (s.mapOps f).ptRoot = s.ptRoot := rfl
@[simp] theorem State.mapOps_faultReqs (s : State) (f : Op → Op) : (s.mapOps f).faultReqs = s.faultReqs := rfl
@[simp] theorem State.mapOps_heldWrites (s : State) (f : Op → Op) : (s.mapOps f).heldWrites = s.heldWrites := rfl
@[simp] theorem State.mapOps_hostRegions (s : State) (f : Op → Op) : (s.mapOps f).hostRegions = s.hostRegions := rfl
@[simp] theorem State.mapOps_slices (s : State) (f : Op → Op) : (s.mapOps f).slices = s.slices := rfl
@[simp] theorem State.mapOps_glades (s : State) (f : Op → Op) : (s.mapOps f).glades = s.glades := rfl
@[simp] theorem State.mapOps_pageCtl (s : State) (f : Op → Op) : (s.mapOps f).pageCtl = s.pageCtl := rfl
@[simp] theorem State.mapOps_served (s : State) (f : Op → Op) : (s.mapOps f).served = s.served := rfl
@[simp] theorem State.mapOps_servedAt (s : State) (f : Op → Op) : (s.mapOps f).servedAt = s.servedAt := rfl
@[simp] theorem State.mapOps_walks (s : State) (f : Op → Op) : (s.mapOps f).walks = s.walks := rfl
@[simp] theorem State.mapOps_threads (s : State) (f : Op → Op) : (s.mapOps f).threads = s.threads := rfl
@[simp] theorem State.mapOps_ccs (s : State) (f : Op → Op) : (s.mapOps f).ccs = s.ccs := rfl
@[simp] theorem State.mapOps_cores (s : State) (f : Op → Op) : (s.mapOps f).cores = s.cores := rfl
@[simp] theorem State.mapOps_clusters (s : State) (f : Op → Op) : (s.mapOps f).clusters = s.clusters := rfl
@[simp] theorem State.mapOps_units (s : State) (f : Op → Op) : (s.mapOps f).units = s.units := rfl
@[simp] theorem State.mapOps_engs (s : State) (f : Op → Op) : (s.mapOps f).engs = s.engs := rfl
@[simp] theorem State.mapOps_banks (s : State) (f : Op → Op) : (s.mapOps f).banks = s.banks := rfl
@[simp] theorem State.mapOps_clauses (s : State) (f : Op → Op) : (s.mapOps f).clauses = s.clauses := rfl
@[simp] theorem State.mapOps_kernels (s : State) (f : Op → Op) : (s.mapOps f).kernels = s.kernels := rfl
@[simp] theorem State.mapOps_ctxs (s : State) (f : Op → Op) : (s.mapOps f).ctxs = s.ctxs := rfl
@[simp] theorem State.mapOps_weights (s : State) (f : Op → Op) : (s.mapOps f).weights = s.weights := rfl
@[simp] theorem State.mapOps_rrPtr (s : State) (f : Op → Op) : (s.mapOps f).rrPtr = s.rrPtr := rfl
@[simp] theorem State.mapOps_rrGranted (s : State) (f : Op → Op) : (s.mapOps f).rrGranted = s.rrGranted := rfl
@[simp] theorem State.mapOps_windows (s : State) (f : Op → Op) : (s.mapOps f).windows = s.windows := rfl
@[simp] theorem State.mapOps_homes (s : State) (f : Op → Op) : (s.mapOps f).homes = s.homes := rfl
@[simp] theorem State.mapOps_farResv (s : State) (f : Op → Op) : (s.mapOps f).farResv = s.farResv := rfl
@[simp] theorem State.mapOps_farWait (s : State) (f : Op → Op) : (s.mapOps f).farWait = s.farWait := rfl
@[simp] theorem State.mapOps_schedAt (s : State) (f : Op → Op) : (s.mapOps f).schedAt = s.schedAt := rfl
@[simp] theorem State.mapOps_cycle (s : State) (f : Op → Op) : (s.mapOps f).cycle = s.cycle := rfl
@[simp] theorem State.mapOps_time (s : State) (f : Op → Op) : (s.mapOps f).time = s.time := rfl
@[simp] theorem State.mapOps_frac (s : State) (f : Op → Op) : (s.mapOps f).frac = s.frac := rfl
@[simp] theorem State.mapOps_lastTime (s : State) (f : Op → Op) : (s.mapOps f).lastTime = s.lastTime := rfl
@[simp] theorem State.mapOps_mhz (s : State) (f : Op → Op) : (s.mapOps f).mhz = s.mhz := rfl
@[simp] theorem State.mapOps_stepAt (s : State) (f : Op → Op) : (s.mapOps f).stepAt = s.stepAt := rfl
@[simp] theorem State.mapOps_capWatts (s : State) (f : Op → Op) : (s.mapOps f).capWatts = s.capWatts := rfl
@[simp] theorem State.mapOps_hot (s : State) (f : Op → Op) : (s.mapOps f).hot = s.hot := rfl
@[simp] theorem State.mapOps_capReported (s : State) (f : Op → Op) : (s.mapOps f).capReported = s.capReported := rfl
@[simp] theorem State.mapOps_power (s : State) (f : Op → Op) : (s.mapOps f).power = s.power := rfl
@[simp] theorem State.mapOps_deviceId (s : State) (f : Op → Op) : (s.mapOps f).deviceId = s.deviceId := rfl
@[simp] theorem State.mapOps_links (s : State) (f : Op → Op) : (s.mapOps f).links = s.links := rfl
@[simp] theorem State.mapOps_isReference (s : State) (f : Op → Op) : (s.mapOps f).isReference = s.isReference := rfl
@[simp] theorem State.mapOps_locked (s : State) (f : Op → Op) : (s.mapOps f).locked = s.locked := rfl
@[simp] theorem State.mapOps_lockChanges (s : State) (f : Op → Op) : (s.mapOps f).lockChanges = s.lockChanges := rfl
@[simp] theorem State.mapOps_timeSet (s : State) (f : Op → Op) : (s.mapOps f).timeSet = s.timeSet := rfl
@[simp] theorem State.mapOps_offset (s : State) (f : Op → Op) : (s.mapOps f).offset = s.offset := rfl
@[simp] theorem State.mapOps_within (s : State) (f : Op → Op) : (s.mapOps f).within = s.within := rfl
@[simp] theorem State.mapOps_slewAt (s : State) (f : Op → Op) : (s.mapOps f).slewAt = s.slewAt := rfl
@[simp] theorem State.mapOps_pathLost (s : State) (f : Op → Op) : (s.mapOps f).pathLost = s.pathLost := rfl
@[simp] theorem State.mapOps_routes (s : State) (f : Op → Op) : (s.mapOps f).routes = s.routes := rfl
@[simp] theorem State.mapOps_bootRec (s : State) (f : Op → Op) : (s.mapOps f).bootRec = s.bootRec := rfl
@[simp] theorem State.mapOps_excludedMask (s : State) (f : Op → Op) : (s.mapOps f).excludedMask = s.excludedMask := rfl
@[simp] theorem State.mapOps_starts (s : State) (f : Op → Op) : (s.mapOps f).starts = s.starts := rfl
@[simp] theorem State.mapOps_skuG120 (s : State) (f : Op → Op) : (s.mapOps f).skuG120 = s.skuG120 := rfl
@[simp] theorem State.mapOps_rootDigest (s : State) (f : Op → Op) : (s.mapOps f).rootDigest = s.rootDigest := rfl
@[simp] theorem State.mapOps_rollback (s : State) (f : Op → Op) : (s.mapOps f).rollback = s.rollback := rfl
@[simp] theorem State.mapOps_imageVersion (s : State) (f : Op → Op) : (s.mapOps f).imageVersion = s.imageVersion := rfl
@[simp] theorem State.mapOps_imageDigest (s : State) (f : Op → Op) : (s.mapOps f).imageDigest = s.imageDigest := rfl
@[simp] theorem State.mapOps_xmssIndex (s : State) (f : Op → Op) : (s.mapOps f).xmssIndex = s.xmssIndex := rfl
@[simp] theorem State.mapOps_identity (s : State) (f : Op → Op) : (s.mapOps f).identity = s.identity := rfl
@[simp] theorem State.mapOps_halfBridges (s : State) (f : Op → Op) : (s.mapOps f).halfBridges = s.halfBridges := rfl
@[simp] theorem State.mapOps_badChannels (s : State) (f : Op → Op) : (s.mapOps f).badChannels = s.badChannels := rfl
@[simp] theorem State.mapOps_lmScrubAt (s : State) (f : Op → Op) : (s.mapOps f).lmScrubAt = s.lmScrubAt := rfl
@[simp] theorem State.mapOps_memScrubAt (s : State) (f : Op → Op) : (s.mapOps f).memScrubAt = s.memScrubAt := rfl
@[simp] theorem State.mapOps_keys (s : State) (f : Op → Op) : (s.mapOps f).keys = s.keys := rfl
@[simp] theorem State.mapOps_version (s : State) (f : Op → Op) : (s.mapOps f).version = s.version := rfl
@[simp] theorem State.mapOps_areaBase (s : State) (f : Op → Op) : (s.mapOps f).areaBase = s.areaBase := rfl
@[simp] theorem State.mapOps_writeIdx (s : State) (f : Op → Op) : (s.mapOps f).writeIdx = s.writeIdx := rfl
@[simp] theorem State.mapOps_returned (s : State) (f : Op → Op) : (s.mapOps f).returned = s.returned := rfl
@[simp] theorem State.mapOps_heldEvents (s : State) (f : Op → Op) : (s.mapOps f).heldEvents = s.heldEvents := rfl
@[simp] theorem State.mapOps_droppedEvents (s : State) (f : Op → Op) : (s.mapOps f).droppedEvents = s.droppedEvents := rfl
@[simp] theorem State.mapOps_out (s : State) (f : Op → Op) : (s.mapOps f).out = s.out := rfl
@[simp] theorem State.mapOps_input (s : State) (f : Op → Op) : (s.mapOps f).input = s.input := rfl
@[simp] theorem State.mapOps_cur (s : State) (f : Op → Op) : (s.mapOps f).cur = s.cur := rfl
@[simp] theorem State.mapOps_issue (s : State) (f : Op → Op) : (s.mapOps f).issue = s.issue := rfl
@[simp] theorem State.mapOps_nextId (s : State) (f : Op → Op) : (s.mapOps f).nextId = s.nextId := rfl
@[simp] theorem State.mapOps_drawn (s : State) (f : Op → Op) : (s.mapOps f).drawn = s.drawn := rfl

/-! ## trap -/

@[simp] theorem State.trap_mem (s : State) (t : Trap) : (s.trap t).mem = s.mem := rfl
@[simp] theorem State.trap_hostMem (s : State) (t : Trap) : (s.trap t).hostMem = s.hostMem := rfl
@[simp] theorem State.trap_ecc (s : State) (t : Trap) : (s.trap t).ecc = s.ecc := rfl
@[simp] theorem State.trap_ops (s : State) (t : Trap) : (s.trap t).ops = s.ops := rfl
@[simp] theorem State.trap_ptRoot (s : State) (t : Trap) : (s.trap t).ptRoot = s.ptRoot := rfl
@[simp] theorem State.trap_faultReqs (s : State) (t : Trap) : (s.trap t).faultReqs = s.faultReqs := rfl
@[simp] theorem State.trap_heldWrites (s : State) (t : Trap) : (s.trap t).heldWrites = s.heldWrites := rfl
@[simp] theorem State.trap_hostRegions (s : State) (t : Trap) : (s.trap t).hostRegions = s.hostRegions := rfl
@[simp] theorem State.trap_slices (s : State) (t : Trap) : (s.trap t).slices = s.slices := rfl
@[simp] theorem State.trap_glades (s : State) (t : Trap) : (s.trap t).glades = s.glades := rfl
@[simp] theorem State.trap_pageCtl (s : State) (t : Trap) : (s.trap t).pageCtl = s.pageCtl := rfl
@[simp] theorem State.trap_served (s : State) (t : Trap) : (s.trap t).served = s.served := rfl
@[simp] theorem State.trap_servedAt (s : State) (t : Trap) : (s.trap t).servedAt = s.servedAt := rfl
@[simp] theorem State.trap_walks (s : State) (t : Trap) : (s.trap t).walks = s.walks := rfl
@[simp] theorem State.trap_threads (s : State) (t : Trap) : (s.trap t).threads = s.threads := rfl
@[simp] theorem State.trap_ccs (s : State) (t : Trap) : (s.trap t).ccs = s.ccs := rfl
@[simp] theorem State.trap_cores (s : State) (t : Trap) : (s.trap t).cores = s.cores := rfl
@[simp] theorem State.trap_clusters (s : State) (t : Trap) : (s.trap t).clusters = s.clusters := rfl
@[simp] theorem State.trap_units (s : State) (t : Trap) : (s.trap t).units = s.units := rfl
@[simp] theorem State.trap_engs (s : State) (t : Trap) : (s.trap t).engs = s.engs := rfl
@[simp] theorem State.trap_banks (s : State) (t : Trap) : (s.trap t).banks = s.banks := rfl
@[simp] theorem State.trap_clauses (s : State) (t : Trap) : (s.trap t).clauses = s.clauses := rfl
@[simp] theorem State.trap_kernels (s : State) (t : Trap) : (s.trap t).kernels = s.kernels := rfl
@[simp] theorem State.trap_ctxs (s : State) (t : Trap) : (s.trap t).ctxs = s.ctxs := rfl
@[simp] theorem State.trap_weights (s : State) (t : Trap) : (s.trap t).weights = s.weights := rfl
@[simp] theorem State.trap_rrPtr (s : State) (t : Trap) : (s.trap t).rrPtr = s.rrPtr := rfl
@[simp] theorem State.trap_rrGranted (s : State) (t : Trap) : (s.trap t).rrGranted = s.rrGranted := rfl
@[simp] theorem State.trap_windows (s : State) (t : Trap) : (s.trap t).windows = s.windows := rfl
@[simp] theorem State.trap_homes (s : State) (t : Trap) : (s.trap t).homes = s.homes := rfl
@[simp] theorem State.trap_farResv (s : State) (t : Trap) : (s.trap t).farResv = s.farResv := rfl
@[simp] theorem State.trap_farWait (s : State) (t : Trap) : (s.trap t).farWait = s.farWait := rfl
@[simp] theorem State.trap_schedAt (s : State) (t : Trap) : (s.trap t).schedAt = s.schedAt := rfl
@[simp] theorem State.trap_cycle (s : State) (t : Trap) : (s.trap t).cycle = s.cycle := rfl
@[simp] theorem State.trap_time (s : State) (t : Trap) : (s.trap t).time = s.time := rfl
@[simp] theorem State.trap_frac (s : State) (t : Trap) : (s.trap t).frac = s.frac := rfl
@[simp] theorem State.trap_lastTime (s : State) (t : Trap) : (s.trap t).lastTime = s.lastTime := rfl
@[simp] theorem State.trap_mhz (s : State) (t : Trap) : (s.trap t).mhz = s.mhz := rfl
@[simp] theorem State.trap_stepAt (s : State) (t : Trap) : (s.trap t).stepAt = s.stepAt := rfl
@[simp] theorem State.trap_capWatts (s : State) (t : Trap) : (s.trap t).capWatts = s.capWatts := rfl
@[simp] theorem State.trap_hot (s : State) (t : Trap) : (s.trap t).hot = s.hot := rfl
@[simp] theorem State.trap_capReported (s : State) (t : Trap) : (s.trap t).capReported = s.capReported := rfl
@[simp] theorem State.trap_power (s : State) (t : Trap) : (s.trap t).power = s.power := rfl
@[simp] theorem State.trap_deviceId (s : State) (t : Trap) : (s.trap t).deviceId = s.deviceId := rfl
@[simp] theorem State.trap_links (s : State) (t : Trap) : (s.trap t).links = s.links := rfl
@[simp] theorem State.trap_isReference (s : State) (t : Trap) : (s.trap t).isReference = s.isReference := rfl
@[simp] theorem State.trap_locked (s : State) (t : Trap) : (s.trap t).locked = s.locked := rfl
@[simp] theorem State.trap_lockChanges (s : State) (t : Trap) : (s.trap t).lockChanges = s.lockChanges := rfl
@[simp] theorem State.trap_timeSet (s : State) (t : Trap) : (s.trap t).timeSet = s.timeSet := rfl
@[simp] theorem State.trap_offset (s : State) (t : Trap) : (s.trap t).offset = s.offset := rfl
@[simp] theorem State.trap_within (s : State) (t : Trap) : (s.trap t).within = s.within := rfl
@[simp] theorem State.trap_slewAt (s : State) (t : Trap) : (s.trap t).slewAt = s.slewAt := rfl
@[simp] theorem State.trap_pathLost (s : State) (t : Trap) : (s.trap t).pathLost = s.pathLost := rfl
@[simp] theorem State.trap_routes (s : State) (t : Trap) : (s.trap t).routes = s.routes := rfl
@[simp] theorem State.trap_bootRec (s : State) (t : Trap) : (s.trap t).bootRec = s.bootRec := rfl
@[simp] theorem State.trap_excludedMask (s : State) (t : Trap) : (s.trap t).excludedMask = s.excludedMask := rfl
@[simp] theorem State.trap_starts (s : State) (t : Trap) : (s.trap t).starts = s.starts := rfl
@[simp] theorem State.trap_skuG120 (s : State) (t : Trap) : (s.trap t).skuG120 = s.skuG120 := rfl
@[simp] theorem State.trap_rootDigest (s : State) (t : Trap) : (s.trap t).rootDigest = s.rootDigest := rfl
@[simp] theorem State.trap_rollback (s : State) (t : Trap) : (s.trap t).rollback = s.rollback := rfl
@[simp] theorem State.trap_imageVersion (s : State) (t : Trap) : (s.trap t).imageVersion = s.imageVersion := rfl
@[simp] theorem State.trap_imageDigest (s : State) (t : Trap) : (s.trap t).imageDigest = s.imageDigest := rfl
@[simp] theorem State.trap_xmssIndex (s : State) (t : Trap) : (s.trap t).xmssIndex = s.xmssIndex := rfl
@[simp] theorem State.trap_identity (s : State) (t : Trap) : (s.trap t).identity = s.identity := rfl
@[simp] theorem State.trap_halfBridges (s : State) (t : Trap) : (s.trap t).halfBridges = s.halfBridges := rfl
@[simp] theorem State.trap_badChannels (s : State) (t : Trap) : (s.trap t).badChannels = s.badChannels := rfl
@[simp] theorem State.trap_lmScrubAt (s : State) (t : Trap) : (s.trap t).lmScrubAt = s.lmScrubAt := rfl
@[simp] theorem State.trap_memScrubAt (s : State) (t : Trap) : (s.trap t).memScrubAt = s.memScrubAt := rfl
@[simp] theorem State.trap_keys (s : State) (t : Trap) : (s.trap t).keys = s.keys := rfl
@[simp] theorem State.trap_version (s : State) (t : Trap) : (s.trap t).version = s.version := rfl
@[simp] theorem State.trap_areaBase (s : State) (t : Trap) : (s.trap t).areaBase = s.areaBase := rfl
@[simp] theorem State.trap_writeIdx (s : State) (t : Trap) : (s.trap t).writeIdx = s.writeIdx := rfl
@[simp] theorem State.trap_returned (s : State) (t : Trap) : (s.trap t).returned = s.returned := rfl
@[simp] theorem State.trap_heldEvents (s : State) (t : Trap) : (s.trap t).heldEvents = s.heldEvents := rfl
@[simp] theorem State.trap_droppedEvents (s : State) (t : Trap) : (s.trap t).droppedEvents = s.droppedEvents := rfl
@[simp] theorem State.trap_out (s : State) (t : Trap) : (s.trap t).out = s.out := rfl
@[simp] theorem State.trap_input (s : State) (t : Trap) : (s.trap t).input = s.input := rfl
@[simp] theorem State.trap_cur (s : State) (t : Trap) : (s.trap t).cur = s.cur := rfl
@[simp] theorem State.trap_issue (s : State) (t : Trap) : (s.trap t).issue = .trapped t := rfl
@[simp] theorem State.trap_nextId (s : State) (t : Trap) : (s.trap t).nextId = s.nextId := rfl
@[simp] theorem State.trap_drawn (s : State) (t : Trap) : (s.trap t).drawn = s.drawn := rfl

/-! ## park -/

@[simp] theorem State.park_mem (s : State) (w : Wait) : (s.park w).mem = s.mem := rfl
@[simp] theorem State.park_hostMem (s : State) (w : Wait) : (s.park w).hostMem = s.hostMem := rfl
@[simp] theorem State.park_ecc (s : State) (w : Wait) : (s.park w).ecc = s.ecc := rfl
@[simp] theorem State.park_ops (s : State) (w : Wait) : (s.park w).ops = s.ops := rfl
@[simp] theorem State.park_ptRoot (s : State) (w : Wait) : (s.park w).ptRoot = s.ptRoot := rfl
@[simp] theorem State.park_faultReqs (s : State) (w : Wait) : (s.park w).faultReqs = s.faultReqs := rfl
@[simp] theorem State.park_heldWrites (s : State) (w : Wait) : (s.park w).heldWrites = s.heldWrites := rfl
@[simp] theorem State.park_hostRegions (s : State) (w : Wait) : (s.park w).hostRegions = s.hostRegions := rfl
@[simp] theorem State.park_slices (s : State) (w : Wait) : (s.park w).slices = s.slices := rfl
@[simp] theorem State.park_glades (s : State) (w : Wait) : (s.park w).glades = s.glades := rfl
@[simp] theorem State.park_pageCtl (s : State) (w : Wait) : (s.park w).pageCtl = s.pageCtl := rfl
@[simp] theorem State.park_served (s : State) (w : Wait) : (s.park w).served = s.served := rfl
@[simp] theorem State.park_servedAt (s : State) (w : Wait) : (s.park w).servedAt = s.servedAt := rfl
@[simp] theorem State.park_walks (s : State) (w : Wait) : (s.park w).walks = s.walks := rfl
@[simp] theorem State.park_threads (s : State) (w : Wait) : (s.park w).threads = s.threads.put s.cur { s.me with wait := some w } := rfl
@[simp] theorem State.park_ccs (s : State) (w : Wait) : (s.park w).ccs = s.ccs := rfl
@[simp] theorem State.park_cores (s : State) (w : Wait) : (s.park w).cores = s.cores := rfl
@[simp] theorem State.park_clusters (s : State) (w : Wait) : (s.park w).clusters = s.clusters := rfl
@[simp] theorem State.park_units (s : State) (w : Wait) : (s.park w).units = s.units := rfl
@[simp] theorem State.park_engs (s : State) (w : Wait) : (s.park w).engs = s.engs := rfl
@[simp] theorem State.park_banks (s : State) (w : Wait) : (s.park w).banks = s.banks := rfl
@[simp] theorem State.park_clauses (s : State) (w : Wait) : (s.park w).clauses = s.clauses := rfl
@[simp] theorem State.park_kernels (s : State) (w : Wait) : (s.park w).kernels = s.kernels := rfl
@[simp] theorem State.park_ctxs (s : State) (w : Wait) : (s.park w).ctxs = s.ctxs := rfl
@[simp] theorem State.park_weights (s : State) (w : Wait) : (s.park w).weights = s.weights := rfl
@[simp] theorem State.park_rrPtr (s : State) (w : Wait) : (s.park w).rrPtr = s.rrPtr := rfl
@[simp] theorem State.park_rrGranted (s : State) (w : Wait) : (s.park w).rrGranted = s.rrGranted := rfl
@[simp] theorem State.park_windows (s : State) (w : Wait) : (s.park w).windows = s.windows := rfl
@[simp] theorem State.park_homes (s : State) (w : Wait) : (s.park w).homes = s.homes := rfl
@[simp] theorem State.park_farResv (s : State) (w : Wait) : (s.park w).farResv = s.farResv := rfl
@[simp] theorem State.park_farWait (s : State) (w : Wait) : (s.park w).farWait = s.farWait := rfl
@[simp] theorem State.park_schedAt (s : State) (w : Wait) : (s.park w).schedAt = s.schedAt := rfl
@[simp] theorem State.park_cycle (s : State) (w : Wait) : (s.park w).cycle = s.cycle := rfl
@[simp] theorem State.park_time (s : State) (w : Wait) : (s.park w).time = s.time := rfl
@[simp] theorem State.park_frac (s : State) (w : Wait) : (s.park w).frac = s.frac := rfl
@[simp] theorem State.park_lastTime (s : State) (w : Wait) : (s.park w).lastTime = s.lastTime := rfl
@[simp] theorem State.park_mhz (s : State) (w : Wait) : (s.park w).mhz = s.mhz := rfl
@[simp] theorem State.park_stepAt (s : State) (w : Wait) : (s.park w).stepAt = s.stepAt := rfl
@[simp] theorem State.park_capWatts (s : State) (w : Wait) : (s.park w).capWatts = s.capWatts := rfl
@[simp] theorem State.park_hot (s : State) (w : Wait) : (s.park w).hot = s.hot := rfl
@[simp] theorem State.park_capReported (s : State) (w : Wait) : (s.park w).capReported = s.capReported := rfl
@[simp] theorem State.park_power (s : State) (w : Wait) : (s.park w).power = s.power := rfl
@[simp] theorem State.park_deviceId (s : State) (w : Wait) : (s.park w).deviceId = s.deviceId := rfl
@[simp] theorem State.park_links (s : State) (w : Wait) : (s.park w).links = s.links := rfl
@[simp] theorem State.park_isReference (s : State) (w : Wait) : (s.park w).isReference = s.isReference := rfl
@[simp] theorem State.park_locked (s : State) (w : Wait) : (s.park w).locked = s.locked := rfl
@[simp] theorem State.park_lockChanges (s : State) (w : Wait) : (s.park w).lockChanges = s.lockChanges := rfl
@[simp] theorem State.park_timeSet (s : State) (w : Wait) : (s.park w).timeSet = s.timeSet := rfl
@[simp] theorem State.park_offset (s : State) (w : Wait) : (s.park w).offset = s.offset := rfl
@[simp] theorem State.park_within (s : State) (w : Wait) : (s.park w).within = s.within := rfl
@[simp] theorem State.park_slewAt (s : State) (w : Wait) : (s.park w).slewAt = s.slewAt := rfl
@[simp] theorem State.park_pathLost (s : State) (w : Wait) : (s.park w).pathLost = s.pathLost := rfl
@[simp] theorem State.park_routes (s : State) (w : Wait) : (s.park w).routes = s.routes := rfl
@[simp] theorem State.park_bootRec (s : State) (w : Wait) : (s.park w).bootRec = s.bootRec := rfl
@[simp] theorem State.park_excludedMask (s : State) (w : Wait) : (s.park w).excludedMask = s.excludedMask := rfl
@[simp] theorem State.park_starts (s : State) (w : Wait) : (s.park w).starts = s.starts := rfl
@[simp] theorem State.park_skuG120 (s : State) (w : Wait) : (s.park w).skuG120 = s.skuG120 := rfl
@[simp] theorem State.park_rootDigest (s : State) (w : Wait) : (s.park w).rootDigest = s.rootDigest := rfl
@[simp] theorem State.park_rollback (s : State) (w : Wait) : (s.park w).rollback = s.rollback := rfl
@[simp] theorem State.park_imageVersion (s : State) (w : Wait) : (s.park w).imageVersion = s.imageVersion := rfl
@[simp] theorem State.park_imageDigest (s : State) (w : Wait) : (s.park w).imageDigest = s.imageDigest := rfl
@[simp] theorem State.park_xmssIndex (s : State) (w : Wait) : (s.park w).xmssIndex = s.xmssIndex := rfl
@[simp] theorem State.park_identity (s : State) (w : Wait) : (s.park w).identity = s.identity := rfl
@[simp] theorem State.park_halfBridges (s : State) (w : Wait) : (s.park w).halfBridges = s.halfBridges := rfl
@[simp] theorem State.park_badChannels (s : State) (w : Wait) : (s.park w).badChannels = s.badChannels := rfl
@[simp] theorem State.park_lmScrubAt (s : State) (w : Wait) : (s.park w).lmScrubAt = s.lmScrubAt := rfl
@[simp] theorem State.park_memScrubAt (s : State) (w : Wait) : (s.park w).memScrubAt = s.memScrubAt := rfl
@[simp] theorem State.park_keys (s : State) (w : Wait) : (s.park w).keys = s.keys := rfl
@[simp] theorem State.park_version (s : State) (w : Wait) : (s.park w).version = s.version := rfl
@[simp] theorem State.park_areaBase (s : State) (w : Wait) : (s.park w).areaBase = s.areaBase := rfl
@[simp] theorem State.park_writeIdx (s : State) (w : Wait) : (s.park w).writeIdx = s.writeIdx := rfl
@[simp] theorem State.park_returned (s : State) (w : Wait) : (s.park w).returned = s.returned := rfl
@[simp] theorem State.park_heldEvents (s : State) (w : Wait) : (s.park w).heldEvents = s.heldEvents := rfl
@[simp] theorem State.park_droppedEvents (s : State) (w : Wait) : (s.park w).droppedEvents = s.droppedEvents := rfl
@[simp] theorem State.park_out (s : State) (w : Wait) : (s.park w).out = s.out := rfl
@[simp] theorem State.park_input (s : State) (w : Wait) : (s.park w).input = s.input := rfl
@[simp] theorem State.park_cur (s : State) (w : Wait) : (s.park w).cur = s.cur := rfl
@[simp] theorem State.park_issue (s : State) (w : Wait) : (s.park w).issue = .parked := rfl
@[simp] theorem State.park_nextId (s : State) (w : Wait) : (s.park w).nextId = s.nextId := rfl
@[simp] theorem State.park_drawn (s : State) (w : Wait) : (s.park w).drawn = s.drawn := rfl

/-! ## launch -/

@[simp] theorem State.launch_mem (s : State) (o : Op) : (s.launch o).mem = s.mem := rfl
@[simp] theorem State.launch_hostMem (s : State) (o : Op) : (s.launch o).hostMem = s.hostMem := rfl
@[simp] theorem State.launch_ecc (s : State) (o : Op) : (s.launch o).ecc = s.ecc := rfl
@[simp] theorem State.launch_ops (s : State) (o : Op) : (s.launch o).ops = s.ops ++ [{ o with id := s.nextId, due := s.cycle + 1 + Config.latency s.drawn % 512, rper := (s.thread o.thr).rper.toNat }] := rfl
@[simp] theorem State.launch_ptRoot (s : State) (o : Op) : (s.launch o).ptRoot = s.ptRoot := rfl
@[simp] theorem State.launch_faultReqs (s : State) (o : Op) : (s.launch o).faultReqs = s.faultReqs := rfl
@[simp] theorem State.launch_heldWrites (s : State) (o : Op) : (s.launch o).heldWrites = s.heldWrites := rfl
@[simp] theorem State.launch_hostRegions (s : State) (o : Op) : (s.launch o).hostRegions = s.hostRegions := rfl
@[simp] theorem State.launch_slices (s : State) (o : Op) : (s.launch o).slices = s.slices := rfl
@[simp] theorem State.launch_glades (s : State) (o : Op) : (s.launch o).glades = s.glades := rfl
@[simp] theorem State.launch_pageCtl (s : State) (o : Op) : (s.launch o).pageCtl = s.pageCtl := rfl
@[simp] theorem State.launch_served (s : State) (o : Op) : (s.launch o).served = s.served := rfl
@[simp] theorem State.launch_servedAt (s : State) (o : Op) : (s.launch o).servedAt = s.servedAt := rfl
@[simp] theorem State.launch_walks (s : State) (o : Op) : (s.launch o).walks = s.walks := rfl
@[simp] theorem State.launch_threads (s : State) (o : Op) : (s.launch o).threads = s.threads := rfl
@[simp] theorem State.launch_ccs (s : State) (o : Op) : (s.launch o).ccs = s.ccs := rfl
@[simp] theorem State.launch_cores (s : State) (o : Op) : (s.launch o).cores = s.cores := rfl
@[simp] theorem State.launch_clusters (s : State) (o : Op) : (s.launch o).clusters = s.clusters := rfl
@[simp] theorem State.launch_units (s : State) (o : Op) : (s.launch o).units = s.units := rfl
@[simp] theorem State.launch_engs (s : State) (o : Op) : (s.launch o).engs = s.engs := rfl
@[simp] theorem State.launch_banks (s : State) (o : Op) : (s.launch o).banks = s.banks := rfl
@[simp] theorem State.launch_clauses (s : State) (o : Op) : (s.launch o).clauses = s.clauses := rfl
@[simp] theorem State.launch_kernels (s : State) (o : Op) : (s.launch o).kernels = s.kernels := rfl
@[simp] theorem State.launch_ctxs (s : State) (o : Op) : (s.launch o).ctxs = s.ctxs := rfl
@[simp] theorem State.launch_weights (s : State) (o : Op) : (s.launch o).weights = s.weights := rfl
@[simp] theorem State.launch_rrPtr (s : State) (o : Op) : (s.launch o).rrPtr = s.rrPtr := rfl
@[simp] theorem State.launch_rrGranted (s : State) (o : Op) : (s.launch o).rrGranted = s.rrGranted := rfl
@[simp] theorem State.launch_windows (s : State) (o : Op) : (s.launch o).windows = s.windows := rfl
@[simp] theorem State.launch_homes (s : State) (o : Op) : (s.launch o).homes = s.homes := rfl
@[simp] theorem State.launch_farResv (s : State) (o : Op) : (s.launch o).farResv = s.farResv := rfl
@[simp] theorem State.launch_farWait (s : State) (o : Op) : (s.launch o).farWait = s.farWait := rfl
@[simp] theorem State.launch_schedAt (s : State) (o : Op) : (s.launch o).schedAt = s.schedAt := rfl
@[simp] theorem State.launch_cycle (s : State) (o : Op) : (s.launch o).cycle = s.cycle := rfl
@[simp] theorem State.launch_time (s : State) (o : Op) : (s.launch o).time = s.time := rfl
@[simp] theorem State.launch_frac (s : State) (o : Op) : (s.launch o).frac = s.frac := rfl
@[simp] theorem State.launch_lastTime (s : State) (o : Op) : (s.launch o).lastTime = s.lastTime := rfl
@[simp] theorem State.launch_mhz (s : State) (o : Op) : (s.launch o).mhz = s.mhz := rfl
@[simp] theorem State.launch_stepAt (s : State) (o : Op) : (s.launch o).stepAt = s.stepAt := rfl
@[simp] theorem State.launch_capWatts (s : State) (o : Op) : (s.launch o).capWatts = s.capWatts := rfl
@[simp] theorem State.launch_hot (s : State) (o : Op) : (s.launch o).hot = s.hot := rfl
@[simp] theorem State.launch_capReported (s : State) (o : Op) : (s.launch o).capReported = s.capReported := rfl
@[simp] theorem State.launch_power (s : State) (o : Op) : (s.launch o).power = s.power := rfl
@[simp] theorem State.launch_deviceId (s : State) (o : Op) : (s.launch o).deviceId = s.deviceId := rfl
@[simp] theorem State.launch_links (s : State) (o : Op) : (s.launch o).links = s.links := rfl
@[simp] theorem State.launch_isReference (s : State) (o : Op) : (s.launch o).isReference = s.isReference := rfl
@[simp] theorem State.launch_locked (s : State) (o : Op) : (s.launch o).locked = s.locked := rfl
@[simp] theorem State.launch_lockChanges (s : State) (o : Op) : (s.launch o).lockChanges = s.lockChanges := rfl
@[simp] theorem State.launch_timeSet (s : State) (o : Op) : (s.launch o).timeSet = s.timeSet := rfl
@[simp] theorem State.launch_offset (s : State) (o : Op) : (s.launch o).offset = s.offset := rfl
@[simp] theorem State.launch_within (s : State) (o : Op) : (s.launch o).within = s.within := rfl
@[simp] theorem State.launch_slewAt (s : State) (o : Op) : (s.launch o).slewAt = s.slewAt := rfl
@[simp] theorem State.launch_pathLost (s : State) (o : Op) : (s.launch o).pathLost = s.pathLost := rfl
@[simp] theorem State.launch_routes (s : State) (o : Op) : (s.launch o).routes = s.routes := rfl
@[simp] theorem State.launch_bootRec (s : State) (o : Op) : (s.launch o).bootRec = s.bootRec := rfl
@[simp] theorem State.launch_excludedMask (s : State) (o : Op) : (s.launch o).excludedMask = s.excludedMask := rfl
@[simp] theorem State.launch_starts (s : State) (o : Op) : (s.launch o).starts = s.starts := rfl
@[simp] theorem State.launch_skuG120 (s : State) (o : Op) : (s.launch o).skuG120 = s.skuG120 := rfl
@[simp] theorem State.launch_rootDigest (s : State) (o : Op) : (s.launch o).rootDigest = s.rootDigest := rfl
@[simp] theorem State.launch_rollback (s : State) (o : Op) : (s.launch o).rollback = s.rollback := rfl
@[simp] theorem State.launch_imageVersion (s : State) (o : Op) : (s.launch o).imageVersion = s.imageVersion := rfl
@[simp] theorem State.launch_imageDigest (s : State) (o : Op) : (s.launch o).imageDigest = s.imageDigest := rfl
@[simp] theorem State.launch_xmssIndex (s : State) (o : Op) : (s.launch o).xmssIndex = s.xmssIndex := rfl
@[simp] theorem State.launch_identity (s : State) (o : Op) : (s.launch o).identity = s.identity := rfl
@[simp] theorem State.launch_halfBridges (s : State) (o : Op) : (s.launch o).halfBridges = s.halfBridges := rfl
@[simp] theorem State.launch_badChannels (s : State) (o : Op) : (s.launch o).badChannels = s.badChannels := rfl
@[simp] theorem State.launch_lmScrubAt (s : State) (o : Op) : (s.launch o).lmScrubAt = s.lmScrubAt := rfl
@[simp] theorem State.launch_memScrubAt (s : State) (o : Op) : (s.launch o).memScrubAt = s.memScrubAt := rfl
@[simp] theorem State.launch_keys (s : State) (o : Op) : (s.launch o).keys = s.keys := rfl
@[simp] theorem State.launch_version (s : State) (o : Op) : (s.launch o).version = s.version := rfl
@[simp] theorem State.launch_areaBase (s : State) (o : Op) : (s.launch o).areaBase = s.areaBase := rfl
@[simp] theorem State.launch_writeIdx (s : State) (o : Op) : (s.launch o).writeIdx = s.writeIdx := rfl
@[simp] theorem State.launch_returned (s : State) (o : Op) : (s.launch o).returned = s.returned := rfl
@[simp] theorem State.launch_heldEvents (s : State) (o : Op) : (s.launch o).heldEvents = s.heldEvents := rfl
@[simp] theorem State.launch_droppedEvents (s : State) (o : Op) : (s.launch o).droppedEvents = s.droppedEvents := rfl
@[simp] theorem State.launch_out (s : State) (o : Op) : (s.launch o).out = s.out := rfl
@[simp] theorem State.launch_input (s : State) (o : Op) : (s.launch o).input = s.input := rfl
@[simp] theorem State.launch_cur (s : State) (o : Op) : (s.launch o).cur = s.cur := rfl
@[simp] theorem State.launch_issue (s : State) (o : Op) : (s.launch o).issue = s.issue := rfl
@[simp] theorem State.launch_nextId (s : State) (o : Op) : (s.launch o).nextId = s.nextId + 1 := rfl
@[simp] theorem State.launch_drawn (s : State) (o : Op) : (s.launch o).drawn = s.drawn + 1 := rfl

/-! ## later -/

@[simp] theorem State.later_mem (s : State) : s.later.2.mem = s.mem := rfl
@[simp] theorem State.later_hostMem (s : State) : s.later.2.hostMem = s.hostMem := rfl
@[simp] theorem State.later_ecc (s : State) : s.later.2.ecc = s.ecc := rfl
@[simp] theorem State.later_ops (s : State) : s.later.2.ops = s.ops := rfl
@[simp] theorem State.later_ptRoot (s : State) : s.later.2.ptRoot = s.ptRoot := rfl
@[simp] theorem State.later_faultReqs (s : State) : s.later.2.faultReqs = s.faultReqs := rfl
@[simp] theorem State.later_heldWrites (s : State) : s.later.2.heldWrites = s.heldWrites := rfl
@[simp] theorem State.later_hostRegions (s : State) : s.later.2.hostRegions = s.hostRegions := rfl
@[simp] theorem State.later_slices (s : State) : s.later.2.slices = s.slices := rfl
@[simp] theorem State.later_glades (s : State) : s.later.2.glades = s.glades := rfl
@[simp] theorem State.later_pageCtl (s : State) : s.later.2.pageCtl = s.pageCtl := rfl
@[simp] theorem State.later_served (s : State) : s.later.2.served = s.served := rfl
@[simp] theorem State.later_servedAt (s : State) : s.later.2.servedAt = s.servedAt := rfl
@[simp] theorem State.later_walks (s : State) : s.later.2.walks = s.walks := rfl
@[simp] theorem State.later_threads (s : State) : s.later.2.threads = s.threads := rfl
@[simp] theorem State.later_ccs (s : State) : s.later.2.ccs = s.ccs := rfl
@[simp] theorem State.later_cores (s : State) : s.later.2.cores = s.cores := rfl
@[simp] theorem State.later_clusters (s : State) : s.later.2.clusters = s.clusters := rfl
@[simp] theorem State.later_units (s : State) : s.later.2.units = s.units := rfl
@[simp] theorem State.later_engs (s : State) : s.later.2.engs = s.engs := rfl
@[simp] theorem State.later_banks (s : State) : s.later.2.banks = s.banks := rfl
@[simp] theorem State.later_clauses (s : State) : s.later.2.clauses = s.clauses := rfl
@[simp] theorem State.later_kernels (s : State) : s.later.2.kernels = s.kernels := rfl
@[simp] theorem State.later_ctxs (s : State) : s.later.2.ctxs = s.ctxs := rfl
@[simp] theorem State.later_weights (s : State) : s.later.2.weights = s.weights := rfl
@[simp] theorem State.later_rrPtr (s : State) : s.later.2.rrPtr = s.rrPtr := rfl
@[simp] theorem State.later_rrGranted (s : State) : s.later.2.rrGranted = s.rrGranted := rfl
@[simp] theorem State.later_windows (s : State) : s.later.2.windows = s.windows := rfl
@[simp] theorem State.later_homes (s : State) : s.later.2.homes = s.homes := rfl
@[simp] theorem State.later_farResv (s : State) : s.later.2.farResv = s.farResv := rfl
@[simp] theorem State.later_farWait (s : State) : s.later.2.farWait = s.farWait := rfl
@[simp] theorem State.later_schedAt (s : State) : s.later.2.schedAt = s.schedAt := rfl
@[simp] theorem State.later_cycle (s : State) : s.later.2.cycle = s.cycle := rfl
@[simp] theorem State.later_time (s : State) : s.later.2.time = s.time := rfl
@[simp] theorem State.later_frac (s : State) : s.later.2.frac = s.frac := rfl
@[simp] theorem State.later_lastTime (s : State) : s.later.2.lastTime = s.lastTime := rfl
@[simp] theorem State.later_mhz (s : State) : s.later.2.mhz = s.mhz := rfl
@[simp] theorem State.later_stepAt (s : State) : s.later.2.stepAt = s.stepAt := rfl
@[simp] theorem State.later_capWatts (s : State) : s.later.2.capWatts = s.capWatts := rfl
@[simp] theorem State.later_hot (s : State) : s.later.2.hot = s.hot := rfl
@[simp] theorem State.later_capReported (s : State) : s.later.2.capReported = s.capReported := rfl
@[simp] theorem State.later_power (s : State) : s.later.2.power = s.power := rfl
@[simp] theorem State.later_deviceId (s : State) : s.later.2.deviceId = s.deviceId := rfl
@[simp] theorem State.later_links (s : State) : s.later.2.links = s.links := rfl
@[simp] theorem State.later_isReference (s : State) : s.later.2.isReference = s.isReference := rfl
@[simp] theorem State.later_locked (s : State) : s.later.2.locked = s.locked := rfl
@[simp] theorem State.later_lockChanges (s : State) : s.later.2.lockChanges = s.lockChanges := rfl
@[simp] theorem State.later_timeSet (s : State) : s.later.2.timeSet = s.timeSet := rfl
@[simp] theorem State.later_offset (s : State) : s.later.2.offset = s.offset := rfl
@[simp] theorem State.later_within (s : State) : s.later.2.within = s.within := rfl
@[simp] theorem State.later_slewAt (s : State) : s.later.2.slewAt = s.slewAt := rfl
@[simp] theorem State.later_pathLost (s : State) : s.later.2.pathLost = s.pathLost := rfl
@[simp] theorem State.later_routes (s : State) : s.later.2.routes = s.routes := rfl
@[simp] theorem State.later_bootRec (s : State) : s.later.2.bootRec = s.bootRec := rfl
@[simp] theorem State.later_excludedMask (s : State) : s.later.2.excludedMask = s.excludedMask := rfl
@[simp] theorem State.later_starts (s : State) : s.later.2.starts = s.starts := rfl
@[simp] theorem State.later_skuG120 (s : State) : s.later.2.skuG120 = s.skuG120 := rfl
@[simp] theorem State.later_rootDigest (s : State) : s.later.2.rootDigest = s.rootDigest := rfl
@[simp] theorem State.later_rollback (s : State) : s.later.2.rollback = s.rollback := rfl
@[simp] theorem State.later_imageVersion (s : State) : s.later.2.imageVersion = s.imageVersion := rfl
@[simp] theorem State.later_imageDigest (s : State) : s.later.2.imageDigest = s.imageDigest := rfl
@[simp] theorem State.later_xmssIndex (s : State) : s.later.2.xmssIndex = s.xmssIndex := rfl
@[simp] theorem State.later_identity (s : State) : s.later.2.identity = s.identity := rfl
@[simp] theorem State.later_halfBridges (s : State) : s.later.2.halfBridges = s.halfBridges := rfl
@[simp] theorem State.later_badChannels (s : State) : s.later.2.badChannels = s.badChannels := rfl
@[simp] theorem State.later_lmScrubAt (s : State) : s.later.2.lmScrubAt = s.lmScrubAt := rfl
@[simp] theorem State.later_memScrubAt (s : State) : s.later.2.memScrubAt = s.memScrubAt := rfl
@[simp] theorem State.later_keys (s : State) : s.later.2.keys = s.keys := rfl
@[simp] theorem State.later_version (s : State) : s.later.2.version = s.version := rfl
@[simp] theorem State.later_areaBase (s : State) : s.later.2.areaBase = s.areaBase := rfl
@[simp] theorem State.later_writeIdx (s : State) : s.later.2.writeIdx = s.writeIdx := rfl
@[simp] theorem State.later_returned (s : State) : s.later.2.returned = s.returned := rfl
@[simp] theorem State.later_heldEvents (s : State) : s.later.2.heldEvents = s.heldEvents := rfl
@[simp] theorem State.later_droppedEvents (s : State) : s.later.2.droppedEvents = s.droppedEvents := rfl
@[simp] theorem State.later_out (s : State) : s.later.2.out = s.out := rfl
@[simp] theorem State.later_input (s : State) : s.later.2.input = s.input := rfl
@[simp] theorem State.later_cur (s : State) : s.later.2.cur = s.cur := rfl
@[simp] theorem State.later_issue (s : State) : s.later.2.issue = s.issue := rfl
@[simp] theorem State.later_nextId (s : State) : s.later.2.nextId = s.nextId := rfl
@[simp] theorem State.later_drawn (s : State) : s.later.2.drawn = s.drawn + 1 := rfl

/-! ## soon -/

@[simp] theorem State.soon_mem (s : State) : s.soon.2.mem = s.mem := rfl
@[simp] theorem State.soon_hostMem (s : State) : s.soon.2.hostMem = s.hostMem := rfl
@[simp] theorem State.soon_ecc (s : State) : s.soon.2.ecc = s.ecc := rfl
@[simp] theorem State.soon_ops (s : State) : s.soon.2.ops = s.ops := rfl
@[simp] theorem State.soon_ptRoot (s : State) : s.soon.2.ptRoot = s.ptRoot := rfl
@[simp] theorem State.soon_faultReqs (s : State) : s.soon.2.faultReqs = s.faultReqs := rfl
@[simp] theorem State.soon_heldWrites (s : State) : s.soon.2.heldWrites = s.heldWrites := rfl
@[simp] theorem State.soon_hostRegions (s : State) : s.soon.2.hostRegions = s.hostRegions := rfl
@[simp] theorem State.soon_slices (s : State) : s.soon.2.slices = s.slices := rfl
@[simp] theorem State.soon_glades (s : State) : s.soon.2.glades = s.glades := rfl
@[simp] theorem State.soon_pageCtl (s : State) : s.soon.2.pageCtl = s.pageCtl := rfl
@[simp] theorem State.soon_served (s : State) : s.soon.2.served = s.served := rfl
@[simp] theorem State.soon_servedAt (s : State) : s.soon.2.servedAt = s.servedAt := rfl
@[simp] theorem State.soon_walks (s : State) : s.soon.2.walks = s.walks := rfl
@[simp] theorem State.soon_threads (s : State) : s.soon.2.threads = s.threads := rfl
@[simp] theorem State.soon_ccs (s : State) : s.soon.2.ccs = s.ccs := rfl
@[simp] theorem State.soon_cores (s : State) : s.soon.2.cores = s.cores := rfl
@[simp] theorem State.soon_clusters (s : State) : s.soon.2.clusters = s.clusters := rfl
@[simp] theorem State.soon_units (s : State) : s.soon.2.units = s.units := rfl
@[simp] theorem State.soon_engs (s : State) : s.soon.2.engs = s.engs := rfl
@[simp] theorem State.soon_banks (s : State) : s.soon.2.banks = s.banks := rfl
@[simp] theorem State.soon_clauses (s : State) : s.soon.2.clauses = s.clauses := rfl
@[simp] theorem State.soon_kernels (s : State) : s.soon.2.kernels = s.kernels := rfl
@[simp] theorem State.soon_ctxs (s : State) : s.soon.2.ctxs = s.ctxs := rfl
@[simp] theorem State.soon_weights (s : State) : s.soon.2.weights = s.weights := rfl
@[simp] theorem State.soon_rrPtr (s : State) : s.soon.2.rrPtr = s.rrPtr := rfl
@[simp] theorem State.soon_rrGranted (s : State) : s.soon.2.rrGranted = s.rrGranted := rfl
@[simp] theorem State.soon_windows (s : State) : s.soon.2.windows = s.windows := rfl
@[simp] theorem State.soon_homes (s : State) : s.soon.2.homes = s.homes := rfl
@[simp] theorem State.soon_farResv (s : State) : s.soon.2.farResv = s.farResv := rfl
@[simp] theorem State.soon_farWait (s : State) : s.soon.2.farWait = s.farWait := rfl
@[simp] theorem State.soon_schedAt (s : State) : s.soon.2.schedAt = s.schedAt := rfl
@[simp] theorem State.soon_cycle (s : State) : s.soon.2.cycle = s.cycle := rfl
@[simp] theorem State.soon_time (s : State) : s.soon.2.time = s.time := rfl
@[simp] theorem State.soon_frac (s : State) : s.soon.2.frac = s.frac := rfl
@[simp] theorem State.soon_lastTime (s : State) : s.soon.2.lastTime = s.lastTime := rfl
@[simp] theorem State.soon_mhz (s : State) : s.soon.2.mhz = s.mhz := rfl
@[simp] theorem State.soon_stepAt (s : State) : s.soon.2.stepAt = s.stepAt := rfl
@[simp] theorem State.soon_capWatts (s : State) : s.soon.2.capWatts = s.capWatts := rfl
@[simp] theorem State.soon_hot (s : State) : s.soon.2.hot = s.hot := rfl
@[simp] theorem State.soon_capReported (s : State) : s.soon.2.capReported = s.capReported := rfl
@[simp] theorem State.soon_power (s : State) : s.soon.2.power = s.power := rfl
@[simp] theorem State.soon_deviceId (s : State) : s.soon.2.deviceId = s.deviceId := rfl
@[simp] theorem State.soon_links (s : State) : s.soon.2.links = s.links := rfl
@[simp] theorem State.soon_isReference (s : State) : s.soon.2.isReference = s.isReference := rfl
@[simp] theorem State.soon_locked (s : State) : s.soon.2.locked = s.locked := rfl
@[simp] theorem State.soon_lockChanges (s : State) : s.soon.2.lockChanges = s.lockChanges := rfl
@[simp] theorem State.soon_timeSet (s : State) : s.soon.2.timeSet = s.timeSet := rfl
@[simp] theorem State.soon_offset (s : State) : s.soon.2.offset = s.offset := rfl
@[simp] theorem State.soon_within (s : State) : s.soon.2.within = s.within := rfl
@[simp] theorem State.soon_slewAt (s : State) : s.soon.2.slewAt = s.slewAt := rfl
@[simp] theorem State.soon_pathLost (s : State) : s.soon.2.pathLost = s.pathLost := rfl
@[simp] theorem State.soon_routes (s : State) : s.soon.2.routes = s.routes := rfl
@[simp] theorem State.soon_bootRec (s : State) : s.soon.2.bootRec = s.bootRec := rfl
@[simp] theorem State.soon_excludedMask (s : State) : s.soon.2.excludedMask = s.excludedMask := rfl
@[simp] theorem State.soon_starts (s : State) : s.soon.2.starts = s.starts := rfl
@[simp] theorem State.soon_skuG120 (s : State) : s.soon.2.skuG120 = s.skuG120 := rfl
@[simp] theorem State.soon_rootDigest (s : State) : s.soon.2.rootDigest = s.rootDigest := rfl
@[simp] theorem State.soon_rollback (s : State) : s.soon.2.rollback = s.rollback := rfl
@[simp] theorem State.soon_imageVersion (s : State) : s.soon.2.imageVersion = s.imageVersion := rfl
@[simp] theorem State.soon_imageDigest (s : State) : s.soon.2.imageDigest = s.imageDigest := rfl
@[simp] theorem State.soon_xmssIndex (s : State) : s.soon.2.xmssIndex = s.xmssIndex := rfl
@[simp] theorem State.soon_identity (s : State) : s.soon.2.identity = s.identity := rfl
@[simp] theorem State.soon_halfBridges (s : State) : s.soon.2.halfBridges = s.halfBridges := rfl
@[simp] theorem State.soon_badChannels (s : State) : s.soon.2.badChannels = s.badChannels := rfl
@[simp] theorem State.soon_lmScrubAt (s : State) : s.soon.2.lmScrubAt = s.lmScrubAt := rfl
@[simp] theorem State.soon_memScrubAt (s : State) : s.soon.2.memScrubAt = s.memScrubAt := rfl
@[simp] theorem State.soon_keys (s : State) : s.soon.2.keys = s.keys := rfl
@[simp] theorem State.soon_version (s : State) : s.soon.2.version = s.version := rfl
@[simp] theorem State.soon_areaBase (s : State) : s.soon.2.areaBase = s.areaBase := rfl
@[simp] theorem State.soon_writeIdx (s : State) : s.soon.2.writeIdx = s.writeIdx := rfl
@[simp] theorem State.soon_returned (s : State) : s.soon.2.returned = s.returned := rfl
@[simp] theorem State.soon_heldEvents (s : State) : s.soon.2.heldEvents = s.heldEvents := rfl
@[simp] theorem State.soon_droppedEvents (s : State) : s.soon.2.droppedEvents = s.droppedEvents := rfl
@[simp] theorem State.soon_out (s : State) : s.soon.2.out = s.out := rfl
@[simp] theorem State.soon_input (s : State) : s.soon.2.input = s.input := rfl
@[simp] theorem State.soon_cur (s : State) : s.soon.2.cur = s.cur := rfl
@[simp] theorem State.soon_issue (s : State) : s.soon.2.issue = s.issue := rfl
@[simp] theorem State.soon_nextId (s : State) : s.soon.2.nextId = s.nextId := rfl
@[simp] theorem State.soon_drawn (s : State) : s.soon.2.drawn = s.drawn + 1 := rfl

/-! ## fresh -/

@[simp] theorem State.fresh_mem (s : State) : s.fresh.2.mem = s.mem := rfl
@[simp] theorem State.fresh_hostMem (s : State) : s.fresh.2.hostMem = s.hostMem := rfl
@[simp] theorem State.fresh_ecc (s : State) : s.fresh.2.ecc = s.ecc := rfl
@[simp] theorem State.fresh_ops (s : State) : s.fresh.2.ops = s.ops := rfl
@[simp] theorem State.fresh_ptRoot (s : State) : s.fresh.2.ptRoot = s.ptRoot := rfl
@[simp] theorem State.fresh_faultReqs (s : State) : s.fresh.2.faultReqs = s.faultReqs := rfl
@[simp] theorem State.fresh_heldWrites (s : State) : s.fresh.2.heldWrites = s.heldWrites := rfl
@[simp] theorem State.fresh_hostRegions (s : State) : s.fresh.2.hostRegions = s.hostRegions := rfl
@[simp] theorem State.fresh_slices (s : State) : s.fresh.2.slices = s.slices := rfl
@[simp] theorem State.fresh_glades (s : State) : s.fresh.2.glades = s.glades := rfl
@[simp] theorem State.fresh_pageCtl (s : State) : s.fresh.2.pageCtl = s.pageCtl := rfl
@[simp] theorem State.fresh_served (s : State) : s.fresh.2.served = s.served := rfl
@[simp] theorem State.fresh_servedAt (s : State) : s.fresh.2.servedAt = s.servedAt := rfl
@[simp] theorem State.fresh_walks (s : State) : s.fresh.2.walks = s.walks := rfl
@[simp] theorem State.fresh_threads (s : State) : s.fresh.2.threads = s.threads := rfl
@[simp] theorem State.fresh_ccs (s : State) : s.fresh.2.ccs = s.ccs := rfl
@[simp] theorem State.fresh_cores (s : State) : s.fresh.2.cores = s.cores := rfl
@[simp] theorem State.fresh_clusters (s : State) : s.fresh.2.clusters = s.clusters := rfl
@[simp] theorem State.fresh_units (s : State) : s.fresh.2.units = s.units := rfl
@[simp] theorem State.fresh_engs (s : State) : s.fresh.2.engs = s.engs := rfl
@[simp] theorem State.fresh_banks (s : State) : s.fresh.2.banks = s.banks := rfl
@[simp] theorem State.fresh_clauses (s : State) : s.fresh.2.clauses = s.clauses := rfl
@[simp] theorem State.fresh_kernels (s : State) : s.fresh.2.kernels = s.kernels := rfl
@[simp] theorem State.fresh_ctxs (s : State) : s.fresh.2.ctxs = s.ctxs := rfl
@[simp] theorem State.fresh_weights (s : State) : s.fresh.2.weights = s.weights := rfl
@[simp] theorem State.fresh_rrPtr (s : State) : s.fresh.2.rrPtr = s.rrPtr := rfl
@[simp] theorem State.fresh_rrGranted (s : State) : s.fresh.2.rrGranted = s.rrGranted := rfl
@[simp] theorem State.fresh_windows (s : State) : s.fresh.2.windows = s.windows := rfl
@[simp] theorem State.fresh_homes (s : State) : s.fresh.2.homes = s.homes := rfl
@[simp] theorem State.fresh_farResv (s : State) : s.fresh.2.farResv = s.farResv := rfl
@[simp] theorem State.fresh_farWait (s : State) : s.fresh.2.farWait = s.farWait := rfl
@[simp] theorem State.fresh_schedAt (s : State) : s.fresh.2.schedAt = s.schedAt := rfl
@[simp] theorem State.fresh_cycle (s : State) : s.fresh.2.cycle = s.cycle := rfl
@[simp] theorem State.fresh_time (s : State) : s.fresh.2.time = s.time := rfl
@[simp] theorem State.fresh_frac (s : State) : s.fresh.2.frac = s.frac := rfl
@[simp] theorem State.fresh_lastTime (s : State) : s.fresh.2.lastTime = s.lastTime := rfl
@[simp] theorem State.fresh_mhz (s : State) : s.fresh.2.mhz = s.mhz := rfl
@[simp] theorem State.fresh_stepAt (s : State) : s.fresh.2.stepAt = s.stepAt := rfl
@[simp] theorem State.fresh_capWatts (s : State) : s.fresh.2.capWatts = s.capWatts := rfl
@[simp] theorem State.fresh_hot (s : State) : s.fresh.2.hot = s.hot := rfl
@[simp] theorem State.fresh_capReported (s : State) : s.fresh.2.capReported = s.capReported := rfl
@[simp] theorem State.fresh_power (s : State) : s.fresh.2.power = s.power := rfl
@[simp] theorem State.fresh_deviceId (s : State) : s.fresh.2.deviceId = s.deviceId := rfl
@[simp] theorem State.fresh_links (s : State) : s.fresh.2.links = s.links := rfl
@[simp] theorem State.fresh_isReference (s : State) : s.fresh.2.isReference = s.isReference := rfl
@[simp] theorem State.fresh_locked (s : State) : s.fresh.2.locked = s.locked := rfl
@[simp] theorem State.fresh_lockChanges (s : State) : s.fresh.2.lockChanges = s.lockChanges := rfl
@[simp] theorem State.fresh_timeSet (s : State) : s.fresh.2.timeSet = s.timeSet := rfl
@[simp] theorem State.fresh_offset (s : State) : s.fresh.2.offset = s.offset := rfl
@[simp] theorem State.fresh_within (s : State) : s.fresh.2.within = s.within := rfl
@[simp] theorem State.fresh_slewAt (s : State) : s.fresh.2.slewAt = s.slewAt := rfl
@[simp] theorem State.fresh_pathLost (s : State) : s.fresh.2.pathLost = s.pathLost := rfl
@[simp] theorem State.fresh_routes (s : State) : s.fresh.2.routes = s.routes := rfl
@[simp] theorem State.fresh_bootRec (s : State) : s.fresh.2.bootRec = s.bootRec := rfl
@[simp] theorem State.fresh_excludedMask (s : State) : s.fresh.2.excludedMask = s.excludedMask := rfl
@[simp] theorem State.fresh_starts (s : State) : s.fresh.2.starts = s.starts := rfl
@[simp] theorem State.fresh_skuG120 (s : State) : s.fresh.2.skuG120 = s.skuG120 := rfl
@[simp] theorem State.fresh_rootDigest (s : State) : s.fresh.2.rootDigest = s.rootDigest := rfl
@[simp] theorem State.fresh_rollback (s : State) : s.fresh.2.rollback = s.rollback := rfl
@[simp] theorem State.fresh_imageVersion (s : State) : s.fresh.2.imageVersion = s.imageVersion := rfl
@[simp] theorem State.fresh_imageDigest (s : State) : s.fresh.2.imageDigest = s.imageDigest := rfl
@[simp] theorem State.fresh_xmssIndex (s : State) : s.fresh.2.xmssIndex = s.xmssIndex := rfl
@[simp] theorem State.fresh_identity (s : State) : s.fresh.2.identity = s.identity := rfl
@[simp] theorem State.fresh_halfBridges (s : State) : s.fresh.2.halfBridges = s.halfBridges := rfl
@[simp] theorem State.fresh_badChannels (s : State) : s.fresh.2.badChannels = s.badChannels := rfl
@[simp] theorem State.fresh_lmScrubAt (s : State) : s.fresh.2.lmScrubAt = s.lmScrubAt := rfl
@[simp] theorem State.fresh_memScrubAt (s : State) : s.fresh.2.memScrubAt = s.memScrubAt := rfl
@[simp] theorem State.fresh_keys (s : State) : s.fresh.2.keys = s.keys := rfl
@[simp] theorem State.fresh_version (s : State) : s.fresh.2.version = s.version := rfl
@[simp] theorem State.fresh_areaBase (s : State) : s.fresh.2.areaBase = s.areaBase := rfl
@[simp] theorem State.fresh_writeIdx (s : State) : s.fresh.2.writeIdx = s.writeIdx := rfl
@[simp] theorem State.fresh_returned (s : State) : s.fresh.2.returned = s.returned := rfl
@[simp] theorem State.fresh_heldEvents (s : State) : s.fresh.2.heldEvents = s.heldEvents := rfl
@[simp] theorem State.fresh_droppedEvents (s : State) : s.fresh.2.droppedEvents = s.droppedEvents := rfl
@[simp] theorem State.fresh_out (s : State) : s.fresh.2.out = s.out := rfl
@[simp] theorem State.fresh_input (s : State) : s.fresh.2.input = s.input := rfl
@[simp] theorem State.fresh_cur (s : State) : s.fresh.2.cur = s.cur := rfl
@[simp] theorem State.fresh_issue (s : State) : s.fresh.2.issue = s.issue := rfl
@[simp] theorem State.fresh_nextId (s : State) : s.fresh.2.nextId = s.nextId + 1 := rfl
@[simp] theorem State.fresh_drawn (s : State) : s.fresh.2.drawn = s.drawn := rfl

/-! ## What the accessors read after an update -/

@[simp] theorem State.thread_setThread_same (s : State) (k : Nat) (v : Thread) : (s.setThread k v).thread k = v := AMap.get_put_same ..
theorem State.thread_setThread_ne (s : State) (k j : Nat) (v : Thread) (h : j ≠ k) : (s.setThread k v).thread j = s.thread j := AMap.get_put_ne _ _ _ _ _ h
@[simp] theorem State.kernel_setKernel_same (s : State) (k : Nat) (v : Kernel) : (s.setKernel k v).kernel k = v := AMap.get_put_same ..
theorem State.kernel_setKernel_ne (s : State) (k j : Nat) (v : Kernel) (h : j ≠ k) : (s.setKernel k v).kernel j = s.kernel j := AMap.get_put_ne _ _ _ _ _ h
@[simp] theorem State.ctx_setCtx_same (s : State) (k : Nat) (v : Ctx) : (s.setCtx k v).ctx k = v := AMap.get_put_same ..
theorem State.ctx_setCtx_ne (s : State) (k j : Nat) (v : Ctx) (h : j ≠ k) : (s.setCtx k v).ctx j = s.ctx j := AMap.get_put_ne _ _ _ _ _ h
@[simp] theorem State.coreCtx_setCoreCtx_same (s : State) (k : Nat) (v : CoreCtx) : (s.setCoreCtx k v).coreCtx k = v := AMap.get_put_same ..
theorem State.coreCtx_setCoreCtx_ne (s : State) (k j : Nat) (v : CoreCtx) (h : j ≠ k) : (s.setCoreCtx k v).coreCtx j = s.coreCtx j := AMap.get_put_ne _ _ _ _ _ h
@[simp] theorem State.core_setCore_same (s : State) (k : Nat) (v : PCore) : (s.setCore k v).core k = v := AMap.get_put_same ..
theorem State.core_setCore_ne (s : State) (k j : Nat) (v : PCore) (h : j ≠ k) : (s.setCore k v).core j = s.core j := AMap.get_put_ne _ _ _ _ _ h
@[simp] theorem State.me_setMe (s : State) (t : Thread) : (s.setMe t).me = t := AMap.get_put_same ..
theorem State.thread_setMe_ne (s : State) (t : Thread) (j : Nat) (h : j ≠ s.cur) : (s.setMe t).thread j = s.thread j := AMap.get_put_ne _ _ _ _ _ h
@[simp] theorem State.thread_setKernel (s : State) (k : Nat) (v : Kernel) (j : Nat) : (s.setKernel k v).thread j = s.thread j := rfl
@[simp] theorem State.thread_setCtx (s : State) (c : Nat) (v : Ctx) (j : Nat) : (s.setCtx c v).thread j = s.thread j := rfl
@[simp] theorem State.thread_setCoreCtx (s : State) (k : Nat) (v : CoreCtx) (j : Nat) : (s.setCoreCtx k v).thread j = s.thread j := rfl
@[simp] theorem State.thread_setCore (s : State) (k : Nat) (v : PCore) (j : Nat) : (s.setCore k v).thread j = s.thread j := rfl
@[simp] theorem State.thread_dropOp (s : State) (i : Nat) (j : Nat) : (s.dropOp i).thread j = s.thread j := rfl
@[simp] theorem State.thread_mapOps (s : State) (f : Op → Op) (j : Nat) : (s.mapOps f).thread j = s.thread j := rfl
@[simp] theorem State.thread_trap (s : State) (t : Trap) (j : Nat) : (s.trap t).thread j = s.thread j := rfl
@[simp] theorem State.thread_launch (s : State) (o : Op) (j : Nat) : (s.launch o).thread j = s.thread j := rfl
@[simp] theorem State.thread_later (s : State) (j : Nat) : s.later.2.thread j = s.thread j := rfl
@[simp] theorem State.thread_soon (s : State) (j : Nat) : s.soon.2.thread j = s.thread j := rfl
@[simp] theorem State.thread_fresh (s : State) (j : Nat) : s.fresh.2.thread j = s.thread j := rfl
@[simp] theorem State.kernel_setThread (s : State) (k : Nat) (t : Thread) (j : Nat) : (s.setThread k t).kernel j = s.kernel j := rfl
@[simp] theorem State.kernel_setMe (s : State) (t : Thread) (j : Nat) : (s.setMe t).kernel j = s.kernel j := rfl
@[simp] theorem State.kernel_setCtx (s : State) (c : Nat) (v : Ctx) (j : Nat) : (s.setCtx c v).kernel j = s.kernel j := rfl
@[simp] theorem State.kernel_setCoreCtx (s : State) (k : Nat) (v : CoreCtx) (j : Nat) : (s.setCoreCtx k v).kernel j = s.kernel j := rfl
@[simp] theorem State.kernel_setCore (s : State) (k : Nat) (v : PCore) (j : Nat) : (s.setCore k v).kernel j = s.kernel j := rfl
@[simp] theorem State.kernel_dropOp (s : State) (i : Nat) (j : Nat) : (s.dropOp i).kernel j = s.kernel j := rfl
@[simp] theorem State.kernel_mapOps (s : State) (f : Op → Op) (j : Nat) : (s.mapOps f).kernel j = s.kernel j := rfl
@[simp] theorem State.kernel_trap (s : State) (t : Trap) (j : Nat) : (s.trap t).kernel j = s.kernel j := rfl
@[simp] theorem State.kernel_park (s : State) (w : Wait) (j : Nat) : (s.park w).kernel j = s.kernel j := rfl
@[simp] theorem State.kernel_launch (s : State) (o : Op) (j : Nat) : (s.launch o).kernel j = s.kernel j := rfl
@[simp] theorem State.kernel_later (s : State) (j : Nat) : s.later.2.kernel j = s.kernel j := rfl
@[simp] theorem State.kernel_soon (s : State) (j : Nat) : s.soon.2.kernel j = s.kernel j := rfl
@[simp] theorem State.kernel_fresh (s : State) (j : Nat) : s.fresh.2.kernel j = s.kernel j := rfl
@[simp] theorem State.ctx_setThread (s : State) (k : Nat) (t : Thread) (j : Nat) : (s.setThread k t).ctx j = s.ctx j := rfl
@[simp] theorem State.ctx_setMe (s : State) (t : Thread) (j : Nat) : (s.setMe t).ctx j = s.ctx j := rfl
@[simp] theorem State.ctx_setKernel (s : State) (k : Nat) (v : Kernel) (j : Nat) : (s.setKernel k v).ctx j = s.ctx j := rfl
@[simp] theorem State.ctx_setCoreCtx (s : State) (k : Nat) (v : CoreCtx) (j : Nat) : (s.setCoreCtx k v).ctx j = s.ctx j := rfl
@[simp] theorem State.ctx_setCore (s : State) (k : Nat) (v : PCore) (j : Nat) : (s.setCore k v).ctx j = s.ctx j := rfl
@[simp] theorem State.ctx_dropOp (s : State) (i : Nat) (j : Nat) : (s.dropOp i).ctx j = s.ctx j := rfl
@[simp] theorem State.ctx_mapOps (s : State) (f : Op → Op) (j : Nat) : (s.mapOps f).ctx j = s.ctx j := rfl
@[simp] theorem State.ctx_trap (s : State) (t : Trap) (j : Nat) : (s.trap t).ctx j = s.ctx j := rfl
@[simp] theorem State.ctx_park (s : State) (w : Wait) (j : Nat) : (s.park w).ctx j = s.ctx j := rfl
@[simp] theorem State.ctx_launch (s : State) (o : Op) (j : Nat) : (s.launch o).ctx j = s.ctx j := rfl
@[simp] theorem State.ctx_later (s : State) (j : Nat) : s.later.2.ctx j = s.ctx j := rfl
@[simp] theorem State.ctx_soon (s : State) (j : Nat) : s.soon.2.ctx j = s.ctx j := rfl
@[simp] theorem State.ctx_fresh (s : State) (j : Nat) : s.fresh.2.ctx j = s.ctx j := rfl
@[simp] theorem State.coreCtx_setThread (s : State) (k : Nat) (t : Thread) (j : Nat) : (s.setThread k t).coreCtx j = s.coreCtx j := rfl
@[simp] theorem State.coreCtx_setMe (s : State) (t : Thread) (j : Nat) : (s.setMe t).coreCtx j = s.coreCtx j := rfl
@[simp] theorem State.coreCtx_setKernel (s : State) (k : Nat) (v : Kernel) (j : Nat) : (s.setKernel k v).coreCtx j = s.coreCtx j := rfl
@[simp] theorem State.coreCtx_setCtx (s : State) (c : Nat) (v : Ctx) (j : Nat) : (s.setCtx c v).coreCtx j = s.coreCtx j := rfl
@[simp] theorem State.coreCtx_setCore (s : State) (k : Nat) (v : PCore) (j : Nat) : (s.setCore k v).coreCtx j = s.coreCtx j := rfl
@[simp] theorem State.coreCtx_dropOp (s : State) (i : Nat) (j : Nat) : (s.dropOp i).coreCtx j = s.coreCtx j := rfl
@[simp] theorem State.coreCtx_mapOps (s : State) (f : Op → Op) (j : Nat) : (s.mapOps f).coreCtx j = s.coreCtx j := rfl
@[simp] theorem State.coreCtx_trap (s : State) (t : Trap) (j : Nat) : (s.trap t).coreCtx j = s.coreCtx j := rfl
@[simp] theorem State.coreCtx_park (s : State) (w : Wait) (j : Nat) : (s.park w).coreCtx j = s.coreCtx j := rfl
@[simp] theorem State.coreCtx_launch (s : State) (o : Op) (j : Nat) : (s.launch o).coreCtx j = s.coreCtx j := rfl
@[simp] theorem State.coreCtx_later (s : State) (j : Nat) : s.later.2.coreCtx j = s.coreCtx j := rfl
@[simp] theorem State.coreCtx_soon (s : State) (j : Nat) : s.soon.2.coreCtx j = s.coreCtx j := rfl
@[simp] theorem State.coreCtx_fresh (s : State) (j : Nat) : s.fresh.2.coreCtx j = s.coreCtx j := rfl
@[simp] theorem State.core_setThread (s : State) (k : Nat) (t : Thread) (j : Nat) : (s.setThread k t).core j = s.core j := rfl
@[simp] theorem State.core_setMe (s : State) (t : Thread) (j : Nat) : (s.setMe t).core j = s.core j := rfl
@[simp] theorem State.core_setKernel (s : State) (k : Nat) (v : Kernel) (j : Nat) : (s.setKernel k v).core j = s.core j := rfl
@[simp] theorem State.core_setCtx (s : State) (c : Nat) (v : Ctx) (j : Nat) : (s.setCtx c v).core j = s.core j := rfl
@[simp] theorem State.core_setCoreCtx (s : State) (k : Nat) (v : CoreCtx) (j : Nat) : (s.setCoreCtx k v).core j = s.core j := rfl
@[simp] theorem State.core_dropOp (s : State) (i : Nat) (j : Nat) : (s.dropOp i).core j = s.core j := rfl
@[simp] theorem State.core_mapOps (s : State) (f : Op → Op) (j : Nat) : (s.mapOps f).core j = s.core j := rfl
@[simp] theorem State.core_trap (s : State) (t : Trap) (j : Nat) : (s.trap t).core j = s.core j := rfl
@[simp] theorem State.core_park (s : State) (w : Wait) (j : Nat) : (s.park w).core j = s.core j := rfl
@[simp] theorem State.core_launch (s : State) (o : Op) (j : Nat) : (s.launch o).core j = s.core j := rfl
@[simp] theorem State.core_later (s : State) (j : Nat) : s.later.2.core j = s.core j := rfl
@[simp] theorem State.core_soon (s : State) (j : Nat) : s.soon.2.core j = s.core j := rfl
@[simp] theorem State.core_fresh (s : State) (j : Nat) : s.fresh.2.core j = s.core j := rfl
@[simp] theorem State.me_setKernel (s : State) (k : Nat) (v : Kernel) : (s.setKernel k v).me = s.me := rfl
@[simp] theorem State.me_setCtx (s : State) (c : Nat) (v : Ctx) : (s.setCtx c v).me = s.me := rfl
@[simp] theorem State.me_setCoreCtx (s : State) (k : Nat) (v : CoreCtx) : (s.setCoreCtx k v).me = s.me := rfl
@[simp] theorem State.me_setCore (s : State) (k : Nat) (v : PCore) : (s.setCore k v).me = s.me := rfl
@[simp] theorem State.me_dropOp (s : State) (i : Nat) : (s.dropOp i).me = s.me := rfl
@[simp] theorem State.me_mapOps (s : State) (f : Op → Op) : (s.mapOps f).me = s.me := rfl
@[simp] theorem State.me_trap (s : State) (t : Trap) : (s.trap t).me = s.me := rfl
@[simp] theorem State.me_launch (s : State) (o : Op) : (s.launch o).me = s.me := rfl
@[simp] theorem State.me_later (s : State) : s.later.2.me = s.me := rfl
@[simp] theorem State.me_soon (s : State) : s.soon.2.me = s.me := rfl
@[simp] theorem State.me_fresh (s : State) : s.fresh.2.me = s.me := rfl

end Sys2Proof.Machine
end

