-- ==== Sys2Proof/Laws/Effects.lean ====
section
/-! SUPPORT. What the shared writes and the entry of an exception do, once: which memories change, that each keeps its canonical
form, and that nothing but reservations and cached copies goes with them. -/

namespace Sys2Proof.Machine

/-! ## Reservations lost to a write (R149) -/

@[simp] theorem State.loseResv_mem (s : State) (k : Nat) : (s.loseResv k).mem = s.mem := by
  unfold State.loseResv; dsimp only; split <;> split <;> rfl
@[simp] theorem State.loseResv_hostMem (s : State) (k : Nat) : (s.loseResv k).hostMem = s.hostMem := by
  unfold State.loseResv; dsimp only; split <;> split <;> rfl
@[simp] theorem State.loseResv_ccs (s : State) (k : Nat) : (s.loseResv k).ccs = s.ccs := by
  unfold State.loseResv; dsimp only; split <;> split <;> rfl
@[simp] theorem State.loseResv_kernels (s : State) (k : Nat) : (s.loseResv k).kernels = s.kernels := by
  unfold State.loseResv; dsimp only; split <;> split <;> rfl
@[simp] theorem State.loseResv_ctxs (s : State) (k : Nat) : (s.loseResv k).ctxs = s.ctxs := by
  unfold State.loseResv; dsimp only; split <;> split <;> rfl

/-- A projection that losing one reservation keeps is kept by losing any list of them. -/
theorem State.foldl_loseResv {α : Type} (f : State → α) (h : ∀ s k, f (State.loseResv s k) = f s) (g : Nat → Nat) (l : List Nat) (s : State) :
    f (l.foldl (fun s x => s.loseResv (g x)) s) = f s := by
  induction l generalizing s with
  | nil => rfl
  | cons a t ih => rw [List.foldl_cons, ih, h]

/-! ## Bytes written at a physical place (R149, R288) -/

theorem State.writePa_mem (s : State) (loc pa : Nat) (bs : List Byte) : (s.writePa loc pa bs).mem = if loc = 0 then s.mem.write pa bs else s.mem := by
  unfold State.writePa
  rw [State.foldl_loseResv (f := State.mem) State.loseResv_mem]
  by_cases h : loc = 0 <;> simp only [h, if_true, if_false] <;> split <;> rfl

theorem State.writePa_hostMem (s : State) (loc pa : Nat) (bs : List Byte) :
    (s.writePa loc pa bs).hostMem = if loc = 0 then s.hostMem else s.hostMem.write (extAddr loc pa) bs := by
  unfold State.writePa
  rw [State.foldl_loseResv (f := State.hostMem) State.loseResv_hostMem]
  by_cases h : loc = 0 <;> simp only [h, if_true, if_false] <;> split <;> rfl

theorem State.writePa_ccs (s : State) (loc pa : Nat) (bs : List Byte) : (s.writePa loc pa bs).ccs = s.ccs := by
  unfold State.writePa
  rw [State.foldl_loseResv (f := State.ccs) State.loseResv_ccs]
  by_cases h : loc = 0 <;> simp only [h, if_true, if_false] <;> split <;> rfl

theorem State.writePa_memOk {s : State} (h : s.MemOk) (loc pa : Nat) (bs : List Byte) : (s.writePa loc pa bs).MemOk := by
  refine ⟨?_, ?_⟩
  · rw [State.writePa_mem]; split <;> [exact Memory.wf_write h.1; exact h.1]
  · rw [State.writePa_hostMem]; split <;> [exact h.2; exact Memory.wf_write h.2]

/-! ## Bytes written to an LM -/

/-- An LM write that meets no bad word, outside fault-hold, changes that LM and nothing else of any core-context,
and no other memory. -/
theorem State.lmWrite_spec (s : State) (cc off : Nat) (bs : List Byte) (h : s.heldCc cc = false) (hb : s.lmBad cc off bs.length = false) : let t := s.lmWrite cc off bs
    t.coreCtx cc = { s.coreCtx cc with lm := (s.coreCtx cc).lm.write off bs } ∧ (∀ c, c ≠ cc → t.coreCtx c = s.coreCtx c) ∧ t.mem = s.mem ∧ t.hostMem = s.hostMem := by
  unfold State.lmWrite
  simp only [h, hb, Bool.false_eq_true, if_false]
  have hc : ∀ c, (List.foldl (fun s l => s.loseResv (lmKey cc (l * 128))) (s.lmPut cc off bs) (lines off bs.length)).coreCtx c =
      (s.lmPut cc off bs).coreCtx c := fun c => by
    simp only [State.coreCtx]
    rw [State.foldl_loseResv (f := State.ccs) State.loseResv_ccs]
  refine ⟨?_, fun c hcc => ?_, ?_, ?_⟩
  · rw [hc]; exact State.coreCtx_setCoreCtx_same ..
  · rw [hc]; exact State.coreCtx_setCoreCtx_ne _ _ _ _ hcc
  · rw [State.foldl_loseResv (f := State.mem) State.loseResv_mem]; rfl
  · rw [State.foldl_loseResv (f := State.hostMem) State.loseResv_hostMem]; rfl

/-! ## Taking an exception and returning (R110, R306 to R308) -/

/-- In user mode, with no reservation, an empty fault frame and a vector, a precise cause enters the runtime at once. -/
theorem State.takeTrap_enters (s : State) (k : Nat) (t : Trap) (hc : t.cause < 14) (hm : (s.thread k).mode = .user) (hr : s.reservations k = 0) (hf : (s.thread k).frame = [])
    (hp : t.cause ≠ causePAGE) (hv : (s.thread k).upvec ≠ 0) : s.takeTrap k t = (s.cutLr k).setThread k (enter (s.thread k) t.cause t.info (fvaOf t.cause t.fva) t.upc) := by
  unfold State.takeTrap
  simp only [Nat.not_le.mpr hc, hm, hr, hf, hp, hv, if_false, ne_eq, not_true, List.isEmpty_nil, Bool.not_true, decide_false, Bool.or_self, Bool.false_eq_true, reduceCtorEq]

/-- A precise cause in runtime mode is fatal to the context. -/
theorem State.takeTrap_inrun (s : State) (k : Nat) (t : Trap) (hc : t.cause < 14) (hm : (s.thread k).mode = .runtime) :
    s.takeTrap k t = s.fatal k causeINRUN t.cause ((fvaOf t.cause t.fva).getD (s.thread k).fva) (s.thread k).pc := by
  unfold State.takeTrap
  simp only [Nat.not_le.mpr hc, hm, if_false, if_true]

theorem State.returnFrom_spec (s : State) (k : Nat) : let t := (s.returnFrom k).thread k
    t = { s.thread k with mode := .user, pc := (s.thread k).upc &&& ~~~(0xF : Word), npc := (s.thread k).upc &&& ~~~(0xF : Word) } ∧ ∀ j, j ≠ k → (s.returnFrom k).thread j = s.thread j :=
  ⟨State.thread_setThread_same .., fun _ h => State.thread_setThread_ne _ _ _ _ h⟩

end Sys2Proof.Machine
end

