-- ==== Sys2Proof/Laws/Registers.lean ====
section
/-! SUPPORT. What a register write does: one lemma per write, saying everything it changes. -/

namespace Sys2Proof.Machine

theorem low5_val (f : BitVec 6) : (low5 f).val = f.toNat % 32 := by
  simp [low5]

theorem isShared_iff (f : BitVec 6) : isShared f = decide (32 ≤ f.toNat) := by
  revert f; decide

/-- Two registers of one kind with the same low bits are one register. -/
theorem low5_inj {f g : BitVec 6} (h : isShared f = isShared g) (h' : (low5 f).val = (low5 g).val) : f = g := by
  rw [isShared_iff, isShared_iff, decide_eq_decide] at h
  rw [low5_val, low5_val] at h'
  apply BitVec.eq_of_toNat_eq
  have := f.isLt; have := g.isLt
  omega

theorem low5_zero {f : BitVec 6} (h : isShared f = false) (h0 : f ≠ 0) : (low5 f).val ≠ 0 := fun hz =>
  h0 (low5_inj (g := 0) (by rw [h]; rfl) (by rw [hz]; rfl))

theorem vget_set {α : Type} {n : Nat} (x : Vector α n) (a : Fin n) (w : α) (b : Fin n) :
    (x.set a.val w)[b] = if a.val = b.val then w else x[b] := by
  show (x.set a.val w)[b.val] = _
  rw [Vector.getElem_set]
  rfl

/-- Everything a write of a scalar register by the bundle in issue does. -/
theorem wroteX_wx (s : State) (d : SReg) (v : Word) : WroteX s (s.wx d v) d v := by
  by_cases hs : isShared d = true
  · -- a shared register
    by_cases hw : s.winsX d = true
    · have e : s.wx d v = s.setCoreCtx s.me.cc { s.coreCtx s.me.cc with
          h := (s.coreCtx s.me.cc).h.set (low5 d).val v
          writers := (s.coreCtx s.me.cc).writers.put (low5 d).val
            { cycle := s.cycle, slot := s.me.slot, issued := s.me.issued
              was := startOf (s.coreCtx s.me.cc).writers s.cycle (low5 d).val (((s.coreCtx s.me.cc).h[low5 d]).zeroExtend 512) } } := by
        simp only [State.wx, State.putX, hs, if_true, State.setH]
        exact if_pos hw
      rw [e]
      refine ⟨?_, ?_, by simp [hs], rfl, fun k _ => rfl, ?_, ?_, fun a => ⟨rfl, rfl⟩, rfl⟩
      · simp only [State.xOf, hs, hw, if_true, State.thread_setCoreCtx]
        show ((s.setCoreCtx s.me.cc _).coreCtx s.me.cc).h[low5 d] = v
        rw [State.coreCtx_setCoreCtx_same, vget_set, if_pos rfl]
      · intro f hf
        simp only [State.xOf, State.thread_setCoreCtx]
        split
        · next hsf =>
          show ((s.setCoreCtx s.me.cc _).coreCtx s.me.cc).h[low5 f] = (s.coreCtx s.me.cc).h[low5 f]
          rw [State.coreCtx_setCoreCtx_same, vget_set, if_neg]
          exact fun h => hf (low5_inj (by rw [hsf, hs]) h.symm)
        · rfl
      · intro c
        by_cases hc : c = s.me.cc
        · subst hc; rw [State.coreCtx_setCoreCtx_same]
        · rw [State.coreCtx_setCoreCtx_ne _ _ _ _ hc]
      · intro c hc; rw [State.coreCtx_setCoreCtx_ne _ _ _ _ hc]
    · have e : s.wx d v = s := by
        simp only [State.wx, State.putX, hs, if_true, State.setH]
        exact if_neg hw
      rw [e]
      exact ⟨by simp [hs, hw], fun _ _ => rfl, by simp [hs], rfl, fun _ _ => rfl, fun _ => rfl, fun _ _ => rfl,
        fun _ => ⟨rfl, rfl⟩, rfl⟩
  · simp only [Bool.not_eq_true] at hs
    by_cases h0 : d = 0
    · subst h0
      have e : s.wx 0 v = s := by simp [State.wx, State.putX, isShared]
      rw [e]
      exact ⟨by simp [State.xOf, isShared], fun _ _ => rfl, by simp, rfl, fun _ _ => rfl, fun _ => rfl, fun _ _ => rfl,
        fun _ => ⟨rfl, rfl⟩, rfl⟩
    · have e : s.wx d v = s.setMe { s.me with
          regs := { s.me.regs with x := s.me.regs.x.set (low5 d).val v }
          xpf := setMark s.me.xpf (low5 d) false, xde := setMark s.me.xde (low5 d) false
          tok := s.me.tok.del (low5 d).val } := by
        simp only [State.wx, State.putX, hs, Bool.false_eq_true, if_false, h0]; rfl
      rw [e]
      have hme : ∀ t : Thread, (s.setMe t).thread s.cur = t := fun t => State.me_setMe s t
      refine ⟨?_, ?_, fun _ _ => ?_, ?_, fun k hk => State.thread_setMe_ne _ _ _ hk, fun _ => rfl, fun _ _ => rfl,
        fun a => ⟨rfl, rfl⟩, rfl⟩
      · simp only [State.xOf, hme, hs, h0, Bool.false_eq_true, if_false]
        rw [vget_set, if_pos rfl]
      · intro f hf
        simp only [State.xOf, hme]
        split
        · rfl
        · next hsf =>
          split
          · rfl
          · rw [vget_set, if_neg]
            · rfl
            · exact fun h => hf (low5_inj (by rw [hs]; simpa using hsf) h.symm)
      · simp
      · simp

/-- Everything a write of a vector register by the bundle in issue does. -/
theorem wroteV_wv (s : State) (d : VRegF) (v : VReg) : WroteV s (s.wv d v) d v := by
  by_cases hs : isShared d = true
  · by_cases hw : s.winsV d = true
    · have e : s.wv d v = s.setCoreCtx s.me.cc { s.coreCtx s.me.cc with
          w := (s.coreCtx s.me.cc).w.set (low5 d).val v
          writers := (s.coreCtx s.me.cc).writers.put ((low5 d).val + 32)
            { cycle := s.cycle, slot := s.me.slot, issued := s.me.issued
              was := startOf (s.coreCtx s.me.cc).writers s.cycle ((low5 d).val + 32) ((s.coreCtx s.me.cc).w[low5 d]) } } := by
        simp only [State.wv, State.putV, hs, if_true, State.setW]
        exact if_pos hw
      rw [e]
      refine ⟨?_, ?_, by simp [hs], rfl, fun k _ => rfl, ?_, ?_, fun a => ⟨rfl, rfl⟩, rfl⟩
      · simp only [State.vOf, hs, hw, if_true, State.thread_setCoreCtx]
        show ((s.setCoreCtx s.me.cc _).coreCtx s.me.cc).w[low5 d] = v
        rw [State.coreCtx_setCoreCtx_same, vget_set, if_pos rfl]
      · intro f hf
        simp only [State.vOf, State.thread_setCoreCtx]
        split
        · next hsf =>
          show ((s.setCoreCtx s.me.cc _).coreCtx s.me.cc).w[low5 f] = (s.coreCtx s.me.cc).w[low5 f]
          rw [State.coreCtx_setCoreCtx_same, vget_set, if_neg]
          exact fun h => hf (low5_inj (by rw [hsf, hs]) h.symm)
        · rfl
      · intro c
        by_cases hc : c = s.me.cc
        · subst hc; rw [State.coreCtx_setCoreCtx_same]
        · rw [State.coreCtx_setCoreCtx_ne _ _ _ _ hc]
      · intro c hc; rw [State.coreCtx_setCoreCtx_ne _ _ _ _ hc]
    · have e : s.wv d v = s := by
        simp only [State.wv, State.putV, hs, if_true, State.setW]
        exact if_neg hw
      rw [e]
      exact ⟨by simp [hs, hw], fun _ _ => rfl, by simp [hs], rfl, fun _ _ => rfl, fun _ => rfl, fun _ _ => rfl,
        fun _ => ⟨rfl, rfl⟩, rfl⟩
  · simp only [Bool.not_eq_true] at hs
    have e : s.wv d v = s.setMe { s.me with
        regs := { s.me.regs with v := s.me.regs.v.set (low5 d).val v }, vde := setMark s.me.vde (low5 d) false } := by
      simp only [State.wv, State.putV, hs, Bool.false_eq_true, if_false]; rfl
    rw [e]
    have hme : ∀ t : Thread, (s.setMe t).thread s.cur = t := fun t => State.me_setMe s t
    refine ⟨?_, ?_, fun _ => ?_, ?_, fun k hk => State.thread_setMe_ne _ _ _ hk, fun _ => rfl, fun _ _ => rfl,
      fun a => ⟨rfl, rfl⟩, rfl⟩
    · simp only [State.vOf, hme, hs, Bool.false_eq_true, if_false]
      rw [vget_set, if_pos rfl]
    · intro f hf
      simp only [State.vOf, hme]
      split
      · rfl
      · next hsf =>
        rw [vget_set, if_neg]
        · rfl
        · exact fun h => hf (low5_inj (by rw [hs]; simpa using hsf) h.symm)
    · simp
    · simp

/-- Everything a write of a predicate does. -/
theorem wroteP_wp (s : State) (p : PReg) (b : Bool) : WroteP s (s.wp p b) p b := by
  by_cases h0 : p = 0
  · subst h0
    have e : s.wp 0 b = s := by simp [State.wp, State.putP]
    rw [e]
    exact ⟨by simp, fun _ _ => rfl, rfl, fun _ _ => rfl, fun _ => ⟨rfl, rfl⟩, rfl⟩
  · have e : s.wp p b = s.setMe { s.me with regs := { s.me.regs with p := s.me.regs.p.set p.toNat b } } := by
      simp only [State.wp, State.putP, h0, if_false]; rfl
    rw [e]
    refine ⟨fun _ => ?_, ?_, by simp, fun k hk => State.thread_setMe_ne _ _ _ hk, fun _ => ⟨rfl, rfl⟩, rfl⟩
    · rw [State.me_setMe]; exact Vector.getElem_set_self _
    · intro r hr
      rw [State.me_setMe]
      exact (vget_set _ p.toFin b r.toFin).trans (if_neg fun h => (hr.resolve_right h0) (BitVec.eq_of_toNat_eq h.symm))

/-- Everything a write of a lane mask does. -/
theorem wroteQ_wq (s : State) (q : QReg) (b : BitVec 16) : WroteQ s (s.wq q b) q b := by
  by_cases h0 : q = 0
  · subst h0
    have e : s.wq 0 b = s := by simp [State.wq, State.putQ]
    rw [e]
    exact ⟨by simp, fun _ _ => rfl, rfl, fun _ _ => rfl, fun _ => ⟨rfl, rfl⟩, rfl⟩
  · have e : s.wq q b = s.setMe { s.me with regs := { s.me.regs with q := s.me.regs.q.set q.toNat b } } := by
      simp only [State.wq, State.putQ, h0, if_false]; rfl
    rw [e]
    refine ⟨fun _ => ?_, ?_, by simp, fun k hk => State.thread_setMe_ne _ _ _ hk, fun _ => ⟨rfl, rfl⟩, rfl⟩
    · rw [State.me_setMe]; exact Vector.getElem_set_self _
    · intro r hr
      rw [State.me_setMe]
      exact (vget_set _ q.toFin b r.toFin).trans (if_neg fun h => (hr.resolve_right h0) (BitVec.eq_of_toNat_eq h.symm))

end Sys2Proof.Machine
end

