-- ==== Sys2Proof/Tests/Slice0.lean ====
section
/-! SUPPORT. Tests: ill-formed terms, words of every encoded row, small steps with results from the spec, and for each
statement a state and operands that meet its hypotheses. -/

set_option Elab.async false

namespace Sys2Proof.Tests

open Sys2Proof Sys2Proof.Machine Sys2Proof.Claims

/-! ## Helpers -/

/-- One thread in user mode on logical core 0 of a kernel of one core; the first GiB maps to itself, with every right there and on the local memories. -/
def base : State :=
  let s := State.reset.withFetchWord 128 0
  let prot (m : Memory) (top : Nat) : Memory := m.write (fetchProt + top * 4 * 8) [0x3D]
  { s with
    cur := 0, cycle := 32, time := 1000, version := 1
    mem := [0xFC, 0xFD, 0xFE].foldl prot s.mem
    threads := [(0, { fetchThread s with upvec := 0x10_0100 })] }
/-- The own LM's address 0. -/
def own : Word := 0x00FD_0000_0000_0000
/-- The thread of base changed. -/
def State.with_ (s : State) (f : Thread → Thread) : State := s.setMe (f s.me)
def withX (s : State) (l : List (SReg × Word)) : State := l.foldl (fun s e => s.putX 0 e.1 e.2 0) s
def withLm (s : State) (o : Nat) (bs : List Byte) : State := s.setCoreCtx 0 { s.coreCtx 0 with lm := (s.coreCtx 0).lm.write o bs }
/-- Without error marks every range of every LM is sound. -/
theorem noMarks {s : State} {cc off n : Nat} (h : s.ecc = []) : LmSound s cc off n := fun e he => by rw [h] at he; cases he
theorem sound_of {s : State} {p : Place} {n : Nat} (h : s.ecc = []) : ∀ cc off, p = .lm cc off → LmSound s cc off n := fun _ _ _ => noMarks h
/-- What exec answers, in a next state. -/
def after (i : Instr) (s : State) (p : State → Bool) : Bool := match exec i s with | .next t => p t | _ => false
/-- A scalar register after an instruction. -/
def gives (i : Instr) (s : State) (d : SReg) (w : Word) : Bool := after i s (fun t => t.xOf 0 d == w)

/-! ## Words of every encoded row, assembled by hand from R86 to R92 -/

/-- Each bundle, given by its high and low half, decodes to its instruction, unguarded and with SC 0. -/
def reads (ws : List (Nat × Nat × Instr)) : Bool :=
  ws.all (fun w => match decode (leBytes 8 w.2.1 ++ leBytes 8 w.1) with
    | .ok u => (decide (u.row = w.2.2) || decide (u.v = w.2.2)) && decide (u.sc = 0) && decide (u.guard = { neg := false, p := 0 })
    | .error _ => false)
theorem test_words_scalar_registers : reads
    [(0, 0, .nop),
     (0x0001_0060_FC00_0000, 0, .add 1 32 63),
     (0x0002_00A1_F800_0000, 0, .sub 2 33 62),
     (0x0003_00E2_F400_0000, 0, .mul 3 34 61),
     (0x0004_0123_F000_0000, 0, .mulh 4 35 60),
     (0x0005_0164_EC00_0000, 0, .mulhu 5 36 59),
     (0x0006_01A5_E800_0000, 0, .div 6 37 58),
     (0x0007_01E6_E400_0000, 0, .divu 7 38 57),
     (0x0008_0227_E000_0000, 0, .rem 8 39 56),
     (0x0009_0268_DC00_0000, 0, .remu 9 40 55),
     (0x000A_02A9_D800_0000, 0, .and 10 41 54),
     (0x000B_02EA_D400_0000, 0, .or 11 42 53),
     (0x000C_032B_D000_0000, 0, .xor 12 43 52),
     (0x000D_036C_CC00_0000, 0, .andn 13 44 51),
     (0x000E_03AD_C800_0000, 0, .sll 14 45 50),
     (0x000F_03EE_C400_0000, 0, .srl 15 46 49),
     (0x0010_042F_C000_0000, 0, .sra 16 47 48),
     (0x0011_0470_BC00_0000, 0, .rol 17 48 47),
     (0x0012_04B1_B800_0000, 0, .min 18 49 46),
     (0x0013_04F2_B400_0000, 0, .max 19 50 45),
     (0x0014_0533_B000_0000, 0, .minu 20 51 44),
     (0x0015_0574_AC00_0000, 0, .maxu 21 52 43),
     (0x0016_05B5_A800_0000, 0, .addw 22 53 42),
     (0x0017_05F6_A400_0000, 0, .subw 23 54 41),
     (0x0018_0637_A000_0000, 0, .mulw 24 55 40),
     (0x0019_0146_A070_0000, 0, .lea 5 6 40 7),
     (0x003F_024A_2C00_0000, 0, .mfold 9 10 11)] = true := by decide

theorem test_words_scalar_immediates : reads
    [(0x0020_0146_FFFF_FFFF, 0xD000_0000_0000_0000, .addi 5 6 (-3)),
     (0x0021_0146_FFFF_FFFF, 0xD000_0000_0000_0000, .andi 5 6 (-3)),
     (0x0022_0146_FFFF_FFFF, 0xD000_0000_0000_0000, .ori 5 6 (-3)),
     (0x0023_0146_FFFF_FFFF, 0xD000_0000_0000_0000, .xori 5 6 (-3)),
     (0x0024_01C8_0000_0003, 0xF000_0000_0000_0000, .slli 7 8 63),
     (0x0025_01C8_0000_0003, 0xF000_0000_0000_0000, .srli 7 8 63),
     (0x0026_01C8_0000_0003, 0xF000_0000_0000_0000, .srai 7 8 63),
     (0x0027_0146_8123_4567, 0x8000_0000_0000_0000, .lih 5 6 0x812345678),
     (0x0029_0842_FFFF_FFFF, 0xF000_0000_0000_0000, .addwi 33 2 (-1))] = true := by decide

theorem test_words_compare_and_select : reads
    [(0x0030_00C4_1400_0000, 0, .set .eq 3 4 5),
     (0x0030_00C4_1410_0000, 0, .set .ne 3 4 5),
     (0x0030_00C4_1420_0000, 0, .set .lt 3 4 5),
     (0x0030_00C4_1430_0000, 0, .set .ge 3 4 5),
     (0x0030_00C4_1440_0000, 0, .set .ltu 3 4 5),
     (0x0030_00C4_1450_0000, 0, .set .geu 3 4 5),
     (0x0031_00C4_1FFF_FFFF, 0xE000_0000_0000_0000, .seti .eq 3 4 (-2)),
     (0x0031_00C4_3FFF_FFFF, 0xE000_0000_0000_0000, .seti .ne 3 4 (-2)),
     (0x0031_00C4_5FFF_FFFF, 0xE000_0000_0000_0000, .seti .lt 3 4 (-2)),
     (0x0031_00C4_7FFF_FFFF, 0xE000_0000_0000_0000, .seti .ge 3 4 (-2)),
     (0x0031_00C4_9FFF_FFFF, 0xE000_0000_0000_0000, .seti .ltu 3 4 (-2)),
     (0x0031_00C4_BFFF_FFFF, 0xE000_0000_0000_0000, .seti .geu 3 4 (-2)),
     (0x0032_01C4_1420_0000, 0, .pset .lt 7 4 5),
     (0x0033_0184_B000_0000, 0, .pseti .geu 6 4 (-4294967296)),
     (0x0034_0042_0CA0_0000, 0, .plog 1 2 3 0xA),
     (0x0035_00C4_14E0_0000, 0, .sel 3 4 5 6 true),
     (0x0035_00C4_1460_0000, 0, .sel 3 4 5 6 false)] = true := by decide

theorem test_words_bits : reads
    [(0x0036_00E2_0000_0000, 0, .clz 3 34),
     (0x0037_00E2_0000_0000, 0, .ctz 3 34),
     (0x0038_00E2_0000_0000, 0, .popc 3 34),
     (0x0039_00E2_0000_0000, 0, .brev 3 34),
     (0x003A_00E2_0000_0000, 0, .bswap 3 34),
     (0x003B_00C4_0280_0001, 0x7000_0000_0000_0000, .bfx 3 4 40 23),
     (0x003C_00C4_0000_0003, 0xF000_0000_0000_0000, .bfi 3 4 0 63),
     (0x003D_00C4_0010_0000, 0, .sext 3 4 1),
     (0x003E_00C4_0020_0000, 0, .zext 3 4 2)] = true := by decide

theorem test_words_control : reads
    [(0x0040_0004_17FF_FFFF, 0xF000_0000_0000_0000, .b .eq 4 5 (-1)),
     (0x0040_0044_17FF_FFFF, 0xF000_0000_0000_0000, .b .ne 4 5 (-1)),
     (0x0040_0084_17FF_FFFF, 0xF000_0000_0000_0000, .b .lt 4 5 (-1)),
     (0x0040_00C4_17FF_FFFF, 0xF000_0000_0000_0000, .b .ge 4 5 (-1)),
     (0x0040_0104_17FF_FFFF, 0xF000_0000_0000_0000, .b .ltu 4 5 (-1)),
     (0x0040_0144_17FF_FFFF, 0xF000_0000_0000_0000, .b .geu 4 5 (-1)),
     (0x0041_0340_01FF_FFFF, 0xF000_0000_0000_0000, .bp 5 true 536870911),
     (0x0041_0140_03FF_FFFF, 0xE000_0000_0000_0000, .bp 5 false (-2)),
     (0x0042_003F_FFFF_FFFF, 0xB000_0000_0000_0000, .j (-5)),
     (0x0043_07DF_FFFF_FFFF, 0xF000_0000_0000_0000, .jal 31 2199023255551),
     (0x0044_0042_0000_0000, 0, .jr 1 2),
     (0x0045_0007_03FF_FFFF, 0x7000_0000_0000_0000, .dbnz 7 (-9)),
     (0x0046_0000_0000_0800, 0x1000_0000_0000_0000, .trap 0x8001),
     (0x0048_0000_0000_0FFF, 0xF000_0000_0000_0000, .brk 0xFFFF),
     (0x0047_0000_0000_0000, 0, .eret)] = true := by decide

theorem test_words_threads : reads
    [(0x0050_00C4_1400_0000, 0, .spawn 3 4 5),
     (0x0051_0000_0000_0000, 0, .exit),
     (0x0052_00C4_0000_0000, 0, .join 3 4),
     (0x0053_00C4_0000_0000, 0, .leave 3 4),
     (0x0055_00C4_0000_0000, 0, .gcount 3 4),
     (0x0054_00C4_17FE_0000, 0x1000_0000_0000_0000, .meet 3 4 5 0xFF 0x200001),
     (0x0056_00C0_0000_0000, 0, .waitm 3),
     (0x0057_00C4_1400_0000, 0, .waitr 3 4 5),
     (0x0058_00C4_0000_0000, 0, .waitt .mat 3 4),
     (0x0058_00C4_0050_0000, 0, .waitt .cla3 3 4),
     (0x0059_00C4_0000_0000, 0, .sleep 3 4),
     (0x005A_00C4_0000_0000, 0, .migr 3 4),
     (0x0070_00C0_0000_00C1, 0xD000_0000_0000_0000, .srd 3 0x1D 3),
     (0x0070_00C0_0000_0000, 0xC000_0000_0000_0000, .srd 3 0x0C 0),
     (0x0071_0004_0000_0000, 0xD000_0000_0000_0000, .swr 0x0D 0 4),
     (0x0072_08C0_0000_0000, 0, .rand 35)] = true := by decide

theorem test_words_queues_and_barriers : reads
    [(0x0060_0004_1400_0000, 0, .send 4 5),
     (0x0061_00C4_0000_0000, 0, .recv 3 4),
     (0x0062_00C0_0000_0000, 0, .qstat 3),
     (0x0063_00C4_0000_0000, 0, .taskq 3 4),
     (0x0064_00C4_0000_0000, 0, .taskd 3 4),
     (0x0065_0000_0000_0000, 0, .tret),
     (0x0066_00C4_1400_0000, 0, .dqpush 3 4 5),
     (0x0067_00C0_0000_0000, 0, .dqpop 3),
     (0x0068_00C0_0000_0000, 0, .dqsplit 3),
     (0x0069_00C4_0000_0000, 0, .dqsteal 3 4),
     (0x006A_00C0_FFB0_0000, 0, .nrd .w 3 31 7),
     (0x006A_00C0_8000_0000, 0, .nrd .n 3 0 0),
     (0x006B_0004_1400_0007, 0xF000_0000_0000_0000, .barm 127 4 5),
     (0x006C_0004_0040_0008, 0x1000_0000_0000_0000, .barr .system 1 true 4),
     (0x006C_0004_0000_0000, 0x1000_0000_0000_0000, .barr .core 1 false 4),
     (0x006D_00C4_1530_0004, 0, .bwait .device 3 64 4 5 2),
     (0x006E_00C0_0000_0030, 0x9000_0000_0000_0000, .bstat 3 9 3),
     (0x006F_00C4_1400_0000, 0, .klaunch 3 4 5)] = true := by decide

theorem test_words_fences_and_commands : reads
    [(0x0074_0000_0040_0000, 0, .fence .acq .cluster),
     (0x0074_0000_0090_0000, 0, .fence .rel .die),
     (0x0074_0000_0120_0000, 0, .fence .full .system),
     (0x0075_0000_0000_0000, 0, .rfence),
     (0x0077_00C0_0080_0000, 0, .lease .mat true 3),
     (0x0077_00C0_0020_0000, 0, .lease .cla0 false 3),
     (0x0078_0000_0050_0000, 0, .lrel .cla3),
     (0x0079_00C4_0010_07FF, 0xF000_0000_0000_0000, .enq .cpy 3 4 (-1))] = true := by decide

theorem test_words_memory : reads
    [(0x0080_00E4_03F0_07FF, 0x8000_0000_0000_0000, .ld .n8 .ord .core 3 36 (-8) 63),
     (0x0080_00E4_03F2_4FFF, 0x8000_0000_0000_0000, .ld .i8 .acq .cluster 3 36 (-8) 63),
     (0x0080_00E4_03F4_97FF, 0x8000_0000_0000_0000, .ld .n16 .nt .die 3 36 (-8) 63),
     (0x0080_00E4_03F6_DFFF, 0x8000_0000_0000_0000, .ld .i16 .gth .device 3 36 (-8) 63),
     (0x0080_00E4_03F8_27FF, 0x8000_0000_0000_0000, .ld .n32 .ord .system 3 36 (-8) 63),
     (0x0080_00E4_03F0_6FFF, 0x8000_0000_0000_0000, .ld .i32 .acq .core 3 36 (-8) 63),
     (0x0080_00E4_03F2_B7FF, 0x8000_0000_0000_0000, .ld .b64 .nt .cluster 3 36 (-8) 63),
     (0x0081_0004_1490_03FF, 0xF000_0000_0000_0000, .st .n8 .ord .core 5 4 16383 9),
     (0x0081_0004_1490_5BFF, 0xF000_0000_0000_0000, .st .i16 .rel .core 5 4 16383 9),
     (0x0081_0004_1490_B3FF, 0xF000_0000_0000_0000, .st .b64 .nt .core 5 4 16383 9),
     (0x0082_00C4_0010_3000, 0x8000_0000_0000_0000, .ldfe 3 4 8 1),
     (0x0083_0004_1410_3000, 0x8000_0000_0000_0000, .stfe 5 4 8 1),
     (0x0084_00C4_0010_3000, 0x8000_0000_0000_0000, .ldff 3 4 8 1),
     (0x0085_0004_0010_7000, 0x8000_0000_0000_0000, .feset true 4 8 1),
     (0x0085_0004_0010_3000, 0x8000_0000_0000_0000, .feset false 4 8 1),
     (0x0086_0004_0014_3000, 0x8000_0000_0000_0000, .pref .die 4 8 1),
     (0x0087_0004_0016_3000, 0x8000_0000_0000_0000, .lwb .device 4 8 1),
     (0x0088_0004_0010_3000, 0x8000_0000_0000_0000, .linv .core 4 8 1)] = true := by decide

theorem test_words_atomics : reads
    [(0x0089_00C4_0010_2000, 0x8000_0000_0000_0000, .lr .n32 .core 3 4 8 1),
     (0x0089_00C4_0010_2800, 0x8000_0000_0000_0000, .lr .i32 .core 3 4 8 1),
     (0x0089_00C4_0010_3000, 0x8000_0000_0000_0000, .lr .b64 .core 3 4 8 1),
     (0x008A_00C4_1414_3000, 0x8000_0000_0000_0000, .sc .b64 .die 3 5 4 8 1),
     (0x008B_00C4_1406_2400, 0, .amoAdd .n32 .device 3 5 4 (-16384) 0),
     (0x008B_00C4_1406_6C00, 0, .amoMin .i32 .device 3 5 4 (-16384) 0),
     (0x008B_00C4_1406_B400, 0, .amoMax .b64 .device 3 5 4 (-16384) 0),
     (0x008B_00C4_1406_E400, 0, .amoAnd .n32 .device 3 5 4 (-16384) 0),
     (0x008B_00C4_1407_2C00, 0, .amoOr .i32 .device 3 5 4 (-16384) 0),
     (0x008B_00C4_1407_7400, 0, .amoXchg .b64 .device 3 5 4 (-16384) 0),
     (0x008B_00C4_8011_A800, 0x8000_0000_0000_0000, .amoAddi .i32 .core 3 (-32) 4 8 1),
     (0x008C_00C4_1418_2000, 0x8000_0000_0000_0000, .cas .n32 .system 3 5 4 8 1),
     (0x008D_0004_1410_0000, 0x8000_0000_0000_0000, .xacc .core 5 4 8 1),
     (0x008E_00C4_0011_0000, 0x8000_0000_0000_0000, .xrd .rna .core 3 4 8 1),
     (0x008F_0004_0010_0000, 0x8000_0000_0000_0000, .xclr .core 4 8 1)] = true := by decide

theorem test_words_copies_and_windows : reads
    [(0x0090_00C4_140F_FFFF, 0xF000_0000_0000_0000, .acopy 3 4 5 0xFFFFFF),
     (0x0091_00C4_0000_0008, 0x5000_0000_0000_0000, .acopys 3 4 5 true),
     (0x0092_00C4_1410_00FF, 0xF000_0000_0000_0000, .tilest true false 3 4 5 4095),
     (0x0092_00C4_1420_0000, 0x1000_0000_0000_0000, .tilest false true 3 4 5 1),
     (0x0093_00C4_1410_0000, 0x2000_0000_0000_0000, .tileld true 3 4 5 2),
     (0x0094_00C4_14E0_0004, 0, .wmap true 3 4 5 6 64),
     (0x0094_00C4_1460_0000, 0x1000_0000_0000_0000, .wmap false 3 4 5 6 1),
     (0x0095_00C0_0070_0000, 0, .wunmap 3 7),
     (0x0096_00C0_0070_0000, 0, .wsync 3 7),
     (0x0097_00C0_0070_0000, 0, .wstat 3 7)] = true := by decide

theorem test_words_vector_float : reads
    [(0, 0, .vnop),
     (0, 0x001B_061F_C000_0000, .vadd .f32 .rne { q := 5, zero := true } 1 33 63),
     (0, 0x002B_061F_C000_4800, .vsub .f16 .rtz { q := 5, zero := true } 1 33 63),
     (0, 0x003B_061F_C000_9000, .vmul .bf16 .rdn { q := 5, zero := true } 1 33 63),
     (0, 0x004B_0420_C400_1800, .vfma .f32 .rup { q := 5, zero := true } 1 2 3 4),
     (0, 0x005B_0420_C400_6000, .vfms .f16 .rna { q := 5, zero := true } 1 2 3 4),
     (0, 0x006B_0420_C400_A800, .vfnma .bf16 .sto { q := 5, zero := true } 1 2 3 4),
     (0, 0x007B_0420_C000_4000, .vmin .f16 { q := 5, zero := true } 1 2 3),
     (0, 0x008B_0420_C000_8000, .vmax .bf16 { q := 5, zero := true } 1 2 3),
     (0, 0x009B_0420_0000_0000, .vabs .f32 { q := 5, zero := true } 1 2),
     (0, 0x00AB_0420_0000_4000, .vneg .f16 { q := 5, zero := true } 1 2),
     (0, 0x00BB_0420_C000_2000, .vdiv .f32 .rna { q := 5, zero := true } 1 2 3),
     (0, 0x00CB_0420_0000_9800, .vsqrt .bf16 .rup { q := 5, zero := true } 1 2),
     (0, 0x010B_0420_0000_0000, .vrcp .f32 { q := 5, zero := true } 1 2),
     (0, 0x011B_0420_0000_4000, .vrsq .f16 { q := 5, zero := true } 1 2),
     (0, 0x012B_0420_0000_8000, .vexp2 .bf16 { q := 5, zero := true } 1 2),
     (0, 0x013B_0420_0000_0000, .vlog2 .f32 { q := 5, zero := true } 1 2),
     (0, 0x014B_0420_0000_4000, .vtanh .f16 { q := 5, zero := true } 1 2),
     (0, 0x015B_0420_0000_8000, .verf .bf16 { q := 5, zero := true } 1 2)] = true := by decide

theorem test_words_vector_integer : reads
    [(0, 0x020B_0420_C000_C000, .viadd .i32 { q := 5, zero := true } 1 2 3),
     (0, 0x021B_0420_C001_0000, .visub .n32 { q := 5, zero := true } 1 2 3),
     (0, 0x022B_0420_C001_4000, .vimul .i16 { q := 5, zero := true } 1 2 3),
     (0, 0x024B_0420_C001_8000, .vand .i8 { q := 5, zero := true } 1 2 3),
     (0, 0x025B_0420_C001_C000, .vor .n8 { q := 5, zero := true } 1 2 3),
     (0, 0x026B_0420_C000_C000, .vxor .i32 { q := 5, zero := true } 1 2 3),
     (0, 0x02AB_0420_C001_0000, .vimin .n32 { q := 5, zero := true } 1 2 3),
     (0, 0x02BB_0420_C001_4000, .vimax .i16 { q := 5, zero := true } 1 2 3),
     (0, 0x023B_0420_C401_C000, .vimad .n8 { q := 5, zero := true } 1 2 3 4),
     (0, 0x027B_0420_C000_C000, .vshl .i32 { q := 5, zero := true } 1 2 (.reg 3)),
     (0, 0x028B_0420_0005_001F, .vshr .n32 { q := 5, zero := true } 1 2 (.imm 31)),
     (0, 0x029B_0420_0005_403F, .vsra .i16 { q := 5, zero := true } 1 2 (.imm 63)),
     (0, 0x02CB_0420_0001_8000, .vpopc .i8 { q := 5, zero := true } 1 2),
     (0, 0x02DB_0420_0001_C000, .vclz .n8 { q := 5, zero := true } 1 2),
     (0, 0x02EB_0420_C004_C000, .vdot4 true { q := 5, zero := true } 1 2 3),
     (0, 0x02EB_0420_C000_C000, .vdot4 false { q := 5, zero := true } 1 2 3),
     (0, 0x02FB_0420_0000_C000, .viabs .i32 { q := 5, zero := true } 1 2)] = true := by decide

theorem test_words_vector_compare : reads
    [(0, 0x030B_1C20_C000_0000, .vcmp .f32 .eq { q := 5, zero := true } 7 2 3),
     (0, 0x030B_1C20_C004_4000, .vcmp .f16 .ne { q := 5, zero := true } 7 2 3),
     (0, 0x030B_1C20_C008_8000, .vcmp .bf16 .lt { q := 5, zero := true } 7 2 3),
     (0, 0x030B_1C20_C00C_0000, .vcmp .f32 .le { q := 5, zero := true } 7 2 3),
     (0, 0x030B_1C20_C010_4000, .vcmp .f16 .gt { q := 5, zero := true } 7 2 3),
     (0, 0x030B_1C20_C014_8000, .vcmp .bf16 .ge { q := 5, zero := true } 7 2 3),
     (0, 0x030B_1C20_C018_0000, .vcmp .f32 .uno { q := 5, zero := true } 7 2 3),
     (0, 0x030B_1C20_C01C_4000, .vcmp .f16 .ord { q := 5, zero := true } 7 2 3),
     (0, 0x031B_0420_C000_C000, .vicmp .i32 .eq { q := 5, zero := true } 1 2 3),
     (0, 0x031B_0420_C005_0000, .vicmp .n32 .ne { q := 5, zero := true } 1 2 3),
     (0, 0x031B_0420_C009_4000, .vicmp .i16 .lt { q := 5, zero := true } 1 2 3),
     (0, 0x031B_0420_C00D_8000, .vicmp .i8 .ge { q := 5, zero := true } 1 2 3),
     (0, 0x031B_0420_C011_C000, .vicmp .n8 .ltu { q := 5, zero := true } 1 2 3),
     (0, 0x031B_0420_C014_C000, .vicmp .i32 .geu { q := 5, zero := true } 1 2 3),
     (0, 0x032B_0420_C01C_0000, .vsel { q := 5, zero := true } 1 2 3 7),
     (0, 0x0390_0420_C018_0000, .qlog 1 2 3 0x6),
     (0, 0x03A0_A070_0000_0000, .qcnt 40 7),
     (0, 0x03BB_0C00_0000_C000, .viota { q := 5, zero := true } 3)] = true := by decide

theorem test_words_vector_movement : reads
    [(0, 0x033B_0620_0000_0000, .vmov { q := 5, zero := true } 1 34),
     (0, 0x034B_0420_0000_0000, .vbcast .f32 { q := 5, zero := true } 1 2),
     (0, 0x034B_0420_0000_4000, .vbcast .f16 { q := 5, zero := true } 1 2),
     (0, 0x034B_0420_0000_8000, .vbcast .bf16 { q := 5, zero := true } 1 2),
     (0, 0x034B_0420_0000_C000, .vbcast .i32 { q := 5, zero := true } 1 2),
     (0, 0x034B_0420_0001_0000, .vbcast .n32 { q := 5, zero := true } 1 2),
     (0, 0x034B_0420_0001_4000, .vbcast .i16 { q := 5, zero := true } 1 2),
     (0, 0x034B_0420_0001_8000, .vbcast .i8 { q := 5, zero := true } 1 2),
     (0, 0x034B_0420_0001_C000, .vbcast .n8 { q := 5, zero := true } 1 2),
     (0, 0x034B_0420_0002_0000, .vbcast .e4m3 { q := 5, zero := true } 1 2),
     (0, 0x034B_0420_0002_4000, .vbcast .e5m2 { q := 5, zero := true } 1 2),
     (0, 0x034B_0420_0002_8000, .vbcast .e3m2 { q := 5, zero := true } 1 2),
     (0, 0x034B_0420_0002_C000, .vbcast .e2m3 { q := 5, zero := true } 1 2),
     (0, 0x034B_0420_0003_0000, .vbcast .e2m1 { q := 5, zero := true } 1 2),
     (0, 0x034B_0420_0003_4000, .vbcast .mk8 { q := 5, zero := true } 1 2),
     (0, 0x034B_0420_0003_8000, .vbcast .e8m0 { q := 5, zero := true } 1 2),
     (0, 0x0350_0420_0001_C03F, .vins .n8 1 2 63),
     (0, 0x0360_8420_0000_000F, .vext .f32 33 2 15),
     (0, 0x037B_0420_C003_8000, .vperm .e8m0 { q := 5, zero := true } 1 2 3),
     (0, 0x038B_0420_003C_4000, .vshuf .f16 { q := 5, zero := true } 1 2 15)] = true := by decide

theorem test_words_vector_conversion : reads
    [(0, 0x040B_0420_0043_2800, .vcvt .e2m1 .f32 .sto true { q := 5, zero := true } 1 2),
     (0, 0x040B_0420_0034_5000, .vcvt .f16 .mk8 .rdn false { q := 5, zero := true } 1 2),
     (0, 0x0410_0420_C042_0000, .vqnt .e4m3 .rne true 1 2 3),
     (0, 0x042B_0420_0024_0001, .vdqnt .f32 .e5m2 true { q := 5, zero := true } 1 2),
     (0, 0x0430_0420_C02B_8000, .vscale .e3m2 1 2 3),
     (0, 0x044B_0420_0011_C003, .vpack .n8 .n32 3 { q := 5, zero := true } 1 2),
     (0, 0x045B_0420_0014_C001, .vunpk .i32 .i16 1 { q := 5, zero := true } 1 2),
     (0, 0x050A_8420_0009_8000, .vred .i8 .max { q := 5, zero := false } 33 2),
     (0, 0x051B_0420_0004_8000, .vscan .bf16 .min { q := 5, zero := true } 1 2),
     (0, 0x0520_7820_C000_0000, .vsortk 30 2 3),
     (0, 0x0530_F820_DC00_0000, .vmergek 62 2 3 28),
     (0, 0x054B_0630_0000_0000, .qsum { q := 5, zero := true } 1 35),
     (0, 0x055A_8420_0001_C000, .vargmx .n8 { q := 5, zero := false } 33 2)] = true := by decide

theorem test_words_vector_memory : reads
    [(0, 0x060B_0420_001C_1C00, .vld .f32 .gth { q := 5, zero := true } 1 2 (-1024) 7),
     (0, 0x061A_0020_C01D_D3FF, .vst .n8 .nt { q := 5, zero := false } 3 2 1023 7),
     (0, 0x062B_0420_C01D_5800, .vgath .i16 .gth { q := 5, zero := true } 1 2 3 7),
     (0, 0x063A_0020_C41D_4000, .vscat .i16 { q := 5, zero := false } 4 2 3 7),
     (0, 0x0700_7C20_0000_0000, .sbind 7 2),
     (0, 0x0710_6000_0000_0000, .sunb 0),
     (0, 0x0720_65A0_0000_0000, .sisect 1 2),
     (0, 0x0730_85B0_0000_0000, .sstat 33 3),
     (0, 0x0740_7020_0000_0000, .sskip 4 2),
     (0, 0x0800_0420_00A4_C000, .vmaxx true true 1 2 5),
     (0, 0x0800_0420_0000_0000, .vmaxx false false 1 2 0),
     (0, 0x081B_0400_0001_0000, .vrand true { q := 5, zero := true } 1),
     (0, 0x081B_0400_0000_0000, .vrand false { q := 5, zero := true } 1),
     (0, 0x0820_07F0_00C8_0000, .vnrd .s 1 31 6)] = true := by decide

/-! ## Hypotheses of the statements: slot A and slot V -/

theorem witness_ScalarResultAndFrame : scalarNow (.add 1 2 3) base = some (1, wrap 0) := rfl
theorem witness_PredicateResultAndFrame : predicateNow (.pset .eq 1 2 3) base = some (1, true) := by decide +kernel
theorem witness_DivisionResult : division (.div 1 2 3) base = some (1, wrap (-1)) := by decide +kernel
theorem witness_LeaResult : ∃ f : AF, f.op = 0x19 ∧ f.fn.toNat < 8 ∧ f.grd ≠ 8 ∧ f.imm = 0 ∧ decodeAF f = .ok (.lea 1 2 3 7) :=
  ⟨{ op := 0x19, grd := 0, d := 1, s1 := 2, s2 := 3, fn := 7, imm := 0 }, by decide⟩
theorem witness_VectorIntegerAndMoveResult : ∃ m vd ty f, vecPlain (.viadd .n8 { q := 1, zero := false } 1 2 3) base = some (m, vd, ty, f) :=
  ⟨_, _, _, _, rfl⟩
theorem witness_VectorFloatResult : ∃ o ty rm m vd a b c, fpRow (.vadd .f32 .sto { q := 0, zero := false } 1 2 3) base = some (o, ty, rm, m, vd, a, b, c, 1) :=
  ⟨_, _, _, _, _, _, _, _, rfl⟩
theorem witness_VectorFloatLateResult : ∃ o ty rm m vd a b c n, fpRow (.vdiv .f32 .rna { q := 0, zero := false } 1 2 3) base = some (o, ty, rm, m, vd, a, b, c, n) ∧ n ≠ 1 :=
  ⟨_, _, _, _, _, _, _, _, _, rfl, by decide⟩
theorem witness_FloatOperationsAreExact : ∃ x y z w, ratOf (fmtValue FTy.f32.fmt 0x3F80_0000) = some x ∧ ratOf (fmtValue FTy.f32.fmt 0x4000_0000) = some y ∧
    ratOf (fmtValue FTy.f32.fmt 0) = some z ∧ exactOf .fma x y z = some w := ⟨_, _, _, _, rfl, rfl, rfl, rfl⟩
theorem witness_RoundingIsRight : Ty.e2m1.isInt = false ∧ Ty.e2m1 ≠ .e8m0 ∧ Proper (.fin false 3 2 0) ∧ Proper (.fin true 8 1 0) ∧
    (∃ w, ratOf (.fin false 3 2 0) = some w ∧ |w| ≤ greatest Ty.e2m1.fmt) ∧ ∃ w, ratOf (.fin true 8 1 0) = some w ∧ greatest Ty.e2m1.fmt < |w| ∧ Claims.following Ty.e2m1.fmt ≤ |w| := by
  have g : greatest Ty.e2m1.fmt = 6 := by
    have : valueAt Ty.e2m1.fmt Ty.e2m1.fmt.maxCode = some 6 := by decide +kernel
    simp [greatest, this]
  have f : Claims.following Ty.e2m1.fmt = 8 := by
    have : valueAt Ty.e2m1.fmt (Ty.e2m1.fmt.maxCode - 1) = some 4 := by decide +kernel
    rw [Claims.following, g, this]; norm_num
  refine ⟨rfl, by decide, by simp [Proper], by simp [Proper], ⟨_, rfl, ?_⟩, _, rfl, ?_, ?_⟩ <;> norm_num [g, f]
theorem witness_IntegerRoundingIsRight : Ty.i8.isInt = true ∧ Proper (.fin true 3 2 0) ∧ (ratOf (.fin true 3 2 0)).isSome = true := ⟨rfl, by simp [Proper], rfl⟩
theorem witness_VectorConversionResult : ∃ m vd rm ty f, vecFlagged (.vcvt .e2m1 .f32 .sto false { q := 0, zero := false } 1 2) base = some (m, vd, rm, ty, f) :=
  ⟨_, _, _, _, _, rfl⟩
theorem witness_VectorQuantiseAndPackResult : (63#6).toNat < Ty.n8.count ∧ 16 * (3#2).toNat < Ty.e2m1.count := by decide
theorem witness_VectorToScalarResult : ∃ d v fl, vecScalar (.qcnt 1 0) base = some (d, v, fl) := ⟨_, _, _, rfl⟩
theorem witness_LaneMaskResult : ∃ d f fl, vecMask (.vcmp .f32 .lt { q := 0, zero := true } 7 1 2) base = some (d, f, fl) := ⟨_, _, _, rfl⟩
theorem witness_SortResult : ∃ d ps, sortInput (.vmergek 1 3 5 7) base = some (d, ps) := ⟨_, _, rfl⟩
theorem witness_RandResult : ∃ f : AF, f.op = 0x72 ∧ f.grd ≠ 8 ∧ f.s1 = 0 ∧ f.s2 = 0 ∧ f.fn = 0 ∧ f.imm = 0 ∧ decodeAF f = .ok (.rand 35) :=
  ⟨{ op := 0x72, grd := 0, d := 35, s1 := 0, s2 := 0, fn := 0, imm := 0 }, by decide⟩
theorem witness_VrandResult : ∃ f : VF, f.op = 0x81 ∧ decodeVF f = .ok (.vrand true { q := 1, zero := false } 5) :=
  ⟨{ op := 0x81, mask := 1, mz := 0, vd := 5, vs1 := 0, vs2 := 0, vs3 := 0, fn := 0, ty := 4, rm := 0, imm := 0 }, by decide⟩

/-! ## Hypotheses: control, exceptions, services -/

theorem witness_BranchResult_taken : base.issue = .done ∧ ∃ z, flow (.b .eq 1 2 (-1)) base = some (none, some z) ∧ 0 ≤ z ∧ z < 2 ^ 56 :=
  ⟨rfl, 0x0F_FFF0, by decide +kernel⟩
theorem witness_BranchResult_passed : flow (.b .ne 1 2 5) base = some (none, none) := by decide +kernel
theorem witness_BranchResult_link : ∃ v z, flow (.jal 1 5) base = some (some (1, v), some z) ∧ 0 ≤ z ∧ z < 2 ^ 56 := ⟨0x10_0010, 0x10_0050, by decide +kernel⟩
theorem witness_TakingAnException : MayEnter base ∧ raises (.trap 7) base = some (0, 7, none, 0x10_0010) := by
  refine ⟨⟨rfl, by decide +kernel, rfl, by decide +kernel⟩, by decide +kernel⟩
theorem witness_TakingAnException_address : raises (.b .eq 1 2 (-0x1_0001)) base = some (4, 0x40, some (wrap (-16)), 0x10_0000) := by decide +kernel
theorem witness_TakingAnException_align : raises (.jr 1 2) (withX base [(2, 8)]) = some (5, 0x44, some 8, 0x10_0000) := by decide +kernel
theorem witness_TakingAnException_privilege : raises (.swr 0x00E 0 1) base = some (2, 0x71, some 0, 0x10_0000) := by decide +kernel
theorem witness_FatalFaultsAtTheBundle_runtime : let s := State.with_ base (fun t => { t with mode := .runtime })
    raises (.brk 1) s = some (1, 1, none, 0x10_0000) ∧ s.me.mode = .runtime := by decide +kernel
theorem witness_FatalFaultsAtTheBundle_user : let s := State.with_ base (fun t => { t with upvec := 0 })
    raises (.trap 1) s = some (0, 1, none, 0x10_0010) ∧ s.me.mode = .user ∧ s.reservations s.cur = 0 ∧ s.me.frame = [] ∧ s.me.upvec = 0 := by decide +kernel
theorem witness_ReturnFromUpcall : (State.with_ base (fun t => { t with mode := .runtime })).me.mode = .runtime := rfl
/-- A runtime with an access in flight for one that faulted. -/
theorem witness_ReturnFromUpcall_owed : (State.with_ base (fun t => { t with mode := .runtime, owed := [7] })).me.owed ≠ [] := by decide
theorem witness_RuntimeServices : let s := withX (State.with_ base (fun t => { t with mode := .runtime })) [(1, own)]
    let u := State.with_ s (fun t => { t with reply := some 0 })
    s.me.mode = .runtime ∧ s.me.reply = none ∧ u.me.mode = .runtime ∧ u.me.reply.isSome = true ∧ (u.rx 1).toNat < 2 ^ 56 ∧
      u.check u.me (u.rx 1).toNat 64 64 .read = .ok { place := .lm 0 0 } ∧ LmSound u 0 0 64 ∧ u.heldEvents = [] := by
  refine ⟨by decide +kernel, by decide +kernel, by decide +kernel, by decide +kernel, by decide +kernel, by decide +kernel, noMarks rfl, rfl⟩
theorem witness_SpecialRegisters : specialOf base 0x00D 0 = some (BitVec.allOnes 64) ∧ ∃ u, swrOf base.me base.cycle 0x015 5 = some u := ⟨by decide +kernel, _, rfl⟩

/-! ## Hypotheses: threads, groups, queues, barriers -/

theorem witness_WaitAndStatusResult : dOnly (.bstat 3 9 2) base = some (3, 0) ∧ dOnly (.sleep 3 4) base = some (3, 1000) := by decide +kernel
/-- base with a word in its own LM and addresses in x4, x5. -/
def inLm : State := withLm (withX base [(4, own), (5, own + 0x100)]) 0 [7]
theorem inLm_block (n : Nat) (need : Need) (hn : n = 8 ∨ n = 32 ∨ n = 64) (h : need = .read ∨ need = .write) : BlockAt inLm 4 n need 0 := by
  rcases hn with rfl | rfl | rfl <;> rcases h with rfl | rfl <;>
    exact ⟨{ place := .lm 0 0 }, by decide +kernel, rfl, ⟨by decide +kernel, by decide +kernel, sound_of rfl⟩, by decide +kernel⟩
theorem witness_WaitrResult : BlockAt inLm 4 8 .read 0 ∧ numAt (inLm.coreCtx inLm.me.cc).lm 0 8 ≠ (inLm.rx 6).toNat :=
  ⟨inLm_block 8 .read (by simp) (by simp), by decide +kernel⟩
theorem witness_DequeResult : dequeNow (.dqpush 3 0 4) (withX base [(4, 9)]) = some (0, [packed 0 9], 3, 1) := by decide +kernel
theorem witness_DequeResult_split : dequeNow (.dqsplit 3) (withDq base 0 [packed 0 9]) = some (0, [packed 4 9, packed 0 4], 3, 1) := by decide +kernel
theorem witness_DequeResult_negative : let s := withX base [(4, 9)]
    (s.rx 0).toNat % 2 ^ 32 < (s.rx 4).toNat % 2 ^ 32 := by decide +kernel
theorem witness_BarrierResult : ∃ r, barNow (.barm 5 1 2) base = some (5, r) := ⟨_, rfl⟩
theorem witness_BarrierResult_arrive : barNow (.barr .core 5 false 1) base = some (5, { arrived := 1 }) := by decide +kernel
/-- A kernel of two cores. -/
def twoCores : State := base.setKernel 0 { base.kernel 0 with record := 0x201 <<< 128 }
theorem witness_BarrierResult_other : let s := withX twoCores [(1, 1)]
    s.release .device = .ok s ∧ (s.rx 1).toNat < (s.kernel s.me.kid).ncore ∧ (s.rx 1).toNat ≠ s.me.core := by decide +kernel
theorem witness_DequeResult_steal : dequeNow (.dqsteal 3 0) (withDq base 0 [packed 0 9]) = some (0, [packed 0 4], 3, packed 4 9) ∧
    (let s := withX twoCores [(4, 1)]
     (s.rx 4).toNat < (s.kernel s.me.kid).ncore ∧ s.me.reply = none ∧ ccKey s.me.kid (s.rx 4).toNat ≠ s.me.cc ∧ ∀ o ∈ s.ops, o.thr = s.cur → o.kind ≠ .steal (ccKey s.me.kid (s.rx 4).toNat)) := by
  decide +kernel
theorem witness_BarrierWaitResult : base.me.reply = none ∧ (base.bar base.me.cc 5).phase = false ∧ ((withX base [(1, 1)]).rx 1).getLsbD 0 ≠ false := by decide +kernel
theorem witness_BarrierWaitResult_woken : (State.with_ base (fun t => { t with reply := some 3 })).me.reply = some ((if true then 1 else 0) + (if false then 0 else 2)) := by decide +kernel
theorem witness_GroupMembership_join : groupNow base 1 ∉ base.me.groups ∧ base.me.groups.length < 4 ∧ countOf base (groupNow base 1) + base.me.mul.toNat < 2 ^ 48 := by decide +kernel
theorem witness_GroupMembership_leave : let s := (State.with_ base (fun t => { t with groups := [0] })).setKernel 0 { base.kernel 0 with groups := [(0, { count := 1, live := true })] }
    groupNow s 1 ∈ s.me.groups ∧ s.me.mul.toNat ≤ countOf s (groupNow s 1) := by decide +kernel
/-- base a member of group 0, alone in it, with the meets given. -/
def member (ms : AMap Meet) : State := (State.with_ base (fun t => { t with groups := [0] })).setKernel 0 { base.kernel 0 with groups := [(0, { count := 1, live := true })], meets := ms }
theorem member_mayMeet (ms : AMap Meet) (h : (member ms).reservations 0 = 0) : MayMeet (member ms) 0 0 :=
  ⟨rfl, .head _, fun _ => ⟨h, rfl, fun _ _ k => absurd k (by simp)⟩, fun _ ho => by rw [show (member ms).ops = [] from rfl] at ho; cases ho⟩
/-- An entry of another group's meet. -/
def another : Meet := { closing := false, home := false, gid := 9, mid := 2, gen := 0, win := 16, opened := 900, need := 2, arr := 1, waiters := [], due := 0 }
def fullTable : AMap Meet := (List.range 256).map (fun n => (n, another))
theorem witness_MeetArrival : MayMeet (member []) 0 0 ∧ (((member []).kernel 0).meets.map (·.1)).Nodup ∧ ¬ NoEntry (member []) 0 2 := by
  refine ⟨member_mayMeet _ (by decide +kernel), by decide +kernel, fun h => ?_⟩
  rcases h.2 with h | ⟨_, n, hn, hj⟩
  · exact absurd h (by decide +kernel)
  · have f : ((member []).kernel (member []).me.kid).freeMeet (((member []).kernel (member []).me.kid).lcOf (member []).me.core) = some 0 := by decide +kernel
    obtain rfl : 0 = n := Option.some.inj (f.symm.trans hn)
    exact absurd (hj 1 (by decide)) (by decide +kernel)
theorem witness_MeetArrival_full : MayMeet (member fullTable) 0 0 ∧ (((member fullTable).kernel 0).meets.map (·.1)).Nodup ∧ NoEntry (member fullTable) 0 2 := by
  refine ⟨member_mayMeet _ (by decide +kernel), ?_, by decide +kernel, .inl (by decide +kernel)⟩
  have : ((member fullTable).kernel 0).meets.map (·.1) = List.range 256 := by decide +kernel
  rw [this]; exact List.nodup_range
theorem witness_ExitResult : ¬(base.me.fromTask ∧ base.me.footed) ∧ (member []).me.groups = [0] ∧ (member []).me.mul.toNat ≤ countOf (member []) 0 := by decide +kernel
theorem witness_SpawnResult : let s := withX base [(1, 0x10_0040)]
    (s.rx 1).toNat % 16 = 0 ∧ (s.rx 1).toNat < 2 ^ 56 ∧ (s.ctx (s.kernel s.me.kid).ctx).savebase = 0 := by decide +kernel
theorem witness_MigrationResult : let s := withX (State.with_ (base.setKernel 0 { base.kernel 0 with record := (0x201 <<< 128) ||| 0x200 }) (fun t => { t with modeReg := 8 })) [(1, 1)]
    let k := s.kernel s.me.kid
    k.mig = true ∧ k.det = false ∧ k.shr = false ∧ s.me.modeReg.getLsbD 3 = true ∧ (s.rx 1).toNat < k.ncore ∧ (s.rx 1).toNat < 1024 ∧
      k.lcOf (s.rx 1).toNat = k.lcOf s.me.core ∧ (s.rx 1).toNat ≠ s.me.core ∧ s.freeSlot s.me.kid (s.rx 1).toNat = some 0 ∧ s.me.streams = [] ∧ s.ops = [] := by decide +kernel
/-- Two cores of one cluster, the thread on the first; x1 all ones names the second. -/
def movable : State := withX (State.with_ (base.setKernel 0 { base.kernel 0 with record := (0x201 <<< 128) ||| 0x200 }) (fun t => { t with modeReg := 8 })) [(1, BitVec.allOnes 64)]
theorem witness_MigrationResult_idlest : Names movable 1 1 ∧ MayMove movable 1 ∧ movable.freeSlot movable.me.kid 1 = some 0 ∧ movable.ops = [] := by
  have all : ∀ p' < 8, ((movable.kernel movable.me.kid).coreAt ((movable.kernel movable.me.kid).lcOf movable.me.core) p').all
      (fun c' => decide (movable.readyCount movable.me.kid 1 ≤ movable.readyCount movable.me.kid c' ∧ (p' < 1 → movable.readyCount movable.me.kid 1 < movable.readyCount movable.me.kid c'))) = true := by decide +kernel
  refine ⟨.inr ⟨by decide +kernel, 1, by decide, by decide +kernel, fun p' hp c' hc => ?_⟩, by unfold MayMove; decide +kernel, by decide +kernel, by decide +kernel⟩
  have := all p' hp
  rw [hc] at this
  exact of_decide_eq_true this
theorem witness_MigrationResult_refused : Names base 0 0 ∧ ¬ MayMove base 0 := ⟨.inl ⟨by decide +kernel, by decide⟩, by unfold MayMove; decide +kernel⟩

/-! ## Hypotheses: memory instructions -/

theorem witness_OwnMemoryAccess : ∃ m : Row, memRow (.ld .b64 .ord .core 3 4 8 0) inLm = some m ∧
    inLm.check inLm.me m.addr m.n m.n m.need = .ok { place := .lm inLm.me.cc 8 } ∧ Clear inLm (.lm inLm.me.cc 8) m.n ∧ inLm.heldCc inLm.me.cc = false := by
  exact ⟨_, rfl, by decide +kernel, ⟨by decide +kernel, by decide +kernel, sound_of rfl⟩, by decide +kernel⟩
/-- x4 names global memory on a page with a tag that no clearance lets through. -/
def tagged : State := { withX base [(4, 0x10_0000)] with mem := base.mem.write (fetchRoot + 0x4000) (leBytes 16 (7 + 5 * 2 ^ 68)) }
theorem witness_AccessInFlight : ∃ m : Row, memRow (.amoAdd .b64 .core 3 5 4 8 0) (withX base [(4, 0x10_0000)]) = some m ∧
    let s := withX base [(4, 0x10_0000)]
    s.check s.me m.addr m.n m.n m.need = .ok { place := .glob 0x10_0008 } ∧ s.acquiring s.cur = false ∧ tagAllows s { place := .glob 0x10_0008 } = true ∧
      s.loadsOut s.cur < 4 ∧ s.reservations s.cur + s.me.frame.length < 4 := by
  refine ⟨_, rfl, ?_⟩; decide +kernel
def farPointer : State := withX base [(4, BitVec.ofNat 64 (2 ^ 62 + 2 ^ 44))]
theorem witness_AccessInFlight_lost (h : 2 ^ 43 ≤ Config.farWindow 1 0) : ∃ m : Row, memRow (.sc .b64 .core 3 5 4 8 0) farPointer = some m ∧ m.kind = .sc ∧
    farPointer.check farPointer.me m.addr m.n m.n m.need = .ok { place := .far (2 ^ 62 + 2 ^ 44 + 8), far := true } ∧ farPointer.ops = [] ∧ farPointer.me.resv ≠ some (globKey 4 (2 ^ 62 + 2 ^ 44 + 8)) := by
  have c : farPointer.checkRange farPointer.me (2 ^ 62 + 2 ^ 44 + 8) 8 = .ok none := by
    rw [State.checkRange]
    simp only []
    rw [if_neg (by decide), if_pos (by decide), if_neg (by decide +kernel), if_neg]
    have d : (farPointer.ctx farPointer.me.ctx).tenant = 0 := by decide +kernel
    rw [d, show ((2 ^ 62 + 2 ^ 44 + 8 : Int).toNat >>> 44) % 2 ^ 18 = 1 from by decide, show (2 ^ 62 + 2 ^ 44 + 8 : Int).toNat % 2 ^ 44 = 8 from by decide]
    omega
  refine ⟨_, rfl, rfl, ?_, rfl, by decide +kernel⟩
  have a : effAddr farPointer 4 8 = 2 ^ 62 + 2 ^ 44 + 8 := by decide +kernel
  rw [a, State.check]
  simp only [aSize, c]
  rfl
theorem witness_DeniedAccess : ∃ m : Row, memRow (.st .n8 .ord .core 5 4 0 0) tagged = some m ∧ AtHome tagged ∧
    tagged.check tagged.me m.addr m.n m.n m.need = .ok { place := .glob 0x10_0000, tag := 5 } ∧ tagged.acquiring tagged.cur = false ∧
    (tagged.ctx tagged.me.ctx).logctl = 0 ∧ tagAllows tagged { place := .glob 0x10_0000, tag := 5 } = false := by
  refine ⟨_, rfl, ⟨fun _ => rfl, by decide +kernel, fun _ => rfl, by decide +kernel⟩, ?_⟩; decide +kernel
theorem witness_DeniedAccess_sound : ClrSound tagged { place := .glob 0x10_0000, tag := 5 } := .inr (.inl (by decide +kernel))
theorem witness_AccessFaults_align : ∃ m : Row, memRow (.ld .n32 .ord .core 3 4 2 0) inLm = some m ∧
    inLm.check inLm.me m.addr m.n m.n m.need = .error (5, wrap m.addr) ∧ MayEnter inLm := by
  refine ⟨_, rfl, by decide +kernel, ⟨rfl, by decide +kernel, rfl, by decide +kernel⟩⟩
theorem witness_AccessFaults_access : let s := withX base [(4, 1#64 <<< 50)]
    ∃ m : Row, memRow (.ld .n32 .ord .core 3 4 0 0) s = some m ∧ s.check s.me m.addr m.n m.n m.need = .error (14, wrap m.addr) := by
  refine ⟨_, rfl, ?_⟩; decide +kernel
theorem witness_MultiplicityFault : 1 < (State.with_ base (fun t => { t with mul := 2 })).me.mul.toNat := by decide +kernel
theorem witness_FencesComplete : base.ops = [] ∧ base.me.frame = [] ∧ base.me.late = [] := ⟨rfl, rfl, rfl⟩
/-- inLm with the first word of the LM full. -/
def fullWord : State := inLm.setCoreCtx 0 { inLm.coreCtx 0 with full := [(0, true)] }
theorem witness_FullEmptyResult_woken : (State.with_ base (fun t => { t with reply := some 3 })).me.reply = some 3 := rfl
theorem witness_FullEmptyResult_load : fullWord.me.reply = none ∧ fullWord.me.replyBad = false ∧ Clear fullWord (.lm fullWord.me.cc 0) 8 ∧ FeAt fullWord (.ldfe 3 4 0 0) 4 0 .read 0 true ∧
    FeAt fullWord (.ldff 3 4 0 0) 4 0 .read 0 true := by
  refine ⟨rfl, rfl, ⟨by decide +kernel, by decide +kernel, sound_of rfl⟩, ⟨by decide +kernel, by decide +kernel, by decide +kernel⟩, ⟨by decide +kernel, by decide +kernel, by decide +kernel⟩⟩
theorem witness_FullEmptyResult_store : inLm.me.reply = none ∧ inLm.release .device = .ok inLm ∧ FeAt inLm (.stfe 5 4 0 0) 4 0 .write 0 false ∧ inLm.heldCc inLm.me.cc = false ∧ LmSound inLm inLm.me.cc 0 8 := by
  refine ⟨rfl, by decide +kernel, ⟨by decide +kernel, by decide +kernel, by decide +kernel⟩, by decide +kernel, noMarks rfl⟩
theorem witness_FullEmptyResult_set : FeAt fullWord (.feset false 4 0 0) 4 0 .write 0 true ∧ Clear fullWord (.lm fullWord.me.cc 0) 8 ∧ fullWord.heldCc fullWord.me.cc = false := by
  refine ⟨⟨by decide +kernel, by decide +kernel, by decide +kernel⟩, ⟨by decide +kernel, by decide +kernel, sound_of rfl⟩, by decide +kernel⟩
theorem base_atHome : AtHome base := ⟨fun _ => rfl, by decide +kernel, fun _ => rfl, by decide +kernel⟩
theorem witness_CacheMaintenanceResult : AtHome base ∧ lineChecked base (effAddr base 0 0) = some (some 0) ∧ base.locate 0 = .at_ 0 0 := ⟨base_atHome, by decide +kernel, by decide +kernel⟩
/-- The home of the first line of 0x10_0000 has served another request in this cycle. -/
def busyHome (s : State) : State := { s with servedAt := s.cycle, served := [lineKey 0 0x10_0000] }
theorem witness_CacheMaintenanceResult_busy : let s := busyHome (withX base [(4, 0x10_0000)])
    s.check s.me (effAddr s 4 0) 1 1 .read = .ok { place := .glob 0x10_0000 } ∧ s.homeWaits s.me.cc (s.physCore s.me) 0x10_0000 = true ∧ s.ptRoot % 16 = 0 ∧ ClrSound s { place := .glob 0x10_0000 } ∧
      base.homeWaits 0 0 0x10_0000 = false := ⟨by decide +kernel, by decide +kernel, by decide +kernel, .inl rfl, by decide +kernel⟩
theorem witness_MessageResult_send : inLm.me.reply = none ∧ inLm.release .device = .ok inLm ∧ BlockAt inLm 4 64 .read 0 ∧ (inLm.rx 0).toNat < (inLm.kernel inLm.me.kid).ncore :=
  ⟨rfl, by decide +kernel, inLm_block 64 .read (by simp) (by simp), by decide +kernel⟩
theorem witness_MessageResult_woken : (State.with_ base (fun t => { t with reply := some 0 })).me.reply = some 0 := rfl
/-- inLm with one message in its queue. -/
def oneMessage : State := State.with_ inLm (fun t => { t with got := some { payload := 1, hdr := 1 } })
theorem oneMessage_first : NoneBefore oneMessage := by unfold NoneBefore; decide +kernel
def queuedMessage : State := inLm.setCoreCtx 0 { inLm.coreCtx 0 with rq := [{ payload := 1, hdr := 1 }] }
theorem witness_MessageResult_queue : BlockAt queuedMessage 4 64 .write 0 ∧ queuedMessage.me.got = none ∧ (queuedMessage.coreCtx queuedMessage.me.cc).rq = { payload := 1, hdr := 1 } :: [] ∧ NoneBefore queuedMessage :=
  ⟨⟨{ place := .lm 0 0 }, by decide +kernel, rfl, ⟨by decide +kernel, by decide +kernel, sound_of rfl⟩, by decide +kernel⟩, by decide +kernel, by decide +kernel, by unfold NoneBefore; decide +kernel⟩
theorem witness_MessageResult_receive : BlockAt oneMessage 4 64 .write 0 ∧ oneMessage.me.got = some { payload := 1, hdr := 1 } :=
  ⟨⟨{ place := .lm 0 0 }, by decide +kernel, rfl, ⟨by decide +kernel, by decide +kernel, sound_of rfl⟩, by decide +kernel⟩, rfl⟩
theorem witness_MessageSum : base.rx 0 = 0 ∧ (withX oneMessage [(7, 2)]).rx 7 ≠ 0 ∧ (withX oneMessage [(7, 2)]).me.got = some { payload := 1, hdr := 1 } := by decide +kernel
theorem witness_MessageSum_queue : let s := withX queuedMessage [(7, 2)]
    s.rx 7 ≠ 0 ∧ s.me.got = none ∧ (s.coreCtx s.me.cc).rq = { payload := 1, hdr := 1 } :: [] ∧ NoneBefore s := by unfold NoneBefore; decide +kernel
theorem witness_TaskQueueResult : BlockAt inLm 4 32 .read 0 ∧ BlockAt inLm 4 32 .write 0 ∧ (inLm.coreCtx inLm.me.cc).tq = [] ∧ (inLm.coreCtx inLm.me.cc).task = none ∧
    (inLm.win inLm.me.cc 6).staged = false ∧ (inLm.win inLm.me.cc 7).staged = false :=
  ⟨inLm_block 32 .read (by simp) (by simp), inLm_block 32 .write (by simp) (by simp), rfl, rfl, by decide +kernel, by decide +kernel⟩
/-- inLm with one queued task. -/
def oneTask : State := inLm.setCoreCtx 0 { inLm.coreCtx 0 with tq := [{ record := 0x10_0040, mul := 1 }] }
theorem witness_TaskQueueResult_dequeue : BlockAt oneTask 4 32 .write 0 ∧ (oneTask.coreCtx oneTask.me.cc).task = none ∧
    (oneTask.coreCtx oneTask.me.cc).tq = [{ record := 0x10_0040, mul := 1 }] ∧ taskGran 0x10_0040 0 = 0 ∧ taskGran 0x10_0040 1 = 0 ∧
    ∀ e ∈ oneTask.threads, e.1 ≠ oneTask.cur → e.2.wait ≠ some .taskd :=
  ⟨⟨{ place := .lm 0 0 }, by decide +kernel, rfl, ⟨by decide +kernel, by decide +kernel, sound_of rfl⟩, by decide +kernel⟩, by decide +kernel, by decide +kernel, by decide +kernel, by decide +kernel, by decide +kernel⟩
theorem witness_TaskQueueResult_given : let s := State.with_ inLm (fun t => { t with got := some { payload := 0x10_0040, hdr := 1 } })
    BlockAt s 4 32 .write 0 ∧ s.me.got = some { payload := 0x10_0040, hdr := 1 } ∧ (s.coreCtx s.me.cc).task = none ∧ (s.coreCtx s.me.cc).tq = [] :=
  ⟨⟨{ place := .lm 0 0 }, by decide +kernel, rfl, ⟨by decide +kernel, by decide +kernel, sound_of rfl⟩, by decide +kernel⟩, rfl, by decide +kernel, by decide +kernel⟩
theorem witness_TaskQueueResult_footed : let s := State.with_ base (fun t => { t with fromTask := true, footed := true })
    s.me.fromTask = true ∧ s.me.footed = true ∧ (s.win s.me.cc 6).staged = false ∧ (s.win s.me.cc 7).staged = false ∧ (s.coreCtx s.me.cc).tq = [] := by decide +kernel
theorem witness_KernelLaunchResult : inLm.release .device = .ok inLm ∧ BlockAt inLm 4 64 .read 0 := ⟨by decide +kernel, inLm_block 64 .read (by simp) (by simp)⟩
theorem witness_KernelLaunchResult_busy : let s := inLm.setLqueue 0 0 { st := 1, acceptAt := inLm.cycle + 1 }
    s.release .device = .ok s ∧ BlockAt s 4 64 .read 0 ∧ (s.rx 0).toNat < 8 ∧ (s.lqueue s.me.ctx 0).st = 1 ∧ (s.lqueue s.me.ctx 0).acceptAt = s.cycle + 1 :=
  ⟨by decide +kernel, ⟨{ place := .lm 0 0 }, by decide +kernel, rfl, ⟨by decide +kernel, by decide +kernel, sound_of rfl⟩, by decide +kernel⟩, by decide +kernel, by decide +kernel, by decide +kernel⟩
theorem witness_WindowResult_map : let s := withX base [(4, 0x2000)]
    (s.rx 5).toNat % 4096 = 0 ∧ (s.rx 4).toNat % 4096 = 0 ∧ boundTo s true (s.rx 4).toNat 1 = some (0x2000, 0) ∧ boundTo s false (s.rx 4).toNat 1 = some (0, 0) := by decide +kernel
theorem witness_WindowResult_unmap : let s := base.setWin 0 1 { mapped := true, gran := 1 }
    let w := s.win s.me.cc (1#3).toNat
    (∀ o ∈ s.ops, o.thr = s.cur → o.kind.isAccess = false) ∧ w.mapped = true ∧ w.staged = false ∧ w.lines = [] ∧ w.pins = [] ∧ (s.coreCtx s.me.cc).tq = [] ∧ s.me.got = none := by decide +kernel

/-! ## Hypotheses: commands, leases, copies, tiles -/

/-- A command word of an opcode, with its other Q0 bits and quarters. -/
def word (op : Nat) (lo : Nat) (q1 q2 q3 : Word) : CmdWord := { q0 := BitVec.ofNat 64 (op * 2 ^ 56 + lo), q1 := q1, q2 := q2, q3 := q3 }
theorem witness_CommandQueueing : inLm.release .device = .ok inLm ∧ EngineTakes inLm .cpy ∧ inLm.me.got = none ∧
    InOwnLm inLm (((inLm.rx 4).toNat : Int) + (0#15).toInt) 32 32 .read 0 ∧ Clear inLm (.lm inLm.me.cc 0) 32 :=
  ⟨by decide +kernel, ⟨by decide +kernel, by decide +kernel, by unfold EngineHeld; decide +kernel⟩, rfl, ⟨{ place := .lm 0 0 }, by decide +kernel, rfl⟩, ⟨by decide +kernel, by decide +kernel, sound_of rfl⟩⟩
/-- base with the copy engine's stream stopped. -/
def stopped : State := base.setEng 128 { stopped := some (1, 0) }
theorem witness_CommandQueueing_stopped : (stopped.eng (stopped.engOf stopped.me .cpy)).stopped ≠ none ∧ stopped.me.mode = .user ∧ stopped.release .device = .ok stopped := by decide +kernel
theorem witness_CommandQueueing_resume : let s := State.with_ stopped (fun t => { t with mode := .runtime })
    s.release .device = .ok s ∧ (s.eng (s.engOf s.me .cpy)).stopped ≠ none ∧ s.me.mode = .runtime ∧ EngineHeld s .cpy ∧
      ({ q0 := resumeWord.q0, q1 := resumeWord.q1 + s.rx 0, q2 := resumeWord.q2 + s.rx 0, q3 := resumeWord.q3 + s.rx 0 } : CmdWord) = resumeWord := by unfold EngineHeld; decide +kernel
theorem witness_LeaseResult_free : let u := base.unitOf base.me .mat
    (base.unit u).holder = none ∧ (base.unit u).passing = none ∧ (∀ r ∈ (base.unit u).arb, r.cc = base.me.cc) ∧ (base.ctx (base.kernel (base.me.cc / 1024)).ctx).savebase = 0 ∧
      (base.unit u).loaded = none ∧ (base.coreCtx base.me.cc).spilled = false ∧ (base.clause (engKey (base.kernel (base.me.cc / 1024)).ctx u)).spilled = false := by decide +kernel
theorem witness_LeaseResult_holder : let s := base.setUnit 0 { holder := some 0 }
    (s.unit (s.unitOf s.me .mat)).holder = some s.me.cc ∧ (base.unit (base.unitOf base.me .mat)).holder ≠ some base.me.cc := by decide +kernel
theorem witness_CopyIssue : inLm.release .device = .ok inLm ∧ inLm.issue = .done ∧
    inLm.copyChecks (.acopy 3 4 5 64) [{ a := ((inLm.rx 4).toNat : Int), n := (64#24).toNat, need := .write }, { a := ((inLm.rx 5).toNat : Int), n := (64#24).toNat, need := .read }] = .ok () := by
  refine ⟨by decide +kernel, rfl, by decide +kernel⟩
theorem witness_CopyIssue_stopped : let s := inLm.setEng 128 { stopped := some (1, 0) }
    s.release .device = .ok s ∧ s.issue = .done ∧ (s.eng (s.engOf s.me .cpy)).stopped ≠ none ∧
      s.copyChecks (.acopy 3 4 5 64) [{ a := ((s.rx 4).toNat : Int), n := (64#24).toNat, need := .write }, { a := ((s.rx 5).toNat : Int), n := (64#24).toNat, need := .read }] = .ok () := by
  refine ⟨by decide +kernel, rfl, by decide +kernel, by decide +kernel⟩
/-- A shape block: 64 bytes of n8 from 256 to 128 in the own LM. -/
def shapeBlock : BitVec 512 := BitVec.ofNat 512 (own.toNat + 256 + (own.toNat + 128) * 2 ^ 64 + 64 * 2 ^ 128 + 7 * 2 ^ 384 + 7 * 2 ^ 388)
def withShape : State := withLm (withX base [(4, own)]) 0 (leBytes 64 shapeBlock.toNat)
theorem witness_CopyIssue_shape : withShape.me.got = none ∧ BlockAt withShape 4 64 .read 0 ∧ ∃ h, shapeOf (BitVec.ofNat 512 (numAt (withShape.coreCtx withShape.me.cc).lm 0 64)) 0 0 = .ok h ∧
    h.scale = 0 ∧ withShape.copyChecks (.acopys 3 4 0 false) (h.dstRanges ++ h.srcRanges) = .ok () :=
  ⟨rfl, ⟨{ place := .lm 0 0 }, by decide +kernel, rfl, ⟨by decide +kernel, by decide +kernel, sound_of rfl⟩, by decide +kernel⟩,
    { src := own.toNat + 256, dst := own.toNat + 128, counts := [64], sstr := [], dstr := [], sty := .n8, dty := .n8, rm := .rne, nsat := false, sclass := 0, scale := 0 },
    by decide +kernel, rfl, by decide +kernel⟩
/-- A ring of two slots of one unit at the own LM's 0, a payload at 0x1000. -/
def ring : State := withLm (withLm (withX base [(4, own), (5, own + 0x1000)]) 8 [1]) 12 [2]
theorem ring_tile (store atomic : Bool) : TileAt ring (ring.rx 4) (ring.rx 5) (ring.rx 0) 1 0 0x1000 1 2 store atomic false where
  head := ⟨{ place := .lm 0 0 }, by cases store <;> cases atomic <;> decide +kernel, rfl⟩
  size := by decide +kernel
  some_ := by decide
  payload := ⟨by decide +kernel, { place := .lm 0 0x1000 }, by cases store <;> decide +kernel, rfl⟩
  slots := fun k hk => by
    have : k = 0 := by omega
    subst this
    exact ⟨{ place := .lm 0 64 }, by cases store <;> decide +kernel, rfl⟩
  guarded := fun h => by cases h
  even := by cases atomic <;> decide +kernel
theorem witness_TileTransfer : Quiet ring ∧ TileAt ring (ring.rx 4) (ring.rx 5) (ring.rx 0) 1 0 0x1000 1 2 true true false ∧ ring.release .device = .ok ring ∧ ring.me.tile = none ∧
    TileAt ring (ring.rx 4) (ring.rx 5) (ring.rx 0) 1 0 0x1000 1 2 true false false ∧ TileAt ring (ring.rx 4) (ring.rx 5) (ring.rx 0) 1 0 0x1000 1 2 false true false :=
  ⟨⟨by decide +kernel, by decide +kernel⟩, ring_tile true true, by decide +kernel, by decide +kernel, ring_tile true false, ring_tile false true⟩
/-- The transfer of an atomic TILEST of one unit, its first increment done. -/
def ringOp : TileOp :=
  let at_ (a o n : Nat) (w : Bool) : Span := { a := own.toNat + a, place := .lm 0 o, who := { ctx := 0, prin := 0, own := some 0 }, n := n, write := w, far := false }
  { runs := [(at_ 64 64 64 true, 0, 1)], mem := at_ 0x1000 0x1000 64 false, head := at_ 0 0 64 true, version := 0 }
theorem witness_TileTransfer_second : let s := State.with_ ring (fun t => { t with tile := some ringOp })
    Quiet s ∧ s.me.tile = some ringOp ∧ OwnTile s ringOp 1 0 0x1000 1 2 (s.rx 0).toNat :=
  ⟨⟨by decide +kernel, by decide +kernel, by decide +kernel⟩, by decide +kernel, by decide +kernel, by decide +kernel, by decide +kernel, by decide +kernel⟩

/-! ## Hypotheses: vector accesses and streams -/

theorem get_far {m : Memory} {b a : Nat} (h : ∀ c ∈ m, c.1 < b) (ha : b ≤ a) : m.get a = 0 := by
  induction m with
  | nil => rfl
  | cons c t ih =>
    have hc := h c (List.mem_cons_self ..)
    have : c.1 ≠ a := by omega
    simp only [Memory.get, this, if_false]
    exact ih (fun x hx => h x (List.mem_cons_of_mem _ hx))
theorem read_far {m : Memory} {b : Nat} (h : ∀ c ∈ m, c.1 < b) : ∀ {n a : Nat}, b ≤ a → m.read a n = List.replicate n 0
  | 0, _, _ => rfl
  | n + 1, a, ha => by simp only [Memory.read, get_far h ha, read_far h (n := n) (a := a + 1) (by omega), List.replicate_succ]
/-- base without any page. -/
def pageless : State := { withX base [(4, own)] with ptRoot := 2 ^ 40 }
theorem pageless_untagged : Untagged pageless := by
  refine ⟨fun va => ?_, by decide +kernel⟩
  have hm : ∀ c ∈ pageless.mem, c.1 < 2 ^ 40 := by decide +kernel
  have hr : pageless.mem.read (pageless.ptRoot + (va >>> 48) % 2 ^ 8 * 16) 16 = List.replicate 16 0 :=
    read_far hm (by show 2 ^ 40 ≤ 2 ^ 40 + _; omega)
  have hz : wordOf 128 (List.replicate 16 0) = 0 := by decide
  simp only [State.tagOf, State.walk, walkLevels, walkFrom, hr, hz]
  rfl
theorem witness_VectorAccessSent : ∃ r : VRow, vecMemRow (.vld .f32 .ord { q := 0, zero := false } 1 4 0 0) pageless = some r ∧ r.aligned = true ∧ Untagged pageless ∧
    (∀ l < 16, r.lanes.getLsbD l → (∀ a, Place.lm 0 (4 * l) ≠ .far a) ∧ ∃ x, pageless.check pageless.me (r.addr l) (r.n l) 1 r.need = .ok x ∧ x.place = .lm 0 (4 * l)) ∧
    pageless.acquiring pageless.cur = false ∧ pageless.loadsOut pageless.cur < 4 := by
  refine ⟨_, rfl, by decide +kernel, pageless_untagged, fun l hl _ => ⟨fun a h => Place.noConfusion h, { place := .lm 0 (4 * l) }, ?_, rfl⟩, by decide +kernel, by decide +kernel⟩
  revert l; decide +kernel
theorem witness_VectorAccessSent_own : ∃ r : VRow, vecMemRow (.vst .f32 .ord { q := 0, zero := false } 1 4 0 0) pageless = some r ∧ r.aligned = true ∧ r.load = false ∧ Untagged pageless ∧ Quiet pageless ∧
    (∀ l < 16, r.lanes.getLsbD l → ∃ x, pageless.check pageless.me (r.addr l) (r.n l) 1 r.need = .ok x ∧ x.place = .lm pageless.me.cc (4 * l)) ∧ pageless.acquiring pageless.cur = false := by
  refine ⟨_, rfl, by decide +kernel, rfl, pageless_untagged, ⟨by decide +kernel, by decide +kernel, by decide +kernel⟩, fun l hl _ => ⟨{ place := .lm 0 (4 * l) }, ?_, rfl⟩, by decide +kernel⟩
  revert l; decide +kernel
/-- 20 f32 elements from the own LM's 0x100 on. -/
def descriptor : BitVec 512 := BitVec.ofNat 512 (own.toNat + 0x100 + 20 * 2 ^ 64 + 4 * 2 ^ 96)
def withDescriptor : State := withLm (withX base [(4, own)]) 0 (leBytes 64 descriptor.toNat)
theorem witness_StreamControl_bind : (streamOf withDescriptor 0).bound = false ∧ BlockAt withDescriptor 4 64 .read 0 ∧ withDescriptor.ops = [] ∧
    sdBad (BitVec.ofNat 512 (numAt (withDescriptor.coreCtx withDescriptor.me.cc).lm 0 64)) = false ∧
    sdMisaligned (BitVec.ofNat 512 (numAt (withDescriptor.coreCtx withDescriptor.me.cc).lm 0 64)) = false :=
  ⟨rfl, ⟨{ place := .lm 0 0 }, by decide +kernel, rfl, ⟨by decide +kernel, by decide +kernel, sound_of rfl⟩, by decide +kernel⟩, rfl, by decide +kernel, by decide +kernel⟩
def boundStream : State := withStream base 0 { bound := true, desc := descriptor }
theorem witness_StreamControl_unbind : (streamOf boundStream 0).bound = true ∧ sdWrite (streamOf boundStream 0).desc = false ∧ (streamOf boundStream 0).partner = none := by decide +kernel
/-- Two coordinate streams of u32. -/
def coordinates : State :=
  let d : BitVec 512 := descriptor ||| (BitVec.ofNat 512 (4 * 2 ^ 320 + 2 ^ 325))
  withStream (withStream base 0 { bound := true, desc := d }) 1 { bound := true, desc := d }
theorem witness_StreamControl_couple : Couplable (streamOf coordinates 0) ∧ Couplable (streamOf coordinates 1) ∧ (1#3) ≠ 0 := by
  refine ⟨⟨?_, ?_, ?_, ?_, ?_⟩, ⟨?_, ?_, ?_, ?_, ?_⟩, ?_⟩ <;> decide +kernel
theorem witness_StreamControl_part : let s := withStream coordinates 0 { streamOf coordinates 0 with partner := some 1, lead := true }
    (streamOf s 0).bound = true ∧ sdWrite (streamOf s 0).desc = false ∧ (streamOf s 0).partner = some 1 ∧ (1#3) ≠ 0 := by decide +kernel
theorem witness_StreamElementsArrive : boundStream.arrivable 0 (0#3).toNat = true ∧ (streamOf boundStream 0).partner = none ∧
    ∀ j < (sdTy descriptor).count, (streamOf boundStream 0).pos + j < sdTotal descriptor →
      boundStream.check (boundStream.thread 0) (sdAddr descriptor (0 + j)) ((sdTy descriptor).width / 8) 1 .read = .ok { place := .lm 0 (0x100 + 4 * j) } ∧
        LmSound boundStream 0 (0x100 + 4 * j) ((sdTy descriptor).width / 8) := by
  have h : ∀ j < (sdTy descriptor).count, (streamOf boundStream 0).pos + j < sdTotal descriptor →
      boundStream.check (boundStream.thread 0) (sdAddr descriptor (0 + j)) ((sdTy descriptor).width / 8) 1 .read = .ok { place := .lm 0 (0x100 + 4 * j) } := by decide +kernel
  exact ⟨by decide +kernel, by decide +kernel, fun j a b => ⟨h j a b, noMarks rfl⟩⟩

/-! ## Hypotheses: how accesses, replies and messages end -/

def withOps (s : State) (os : List Op) : State := { s with ops := os }
/-- A load of the own LM, and of global memory, that may end. -/
def loadOp (p : Place) : Op := { id := 3, thr := 0, cc := 0, kind := .load false, place := p, va := 0x10_0000, n := 8, dst := some (.s 5), conf := true, due := 1 }
theorem witness_LocalMemoryAccessPerforms : let o := loadOp (.lm 0 8)
    let s := withOps base [o]
    MayEnd s o ∧ EndedBy o (.loadReturn 3 none) ∧ s.heldCc 0 = false ∧ LmSound s 0 8 o.n ∧ ∃ w, opResult o ((s.thread o.thr).resv == some (lmKey 0 8)) (numAt (s.coreCtx 0).lm 8 o.n) = some (none, w, 0) :=
  ⟨⟨by decide +kernel, by decide +kernel, by decide +kernel⟩, rfl, by decide +kernel, noMarks rfl, _, rfl⟩
theorem witness_LocalMemoryAccessPerforms_bad : let o := loadOp (.lm 0 8)
    let s : State := { withOps base [o] with ecc := [(2 ^ 57 + 1, 2)] }
    MayEnd s o ∧ EndedBy o (.loadReturn 3 none) ∧ (opResult o true 0).isSome ∧ o.kind ≠ .store ∧ o.kind ≠ .xclr ∧ o.push = [] ∧
      (∃ f, o.dst = some (.s f) ∧ isShared f = false ∧ f ≠ 0) ∧ ∃ e ∈ s.ecc, e.2 = 2 ∧ e.1 * 8 < lmPa 0 8 + o.n ∧ lmPa 0 8 < e.1 * 8 + 8 :=
  ⟨⟨by decide +kernel, by decide +kernel, by decide +kernel⟩, rfl, by decide +kernel, by decide, by decide, rfl, ⟨_, rfl, by decide, by decide⟩, _, .head _, by decide +kernel⟩
/-- An 8-byte store, and an XCLR, that meet an uncorrectable word. -/
theorem witness_LocalMemoryAccessPerforms_dropped : let o (k : OpKind) (n : Nat) : Op := { loadOp (.lm 0 0) with kind := k, n := n, dst := none }
    let s (k : OpKind) (n : Nat) : State := { withOps base [o k n] with ecc := [(2 ^ 57, 2)] }
    MayEnd (s .store 8) (o .store 8) ∧ MayEnd (s .xclr 64) (o .xclr 64) ∧ (s .store 8).heldCc 0 = false ∧ ∃ e ∈ (s .store 8).ecc, e.2 = 2 ∧ e.1 * 8 < lmPa 0 0 + 8 ∧ lmPa 0 0 < e.1 * 8 + 8 :=
  ⟨⟨by decide +kernel, by decide +kernel, by decide +kernel⟩, ⟨by decide +kernel, by decide +kernel, by decide +kernel⟩, by decide +kernel, _, .head _, by decide +kernel⟩
theorem base_nothingCached : NothingCached base := ⟨rfl, rfl, rfl, fun _ => rfl, by decide +kernel⟩
/-- The leaf that maps the first GiB. -/
def leaf : BitVec 128 := 7
def leafAt : Nat := fetchRoot + 0x4000
theorem witness_GlobalMemoryAccessPerforms : let o := { loadOp (.glob 0x10_0000) with kind := OpKind.amo 5 .b64, data := 1 }
    let s := withOps base [o]
    MayEnd s o ∧ EndedBy o (.amoReturn 3 none) ∧ o.uKind = none ∧ s.mates o = [] ∧ NothingCached s ∧ s.walk 0x10_0000 = .leaf leaf leafAt ∧ pteP leaf = true ∧ pteLoc leaf = 0 ∧
      0x10_0000 % 65536 + o.n ≤ 65536 ∧
      ∃ r, opResult o ((s.thread o.thr).resv == some (globKey 0 0x10_0000)) (numAt s.mem 0x10_0000 o.n) = some (some r, 0, 0) ∧
        { s with mem := s.mem.write 0x10_0000 (bytesOf 8 r) }.walk 0x10_0000 = .leaf leaf leafAt :=
  ⟨⟨by decide +kernel, by decide +kernel, by decide +kernel⟩, rfl, by decide +kernel, by decide +kernel, ⟨rfl, rfl, rfl, fun _ => rfl, by decide +kernel⟩, by decide +kernel, by decide, by decide, by decide,
    1, by decide +kernel, by decide +kernel⟩
/-- Four bytes of the own LM as lane 0. -/
def lanePiece : Piece := { place := .lm 0 16, n := 4, bit := 0, w := 32, pos := 0 }
theorem witness_VectorAccessPerforms_load : let o : Op := { id := 3, thr := 0, cc := 0, kind := .vload, pieces := [lanePiece], mask := 0xFFFF_FFFF, dst := some (.v 2), conf := true }
    let s := withOps base [o]
    MayEnd s o ∧ LmParts s o ∧ isShared 2 = false ∧ o.push = [] ∧ o.vdata = 0 :=
  ⟨⟨by decide +kernel, by decide +kernel, by decide +kernel⟩, fun x hx => by
    simp only [List.mem_singleton] at hx; subst hx; exact ⟨by decide, 0, 16, rfl, by decide +kernel, noMarks rfl⟩, by decide, rfl, rfl⟩
theorem witness_VectorAccessPerforms_store : let o : Op := { id := 3, thr := 0, cc := 0, kind := .vstore, pieces := [lanePiece], conf := true }
    let s := withOps base [o]
    MayEnd s o ∧ LmParts s o ∧ o.dst = none ∧ ∀ b c p k, StandsFor o b p k → StandsFor o c p k → b = c := by
  refine ⟨⟨by decide +kernel, by decide +kernel, by decide +kernel⟩, fun x hx => ?_, rfl, ?_⟩
  · simp only [List.mem_singleton] at hx; subst hx; exact ⟨by decide, 0, 16, rfl, by decide +kernel, noMarks rfl⟩
  · rintro b c p k ⟨x, hx, h1, h2, rfl, rfl⟩ ⟨y, hy, h3, h4, h5, h6⟩
    simp only [List.mem_singleton] at hx hy
    subst hx; subst hy
    simp only [lanePiece, Place.plus, Place.lm.injEq] at *
    omega
theorem witness_TranslationConfirmed_present : let o := { loadOp (.glob 0x10_0000) with conf := false }
    let s := withOps base [o]
    s.findOp o.id = some o ∧ s.confirmable o = true ∧ s.locate 0x10_0000 ≠ .absent ∧ (s.thread o.thr).frame = [] := by
  refine ⟨by decide +kernel, by decide +kernel, by decide +kernel, rfl⟩
theorem witness_TranslationConfirmed_absent : let o := { loadOp (.glob (2 ^ 50)) with conf := false }
    let s := withOps base [o]
    s.findOp o.id = some o ∧ s.confirmable o = true ∧ s.locate (2 ^ 50) = .absent ∧ o.runtime = false ∧ o.far = false ∧ (s.coreCtx o.cc).wins = [] ∧ (s.thread o.thr).life = .resident := by
  refine ⟨by decide +kernel, by decide +kernel, by decide +kernel, rfl, rfl, rfl, by decide +kernel⟩
def plainOp (k : OpKind) : Op := { id := 3, thr := 0, cc := 0, kind := k, dst := some (.s 5), pred := 1, conf := true, deadline := 1000 }
theorem witness_RepliesReach_reply : let o := plainOp .reply
    let s := withOps base [o]
    s.findOp o.id = some o ∧ s.performable o = true ∧ o.isFar = false ∧ (s.thread o.thr).wait ≠ some (.message o.id) ∧ o.failed = false := by decide +kernel
theorem witness_RepliesReach_failed : let o : Op := { plainOp .reply with failed := true }
    let s := withOps base [o]
    s.findOp o.id = some o ∧ s.performable o = true ∧ o.isFar = false ∧ (s.thread o.thr).wait ≠ some (.message o.id) ∧ o.failed = true := by decide +kernel
theorem witness_RepliesReach_answered : let o := plainOp .reply
    let s := withOps (State.with_ base (fun t => { t with wait := some (.message 3) })) [o]
    s.findOp o.id = some o ∧ s.performable o = true ∧ o.isFar = false ∧ (s.thread o.thr).wait = some (.message o.id) := by decide +kernel
theorem witness_RepliesReach_token : let o := plainOp (.token 128 0)
    let s := withOps base [o]
    s.findOp o.id = some o ∧ 0 ≤ (s.eng 128).completed ∧ o.info ≠ 1 := by decide +kernel
theorem witness_RepliesReach_neighbour : let o := plainOp (.nrd .e 4)
    let s := withOps base [o]
    s.findOp o.id = some o ∧ PrivateDst s o ∧ s.performable o = true ∧ o.isFar = false ∧ (s.ctx (s.kernel (s.thread o.thr).kid).ctx).state = ctxRunning ∧ o.deadline ≤ s.tick := by
  refine ⟨by decide +kernel, ⟨by decide +kernel, rfl, ?_, ?_⟩, by decide +kernel, by decide +kernel, by decide +kernel, by decide +kernel⟩
  · intro f h; cases h; rfl
  · intro f h; cases h
theorem witness_RepliesReach_vector : let o := { plainOp (.vnrd .s 4) with dst := some (.v 6) }
    let s := withOps base [o]
    s.findOp o.id = some o ∧ PrivateDst s o ∧ s.performable o = true ∧ o.isFar = false ∧ (s.ctx (s.kernel (s.thread o.thr).kid).ctx).state = ctxRunning ∧ o.deadline ≤ s.tick := by
  refine ⟨by decide +kernel, ⟨by decide +kernel, rfl, ?_, ?_⟩, by decide +kernel, by decide +kernel, by decide +kernel, by decide +kernel⟩
  · intro f h; cases h
  · intro f h; cases h; rfl
/-- base with its context suspended: its threads answer no neighbour. -/
def silent : State := base.setCtx 0 (inState (base.ctx 0) 4)
theorem private_of {s : State} {o : Op} (h : (decide ((s.thread o.thr).life = .resident) && o.push.isEmpty && (match o.dst with | some (.s f) => !isShared f | some (.v f) => !isShared f | _ => true)) = true) : PrivateDst s o := by
  simp only [Bool.and_eq_true, decide_eq_true_eq, List.isEmpty_iff] at h
  refine ⟨h.1.1, h.1.2, fun f hf => ?_, fun f hf => ?_⟩ <;> simpa [hf] using h.2
theorem witness_RepliesReach_neighbourLate : let o := { plainOp (.nrd .e 4) with deadline := 900 }
    let v := { plainOp (.vnrd .s 4) with dst := some (.v 6), deadline := 900 }
    let s := withOps silent [o]
    let w := withOps silent [v]
    (s.findOp o.id = some o ∧ PrivateDst s o ∧ (s.ctx (s.kernel (s.thread o.thr).kid).ctx).state ≠ ctxRunning ∧ o.deadline ≤ s.tick) ∧
      w.findOp v.id = some v ∧ PrivateDst w v ∧ (w.ctx (w.kernel (w.thread v.thr).kid).ctx).state ≠ ctxRunning ∧ v.deadline ≤ w.tick :=
  ⟨⟨by decide +kernel, private_of (by decide +kernel), by decide +kernel, by decide +kernel⟩, by decide +kernel, private_of (by decide +kernel), by decide +kernel, by decide +kernel⟩
theorem witness_RepliesReach_maximum : let inst := vmaxxInst 0 false 0 0
    let o := { plainOp (.vmaxx inst) with dst := some (.v 6) }
    let s := withOps (base.setKernel 0 { base.kernel 0 with vmx := [(inst, { vals := [(0, 5)] })] }) [o]
    s.findOp o.id = some o ∧ PrivateDst s o ∧ (s.kernel (instKid inst)).ncol ≤ (s.vmaxxVals inst).length ∧ instCol inst = false ∧
      (s.ctx (s.kernel (instKid inst)).ctx).state = ctxRunning ∧ o.due ≤ s.cycle := by
  refine ⟨by decide +kernel, ⟨by decide +kernel, rfl, ?_, ?_⟩, by decide +kernel, by decide +kernel, by decide +kernel, by decide +kernel⟩
  · intro f h; cases h
  · intro f h; cases h; rfl
theorem witness_RepliesReach_late : let o := { plainOp (.vmaxx 0) with dst := some (.v 6) }
    let s := withOps base [o]
    s.findOp o.id = some o ∧ o.deadline ≤ s.tick ∧ ¬(s.kernel (instKid 0)).ncol ≤ (s.vmaxxVals 0).length := by decide +kernel
theorem witness_RepliesReach_far : let o := loadOp (.far (2 ^ 62))
    let s := withOps base [o]
    s.findOp o.id = some o ∧ o.isFar = true ∧ o.kind.isAccess = true ∧ o.waits = 0 ∧ s.upLinks = [] := by decide +kernel
theorem witness_RepliesReach_unsent : let o := loadOp (.far (2 ^ 62))
    o.unsent = none ∧ base.upLinks = [] := by decide +kernel
theorem witness_MessagesAndArrivals : let o := plainOp (.message 0 7 1)
    let s := withOps base [o]
    s.findOp o.id = some o ∧ (s.coreCtx 0).rq.length < 64 ∧
      ∀ e ∈ s.threads, e.2.cc = 0 → e.2.life = .resident → e.2.umask.getLsbD 1 = false ∧ e.2.wait ≠ some .recv ∧ e.2.wait ≠ some .qsum ∧ e.2.wait ≠ some .waitm := by decide +kernel
theorem witness_MessagesAndArrivals_arrive : let o := plainOp (.arrive 0 5)
    let s := withOps base [o]
    s.findOp o.id = some o ∧ s.performable o = true ∧ o.isFar = false ∧ s.heldCc 0 = false := by decide +kernel
theorem witness_MessagesAndArrivals_room : let s := withOps base [plainOp (.message 0 7 1)]
    s.queued 0 < 64 ∧ (s.coreCtx 0).rqAt ≠ s.cycle + 1 := by decide +kernel
theorem witness_MessagesAndArrivals_set : let o := { plainOp (.feset true) with place := .lm 0 8 }
    let s := withOps base [o]
    s.findOp o.id = some o ∧ s.performable o = true ∧ (s.coreCtx 0).feq = [] ∧ s.heldCc 0 = false := by decide +kernel
theorem witness_MessagesAndArrivals_taken : let o := plainOp (.message 0 7 1)
    let s := withOps (base.setThread 1 { base.thread 0 with tid := 1, slot := 1, wait := some .recv }) [o]
    s.findOp o.id = some o ∧ (s.coreCtx 0).rq.length < 64 ∧ (s.coreCtx 0).rqAt ≠ s.cycle + 1 ∧
      ∃ e ∈ s.threads, e.1 ≠ o.thr ∧ e.2.cc = 0 ∧ e.2.life = .resident ∧ e.2.slot < 16 ∧ (e.2.wait = some .recv ∨ e.2.wait = some .qsum ∨ e.2.wait = some .waitm) := by decide +kernel
theorem witness_MessagesAndArrivals_steal : let o := plainOp (.steal 0)
    let s := (withOps base [o]).setCoreCtx 0 { dq := [packed 0 9] }
    s.findOp o.id = some o ∧ s.performable o = true ∧ o.isFar = false ∧ (s.coreCtx 0).dq.getLast? = some (packed 0 9) := by decide +kernel
theorem witness_MessagesAndArrivals_word : let o := plainOp (.feReq 0 1 1)
    let s := withOps base [o]
    s.findOp o.id = some o ∧ s.performable o = true ∧ o.isFar = false ∧ (s.coreCtx 0).feq = [] ∧ s.heldCc 0 = false ∧ LmSound s 0 8 8 :=
  ⟨by decide +kernel, by decide +kernel, rfl, by decide +kernel, by decide +kernel, noMarks rfl⟩
theorem witness_MessagesAndArrivals_decrement : let o := plainOp (.decrement 0 5 64)
    let s := withOps base [o]
    s.findOp o.id = some o ∧ ∀ x ∈ s.ops, x.id ∉ o.needs := by decide +kernel
theorem witness_MessagesAndArrivals_owed : let o := plainOp (.decrement 0 5 64)
    let s := withOps base [o]
    s.findOp o.id = some o ∧ (∀ x ∈ s.ops, x.id ∉ o.needs) ∧ ∀ e ∈ s.threads, ∀ n ∈ e.2.owed, n ∉ o.needs := by decide +kernel

/-! ## Hypotheses: what the device does by itself -/

theorem witness_TimersExpire_sleep : let s := State.with_ base (fun t => { t with wait := some (.sleep 900) })
    (s.thread 0).life = .resident ∧ (s.thread 0).wait = some (.sleep 900) ∧ 900 ≤ s.tick := by decide +kernel
theorem witness_TimersExpire_barrier : let s := State.with_ base (fun t => { t with wait := some (.bwait 5 (some 900)) })
    (s.thread 0).life = .resident ∧ (s.thread 0).wait = some (.bwait 5 (some 900)) ∧ 900 ≤ s.tick := by decide +kernel
theorem witness_TimersExpire_timer : let s := State.with_ base (fun t => { t with tmcmp := 1000 })
    (s.thread 0).life = .resident ∧ (s.thread 0).pend.getLsbD 8 = false ∧ (s.thread 0).tmcmp.toNat ≤ s.time.toNat := by decide +kernel
theorem witness_UpcallsAreDelivered : let s := State.with_ base (fun t => { t with pend := 0x300, umask := 0x3F })
    (s.thread 0).life = .resident ∧ (s.thread 0).mode = .user ∧ (s.thread 0).reply = none ∧ Abandonable (s.thread 0).wait ∧ s.reservations 0 = 0 ∧ (s.thread 0).upvec ≠ 0 ∧
      LowestEnabled (s.thread 0) 8 ∧ (s.thread 0).frame = [] := by
  refine ⟨by decide +kernel, by decide +kernel, rfl, .inl rfl, by decide +kernel, by decide +kernel, ⟨by decide, by decide, by decide +kernel, by decide +kernel, ?_⟩, rfl⟩
  intro b h1 h2
  have : b = 7 := by omega
  subst this; decide +kernel
theorem witness_UpcallsAreDelivered_page : let s := State.with_ base (fun t => { t with pend := 0x200, umask := 2, frame := [{ va := 0, data := 0, data2 := 0, info := 0 }] })
    (s.thread 0).life = .resident ∧ (s.thread 0).mode = .user ∧ (s.thread 0).wait = none ∧ s.reservations 0 = 0 ∧ (s.thread 0).upvec ≠ 0 ∧ LowestEnabled (s.thread 0) 9 ∧ (s.thread 0).frame ≠ [] ∧ (s.thread 0).reply = none := by
  refine ⟨by decide +kernel, by decide +kernel, rfl, by decide +kernel, by decide +kernel, ⟨by decide, by decide, by decide +kernel, by decide +kernel, ?_⟩, by decide +kernel, by decide +kernel⟩
  intro b h1 h2
  have : b = 7 ∨ b = 8 := by omega
  rcases this with rfl | rfl <;> decide +kernel
def lateResult : Late := { due := 30, reg := .v 4, w := 0, vv := 9, mask := 0xFFFF_FFFF, issued := 0 }
theorem witness_LateResultsAreWritten : let s := State.with_ base (fun t => { t with late := [lateResult] })
    (s.thread 0).late.filter (fun x => decide (x.due ≤ s.cycle)) = [lateResult] ∧ lateResult.reg = .v 4 ∧ isShared 4 = false ∧ lateResult.push = [] := by decide +kernel
/-- Two equal threads that meet, their window over. -/
def meeting (ws : List Waiter) : Meet := { closing := false, home := false, gid := 1, mid := 2, gen := 0, win := 16, opened := 900, need := 2, arr := 1, waiters := ws, due := 0 }
def met (ws : List Waiter) : State :=
  (base.setThread 1 { base.thread 0 with tid := 1, slot := 1 }).setKernel 0 { base.kernel 0 with meets := [(3, meeting ws)] }
def two : List Waiter := [{ thr := 0, hash := 0, live := 0 }, { thr := 1, hash := 0, live := 0 }]
theorem met_closes : Closes (met two) 0 0 3 (meeting two) (.meetWindowExpiry 0 3) :=
  ⟨by decide, by rfl, rfl, .inl ⟨rfl, rfl, by decide +kernel, by decide +kernel⟩⟩
theorem met_closes_one : Closes (met two.tail) 0 0 3 (meeting two.tail) (.meetWindowExpiry 0 3) :=
  ⟨by decide, by rfl, rfl, .inl ⟨rfl, rfl, by decide +kernel, by decide +kernel⟩⟩
theorem witness_MeetsClose : Closes (met two) 0 0 3 (meeting two) (.meetWindowExpiry 0 3) ∧ Closes (met two.tail) 0 0 3 (meeting two.tail) (.meetWindowExpiry 0 3) ∧
    ((met two).thread 0).tid.toNat < ((met two).thread 1).tid.toNat ∧ Alike (met two) { thr := 0, hash := 0, live := 0 } { thr := 1, hash := 0, live := 0 } ∧
    ((met two).thread 0).mul.toNat + ((met two).thread 1).mul.toNat < 2 ^ 48 := by
  refine ⟨met_closes, met_closes_one, by decide +kernel, ⟨rfl, rfl, by decide +kernel, by decide +kernel, by decide +kernel, fun g => ?_⟩, by decide +kernel⟩
  have h : ((met two).thread 0).groups = ((met two).thread 1).groups := by decide +kernel
  simp only [h]
theorem witness_ThreadsStartAndMove_place : let s := base.setThread 1 { base.thread 0 with tid := 1, slot := 1, life := .waiting }
    s.placeable 0 1 = some 1 ∧ (s.thread 1).cc = 0 ∧ NothingHeld s 0 := by
  refine ⟨by decide +kernel, by decide +kernel, rfl, fun c => ?_⟩
  by_cases h : c = 0
  · subst h; rfl
  · simp [State.ctx, base, State.setThread, State.withFetchWord, AMap.get, Ne.symm h]
theorem base_heldNothing : NothingHeld base 0 := by
  refine ⟨by decide +kernel, fun c => ?_⟩
  by_cases h : c = 0
  · subst h; rfl
  · simp [State.ctx, base, State.withFetchWord, AMap.get, Ne.symm h]
theorem witness_ThreadsStartAndMove_task : let s := base.setCoreCtx 0 { tq := [{ record := 0x10_0040, mul := 1 }] }
    (s.kernel 0).st = .running ∧ s.freeSlot 0 0 = some 1 ∧ (s.coreCtx 0).task = none ∧ (s.coreCtx 0).tq = [{ record := 0x10_0040, mul := 1 }] ∧ taskRanged 0x10_0040 = false ∧
      taskHold 0x10_0040 = false ∧ (∀ e ∈ s.threads, e.2.wait ≠ some .taskd) ∧ (s.kernel 0).nthread ≠ 2 ^ 32 - 1 := by decide +kernel
theorem witness_ThreadsStartAndMove_staged : let s := base.setCoreCtx 0 { task := some { record := 0x10_0040, mul := 1 } }
    (s.coreCtx 0).task.isSome = true ∧ (s.coreCtx 0).taskReady = false ∧ (s.coreCtx 0).taskDue ≤ s.cycle ∧ (s.coreCtx 0).noPage = [] ∧ (s.win 0 6).staged = false ∧ (s.win 0 7).staged = false := by decide +kernel
theorem witness_ThreadsStartAndMove_pinned : let w : Win := { mapped := true, stash := true, staged := true, gran := 1, pins := List.range 32 }
    let s := (base.setCoreCtx 0 { task := some { record := 0x10_0040, mul := 1 } }).setWin 0 6 w
    (s.coreCtx 0).task.isSome = true ∧ (s.coreCtx 0).taskReady = false ∧ (s.coreCtx 0).taskDue ≤ s.cycle ∧ (s.coreCtx 0).noPage = [] ∧ (s.win 0 6).staged = true ∧ (s.win 0 7).staged = false ∧
      ∀ i < (s.win 0 6).gran.toNat * 32, i ∈ (s.win 0 6).pins := by decide +kernel
theorem witness_ThreadsStartAndMove_migrant : let t (n : Nat) : Nat × Thread := (n, { base.thread 0 with tid := BitVec.ofNat 32 n, slot := n, modeReg := 8 })
    let s := ({ base with threads := [t 0, t 1, t 2, t 3] } : State).setKernel 0 { base.kernel 0 with record := (0x201 <<< 128) ||| 0x200 }
    s.migrant 0 = some (3, 1, 0) := by decide +kernel
theorem witness_LeasesPassAndWindowsEnd : let r : LeaseReq := { thr := 0, cc := 0, prio := 1, seq := 1 }
    let s := base.setUnit 0 { passing := some 0, arb := [r] }
    let z := base.setUnit 0 { passing := some 0 }
    (z.passageDue 0 = true ∧ (z.unit 0).arb = [] ∧ (z.unit 0).passing = some 0 ∧ z.engRuns (z.kernel (0 / 1024)).ctx = true) ∧
    s.passageDue 0 = true ∧ r ∈ (s.unit 0).arb ∧ (s.unit 0).loaded = none ∧ (s.coreCtx r.cc).spilled = false ∧ (s.clause (engKey (s.kernel (r.cc / 1024)).ctx 0)).spilled = false ∧
      (∀ x ∈ (s.unit 0).arb, x ≠ r → x.prio < r.prio) := by decide +kernel
theorem witness_LeasesPassAndWindowsEnd_grant : let s := base.setUnit 0 { holder := some 0, granted := 64 }
    (s.unit 0).holder.isSome ∧ (s.unit 0).expired = false ∧ 64 ≤ (s.unit 0).granted ∧ 4096 ≤ ((base.setCoreCtx 0 { memOps := 4096 }).coreCtx 0).memOps := by decide +kernel

/-! ## Hypotheses: engine commands -/

def cmdOf (w : CmdWord) : Cmd := { num := 1, work := .word w, thr := 0, cc := 0, kid := 0, tid := 0, prin := 0, rper := 0 }
/-- base with one command in an engine-context's queue. -/
def withCmd (u : Nat) (w : CmdWord) : State := (base.setUnit u { holder := some 0 }).setEng u { queue := [cmdOf w] }
def rangesAt (s : State) (ec : Nat) (c : Cmd) (rs : List Rng) (f : Nat → Nat × Nat) : Bool :=
  match s.engJudge ec c rs with
  | .ok qs => s.ecc.isEmpty && !s.threads.any (fun e => e.2.resv.isSome) && qs.length == rs.length &&
    (List.range rs.length).all (fun i => (qs[i]?).map (·.place) == some (.lm (f i).1 (f i).2) && !s.heldCc (f i).1)
  | .error _ => false
/-- Without a reservation no line is kept (R150). -/
theorem noneKept {s : State} {t : Nat} {ls : List (Nat × Nat)} (h : s.threads.any (fun e => e.2.resv.isSome) = false) : s.keptLines t ls = false := by
  unfold State.keptLines; rw [h]; rfl
theorem rangesAt_of {s : State} {ec : Nat} {c : Cmd} {rs : List Rng} {f : Nat → Nat × Nat} (h : rangesAt s ec c rs f = true) : RangesAt s ec c rs f := by
  unfold rangesAt at h
  split at h
  · rename_i qs hq
    simp only [Bool.and_eq_true, beq_iff_eq, List.all_eq_true, List.mem_range] at h
    have k (i : Nat) (hi : i < rs.length) : (∃ a, qs[i]? = some a ∧ a.place = .lm (f i).1 (f i).2) ∧ s.heldCc (f i).1 = false := by simpa using h.2 i hi
    exact ⟨qs, hq, h.1.2, fun i hi => ⟨by simpa using (k i hi).1, (k i hi).2, fun r _ => ⟨noMarks (by simpa using h.1.1.1), fun _ => noneKept (by simpa using h.1.1.2)⟩⟩⟩
  · cases h
def sizes : Nat := 2 ^ 16 + 2 ^ 21
def mzeroW := word 0x01 0 0 0 0
theorem witness_MatrixCommands_mzero : CmdRuns (withCmd 0 mzeroW) mzeroW 0x01 (· = 0) 0 (cmdOf mzeroW) ∧ Claims.field mzeroW 0 34 = 0 ∧ Claims.field mzeroW 35 21 = 0 := by
  unfold CmdRuns; decide +kernel
def mloadcW := word 0x02 (sizes + 1) own 16 0
theorem witness_MatrixCommands_mloadc : let s := withCmd 0 mloadcW
    CmdRuns s mloadcW 0x02 (· = 0) 0 (cmdOf mloadcW) ∧ mFields mloadcW = some { bank := 0, m := 16, n := 16 } ∧ tyOfNum (Claims.field mloadcW 0 4) = some .f16 ∧ Claims.field mloadcW 4 12 = 0 ∧
      Claims.field mloadcW 26 8 = 0 ∧ Claims.field mloadcW 48 4 = 0 ∧ RangesAt s 0 (cmdOf mloadcW) (rows mloadcW.q1 16 16 16 16) (fun i => (0, 0 + i * 16 * 16 / 8)) := by
  refine ⟨by unfold CmdRuns; decide +kernel, by decide +kernel, by decide +kernel, by decide, by decide, by decide, rangesAt_of (by decide +kernel)⟩
/-- Scaled bytes of mxf8 against i8: both the scaled and the unscaled form of an operand. -/
def mmacW (fa fb : Nat) := word 0x03 (sizes + fa * 2 ^ 26 + fb * 2 ^ 30 + 32) own (own + 0x1000) (32 * 2 ^ 48 + 16 * 2 ^ 32 + 0x2000)
theorem witness_MatrixCommands_mmac : let w := mmacW 6 6
    let s := withCmd 0 w
    CmdRuns s w 0x03 (· = 0) 0 (cmdOf w) ∧ mFields w = some { bank := 0, m := 16, n := 16 } ∧ mmacTy (Claims.field w 26 4) = some .i8 ∧ mmacTy (Claims.field w 30 4) = some .i8 ∧
      w.q0.getLsbD 50 = false ∧ w.q0.getLsbD 51 = false ∧ Claims.field w 0 16 = 32 ∧ w.q3.toNat / 2 ^ 48 = 32 ∧ w.q3.toNat / 2 ^ 32 % 65536 = 16 ∧
      RangesAt s 0 (cmdOf w) (rows w.q1 16 32 32 8 ++ rows w.q2 32 16 16 8) (fun i => (0, if i < 16 then 0 + i * 32 * 8 / 8 else 0x1000 + (i - 16) * 16 * 8 / 8)) := by
  refine ⟨by unfold CmdRuns; decide +kernel, by decide +kernel, by decide +kernel, by decide +kernel, by decide, by decide, by decide, by decide, by decide, rangesAt_of (by decide +kernel)⟩
theorem witness_MatrixCommands_mmac_scaled : let w := mmacW 8 1
    let s := withCmd 0 w
    CmdRuns s w 0x03 (· = 0) 0 (cmdOf w) ∧ mmacTy (Claims.field w 26 4) = some .e4m3 ∧ mmacTy (Claims.field w 30 4) = some .f16 ∧ scaledTy .e4m3 = true ∧ scaledTy .f16 = false ∧
      RangesAt s 0 (cmdOf w) (rows w.q1 16 32 32 8 ++ rows w.q2 32 16 16 16 ++ [{ a := ((w.q1.toNat + 0x2000 : Nat) : Int), n := 16, need := .read }])
        (fun i => (0, if i < 16 then 0 + i * 32 * 8 / 8 else if i < 48 then 0x1000 + (i - 16) * 16 * 16 / 8 else 0x2000)) := by
  refine ⟨by unfold CmdRuns; decide +kernel, by decide +kernel, by decide +kernel, by decide, by decide, rangesAt_of (by decide +kernel)⟩
def mstoreW := word 0x04 (sizes + 2 ^ 49 + 8) own 32 0x2000
theorem witness_MatrixCommands_mstore : let w := mstoreW
    let s := withCmd 0 w
    CmdRuns s w 0x04 (· = 0) 0 (cmdOf w) ∧ mFields w = some { bank := 0, m := 16, n := 16 } ∧ tyOfNum (Claims.field w 0 4) = some .e4m3 ∧ Claims.field w 7 9 = 0 ∧ Claims.field w 26 8 = 0 ∧ Claims.field w 51 1 = 0 ∧
      w.q0.getLsbD 49 = true ∧ scaledTy .e4m3 = true ∧ Claims.field w 4 3 ≤ 4 ∧ 0 + ((16 * 32) * Ty.e4m3.width + 7) / 8 ≤ 0x2000 ∧
      RangesAt s 0 (cmdOf w) (rowRanges w.q1.toNat 16 16 32 8 .write ++ [{ a := ((w.q1.toNat + w.q3.toNat : Nat) : Int), n := 16, need := .write }])
        (fun i => (0, if i < 16 then 0 + i * 32 * 8 / 8 else 0x2000)) := by
  refine ⟨by unfold CmdRuns; decide +kernel, by decide +kernel, by decide +kernel, by decide, by decide, by decide, by decide, by decide, by decide, by decide, rangesAt_of (by decide +kernel)⟩

def caseedW := word 0x15 0 9 5 0
theorem witness_ClauseCommands_caseed : CmdRuns (withCmd 256 caseedW) caseedW 0x15 (2 ≤ ·) 256 (cmdOf caseedW) ∧ Claims.field caseedW 0 56 = 0 := by unfold CmdRuns; decide +kernel
/-- A block of 32 clauses over 4 features and 2 classes, T 100. -/
def caBlock : BitVec 512 := BitVec.ofNat 512 (32 + 4 * 2 ^ 16 + 2 * 2 ^ 32 + 0x80 * 2 ^ 40 + 100 * 2 ^ 48)
def cacfgW := word 0x10 0 own 0 0
theorem witness_ClauseCommands_cacfg : let s := withLm (withCmd 256 cacfgW) 0 (leBytes 64 caBlock.toNat)
    let h : BitVec 512 := BitVec.ofNat 512 (numAt (lmOf s 0) 0 64)
    CmdRuns s cacfgW 0x10 (2 ≤ ·) 256 (cmdOf cacfgW) ∧ h = caBlock ∧ blockOk caBlock = true ∧ (∀ i < 32, ((lmOf s 0).get (0 + 64 + i)).getLsbD 6 → ((lmOf s 0).get (0 + 64 + i)).toNat % 64 < caBlock.toNat / 2 ^ 32 % 256) ∧
      RangesAt s 256 (cmdOf cacfgW) [{ a := (cacfgW.q1.toNat : Int), n := 64, need := .read, al := 64 }] (fun _ => (0, 0)) ∧
      RangesAt s 256 (cmdOf cacfgW) [{ a := (cacfgW.q1.toNat : Int), n := 64 + 32, need := .read, al := 64 }] (fun _ => (0, 0)) := by
  refine ⟨by unfold CmdRuns; decide +kernel, by decide +kernel, by decide +kernel, by decide +kernel, rangesAt_of (by decide +kernel), rangesAt_of (by decide +kernel)⟩
/-- The model that block sets. -/
def model : Clause := { configured := true, c := 32, f := 4, k := 2, t := 100, init := 0x80 }
def withClause (w : CmdWord) : State := (withCmd 256 w).setClause 256 model
def cainfW := word 0x11 1 own (own + 0x100) 0
theorem witness_ClauseCommands_cainf : let s := withClause cainfW
    CmdRuns s cainfW 0x11 (2 ≤ ·) 256 (cmdOf cainfW) ∧ (s.clause 256).configured = true ∧ (s.clause 256).k ≠ 0 ∧ Claims.field cainfW 32 24 = 0 ∧ Claims.field cainfW 0 32 = 1 ∧ cainfW.q3 = 0 ∧
      RangesAt s 256 (cmdOf cainfW) [{ a := (cainfW.q1.toNat : Int), n := 1 * sampleLen model, need := .read }, { a := (cainfW.q2.toNat : Int), n := 1 * outputLen model, need := .write }]
        (fun i => if i = 0 then (0, 0) else (0, 0x100)) := by
  refine ⟨by unfold CmdRuns; decide +kernel, by decide +kernel, by decide +kernel, by decide, by decide, rfl, rangesAt_of (by decide +kernel)⟩
def catrnW := word 0x12 1 own (own + 0x100) 0
theorem witness_ClauseCommands_catrn : let s := withLm (withClause catrnW) 0x101 [1]
    CmdRuns s catrnW 0x12 (2 ≤ ·) 256 (cmdOf catrnW) ∧ Claims.field catrnW 32 16 = 0 ∧ Claims.field catrnW 49 7 = 0 ∧ Claims.field catrnW 0 32 = 1 ∧ catrnW.q3 = 0 ∧ model.f ≤ 1024 ∧
      RangesAt s 256 (cmdOf catrnW) [{ a := (catrnW.q1.toNat : Int), n := 1 * sampleLen model, need := .read }, { a := (catrnW.q2.toNat : Int), n := 1 * 8, need := .read }]
        (fun i => if i = 0 then (0, 0) else (0, 0x100)) ∧
      ¬ BadTarget model (numAt (lmOf s 0) 0x100 8) ∧ BadTarget model (2 ^ 32 - 1) := by
  refine ⟨by unfold CmdRuns; decide +kernel, by decide, by decide, by decide, rfl, by decide, rangesAt_of (by decide +kernel), by unfold BadTarget; decide +kernel, by unfold BadTarget; decide⟩
/-- The same stopping at its one sample, whose record names class 63. -/
theorem witness_ClauseCommands_catrn_bad : let s := withLm (withClause catrnW) 0x100 [63]
    CmdRuns s catrnW 0x12 (2 ≤ ·) 256 (cmdOf catrnW) ∧ BadTarget model (numAt (lmOf s 0) 0x100 8) ∧
      RangesAt s 256 (cmdOf catrnW) [{ a := (catrnW.q1.toNat : Int), n := 1 * sampleLen model, need := .read }, { a := (catrnW.q2.toNat : Int), n := 1 * 8, need := .read }]
        (fun i => if i = 0 then (0, 0) else (0, 0x100)) :=
  ⟨by unfold CmdRuns; decide +kernel, by unfold BadTarget; decide +kernel, rangesAt_of (by decide +kernel)⟩
def cardW := word 0x13 (2 ^ 12 + 3 + 2 ^ 48) own 0 0
theorem witness_ClauseCommands_card : let s := withClause cardW
    CmdRuns s cardW 0x13 (2 ≤ ·) 256 (cmdOf cardW) ∧ Claims.field cardW 0 12 = 3 ∧ Claims.field cardW 12 12 = 1 ∧ 3 + 1 ≤ model.c ∧ Claims.field cardW 24 24 = 0 ∧ Claims.field cardW 49 7 = 0 ∧ cardW.q0.getLsbD 48 = true ∧
      RangesAt s 256 (cmdOf cardW) [{ a := (cardW.q1.toNat : Int), n := (bytesOf 64 (cardHeader model) ++ (List.range (1 * (2 * model.f))).map (fun i => model.cell (3 + i / (2 * model.f)) (i % (2 * model.f)))).length, need := .write }] (fun _ => (0, 0)) := by
  refine ⟨by unfold CmdRuns; decide +kernel, by decide, by decide, by decide, by decide, by decide, by decide, rangesAt_of (by decide +kernel)⟩
def cawrW := word 0x14 (2 ^ 12 + 3) own 0 0
theorem witness_ClauseCommands_cawr : let s := withClause cawrW
    CmdRuns s cawrW 0x14 (2 ≤ ·) 256 (cmdOf cawrW) ∧ Claims.field cawrW 48 1 = 0 ∧ model.f ≤ 1024 ∧ RangesAt s 256 (cmdOf cawrW) [{ a := (cawrW.q1.toNat : Int), n := 1 * (2 * model.f), need := .read }] (fun _ => (0, 0)) := by
  refine ⟨by unfold CmdRuns; decide +kernel, by decide, by decide, rangesAt_of (by decide +kernel)⟩

def cfillW := word 0x22 0 own 0x0102_0304 16
theorem witness_CopyAndControlCommands_cfill : let s := withCmd 128 cfillW
    CmdRuns s cfillW 0x22 (· = 1) 128 (cmdOf cfillW) ∧ Claims.field cfillW 7 1 = 0 ∧ Claims.field cfillW 14 34 = 0 ∧ Claims.field cfillW 48 8 = 0 ∧
      RangesAt s 128 (cmdOf cfillW) [{ a := (cfillW.q1.toNat : Int), n := cfillW.q3.toNat, need := .write }] (fun _ => (0, 0)) := by
  refine ⟨by unfold CmdRuns; decide +kernel, by decide, by decide, by decide, rangesAt_of (by decide +kernel)⟩
/-- Block and copy: 32 elements, from the own LM's 0x100 to 0x800, scales at 0x1000. -/
def blockFor (sty dty : Nat) (scale : Word) : BitVec 512 := BitVec.ofNat 512 (own.toNat + 0x100 + (own.toNat + 0x800) * 2 ^ 64 + 32 * 2 ^ 128 + sty * 2 ^ 384 + dty * 2 ^ 388 + scale.toNat * 2 ^ 448)
def shapeFor (sty dty : Ty) (scale : Word) : Shape :=
  { src := own.toNat + 0x100, dst := own.toNat + 0x800, counts := [32], sstr := [], dstr := [], sty := sty, dty := dty, rm := .rne, nsat := false, sclass := 0, scale := scale.toNat }
def withCopy (w : CmdWord) (b : BitVec 512) : State := withLm (withCmd 128 w) 0 (leBytes 64 b.toNat)
def cpyW := word 0x20 0 0 0 own
theorem witness_CopyAndControlCommands_cpy : let s := withCopy cpyW (blockFor 0 1 0)
    let h := shapeFor .f32 .f16 0
    RangesAt s 128 (cmdOf cpyW) [{ a := (cpyW.q3.toNat : Int), n := 64, need := .read, al := 64 }] (fun _ => (0, 0)) ∧ shapeOf (BitVec.ofNat 512 (numAt (lmOf s 0) 0 64)) cpyW.q1 cpyW.q2 = .ok h ∧
      h.runs.length = 1 ∧ CmdRuns s cpyW 0x20 (· = 1) 128 (cmdOf cpyW) ∧ h.scale = 0 ∧
      RangesAt s 128 (cmdOf cpyW) (h.srcRanges ++ h.dstRanges) (fun i => (0, if i < 1 then 0x100 else 0x800)) := by
  refine ⟨rangesAt_of (by decide +kernel), by decide +kernel, by decide, by unfold CmdRuns; decide +kernel, by decide, rangesAt_of (by decide +kernel)⟩
theorem witness_CopyAndControlCommands_cpy_equal : let s := withCopy cpyW (blockFor 7 7 0)
    let h := shapeFor .n8 .n8 0
    shapeOf (BitVec.ofNat 512 (numAt (lmOf s 0) 0 64)) cpyW.q1 cpyW.q2 = .ok h ∧ h.sty = h.dty ∧ RangesAt s 128 (cmdOf cpyW) (h.srcRanges ++ h.dstRanges) (fun i => (0, if i < 1 then 0x100 else 0x800)) :=
  ⟨by decide +kernel, rfl, rangesAt_of (by decide +kernel)⟩
def cpyqW := word 0x21 0 0 0 own
theorem witness_CopyAndControlCommands_cpyq : let s := withCopy cpyqW (blockFor 0 8 (own + 0x1000))
    let h := shapeFor .f32 .e4m3 (own + 0x1000)
    shapeOf (BitVec.ofNat 512 (numAt (lmOf s 0) 0 64)) cpyqW.q1 cpyqW.q2 = .ok h ∧ CmdRuns s cpyqW 0x21 (· = 1) 128 (cmdOf cpyqW) ∧ scaledTy h.dty = true ∧ h.n0 % 32 = 0 ∧ 0x800 + h.dstBytes ≤ 0x1000 ∧
      RangesAt s 128 (cmdOf cpyqW) (h.srcRanges ++ h.dstRanges ++ [{ a := (h.scale : Int), n := 1 * 1, need := .write }]) (fun i => (0, if i < 1 then 0x100 else if i < 2 then 0x800 else 0x1000)) := by
  refine ⟨by decide +kernel, by unfold CmdRuns; decide +kernel, by decide, by decide, by decide, rangesAt_of (by decide +kernel)⟩
def emarkW := word 0x30 0 (own + 8) 77 0
theorem witness_CopyAndControlCommands_emark : let s := withCmd 0 emarkW
    CmdRuns s emarkW 0x30 (fun _ => True) 0 (cmdOf emarkW) ∧ Claims.field emarkW 0 56 = 0 ∧ RangesAt s 0 (cmdOf emarkW) [{ a := (emarkW.q1.toNat : Int), n := 8, need := .write, al := 8 }] (fun _ => (0, 8)) :=
  ⟨by unfold CmdRuns; decide +kernel, by decide, rangesAt_of (by decide +kernel)⟩
def efenceW := word 0x31 0 0 0 0
def enopW := word 0x00 0 0 0 0
def enopBadW := word 0x00 1 0 0 0
def unknownW := word 0x7F 0 0 0 0
theorem witness_CopyAndControlCommands_control : CmdRuns (withCmd 0 efenceW) efenceW 0x31 (fun _ => True) 0 (cmdOf efenceW) ∧ Claims.field efenceW 3 53 = 0 ∧ Claims.field efenceW 0 3 ≤ 5 ∧
    CmdRuns (withCmd 0 enopW) enopW 0x00 (fun _ => True) 0 (cmdOf enopW) ∧ enopW.q0 = 0 ∧ CmdRuns (withCmd 0 enopBadW) enopBadW 0x00 (fun _ => True) 0 (cmdOf enopBadW) ∧
    (withCmd 0 unknownW).engFor unknownW = some (0, cmdOf unknownW) ∧ opcodeEngines (unknownW.q0.toNat / 2 ^ 56) = none := by
  unfold CmdRuns; refine ⟨?_, ?_, ?_, ?_, ?_, ?_, ?_, rfl⟩ <;> decide +kernel
theorem witness_CopyAndControlCommands_completion : let s := base.setEng 0 { queue := [cmdOf enopW], ran := true }
    (s.eng 0).stopped = none ∧ (s.eng 0).ran = true ∧ (s.eng 0).due ≤ s.cycle ∧ (s.eng 0).queue = cmdOf enopW :: [] ∧ (∀ o ∈ s.ops, o.kind ≠ .engWrite 0) ∧ (s.eng 0).farBad = none := by decide +kernel
theorem witness_CopyAndControlCommands_farBad : let s := base.setEng 128 { queue := [cmdOf cfillW], ran := true, farBad := some 0x4000 }
    (s.eng 128).stopped = none ∧ (s.eng 128).ran = true ∧ (s.eng 128).due ≤ s.cycle ∧ (s.eng 128).queue = cmdOf cfillW :: [] ∧ (∀ o ∈ s.ops, o.kind ≠ .engWrite 128) ∧ (s.eng 128).farBad = some 0x4000 ∧
      (cmdOf cfillW).work = .word cfillW := by decide +kernel
theorem witness_CopyAndControlCommands_acopy : let c : Cmd := { cmdOf enopW with work := .acopy (own.toNat + 64) own.toNat 32 }
    let s := (base.setUnit 128 { holder := some 0 }).setEng 128 { queue := [c] }
    s.headCmd 128 = some c ∧ (s.eng 128).queue = c :: [] ∧
      RangesAt s 128 c [{ a := ((own.toNat : Nat) : Int), n := 32, need := .read }, { a := ((own.toNat + 64 : Nat) : Int), n := 32, need := .write }] (fun i => if i = 0 then (0, 0) else (0, 64)) :=
  ⟨by decide +kernel, by decide +kernel, rangesAt_of (by decide +kernel)⟩
theorem witness_CopyAndControlCommands_resume : let c : Cmd := { cmdOf resumeWord with resume := true }
    let s := base.setEng 0 { queue := [c], stopped := some (1, 0) }
    s.resumable = some 0 ∧ (s.eng 0).queue.find? (fun c => c.resume) = some c := by decide +kernel

/-! ## Hypotheses: cache levels and pages -/

/-- A running device with an agreed version and one page table leaf. -/
theorem witness_CacheLevelControl_page : base.walk (16 * 65536) = .leaf leaf leafAt := by decide +kernel
theorem witness_CacheLevelControl_behind : wayBehind base (ptePdue leaf) = false ∧ wayBehind { base with time := 0x400_0000 } (ptePdue leaf) = true := by decide +kernel
theorem witness_CacheLevelControl_trust : let s := base.setCore 0 { tenants := [(64, 1)] }
    let due := ((levelWords s .l1 0).get 0 (64 + 0)).toNat
    due ≠ 0 ∧ due / 8 ≤ s.cycle ∧ ((wrap (65535 * 2 ^ 16 : Nat) : Word).toNat / 2 ^ 16 % 2 ^ 16 = 65535) := by decide +kernel
theorem witness_CacheLevelControl_heard : Heard base ∧ 1 ≤ (0x100001 : Word).toNat % 2 ^ 18 ∧ 1 ≤ (0x100001 : Word).toNat / 2 ^ 20 % 2 ^ 18 ∧ (0x100001 : Word).toNat / 2 ^ 18 % 4 = 0 ∧ (0x100001 : Word).toNat / 2 ^ 38 = 0 :=
  ⟨⟨.inl rfl, by decide +kernel⟩, by decide, by decide, by decide, by decide⟩
theorem witness_PagesChangeState_map : let s := { base with mem := base.mem.write (fetchRoot + 0x4000) (leBytes 16 0) }
    (∀ x y, s.walk 0 ≠ .leaf x y) ∧ s.pteOk leaf = true ∧ leafPlace s 0 (pteSize leaf) = some leafAt ∧ numAt s.mem leafAt 16 % 8 = 0 := by
  refine ⟨fun x y h => ?_, by decide +kernel, by decide +kernel, by decide +kernel⟩
  exact absurd (show (match ({ base with mem := base.mem.write (fetchRoot + 0x4000) (leBytes 16 0) } : State).walk 0 with | .leaf _ _ => true | _ => false) = true by rw [h]) (by decide +kernel)
/-- A leaf of 1 GiB at 2^30 in key slot 3. -/
def keyedLeaf : BitVec 128 := BitVec.ofNat 128 (7 + 2 ^ 46 + 3 * 2 ^ 84)
/-- A page not present, or migrating, at 2^30; and one at 2^31. -/
def farLeaf (low : Nat) : BitVec 128 := BitVec.ofNat 128 (low + 2 ^ 46)
def nextLeaf : BitVec 128 := BitVec.ofNat 128 (7 + 2 ^ 47)
theorem witness_PagesChangeState_keyed : let s := { base with mem := base.mem.write leafAt (leBytes 16 0), keys := [(3, 5)] }
    (∀ x y, s.walk 0 ≠ .leaf x y) ∧ s.pteOk keyedLeaf = true ∧ leafPlace s 0 (pteSize keyedLeaf) = some leafAt ∧ numAt s.mem leafAt 16 % 8 = 0 ∧ Keyed keyedLeaf ∧ Apart leafAt 16 keyedLeaf := by
  refine ⟨fun x y h => ?_, by decide +kernel, by decide +kernel, by decide +kernel, by unfold Keyed; decide +kernel, by unfold Apart; decide +kernel⟩
  exact absurd (show (match ({ base with mem := base.mem.write leafAt (leBytes 16 0), keys := [(3, 5)] } : State).walk 0 with | .leaf _ _ => true | _ => false) = true by rw [h]) (by decide +kernel)
theorem witness_PagesChangeState_unmap : base.walk 0 = .leaf leaf leafAt ∧ pteP leaf = true ∧ pteMig leaf = false ∧ NothingCached base := ⟨by decide +kernel, by decide, by decide, base_nothingCached⟩
theorem witness_PagesChangeState_shootdown : (∀ c ∈ base.cores, c.2.ulines = []) ∧
    List.Pairwise (fun (x y : Nat × BitVec 128) => x.1 + 16 ≤ y.1 ∨ y.1 + 16 ≤ x.1) [(0x30_0000, leaf), (0x30_0010, leaf)] ∧
    pteKey leaf = 0 ∧ pteKey (BitVec.ofNat 128 (numAt base.mem 0x30_0000 16)) = 0 ∧ Keyed keyedLeaf ∧ pteSize keyedLeaf ≠ 0 ∧ Apart 0x30_0000 16 keyedLeaf := by unfold Keyed Apart; decide +kernel
/-- base with its leaf not present, or changed. -/
def withLeaf (e : BitVec 128) : State := { base with mem := base.mem.write leafAt (leBytes 16 e.toNat) }
theorem witness_PagesChangeState_unmapKeyed : let s := { withLeaf keyedLeaf with keys := [(3, 5)] }
    s.walk 0 = .leaf keyedLeaf leafAt ∧ pteP keyedLeaf = true ∧ pteMig keyedLeaf = false ∧ NothingCached s ∧ Keyed keyedLeaf ∧ Apart leafAt 16 keyedLeaf :=
  ⟨by decide +kernel, by decide +kernel, by decide +kernel, ⟨rfl, rfl, rfl, fun _ => rfl, by decide +kernel⟩, by unfold Keyed; decide +kernel, by unfold Apart; decide +kernel⟩
theorem witness_PagesChangeState_resident : let s := { withLeaf (farLeaf 6) with faultReqs := [(0, 0)] }
    s.walk 0 = .leaf (farLeaf 6) leafAt ∧ 2 ^ 30 = pageBytes (pteSize (farLeaf 6)) ∧ pteP (farLeaf 6) = false ∧ ([1, 2] : List Byte).length ≤ 2 ^ 30 ∧ pteKey (farLeaf 6 ||| 1) = 0 ∧ Apart leafAt 16 (farLeaf 6 ||| 1) ∧
      (∃ q ∈ s.faultReqs, q.1 < 2 ^ 30 ∧ q.2 = 0) ∧ (s.ops.all (fun o => !o.pwait)) = true ∧ s.pteOk nextLeaf = true ∧ pteP nextLeaf = true ∧ pteSize nextLeaf = pteSize (farLeaf 6) ∧ Apart leafAt 16 nextLeaf := by
  unfold Apart; refine ⟨by decide +kernel, by decide +kernel, by decide +kernel, by decide, by decide +kernel, by decide +kernel, ⟨(0, 0), by decide +kernel, by decide, rfl⟩, by decide +kernel, by decide +kernel, by decide +kernel, by decide +kernel, by decide +kernel⟩
theorem base_leaves : base.leaves = [(0, leaf)] := by decide +kernel
theorem witness_PagesChangeState_migration : base.walk 0 = .leaf leaf leafAt ∧ Choosable leaf ∧ ∀ p ∈ base.leaves, Choosable p.2 → NoBetter base 0 leaf p := by
  rw [base_leaves]; unfold Choosable NoBetter; decide +kernel
theorem witness_PagesChangeState_switch (w : HeldWrite) (hw : w = { va := 8, data := [1] }) : let s := withLeaf (farLeaf 0x107)
    let p := farLeaf 0x107
    let e := nextLeaf
    s.walk 0 = .leaf p leafAt ∧ pteMig p = true ∧ pteP p = true ∧ s.pteOk e = true ∧ pteSize e = pteSize p ∧ pteLoc e = 0 ∧ pteP e = true ∧ Apart leafAt 16 e ∧ ¬ Keyed p ∧ NothingCached s ∧ s.heldWrites = [] ∧
      w.what = .write ∧ w.free = false ∧ 0 ≤ w.va ∧ w.va + w.data.length ≤ 2 ^ 30 ∧ (∀ o ∈ s.ops, o.kind.isWrite = false) ∧ TablesApart s 0 (pteBase e) (2 ^ 30) := by
  subst hw
  refine ⟨by decide +kernel, by decide +kernel, by decide +kernel, by decide +kernel, by decide +kernel, by decide +kernel, by decide +kernel, by unfold Apart; decide +kernel, by unfold Keyed; decide +kernel,
    ⟨rfl, rfl, rfl, fun _ => rfl, by decide +kernel⟩, by decide +kernel, rfl, rfl, by decide, by decide, by decide +kernel, ?_⟩
  unfold TablesApart; decide +kernel
theorem witness_PagesChangeState_waiting : let s := withLeaf (farLeaf 0x107)
    s.farWait = [] ∧ (∀ e ∈ s.threads, e.2.resv = none) ∧ s.servedAt ≠ s.cycle := by decide +kernel

/-! ## Hypotheses: the host and other devices -/

/-- base with no page and one host-visible region of 64 KiB. -/
def visible : State := { base with mem := [], hostRegions := [(0x30_0000, 0x1_0000)] }
def offState : State := { State.reset with power := .off }
/-- base with a host-visible region inside its page, whose leaf may be another. -/
def visiblePage (e : BitVec 128) : State := { withLeaf e with hostRegions := [(0x30_0000, 0x1_0000)] }
theorem visiblePage_leaves : (visiblePage leaf).leaves = [(0, leaf)] := by
  have h : (visiblePage leaf).mem = base.mem := by decide +kernel
  rw [← base_leaves]; unfold State.leaves; rw [h]; rfl
theorem witness_HostAccess_mapped : let s := visiblePage leaf
    AllVisible s 0x30_0000 4 ∧ NothingCached s ∧ s.heldWrites = [] ∧ Mapped s 0x30_0000 4 0 leaf leafAt :=
  ⟨by unfold AllVisible; decide +kernel, ⟨rfl, rfl, rfl, fun _ => rfl, by decide +kernel⟩, by decide +kernel,
    ⟨by decide +kernel, by rw [visiblePage_leaves]; decide +kernel, by decide +kernel, by rw [visiblePage_leaves]; decide +kernel, by unfold TablesApart; decide +kernel⟩⟩
theorem witness_HostAccess_free : let s := visiblePage leaf
    s.placeWaits (.glob 0x30_0000) 4 true = false ∧ s.placeWaits (.glob 0x30_0000) 4 false = false := by decide +kernel
theorem witness_HostAccess_busy : let s : State := { visiblePage leaf with servedAt := base.cycle, served := [lineKey 0 0x30_0000] }
    AllVisible s 0x30_0000 4 ∧ NothingCached s ∧ s.heldWrites = [] ∧ Mapped s 0x30_0000 4 0 leaf leafAt ∧ s.placeWaits (.glob 0x30_0000) 4 true = true ∧ s.placeWaits (.glob 0x30_0000) 4 false = true := by
  have l : ({ visiblePage leaf with servedAt := base.cycle, served := [lineKey 0 0x30_0000] } : State).leaves = [(0, leaf)] := by
    have h : ({ visiblePage leaf with servedAt := base.cycle, served := [lineKey 0 0x30_0000] } : State).mem = base.mem := by decide +kernel
    rw [← base_leaves]; unfold State.leaves; rw [h]; rfl
  exact ⟨by unfold AllVisible; decide +kernel, ⟨rfl, rfl, rfl, fun _ => rfl, by decide +kernel⟩, by decide +kernel,
    ⟨by decide +kernel, by rw [l]; decide +kernel, by decide +kernel, by rw [l]; decide +kernel, by unfold TablesApart; decide +kernel⟩, by decide +kernel, by decide +kernel⟩
theorem witness_HostAccess_migrating : let s := visiblePage 0x107
    AllVisible s 0x30_0000 4 ∧ s.heldWrites = [] ∧ s.walk 0 = .leaf 0x107 leafAt ∧ (0, (0x107 : BitVec 128)) ∈ s.leaves ∧ pteMig (0x107 : BitVec 128) = true ∧ ptePa (0x107 : BitVec 128) ≤ 0x30_0000 ∧
      ∀ p ∈ s.leaves, pteP p.2 = true → pteLoc p.2 = 0 → ptePa p.2 ≤ 0x30_0000 → 0x30_0000 < ptePa p.2 + pageBytes (pteSize p.2) → p = (0, 0x107) := by
  unfold AllVisible; decide +kernel
theorem witness_HostAccess_behind : let s : State := { base with heldWrites := [{ va := 8, data := [1] }] }
    s.power ≠ .off ∧ s.heldWrites ≠ [] := by decide +kernel
theorem witness_HostAccess_visible : visible.power ≠ .off ∧ AllVisible visible 0x30_0000 4 ∧ NoneVisible visible 0x20_0000 4 ∧ NothingCached visible ∧ visible.heldWrites = [] ∧ Unmapped visible 0x30_0000 4 := by
  refine ⟨by decide +kernel, by unfold AllVisible; decide +kernel, by unfold NoneVisible; decide +kernel, ⟨rfl, rfl, rfl, fun _ => rfl, by decide +kernel⟩, by decide +kernel, by unfold Unmapped; decide +kernel⟩
theorem witness_HostAccess_held : offState.power = .off ∧ ({ base with heldEvents := [0] } : State).heldEvents = [0] ∧ ¬ Full { up base with returned := max base.returned (min 0 base.writeIdx) } := by
  unfold Full; decide +kernel
theorem witness_HostAccess_export : (3 : Nat) < 64 ∧ 0x1000 ≤ 2 ^ 44 ∧ 0x10_0000 + 0x1000 ≤ 2 ^ 56 := by decide
/-- base with queue 0 of context 0 in a state, holding records. -/
def queue (st : Nat) (recs : List (BitVec 512)) : State := base.setLqueue 0 0 { st := st, recs := recs.map (fun r => { record := r, accepted := 1 }) }
theorem witness_LaunchRecords : ((queue 1 []).lqueue 0 0).st = 1 ∧ ((queue 2 []).lqueue 0 0).st = 2 ∧ (base.lqueue 0 0).st = 0 ∧ (queue 1 []).power ≠ .off ∧ (0 : Nat) % 2 ^ 12 = 0 := by decide +kernel
theorem witness_LaunchRecords_busy : let s := base.setLqueue 0 0 { st := 1, acceptAt := 33 }
    s.power ≠ .off ∧ s.heldWrites = [] ∧ (s.lqueue 0 0).st = 1 ∧ (s.lqueue 0 0).acceptAt = s.cycle + 1 ∧ ((queue 1 []).lqueue 0 0).acceptAt ≠ base.cycle + 1 := by decide +kernel
/-- A read of eight bytes from another device, inside an exported window over the first GiB's megabyte. -/
def farRead : FarReq := { src := 5, tenant := 0, prin := 0, offset := 0x40, op := .read 8 false }
def farWrite : FarReq := { farRead with op := .sc .b64 9 3 }
def exported : State := { base with windows := [(0, (0x10_0000, 0x1000))], homes := [(0, 0)], farResv := [(5, 3, globKey 0 0x10_0040)] }
theorem exported_nothingCached : NothingCached exported := ⟨rfl, rfl, rfl, fun _ => rfl, by decide +kernel⟩
theorem witness_FarRequestsAreServed : exported.power ≠ .off ∧ exported.upLinks = [] ∧ exported.windows.get (0, 0) farRead.tenant.toNat = (0x10_0000, 0x1000) ∧ inAperture 0x10_0040 = false ∧
    farLets (exported.protRights 0 0x10_0040) farRead.op = true ∧ exported.walk 0x10_0040 = .leaf leaf leafAt ∧ exported.allowed 0 0 (pteTag leaf) = true ∧
    farResult farRead.op false (numAt exported.mem 0x10_0040 8) = some (none, numAt exported.mem 0x10_0040 8) ∧ 0x1000 < (0xFFC : Nat) + 8 := by decide +kernel
theorem witness_FarRequestsAreServed_tables : (∀ x ∈ exported.farWait, ¬ Machine.farBehind farRead x.req) ∧ TablesApart exported 0x10_0040 (ptePa leaf + 0x10_0040 % pageBytes (pteSize leaf)) 8 := by unfold TablesApart; decide +kernel
theorem witness_FarRequestsAreServed_behind : let s : State := { exported with farWait := [{ req := farWrite, at_ := 0 }] }
    s.power ≠ .off ∧ s.upLinks = [] ∧ s.windows.get (0, 0) farRead.tenant.toNat = (0x10_0000, 0x1000) ∧ ∃ x ∈ s.farWait, Machine.farBehind farRead x.req = true := by decide +kernel
theorem witness_FarRequestsAreServed_store : farOwn exported farWrite (globKey 0 0x10_0040) = true ∧ (farResult farWrite.op true (numAt exported.mem 0x10_0040 8)).isSome = true ∧ pteMig leaf = false ∧
    farLets (exported.protRights 0 0x10_0040) farWrite.op = true := by decide +kernel
theorem witness_FarRequestsAreServed_denied : let s := { exported with mem := exported.mem.write (fetchProt) (leBytes 8 0), homes := [(0, 7)] }
    farLets (s.protRights 7 0x10_0040) farRead.op = false ∧ (s.ctx 7).logctl = 0 := by decide +kernel
theorem witness_FarRequestsAreServed_free : exported.placeWaits (.glob 0x10_0040) 8 false = false ∧ exported.placeWaits (.glob 0x10_0040) 8 true = false ∧ HomeClrSound exported 0 0 (pteTag leaf) :=
  ⟨by decide +kernel, by decide +kernel, .inl (by decide)⟩
theorem witness_FarRequestsAreServed_busy : let s := { exported with servedAt := base.cycle, served := [lineKey 0 0x10_0040] }
    s.placeWaits (.glob 0x10_0040) 8 false = true ∧ s.walk 0x10_0040 = .leaf leaf leafAt ∧ NothingCached s ∧ s.allowed 0 farRead.prin (pteTag leaf) = true :=
  ⟨by decide +kernel, by decide +kernel, ⟨rfl, rfl, rfl, fun _ => rfl, by decide +kernel⟩, by decide +kernel⟩
theorem witness_FarRequestsAreServed_migrating : let s := { exported with mem := base.mem.write leafAt (leBytes 16 0x107) }
    farStores farWrite.op = true ∧ s.walk 0x10_0040 = .leaf 0x107 leafAt ∧ pteMig (0x107 : BitVec 128) = true ∧ pteP (0x107 : BitVec 128) = true ∧ farLets (s.protRights 0 0x10_0040) farWrite.op = true ∧
      s.allowed 0 farWrite.prin (pteTag (0x107 : BitVec 128)) = true := by decide +kernel

/-! ## Hypotheses: kernels -/

/-- A launch record of one thread on one core at 0x10_0000, and one with a bad version. -/
def goodRecord : BitVec 512 := BitVec.ofNat 512 (1 + 2 ^ 32 + 0x10_0000 * 2 ^ 64 + 0x101 * 2 ^ 128)
def badRecord : BitVec 512 := goodRecord + 1
/-- Context 0 running, no kernel, one record in queue 0. -/
def offering (r : BitVec 512) : State := { queue 1 [r] with kernels := [], threads := [], clusters := [] }
theorem goodRecord_admits : admitsAs goodRecord false 0 := by
  refine ⟨by decide +kernel, fun n _ => ?_, fun h => absurd rfl h⟩
  match n with
  | 0 => exact id
  | 1 => exact fun h => absurd (show recBits goodRecord 0 8 ≠ 1 from h) (by decide +kernel)
  | 2 => exact fun h => absurd (show ¬(recBits goodRecord 12 4 = 0 ∧ recBits goodRecord 21 3 = 0 ∧ recBits goodRecord 30 2 = 0 ∧ recBits goodRecord 145 47 = 0) from h) (by decide +kernel)
  | 3 => exact fun h => absurd (show ¬ shapeLegal (recBits goodRecord 128 8) (recBits goodRecord 136 8) from h) (by unfold shapeLegal; decide +kernel)
  | 4 => exact fun h => absurd (show recBits goodRecord 32 32 = 0 from h) (by decide +kernel)
  | 5 => exact fun h => absurd (show recBits goodRecord 64 64 % 16 ≠ 0 ∨ 2 ^ 56 ≤ recBits goodRecord 64 64 from h) (by decide +kernel)
  | 6 => exact fun h => absurd (show recBits goodRecord 11 1 = 1 ∧ recBits goodRecord 10 1 = 0 from h) (by decide +kernel)
  | 7 => exact fun h => absurd (show recBits goodRecord 16 5 = 31 ∧ false = false from h) (by decide +kernel)
  | n + 8 => exact id
theorem witness_KernelsAreAdmitted : let s := offering goodRecord
    s.schedule = some (.accept 0 0) ∧ (s.lqueue 0 0).recs = { record := goodRecord, accepted := 1 } :: [] ∧ recBits goodRecord 192 64 = 0 ∧ admitsAs goodRecord (s.lqueue 0 0).runtime 0 :=
  ⟨by decide +kernel, by decide +kernel, by decide +kernel, goodRecord_admits⟩
theorem witness_KernelsAreAdmitted_bad : let s := offering badRecord
    s.schedule = some (.accept 0 0) ∧ (s.lqueue 0 0).recs = { record := badRecord, accepted := 1 } :: [] ∧ recBits badRecord 192 64 = 0 ∧ admitsAs badRecord (s.lqueue 0 0).runtime 1 := by
  refine ⟨by decide +kernel, by decide +kernel, by decide +kernel, by decide +kernel, fun n hn => ?_, fun _ => show recBits badRecord 0 8 ≠ 1 by decide +kernel⟩
  have : n = 0 := by omega
  subst this; exact id
/-- Kernel 0 of context 0 in a state, nothing else. -/
def kernelIn (k : Kernel) : State := { base with kernels := [(0, k)], threads := [], clusters := [] }
def admitted : Kernel := { st := .admitted, record := goodRecord }
theorem witness_KernelsAreStaged_grant : let s := kernelIn admitted
    s.schedule = some (.grant 0) ∧ s.pick.isSome = true := by decide +kernel
theorem nothingHeld_of {s : State} (h1 : s.ccs = []) (h2 : s.ctxs = base.ctxs) : NothingHeld s 0 := by
  have h (c : Nat) : s.ctx c = base.ctx c := by simp only [State.ctx, h2]
  refine ⟨by simp only [State.coreCtx, h1, AMap.get], fun c => ?_⟩
  rw [h]
  by_cases hc : c = 0
  · subst hc; rfl
  · simp [State.ctx, base, State.withFetchWord, AMap.get, Ne.symm hc]
def starting : Kernel := { st := .staging, record := goodRecord }
theorem witness_KernelsAreStaged_start : let k := starting
    let s := kernelIn k
    k.ncore = 1 ∧ s.engRuns k.ctx = true ∧ (∀ c ∈ k.clusters, (s.cluster c).asleep = false) ∧ k.gang = false ∧ NothingHeld s (ccKey 0 0) ∧ k.stagingDue ≤ s.cycle :=
  ⟨by decide +kernel, by decide +kernel, by decide +kernel, by decide +kernel, nothingHeld_of rfl rfl, by decide +kernel⟩
/-- A gang kernel staged for tick 900, with STRICT or without. -/
def gang (strict : Bool) : Kernel := { st := .staging, staged := true, record := goodRecord ||| BitVec.ofNat 512 (2 ^ 10 + (if strict then 2 ^ 11 else 0) + 900 * 2 ^ 320) }
theorem witness_KernelsAreStaged_gang : ({ gang true with staged := false } : Kernel).gang = true := by decide +kernel
/-- Locked, with the clock now at 1000. -/
def clocked (k : Kernel) : State := { kernelIn k with locked := true, lockChanges := [(0, true)], lastTime := 899 }
theorem clocked_nothingHeld (b : Bool) : NothingHeld (clocked (gang b)) 0 := nothingHeld_of rfl rfl
theorem witness_GangsStart : let s := clocked (gang false)
    (s.kernel 0).ncore = 1 ∧ NothingHeld s (ccKey 0 0) ∧ (gang false).gang = true ∧ (gang false).gtick.toNat = 900 ∧ s.engRuns 0 = true ∧ s.lockedAt 900 = true ∧ s.lastTime.toNat < 900 ∧ 900 ≤ s.tick :=
  ⟨by decide +kernel, clocked_nothingHeld _, by decide +kernel, by decide +kernel, by decide +kernel, by decide +kernel, by decide +kernel, by decide +kernel⟩
theorem witness_GangsStart_late : let s := { clocked (gang false) with lastTime := 950, lockChanges := [] }
    s.lockedAt 900 = false ∧ 900 ≤ s.lastTime.toNat ∧ (gang false).strict = false ∧ (gang true).strict = true ∧ (gang true).gtick.toNat = 900 := by decide +kernel
theorem witness_GangsStart_release : let s := clocked { gang true with gangHeld := true }
    Heard s ∧ (s.kernel 0).st = .staging ∧ (s.kernel 0).gangHeld = true ∧ s.engRuns (s.kernel 0).ctx = true ∧ (s.kernel 1).st ≠ .staging :=
  ⟨⟨.inl rfl, by decide +kernel⟩, by decide +kernel, by decide +kernel, by decide +kernel, by decide +kernel⟩
/-- A kernel about to retire, that asks for its completion word at 0x10_0008, the counter and vector 0. -/
def ending : Kernel := { st := .draining, clusters := [0], nthread := 1, record := goodRecord ||| BitVec.ofNat 512 (7 * 2 ^ 24 + 0x10_0008 * 2 ^ 384 + 77 * 2 ^ 448) }
def retiring : State := { base with kernels := [(0, ending)], threads := [] }
theorem witness_KernelsRetire : retiring.retirable 0 = true ∧ retiring.units = [] ∧ (∀ n < 8, (retiring.win (ccKey 0 0) n).mapped = false) ∧ ending.ncore = 1 ∧
    NothingCached retiring ∧ recBits ending.record 384 64 = 0x10_0008 ∧ ending.record.getLsbD 24 = true ∧ inAperture 0x10_0008 = false ∧ (retiring.protRights 0 0x10_0008).w = true ∧
    retiring.walk 0x10_0008 = .leaf leaf leafAt ∧ ending.record.getLsbD 26 = true ∧ recBits ending.record 27 3 ≤ (retiring.ctx 0).nmsix :=
  ⟨by decide +kernel, by decide +kernel, by decide +kernel, by decide +kernel, ⟨rfl, rfl, rfl, fun _ => rfl, by decide +kernel⟩, by decide +kernel, by decide +kernel, by decide +kernel, by decide +kernel,
    by decide +kernel, by decide +kernel, by decide +kernel⟩
theorem witness_KernelsRetire_word : recBits ending.record 384 64 % 8 = 0 ∧ recBits ending.record 384 64 + 8 ≤ 2 ^ 56 ∧ TablesApart retiring 0x10_0008 (ptePa leaf + 0x10_0008 % pageBytes (pteSize leaf)) 8 := by
  unfold TablesApart; decide +kernel
/-- The completion word's page is not there. -/
def retiringAbsent : State := { base with mem := base.mem.write (fetchProt + 32) [0x3D], kernels := [(0, { ending with record := goodRecord ||| BitVec.ofNat 512 (2 ^ 24 + 0x1_0000_0000_0008 * 2 ^ 384 + 77 * 2 ^ 448) })], threads := [] }
theorem witness_KernelsRetire_absent : retiringAbsent.retirable 0 = true ∧ recBits (retiringAbsent.kernel 0).record 384 64 = 0x1_0000_0000_0008 ∧ inAperture 0x1_0000_0000_0008 = false ∧
    (retiringAbsent.protRights 0 0x1_0000_0000_0008).w = true ∧ retiringAbsent.locate 0x1_0000_0000_0008 = .absent ∧ (retiringAbsent.coreCtx noCore).noPage.contains (0x1_0000_0000_0008 / 65536) = false := by decide +kernel
/-- One usable cluster, held by kernel 0; context 1's kernel 1 of priority 10 wants it. -/
def contended : State :=
  { base with
    kernels := [(0, base.kernel 0), (1, { st := .admitted, ctx := 1, prio := 10, record := goodRecord })]
    ctxs := base.ctxs ++ [(1, { record := 0x4_0002 })]
    clusters := (0, { holder := some 0 }) :: (List.range 127).map (fun c => (c + 1, { excluded := true })) }
theorem atRest_of {s : State} (h : (s.ops.isEmpty && s.units.isEmpty && s.kernels.all (fun e => e.2.meets.isEmpty) && s.ccs.all (fun e => e.2.task.isNone)) = true) : AtRest s := by
  simpa [AtRest, and_assoc] using h
theorem witness_ContextsAreSwapped_stop : AtRest contended ∧ contended.schedule = some (.preempt 0) := ⟨atRest_of (by decide +kernel), by decide +kernel⟩
theorem witness_ContextsAreSwapped_save : let s := contended.setCtx 0 { contended.ctx 0 with stop := true }
    AtRest s ∧ s.preempting 0 = true ∧ s.kernels.any (fun e => e.2.ctx == 0 && e.2.st == .running) := ⟨atRest_of (by decide +kernel), by decide +kernel, by decide +kernel⟩
/-! A memory that lists nothing holds no page. -/
theorem read_empty (a : Nat) : ∀ n, Memory.read [] a n = List.replicate n 0 := fun n => by
  induction n generalizing a with
  | zero => rfl
  | succ n ih => rw [Memory.read, ih]; rfl
theorem locate_empty {s : State} (h : s.mem = []) (va : Nat) : s.locate va = .absent := by
  have w : s.walk va = .none := by
    have r : wordOf 128 (List.replicate 16 0) = 0 := by decide +kernel
    simp only [State.walk, walkLevels, walkFrom, h, read_empty, r]
    rfl
  simp only [State.locate, w]
theorem settle_empty {s : State} (h : s.mem = []) (va n : Nat) : s.settle va n = s := by
  unfold State.settle
  split
  · rfl
  · induction lines va n with
    | nil => rfl
    | cons l _ ih => rw [List.foldl_cons, locate_empty h]; exact ih
theorem savedBytes_empty {s : State} (h : s.mem = []) (va n : Nat) (hn : 0 < n) : (s.savedBytes va n).1 = none := by
  have g (a : Nat) : ∀ l : List (Nat × Nat), l.foldl (fun acc q => match acc with | Got.bytes _ => Got.absent q.1 | g => g) (Got.absent a) = .absent a :=
    fun l => by induction l with
      | nil => rfl
      | cons _ _ ih => exact ih
  have k : s.readVa va n = .absent va := by
    unfold State.readVa
    rw [show n / 65536 + 2 = (n / 65536 + 1) + 1 from rfl, granules, if_neg (by omega), List.foldl_cons]
    simp only [State.readPiece, locate_empty h]
    exact g _ _
  unfold State.savedBytes State.peek
  simp only [settle_empty h, k]
/-- Context 0 suspended, its kernel pre-empted, every cluster free, and nothing of its save area to be read. -/
def suspended : State := { base with mem := [], kernels := [(0, { base.kernel 0 with st := .preempted })], ctxs := [(0, inState (base.ctx 0) 4)], clusters := [] }
theorem witness_ContextsAreSwapped_resume : AtRest suspended ∧ suspended.schedule = some (.resume 0) ∧ suspended.pick.isSome = true ∧
    suspended.ofCtx 0 .preempted = [(0, { base.kernel 0 with st := .preempted })] ∧ (∀ c, (suspended.ctx c).peers = none) ∧ (∀ c, (suspended.coreCtx c).held = []) ∧
    0 ∈ suspended.freeClusters ∧ 1 ≤ min (base.kernel 0).lclusters suspended.usable.length ∧ AtHome suspended ∧ TablesAsSaved suspended 0 { base.kernel 0 with st := .preempted } := by
  have u (k : Kernel) (va n : Nat) (h : 0 < n) : AsSaved suspended k va n := .inl (savedBytes_empty rfl va n h)
  refine ⟨atRest_of (by decide +kernel), by decide +kernel, by decide +kernel, by decide +kernel, fun c => ?_, fun _ => rfl, by decide +kernel, by decide +kernel,
    ⟨fun _ => rfl, by decide +kernel, fun _ => rfl, by decide +kernel⟩, fun _ _ => ⟨u _ _ _ (by decide), u _ _ _ (by decide), fun _ => u _ _ _ (by decide)⟩, u _ _ _ (by decide), u _ _ _ (by decide +kernel)⟩
  by_cases h : c = 0
  · subst h; rfl
  · simp [State.ctx, suspended, AMap.get, Ne.symm h]
/-- A thread that SPAWN made waits for slot 1; nothing of its record can be read. -/
def spawnWaits : State := ({ base with mem := [] } : State).setThread 1 { base.thread 0 with tid := 1, slot := 1, life := .waiting }
theorem witness_ThreadsStartAndMove_spawned : let b := spawnWaits.readSpawned 0 1
    spawnWaits.placeable 0 1 = some 1 ∧ NothingHeld b 0 ∧ (b.thread 1).cc = 0 := by
  have q (va : Nat) : spawnWaits.savedBytes va 4160 = (none, spawnWaits) := by
    have t : (spawnWaits.savedBytes va 4160).2 = spawnWaits := by
      unfold State.savedBytes State.peek
      simp only [settle_empty (s := spawnWaits) rfl]
      split <;> rename_i h <;> exact (congrArg Prod.snd h).symm
    exact Prod.ext (savedBytes_empty rfl va 4160 (by decide)) t
  have e : spawnWaits.readSpawned 0 1 = spawnWaits := by
    unfold State.readSpawned
    simp only [q]
    cases (spawnWaits.spawned 0).findIdx? (fun t => t.tid == (spawnWaits.thread 1).tid) <;> split <;> rfl
  rw [e]
  refine ⟨by decide +kernel, ⟨rfl, fun c => ?_⟩, by decide +kernel⟩
  by_cases h : c = 0
  · subst h; rfl
  · simp [State.ctx, spawnWaits, base, State.setThread, State.withFetchWord, AMap.get, Ne.symm h]
/-- A kernel of 16 logical clusters on one granted cluster, its turn over. -/
theorem witness_ContextsAreSwapped_turn : let s := (kernelIn { st := .running, clusters := [0], record := 0x1008 <<< 128 } : State)
    let s := { s with time := 0x20_0000 }
    AtRest s ∧ s.turnOver 0 0 = true ∧ (s.kernel 0).ctx = 0 := ⟨atRest_of (by decide +kernel), by decide +kernel, by decide +kernel⟩
theorem witness_FatalFaultsHold : let s := base.setCtx 0 { base.ctx 0 with fatal := some { tid := 0, cause := 2, inner := 0, fva := 0, pc := 0 } }
    AtRest s ∧ (∀ i < 8, (s.ctx 0).peerv i = false) ∧ (∃ f, (s.ctx 0).fatal = some f ∧ f.due ≤ s.cycle) ∧ (s.ctx 0).state = 3 :=
  ⟨atRest_of (by decide +kernel), by decide +kernel, ⟨_, rfl, by decide +kernel⟩, by decide +kernel⟩
theorem witness_FatalFaultsHold_rest : let s := base.setCtx 0 { inState (base.ctx 0) 5 with stop := true }
    AtRest s ∧ (s.ctx 0).fatal = none ∧ (s.ctx 0).stop = true ∧ (s.ctx 0).state = 5 ∧ s.quiet 0 = true := ⟨atRest_of (by decide +kernel), by decide +kernel, by decide +kernel, by decide +kernel, by decide +kernel⟩

/-! ## Hypotheses: the host mailbox -/

theorem base_heard : Heard base := ⟨.inl rfl, by decide +kernel⟩
theorem witness_MailboxProtocol : (offState.power = .off ∧ ({ base with power := .recovery } : State).power = .recovery) ∧ ({ base with version := 0 } : State).version = 0 ∧ base.power = .active ∧ base.heldEvents = [] ∧
    (2 : Word).getLsbD 1 = true ∧ (1 : Word).getLsbD 1 = false ∧ Heard base ∧ commandTag (.status 5) = some (5, true) ∧ commandTag (.accept 5) = some (5, false) :=
  ⟨by decide +kernel, rfl, by decide +kernel, by decide +kernel, by decide +kernel, by decide +kernel, base_heard, rfl, rfl⟩
theorem witness_MailboxProtocol_held : let s : State := { base with heldEvents := [7] }
    s.power = .active ∧ s.heldEvents = [7] ∧ ¬ Full s := by unfold Full; decide +kernel
/-- base with context 1 in a state. -/
def ctx1 (st : Nat) : State := base.setCtx 1 { record := BitVec.ofNat 1024 (0x4_0000 + st) }
theorem ctx1_heard (st : Nat) : Heard (ctx1 st) := ⟨.inl rfl, show base.version ≠ 0 by decide +kernel⟩
theorem witness_ContextsComeAndGo : Heard (ctx1 0) ∧ ((ctx1 0).ctx 1).state = 0 ∧ ((ctx1 2).ctx 1).state = 2 ∧ ((ctx1 1).ctx 1).state = 1 ∧ (ctx1 1).timeSet = false ∧ ((ctx1 3).ctx 1).state = 3 :=
  ⟨ctx1_heard 0, by decide +kernel, by decide +kernel, by decide +kernel, by decide +kernel, by decide +kernel⟩
theorem witness_ContextsComeAndGo_load : let s := { ctx1 1 with timeSet := true }
    Heard s ∧ (s.ctx 1).state = 1 ∧ ∀ f, ¬ fieldBad (s.ctx 1) f := by
  refine ⟨⟨.inl rfl, show base.version ≠ 0 by decide +kernel⟩, by decide +kernel, fun f h => ?_⟩
  unfold fieldBad at h
  split at h <;> first | exact h | exact absurd h (by decide +kernel)
theorem witness_ContextsComeAndGo_field : let c : Ctx := { record := BitVec.ofNat 1024 1 }
    fieldBad c 16 ∧ ∀ g < 16, ¬ fieldBad c g := by
  refine ⟨by show ctxBits _ 16 5 = 0; decide +kernel, fun g hg h => ?_⟩
  unfold fieldBad at h
  split at h <;> first | exact h | omega
theorem witness_ContextsComeAndGo_teardown : let s := base.setCtx 1 { record := 0x4_0006, teardown := true }
    (s.ctx 1).state = 6 ∧ (s.ctx 1).teardown = true ∧ ∀ o ∈ s.ops, s.threads.has o.thr = true → (s.thread o.thr).ctx ≠ 1 := by decide +kernel
theorem witness_QueuesChangeState : ((queue 1 []).lqueue 0 0).st = 1 ∧ ((queue 4 []).lqueue 0 0).st = 4 ∧ ((queue 4 []).ctx 0).state = 3 ∧ Heard (queue 4 []) ∧ (0 : Nat) ≤ ((queue 4 []).ctx 0).nlq ∧ ((ctx1 0).ctx 1).state = 0 :=
  ⟨by decide +kernel, by decide +kernel, by decide +kernel, ⟨.inl rfl, show base.version ≠ 0 by decide +kernel⟩, Nat.zero_le _, by decide +kernel⟩
theorem witness_QueuesChangeState_closed : let s := { queue 3 [] with kernels := [(0, ({ st := .retired } : Kernel))] }
    (s.lqueue 0 0).st = 3 ∧ (s.lqueue 0 0).frozen = false ∧ (s.lqueue 0 0).recs = [] ∧ ∀ e ∈ s.kernels, e.2.ctx = 0 → e.2.q = 0 → e.2.st = .retired ∨ e.2.st = .faulted := by decide +kernel
theorem witness_DeviceCommands : HeardAlways base ∧ Heard base ∧ base.xmssIndex < 2 ^ 20 ∧ (∃ e ∈ base.ctxs, e.2.state = 3) ∧ (∀ e ∈ State.reset.ctxs, e.2.state ≠ 3) ∧ ({ base with power := .asleep } : State).power = .asleep :=
  ⟨⟨.inl rfl, by decide +kernel⟩, base_heard, by decide +kernel, ⟨_, List.mem_cons_self .., by decide +kernel⟩, by decide +kernel, rfl⟩
theorem witness_DeviceCommands_key : let s := ({ base with mem := [] } : State).setCtx 1 { record := BitVec.ofNat 1024 (0x4_0002 + 5 * 2 ^ 448 + 2 * 2 ^ 458) }
    (1 : Nat) < 1024 ∧ (s.ctx 1).state = 2 ∧ (s.ctx 1).keybase = 5 ∧ (s.ctx 1).keycnt = 2 ∧ s.leaves.all (fun p => !(pteP p.2 && pteKey p.2 == 5)) = true := by decide +kernel

/-! ## Hypotheses: links, time, starting, power -/

/-- base with link 2 as given. -/
def linked (k : Link) : State := base.setLink 2 k
theorem witness_LinkStates : (2 : Nat) < 18 ∧ Acknowledged ((linked {}).link 2) ∧ ((linked {}).link 2).st = 0 ∧ ((linked { st := 5 }).link 2).st = 5 ∧ ((linked { st := 1 }).link 2).st = 1 ∧
    ((linked { st := 1 }).link 2).attempts < 2 ∧ 2 ≤ ((linked { st := 1, attempts := 2 }).link 2).attempts ∧ ((linked { st := 2, lanes := 8 }).link 2).st = 2 ∧ (2 : Word).getLsbD 1 = true ∧
    (17#5).toNat < 18 ∧ Carries ((linked { st := 3, lanes := 8 }).link 2) := by
  unfold Acknowledged Carries; decide +kernel
theorem witness_LinkStates_commands : (∀ st, Heard (linked { st := st })) ∧ ((linked { st := 0 }).link 2).st = 0 ∧ ((linked { st := 5 }).link 2).st = 5 ∧ ((linked { st := 3 }).link 2).st ≠ 5 ∧ (18 : Nat) ≤ 31 :=
  ⟨fun _ => ⟨.inl rfl, show base.version ≠ 0 by decide +kernel⟩, by decide +kernel, by decide +kernel, by decide +kernel, by decide⟩
/-- A control flit of 256 bytes with its CRC. -/
def controlFlit (seq ack : Nat) : List Byte :=
  let h := [4, 0] ++ leBytes 2 seq ++ leBytes 2 ack ++ List.replicate 242 0
  h ++ leBytes 8 (crc64 h).toNat
def sentFlit (n : Nat) : Replay := { seq := BitVec.ofNat 16 n, flit := [], sentAt := 0, resent := 0 }
def carrying : State := { linked { st := 3, lanes := 8, replay := [sentFlit 4, sentFlit 5, sentFlit 6] } with time := 3000 }
set_option maxRecDepth 100000 in
theorem witness_FlitsArrive : Carries (carrying.link 2) ∧ flitOk (controlFlit 0 5) = true ∧ flitOk (controlFlit 0 5).tail = false ∧ flitNum (controlFlit 0 5) 2 2 = ((carrying.link 2).lastRx.toNat + 1) % 2 ^ 16 ∧
    flitNum (controlFlit 0 5) 0 1 = 4 ∧ flitNum (controlFlit 1 5) 2 2 ≠ ((carrying.link 2).lastRx.toNat + 1) % 2 ^ 16 ∧ (carrying.link 2).waiting = [] ∧
    (carrying.link 2).replay = [sentFlit 4] ++ sentFlit 5 :: [sentFlit 6] ∧ (sentFlit 5).seq.toNat = flitNum (controlFlit 0 5) 4 2 ∧ (∀ x ∈ [sentFlit 4], x.seq.toNat ≠ flitNum (controlFlit 0 5) 4 2) ∧
    (∃ r ∈ (carrying.link 2).replay, r.sentAt + 2000 ≤ carrying.tick) := by
  unfold Carries; decide +kernel
set_option maxRecDepth 100000 in
theorem witness_FlitsArrive_first : (∀ r ∈ (linked { st := 4 } |>.link 2).replay, r.seq.toNat ≠ flitNum (controlFlit 0 5) 4 2) ∧ flitOk (controlFlit 1 5) = true := by decide +kernel
theorem witness_FlitsArrive_negotiating : ((linked { st := 2, lanes := 8, replay := [sentFlit 0] }).link 2).st = 2 ∧ (∀ r ∈ ((linked { st := 2, lanes := 8, replay := [sentFlit 0] }).link 2).replay, r.resent < 15) := by decide +kernel
theorem witness_FlitsArrive_sixteenth : let s := linked { st := 3, lanes := 8, replay := [{ sentFlit 4 with resent := 15 }] }
    Carries (s.link 2) ∧ ∃ r ∈ (s.link 2).replay, 15 ≤ r.resent := by unfold Carries; decide +kernel
/-- A device that follows a SYNC link. -/
def following : State := { linked { st := 3, sync := true } with time := 0x20_0000 }
theorem witness_TimeIsLocked : (∃ e ∈ following.links, e.1 = 2 ∧ e.2.sync = true ∧ Carries e.2) ∧ ¬ OwnSource following ∧ OwnSource base ∧ HasPath following := by
  unfold Carries OwnSource HasPath Carries; decide +kernel
theorem witness_TimeIsLocked_lock : let s := { following with locked := false, within := some 0 }
    s.locked = false ∧ ¬ OwnSource s ∧ s.within = some 0 ∧ 0 + 2 ^ 20 ≤ s.tick ∧ s.timeSet = false ∧ ({ s with timeSet := true } : State).timeSet = true := by
  unfold OwnSource; decide +kernel
theorem witness_TimeIsLocked_loss : let s := { linked { st := 5, sync := true } with locked := true }
    s.locked = true ∧ ¬ OwnSource s ∧ ¬ HasPath s := by
  unfold OwnSource HasPath Carries; decide +kernel
theorem witness_TimeIsLocked_slew : let s (o : Int) : State := { following with timeSet := true, slewAt := 0, mhz := 1000, offset := o }
    (s 3).timeSet = true ∧ (s 3).slewAt ≤ (s 3).tick ∧ ¬ OwnSource (s 3) ∧ HasPath (s 3) ∧ 0 < (s 3).offset ∧ (s (-3)).offset < 0 ∧ 0 < ((s (-3)).frac + 1000) / (s (-3)).mhz ∧ ¬ (base.timeSet = true) := by
  unfold OwnSource HasPath Carries; decide +kernel
theorem witness_TimeIsLocked_far : let s := { following with timeSet := true }
    ¬((if s.timeSet then 0 else s.offset) - 8 ≤ (9 : Int) ∧ (9 : Int) ≤ (if s.timeSet then 0 else s.offset) + 8) ∧ (({ linked { st := 5, sync := true } with pathLost := true } : State).pathLost = true) := by decide +kernel
/-- An image, and a key whose root is what the image's signature gives. -/
def bootImage : List Byte := [1, 2, 3]
def vendorKey : List Byte := List.replicate 4 0 ++ bytesOf 32 (Config.xmssRoot [] [] bootImage).toNat
def pass : BootResult := { ok := true, altOk := true, code := 0, key := vendorKey }
/-- Seven results, all of success but that of step n. -/
def resultsBut (n : Nat) (r : BootResult) : List BootResult := (List.range 7).map (fun i => if i + 1 = n then r else pass)
/-- A device never started, with that key's digest fused and an entry of the last start in its boot record. -/
def fused (b : AMap BootEntry) : State := { State.reset with rootDigest := Config.shake256 vendorKey, bootRec := b }
def failedEntry : BootEntry := { out := 2, fails := 1, code := 9, start := 0 }
theorem fused_allBut (b : AMap BootEntry) (n : Nat) (r : BootResult) (h : n ≠ 2) : allBut (fused b) (resultsBut n r) bootImage 3 n := by
  refine ⟨by simp [resultsBut], fun i x hx hi => ?_, fun x hx => ?_⟩
  · simp only [resultsBut, List.getElem?_map, Option.map_eq_some_iff] at hx
    obtain ⟨a, ha, rfl⟩ := hx
    rw [List.getElem?_range] at ha
    · cases ha; rw [if_neg hi]; rfl
    · by_contra k; rw [List.getElem?_eq_none (by simpa using k)] at ha; cases ha
  · have : x = pass := by simpa [resultsBut, h, eq_comm] using hx
    subst this; exact ⟨rfl, rfl, Nat.zero_le _⟩
theorem witness_DeviceStarts : let s := fused []
    allBut s (resultsBut 0 pass) bootImage 3 0 ∧ (∀ n < 8, 1 ≤ n → ¬ FailedLast s n) ∧ OwnSource s ∧ ([5] : List Nat) ≠ [] ∧ ∀ c, (s.cluster c).fused = false :=
  ⟨fused_allBut _ _ _ (by decide), by unfold FailedLast; decide +kernel, by unfold OwnSource; decide +kernel, by decide, fun _ => rfl⟩
theorem witness_DeviceStarts_alternatives : let s (n : Nat) : State := fused [(n, failedEntry)]
    allBut (s 6) (resultsBut 6 pass) bootImage 3 6 ∧ FailedLast (s 6) 6 ∧ (∀ n < 8, 1 ≤ n → n ≠ 6 → ¬ FailedLast (s 6) n) ∧ FailedLast (s 1) 1 ∧ FailedLast (s 4) 4 ∧ FailedLast (s 5) 5 :=
  ⟨fused_allBut _ _ _ (by decide), ⟨by decide +kernel, rfl⟩, by unfold FailedLast; decide +kernel, ⟨by decide +kernel, rfl⟩, ⟨by decide +kernel, rfl⟩, by decide +kernel, rfl⟩
/-- Steps 3, 4 and 5 fail; step 1 does; and step 2, by its signature or by an image older than the counter. -/
theorem witness_DeviceStarts_failing : let bad : BootResult := { pass with ok := false, code := 7, units := [3] }
    (∀ n, n = 3 ∨ n = 4 ∨ n = 5 → allBut (fused []) (resultsBut n bad) bootImage 3 n ∧ (resultsBut n bad)[n - 1]? = some bad) ∧ bad.ok = false ∧
      (resultsBut 1 bad = bad :: List.replicate 6 pass) ∧ (resultsBut 2 bad = pass :: bad :: List.replicate 5 pass) ∧ pass.ok = true ∧
      3 < ({ fused [] with rollback := 4 } : State).rollback.toNat ∧ ¬ FailedLast ({ fused [] with rollback := 4 } : State) 2 :=
  ⟨fun n h => ⟨fused_allBut _ _ _ (by omega), by rcases h with rfl | rfl | rfl <;> rfl⟩, rfl, rfl, rfl, rfl, by decide, fun h => absurd h.1 (by decide +kernel)⟩
/-- base with a word of memory in error. -/
def inError (n : Nat) : State := { base with ecc := [(2, n)] }
theorem witness_ErrorsAndPower : base.power = .active ∧ (base.ecc.filter (fun e => decide (0 ≤ e.1 * 8) && decide (e.1 * 8 < 0 + 64))) = [] ∧
    ((inError 1).ecc.filter (fun e => decide (0 ≤ e.1 * 8) && decide (e.1 * 8 < 0 + 64))) = [(2, 1)] ∧ ((inError 2).ecc.filter (fun e => decide (0 ≤ e.1 * 8) && decide (e.1 * 8 < 0 + 64))) = [(2, 2)] ∧
    Full { base with writeIdx := 256, returned := 0 } ∧ ¬ Full base := by
  unfold Full; decide +kernel
theorem witness_ErrorsAndPower_clock : let s := { base with capWatts := 1000, mhz := 1000, stepAt := 0 }
    s.stepAt ≤ s.tick ∧ s.capWatts < 1200 ∧ 750 ≤ s.mhz ∧ ¬(s.hot = true ∨ s.capWatts < 900) ∧ 100 * 900 < 95 * s.capWatts ∧ s.mhz < 1400 ∧
    ({ s with mhz := 700 } : State).mhz < 750 ∧ s.hot = false ∧ s.capReported = false ∧ ({ s with hot := true } : State).hot = true ∧ ¬(¬(s.hot = true ∨ s.capWatts < 970) ∧ 100 * 970 < 95 * s.capWatts) ∧
    offState.power = .off := by decide +kernel
theorem witness_ErrorsAndPower_sleep : let s := { base with time := 0x20_0000, clusters := (1, { holder := some 0, asleep := true }) :: base.clusters }
    (s.cluster 2).asleep = false ∧ (s.cluster 2).holder = none ∧ (s.cluster 2).excluded = false ∧ (s.cluster 2).fused = false ∧ (s.cluster 2).freeSince + 2 ^ 20 ≤ s.tick ∧
      (s.cluster 1).asleep = true ∧ (s.cluster 1).holder.isSome := by decide +kernel

/-! ## Hypotheses: the step, the encoding -/

/-- base about to issue these 48 bytes. -/
def issuing (bs : List Byte) : State := { base with mem := base.mem.write fetchVa bs }
def runsV (k : Nat) (u : Bundle) (p : Pops) (open_ : Bool) (a : State) : Bool :=
  (a.thread k).life == .resident && a.sbindHalf k u == none && match exec u.v a with
  | .next v => v.issue == .done && !qsumGoesOn u.v (v.thread k) && (match v.pushStreams k u.v (bundleWrites u open_) p with | .ok _ => true | .error _ => false)
  | _ => false
def special (i : Instr) : Bool := match i with | .swr _ _ _ => true | _ => false
def writesLast (_ : State) (u : Bundle) (p : Pops) (b : State) : Bool :=
  special u.a && runsV 0 u p true b && match exec u.a b with | .next a => a.issue == .done | _ => false
/-- How a bundle goes on in the state before it. -/
def goes (s : State) (guard : Bool) (how : State → Bundle → Pops → State → Bool) : Bool :=
  s.input.isEmpty && decide (s.power = .active) && s.event == none && s.nextThread == some 0 && (s.thread 0).half == none && match (Claims.issuing s 0).fetch 0 with
  | (.bytes bs, s1) => (match decode bs with
    | .ok u => (match s1.popStreams 0 u.v with
      | .ok p => let b := p.s.begin_ 0 u.len
        s1.illegalNow 0 u == none && (match s1.before 0 u (s1.openNow 0 u) with | .go => b.guardHolds u.guard == guard && how s1 u p b | _ => false)
      | _ => false)
    | .error _ => false)
  | _ => false
def completes (_ : State) (u : Bundle) (p : Pops) (b : State) : Bool := !special u.a && match exec u.a b with | .next a => a.issue == .done && runsV 0 u p true a | _ => false
def ends (_ : State) (u : Bundle) (_ : Pops) (b : State) : Bool := match exec u.a b with | .next a => a.issue == .done && (a.thread 0).life != .resident | _ => false
def parks (_ : State) (u : Bundle) (_ : Pops) (b : State) : Bool :=
  !special u.a && match exec u.a b with | .next a => a.issue == .parked && (!parksWithEffect u.a ((a.thread 0).wait.getD .poll) || b.vTrap 0 u == none) | _ => false
def skips (_ : State) (u : Bundle) (p : Pops) (b : State) : Bool := runsV 0 u p false b
theorem witness_AStepRunsTheDecodedBundle : goes (issuing (encode (slotAOnly (.addi 3 4 9)))) true completes = true := by decide +kernel
theorem witness_AStepRunsTheDecodedBundle_ends : goes (issuing (encode (slotAOnly .exit))) true ends = true := by decide +kernel
theorem witness_AStepRunsTheDecodedBundle_parks : goes (issuing (encode (slotAOnly (.recv 3 4)))) true parks = true := by decide +kernel
theorem witness_AStepRunsTheDecodedBundle_skips : goes (issuing (encode { slotAOnly (.addi 3 4 9) with guard := { neg := false, p := 1 } })) false skips = true := by decide +kernel
theorem witness_AStepRunsTheDecodedBundle_illegal : let s := issuing (bytesOf 16 0x00FF_0000_0000_0000_0000_0000_0000_0000)
    Turn s 0 ∧ (match (Claims.issuing s 0).fetch 0 with
      | (.bytes bs, s1) => (match decode bs with | .error e => (match exec (.illegalBundle e.op e.slotV) s1 with | .next _ => true | _ => false) | .ok _ => false)
      | _ => false) = true := by
  unfold Turn; decide +kernel
theorem witness_AStepRunsTheDecodedBundle_swr : goes (issuing (encode (slotAOnly (.swr 0x015 0 4)))) true writesLast = true := by decide +kernel
theorem witness_AStepRunsTheDecodedBundle_illegalNow : let s := issuing (encode (slotAOnly (.swr 0x00E 0 1)))
    Turn s 0 ∧ (match (Claims.issuing s 0).fetch 0 with
      | (.bytes bs, s1) => (match decode bs with | .ok u => s1.illegalNow 0 u == some (.swr 0x00E 0 1) | .error _ => false)
      | _ => false) = true := by
  unfold Turn; decide +kernel
def leavesHalf (_ : State) (u : Bundle) (_ : Pops) (b : State) : Bool :=
  !special u.a && match exec u.a b with | .next a => a.issue == .done && (a.thread 0).life == .resident && (a.sbindHalf 0 u).isSome | _ => false
/-- An SBIND whose descriptor the LD of its bundle is reading, and the turn in which it is left. -/
theorem witness_AStepRunsTheDecodedBundle_sbindHalf :
    goes { withX base [(4, 0x10_0000)] with mem := base.mem.write fetchVa (encode { slotAOnly (.ld .b64 .ord .core 3 4 0 0) with v := .sbind 7 4 }) } true leavesHalf = true := by decide +kernel
theorem witness_AStepRunsTheDecodedBundle_half : let h : Half := { latch := { regs := Regs.zero, h := Vector.replicate 32 0, w := Vector.replicate 32 0 }, npc := 0x10_0010, vn := 7, x := 4, sc := 0 }
    let s := State.with_ base (fun t => { t with half := some h })
    Turn s 0 ∧ (s.thread 0).half = some h := by unfold Turn; decide +kernel
theorem witness_AStepRunsTheDecodedBundle_last : let s := withOps { base with threads := [(0, { base.me with wait := some .poll, next := 10 ^ 6 })], cycle := 33 } [{ plainOp (.steal 0) with due := 33 }]
    s.input = [] ∧ s.power = .active ∧ s.event = none ∧ s.nextThread = none ∧ s.lastEvent.isSome = true := by decide +kernel
theorem witness_AStepRunsTheDecodedBundle_others : offState.input = [] ∧ offState.power = .off ∧ (let s : State := { base with threads := [] }; s.input = [] ∧ s.power = .active ∧ s.event = none ∧ s.nextThread = none) ∧
    (State.with_ base (fun t => { t with wait := some (.sleep 900) })).event.isSome = true ∧ (base.thread 0).life = .resident := by decide +kernel
theorem witness_DecodingUndoesEncoding : (slotAOnly (.li 3 (0x0123_4567_89AB_CDEF#64))).wf = true ∧ (slotVOnly (.vfma .f32 .rne { q := 2, zero := true } 4 5 6 7)).wf = true ∧ (slotAOnly (.add 63 62 61)).wf = true := by decide +kernel
theorem witness_MemoriesStayCanonical : Canonical base ∧ (match step base with | .next _ => true | _ => false) = true := by
  unfold Canonical State.MemOk; decide +kernel
theorem witness_LeaResult_field : let f : AF := { op := 0x19, fn := 7, d := 1, s1 := 2, s2 := 3, imm := 0, grd := 0 }
    f.op = 0x19 ∧ decodeAF f = .ok (.lea 1 2 3 7) ∧ f.fn.toNat < 8 ∧ f.grd ≠ 8 ∧ (decodeAF { f with fn := 8 }).toOption = none := by decide
theorem witness_VrandResult_field : let f : VF := { op := 0x81, ty := 4, mask := 1, mz := 1, fn := 0, vd := 9, vs1 := 0, vs2 := 0, vs3 := 0, rm := 0, imm := 0 }
    decodeVF f = .ok (.vrand true { q := 1, zero := true } 9) := by decide

/-! ## Long forms and reserved words (R28, R32, R88) -/

theorem test_words_li : (match decode (leBytes 8 0x9123_4567_89AB_CDEF ++ leBytes 8 0x0428_0140_0000_0000) with
    | .ok u => decide (u.a = .li 5 0x9123_4567_89AB_CDEF) && decide (u.v = .vnop) && decide (u.len = 16) | .error _ => false) = true := by decide +kernel
/-- The word of an ENQI stands in its three bundles: bits 255-240, then 119-0, then 239-120. -/
theorem test_words_enqi : (match decode (leBytes 16 (0x047A_00C4_1480_0000 * 2 ^ 64 + 0x2200) ++ leBytes 16 (2 ^ 123 + 0x00AA_BBCC_DDEE_FF01_2345_6789) ++ leBytes 16 (2 ^ 123 + 0x5A)) with
    | .ok u => decide (u.a = .enqi .cla0 3 4 5 { q0 := 0xDDEEFF0123456789, q1 := 0x5A00000000AABBCC, q2 := 0, q3 := 0x2200_0000_0000_0000 }) && decide (u.len = 48)
    | .error _ => false) = true := by decide +kernel
/-- A zero bundle is a NOP with VNOP; OP 0xFF of either slot and a lone data bundle are refused. -/
theorem test_words_reserved : (decode (List.replicate 16 0)).toOption.isSome = true ∧ (decode (leBytes 16 (0x00FF_0000_0000_0000 * 2 ^ 64))).toOption = none ∧
    (decode (leBytes 16 (0x0FF0_0000_0000_0000))).toOption = none ∧ (decode (leBytes 16 (2 ^ 123))).toOption = none ∧ (decode (List.replicate 15 0)).toOption = none := by decide
/-- SC is bits 127-124 of the bundle, and GRD names the guard. -/
theorem test_words_guard : (match decode (leBytes 8 0 ++ leBytes 8 0xF001_B042_0C00_0000) with
    | .ok u => decide (u.sc = 15) && decide (u.guard = { neg := true, p := 3 }) && decide (u.a = .add 1 2 3) | .error _ => false) = true := by decide

/-! ## Ill-formed terms, one for each check -/

theorem test_wf_bits : (Instr.bfx 1 2 60 4).wf = false ∧ (Instr.bfi 1 2 63 1).wf = false ∧ (Instr.sext 1 2 3).wf = false ∧ (Instr.zext 1 2 3).wf = false ∧ (Instr.bp 0 true 1).wf = false := by decide
theorem test_wf_special : (Instr.srd 1 0x20 0).wf = false ∧ (Instr.srd 1 0x0C 1).wf = false ∧ (Instr.swr 0x0C 0 1).wf = false ∧ (Instr.swr 0 0 1).wf = false ∧ (Instr.swr 0x1D 0 1).wf = false := by decide
theorem test_wf_engines : (Instr.lease .cpy false 1).wf = false ∧ (Instr.lrel .cpy).wf = false ∧ (Instr.tilest false false 1 2 3 0).wf = false ∧ (Instr.tileld false 1 2 3 0).wf = false ∧
    (Instr.wmap true 1 2 3 0 0).wf = false ∧ (Instr.wmap true 1 2 3 0 65).wf = false := by decide
theorem test_wf_vector : (Instr.vins .f32 1 2 16).wf = false ∧ (Instr.vext .f16 1 2 32).wf = false ∧ (Instr.vcvt .e8m0 .f32 .rne false ⟨0, false⟩ 1 2).wf = false ∧ (Instr.vcvt .f32 .e8m0 .rne false ⟨0, false⟩ 1 2).wf = false ∧
    (Instr.vqnt .f32 .rne false 1 2 3).wf = false ∧ (Instr.vdqnt .f16 .e4m3 true ⟨0, false⟩ 1 2).wf = false ∧ (Instr.vdqnt .f32 .e8m0 false ⟨0, false⟩ 1 2).wf = false ∧ (Instr.vscale .n8 1 2 3).wf = false := by decide
theorem test_wf_move : (Instr.vpack .f16 .f32 2 ⟨0, false⟩ 1 2).wf = false ∧ (Instr.vpack .e8m0 .n8 0 ⟨0, false⟩ 1 2).wf = false ∧ (Instr.vunpk .f32 .i16 2 ⟨0, false⟩ 1 2).wf = false ∧
    (Instr.vred .e4m3 .add ⟨0, false⟩ 1 2).wf = false ∧ (Instr.vscan .mk8 .add ⟨0, false⟩ 1 2).wf = false ∧ (Instr.vargmx .e8m0 ⟨0, false⟩ 1 2).wf = false := by decide
/-- R89: MZ is an unused field where no vector register is written under a mask. -/
theorem test_wf_unused : (Instr.vred .f32 .add ⟨1, true⟩ 1 2).wf = false ∧ (Instr.vargmx .f32 ⟨1, true⟩ 1 2).wf = false ∧ (Instr.vst .n8 .ord ⟨1, true⟩ 1 2 0 0).wf = false ∧
    (Instr.vscat .n8 ⟨1, true⟩ 1 2 3 0).wf = false ∧ (Instr.vred .f32 .add ⟨1, false⟩ 1 2).wf = true := by decide
theorem test_wf_pairs : (Instr.vsortk 31 2 3).wf = false ∧ (Instr.vmergek 2 3 4 63).wf = false ∧ (Instr.sisect 2 2).wf = false ∧ (Instr.vst .n8 .gth ⟨0, false⟩ 1 2 0 0).wf = false ∧
    (Instr.vgath .n8 .nt ⟨0, false⟩ 1 2 3 0).wf = false := by decide

/-! ## Small steps, their results from the spec or by hand -/

/-- R104's own example: ADDI, then LIH. -/
theorem test_addi_lih : gives (.addi 5 0 0x123_4567) base 5 0x123_4567 ∧ gives (.lih 5 5 0x9) (withX base [(5, 0x123_4567)]) 5 0x9123_4567 := by decide +kernel
/-- A signed 36-bit immediate, and a register that discards writes. -/
theorem test_addi_sign : gives (.addi 5 6 (-3)) (withX base [(6, 1)]) 5 (-2) ∧ gives (.addi 0 6 9) base 0 0 := by decide +kernel
/-- R107's example. -/
theorem test_mfold : gives (.mfold 9 9 5) (withX base [(9, 3), (5, 0x1_0000)]) 9 0x0061 ∧ gives (.mfold 9 9 6) (withX base [(9, 0x0061), (6, 0x2_0000)]) 9 0x0C22 ∧
    gives (.mfold 9 9 7) (withX base [(9, 0x0C22), (7, 0x0040)]) 9 0x8401 := by decide +kernel
/-- The hash of R115 for the threads of the meet program. -/
theorem test_mfold_program : gives (.mfold 9 9 7) (withX base [(9, 0x0554), (7, 0x0016)]) 9 0xAA96 ∧ gives (.mfold 9 9 5) (withX base [(9, 1), (5, 0x000A)]) 9 0x002A := by decide +kernel
theorem test_mulh : gives (.mulh 3 4 5) (withX base [(4, -1), (5, 2)]) 3 (-1) ∧ gives (.mulhu 3 4 5) (withX base [(4, -1), (5, 2)]) 3 1 := by decide +kernel
/-- Shifts take their counts modulo 64. -/
theorem test_shifts : gives (.sra 3 4 5) (withX base [(4, 0x8000_0000_0000_0000), (5, 127)]) 3 (-1) ∧ gives (.rol 3 4 5) (withX base [(4, 0x8000_0000_0000_0001), (5, 65)]) 3 3 := by decide +kernel
theorem test_word_forms : gives (.addw 3 4 5) (withX base [(4, 0x7FFF_FFFF), (5, 1)]) 3 0xFFFF_FFFF_8000_0000 ∧ gives (.mulw 3 4 5) (withX base [(4, 0x1_0000), (5, 0x1_0000)]) 3 0 := by decide +kernel
theorem test_minmax : gives (.min 3 4 5) (withX base [(4, -1), (5, 1)]) 3 (-1) ∧ gives (.minu 3 4 5) (withX base [(4, -1), (5, 1)]) 3 1 := by decide +kernel
theorem test_lea : gives (.lea 3 4 5 7) (withX base [(4, 1), (5, 2)]) 3 257 := by decide +kernel
theorem test_set : gives (.set .lt 3 4 5) (withX base [(4, -1), (5, 1)]) 3 1 ∧ gives (.set .ltu 3 4 5) (withX base [(4, -1), (5, 1)]) 3 0 := by decide +kernel
theorem test_clz_ctz : gives (.clz 3 4) base 3 64 ∧ gives (.ctz 3 4) (withX base [(4, 0x100)]) 3 8 := by decide +kernel
theorem test_bswap_brev : gives (.bswap 3 4) (withX base [(4, 0x0102_0304_0506_0708)]) 3 0x0807_0605_0403_0201 ∧ gives (.brev 3 4) (withX base [(4, 1)]) 3 0x8000_0000_0000_0000 := by decide +kernel
theorem test_bit_fields : gives (.bfx 3 4 8 7) (withX base [(4, 0xABCD)]) 3 0xAB ∧ gives (.bfi 3 4 8 7) (withX base [(3, 0xFFFF_FFFF), (4, 0x12)]) 3 0xFFFF_12FF := by decide +kernel
theorem test_extend : gives (.sext 3 4 0) (withX base [(4, 0x80)]) 3 (-128) ∧ gives (.zext 3 4 1) (withX base [(4, 0xF_8000)]) 3 0x8000 := by decide +kernel
/-- PLOG: bit 2 × p(S1) + p(S2) of its table. -/
theorem test_plog : after (.plog 3 0 1 4) base (fun t => t.rp 3) ∧ after (.plog 3 0 1 8) base (fun t => !t.rp 3) := by decide +kernel
/-- Branches count bundles: back one, and the next one where not taken. -/
theorem test_branch : let s := base.begin_ 0 16
    after (.b .eq 4 5 (-1)) s (fun t => decide (t.me.npc.toNat = fetchVa - 16)) ∧ after (.b .ne 4 5 (-1)) s (fun t => decide (t.me.npc.toNat = fetchVa + 16)) := by decide +kernel
theorem test_jal_jr : let s := base.begin_ 0 16
    gives (.jal 31 4) s 31 0x10_0010 ∧ after (.jr 1 2) ((withX base [(2, 0x10_0200)]).begin_ 0 16) (fun t => decide (t.me.npc = 0x10_0200) && decide (t.xOf 0 1 = 0x10_0010)) := by decide +kernel
theorem test_dbnz : let s := (withX base [(7, 1)]).begin_ 0 16
    after (.dbnz 7 (-9)) s (fun t => decide (t.me.npc.toNat = fetchVa + 16) && decide (t.xOf 0 7 = 0)) := by decide +kernel
/-- A user TRAP from 0x8000 up is upcall cause 1, its code in %finfo (R310). -/
theorem test_trap : after (.trap 0x8001) (base.begin_ 0 16) (fun t => decide (t.me.mode = .runtime) && decide (t.me.pc = 0x10_0100)) := by decide +kernel
theorem test_eret : after .eret ((State.with_ base (fun t => { t with mode := .runtime, upc := 0x10_0300 })).begin_ 0 16) (fun t => decide (t.me.mode = .user) && decide (t.me.npc = 0x10_0300)) := by decide +kernel
/-- R133 and R64 agree through one draw. -/
theorem test_rand : gives (.rand 3) base 3 (mix64 (base.me.rkey ^^^ mix64 0)) ∧ after (.rand 3) base (fun t => decide (t.me.rctr = 1)) := by decide +kernel

/-- A vector whose lanes are these numbers. -/
def lanes : List Nat → VReg
  | [] => 0
  | n :: t => BitVec.ofNat 512 n ||| (lanes t <<< 32)
def withV (s : State) (l : List (Fin 32 × VReg)) : State := State.with_ s (fun t => l.foldl (fun t e => { t with regs := { t.regs with v := t.regs.v.set e.1.val e.2 } }) t)
def lane (v : VReg) (n : Nat) : Nat := v.toNat / 2 ^ (32 * n) % 2 ^ 32
def every : VMask := { q := 0, zero := false }
/-- 1.0 + 2^-24 rounds to even, and up under rup; infinity minus infinity is the canonical NaN with nv. -/
theorem test_vadd : let s := withV base [(2, lanes [0x3F80_0000, 0x7F80_0000]), (3, lanes [0x3380_0000, 0xFF80_0000])]
    after (.vadd .f32 .rne every 1 2 3) s (fun t => decide (lane (t.vOf 0 1) 0 = 0x3F80_0000) && decide (lane (t.vOf 0 1) 1 = 0x7FC0_0000)) ∧
    after (.vadd .f32 .rup every 1 2 3) s (fun t => decide (lane (t.vOf 0 1) 0 = 0x3F80_0001)) := by decide +kernel
/-- 3 × 4 + (-12) is +0 under rne and -0 under rdn; f16 halves work apart. -/
theorem test_vfma : let s := withV base [(2, lanes [0x4040_0000]), (3, lanes [0x4080_0000]), (4, lanes [0xC140_0000])]
    after (.vfma .f32 .rne every 1 2 3 4) s (fun t => decide (lane (t.vOf 0 1) 0 = 0)) ∧ after (.vfma .f32 .rdn every 1 2 3 4) s (fun t => decide (lane (t.vOf 0 1) 0 = 0x8000_0000)) := by decide +kernel
/-- Only lanes of the mask are written; the others keep their value, or are zero. -/
theorem test_mask : let s := State.with_ (withV base [(1, lanes [7, 8, 9]), (2, lanes [1, 1, 1])]) (fun t => { t with regs := { t.regs with q := t.regs.q.set 3 5 } })
    after (.viadd .i32 { q := 3, zero := false } 1 1 2) s (fun t => decide (t.vOf 0 1 = lanes [8, 8, 10])) ∧ after (.viadd .i32 { q := 3, zero := true } 1 1 2) s (fun t => decide (t.vOf 0 1 = lanes [8, 0, 10])) := by decide +kernel
/-- The four signed and unsigned byte products, with the accumulator in the destination (R177). -/
theorem test_vdot4 : let s := withV base [(1, lanes [100]), (2, lanes [0x0000_00FF]), (3, lanes [0x0000_0002])]
    after (.vdot4 false every 1 2 3) s (fun t => decide (lane (t.vOf 0 1) 0 = 98)) ∧ after (.vdot4 true every 1 2 3) s (fun t => decide (lane (t.vOf 0 1) 0 = 610)) := by decide +kernel
/-- R48's table of MK8: 0x3F is 0.117187500, 0x53 is 0.296875, 0x04 is 2^-19, 0x80 is a NaN. -/
theorem test_mk8 : let s := withV base [(2, lanes [0x3F, 0x53, 0x04, 0x80])]
    after (.vcvt .f32 .mk8 .rne false every 1 2) s (fun t => decide (lane (t.vOf 0 1) 0 = 0x3DF0_0000) && decide (lane (t.vOf 0 1) 1 = 0x3E98_0000) && decide (lane (t.vOf 0 1) 2 = 0x3600_0000) && decide (lane (t.vOf 0 1) 3 = 0x7FC0_0000)) ∧
    after (.vcvt .mk8 .f32 .rne false every 1 2) (withV base [(2, lanes [0x3E99_999A])]) (fun t => decide (lane (t.vOf 0 1) 0 = 0x53)) := by decide +kernel
/-- R185's example: 448, -3 and 0.01 to e4m3 with scale 0x7F, nx set; and back with h = 0. -/
theorem test_vqnt : let s := withV base [(2, lanes [0x43E0_0000, 0xC040_0000, 0x3C23_D70A])]
    after (.vqnt .e4m3 .rne false 1 2 3) s (fun t => decide (t.vOf 0 1 = lanes [0x0005_C47E, 0, 0, 0, 0, 0, 0, 0, 0x7F])) := by decide +kernel
theorem test_vdqnt : let s := withV base [(2, lanes [0x0005_C47E, 0, 0, 0, 0, 0, 0, 0, 0x7F])]
    after (.vdqnt .f32 .e4m3 false every 1 2) s (fun t => decide (t.vOf 0 1 = lanes [0x43E0_0000, 0xC040_0000, 0x3C20_0000])) := by decide +kernel
theorem test_vshuf_qcnt : after (.qcnt 4 2) (State.with_ base (fun t => { t with regs := { t.regs with q := t.regs.q.set 2 0x8001 } })) (fun t => decide (t.xOf 0 4 = 2)) := by decide +kernel
/-- R71: 2.25 × 2^149 + 0.75 × 2^149 reads 3.0 in every mode; a NaN cell reads the canonical NaN. -/
theorem test_xrd : [Rm5.rne, .rtz, .rdn, .rup, .rna].all (fun r => opResult { id := 0, thr := 0, cc := 0, kind := .xrd r, n := 64 } false (3 * 2 ^ 149) == some (none, 0x4040_0000, 0)) = true := by decide +kernel
/-- R54 to R57: three times 0.25 by multiplicity 3, then 0.75. -/
theorem test_xacc : opResult { id := 0, thr := 0, cc := 0, kind := .xacc, n := 64, data := 0x3E80_0000, mul := 9 } false 0 == some (some (9 * 2 ^ 147), 0, 0) ∧
    opResult { id := 0, thr := 0, cc := 0, kind := .xacc, n := 64, data := 0x3F40_0000, mul := 1 } false (9 * 2 ^ 147) == some (some (3 * 2 ^ 149), 0, 0) := by decide +kernel

/-- R228's example: the model before training. -/
def drill : Clause := { configured := true, c := 32, f := 2, k := 2, t := 2, init := 0xFF, ti1 := 65536, ti0 := 0, tiz := 65536, tii := 65536, table := [(0, 0x40), (1, 0x41)] }
def cells (m : Clause) (c : Nat) : List (BitVec 8) := (List.range 4).map (m.cell c)
theorem test_catrn : (match drill.train true 1 0x100 with
    | some m => decide (cells m 0 = [0, 0xFF, 0xFF, 0]) && decide (cells m 1 = [0xFF, 0, 0, 0xFF]) && decide (m.ctr = 1) | none => false) = true := by decide +kernel
/-- R13: both extents 1 or even, columns of 4 but for the small shapes. -/
theorem test_shapes : legalShape 1 1 ∧ legalShape 2 4 ∧ legalShape 4 4 ∧ !legalShape 3 4 ∧ !legalShape 4 2 := by decide
/-! The cipher: the examples of FIPS 197 (4.2, 5.1.1, A.3) and a column of its MixColumns. -/
theorem test_cipherBytes : gfMul 0x57 0x83 = 0xC1 ∧ aesSub 0x53 = 0xED ∧ aesUnsub 0xED = 0x53 ∧ (aesMix [2, 3, 1, 1] [0xDB, 0x13, 0x53, 0x45]).take 4 = [0x8E, 0x4D, 0xA1, 0xBC] := by decide +kernel
theorem test_cipherKeys : let key : List Byte := [0x60, 0x3D, 0xEB, 0x10, 0x15, 0xCA, 0x71, 0xBE, 0x2B, 0x73, 0xAE, 0xF0, 0x85, 0x7D, 0x77, 0x81, 0x1F, 0x35, 0x2C, 0x07, 0x3B, 0x61, 0x08, 0xD7, 0x2D, 0x98, 0x10, 0xA3, 0x09, 0x14, 0xDF, 0xF4]
    ((aesKeys key).getD 2 []).take 8 = [0x9B, 0xA3, 0x54, 0x11, 0x8E, 0x69, 0x25, 0xAF] := by decide +kernel

/-! ## Save area (R319, R320): a record written and read back -/

/-- A thread with one field of each group of R320 set. -/
def savedThread : Thread :=
  { regs := { Regs.zero with x := Regs.zero.x.set 31 0x123456789, v := Regs.zero.v.set 1 77, p := Regs.zero.p.set 7 true, q := Regs.zero.q.set 1 0xABC }, pc := 0x4000, mode := .runtime,
    rper := 3, rperSet := true, tid := 9, prin := 5, mul := 2, upvec := 0x8000, umask := 5, pend := 0x100, frame := [{ va := 1, data := 2, data2 := 3, info := 4 }],
    stat := 3, modeReg := 8, xpf := 4, glo := 6, ghi := 7, streams := [(2, { bound := true, desc := 99, pos := 12 })] }
theorem test_threadRecord : ({} : Thread).restored (savedThread.image false) = savedThread := by decide +kernel
theorem test_barrierRecord : let b : Bar := { expected := 3, arrived := 2, pending := 0x123456789, phase := true }
    Bar.restored b.bytes = b := by decide +kernel

end Sys2Proof.Tests
end

section
/-! SUPPORT. What a report to the host does, in the words of the statements (R415, R416). -/

namespace Sys2Proof.Machine

open Sys2Proof.Claims

/-! ## Bytes of a number and messages -/

theorem length_leBytes (n z : Nat) : (leBytes n z).length = n := by
  induction n generalizing z with
  | zero => rfl
  | succ n ih => rw [leBytes, List.length_cons, ih]

theorem getElem_leBytes {n i : Nat} (z : Nat) (h : i < (leBytes n z).length) : (leBytes n z)[i] = byteAt z i := by
  induction n generalizing z i with
  | zero => simp [leBytes] at h
  | succ n ih =>
    cases i with
    | zero => simp [leBytes, byteAt]
    | succ i =>
      have step := ih (z / 256) (i := i) (by simpa [leBytes] using h)
      simp only [leBytes, List.getElem_cons_succ, step, byteAt, Nat.div_div_eq_div_mul, ← Nat.pow_succ']

theorem leBytes_eq_bytesOf (n z : Nat) : leBytes n z = bytesOf n z := by
  apply List.ext_getElem
  · simp [length_leBytes, bytesOf]
  · intro i h _
    rw [getElem_leBytes]
    simp [bytesOf]

theorem leNat_eq_leOf (bs : List Byte) : leNat bs = leOf bs := by
  induction bs with
  | nil => rfl
  | cons b t ih => rw [leNat, leOf, ih]

theorem message_eq_mail (code tag : BitVec 16) (status : Nat) (body : List Byte) : message code tag status body = mail code tag status body := by
  rw [message, mail, leNat_eq_leOf]

/-! ## The event area -/

theorem State.areaFull_iff (s : State) : s.areaFull = true ↔ Full s := by
  simp [State.areaFull, Full]

/-- A message stands in the area, or is held in order. -/
theorem State.posted_post (s : State) (m : BitVec 512) : Posted s m (s.post m) := by
  refine ⟨fun h => ?_, fun hroom hheld => ⟨s.hostMem.write (s.areaBase + s.writeIdx % 256 * 64) (leBytes 64 m.toNat), ?_, ?_, ?_⟩⟩
  · have : (s.areaFull || !s.heldEvents.isEmpty) = true := by simpa [State.areaFull_iff] using h
    rw [State.post, if_pos this]
  · have : ¬ (s.areaFull || !s.heldEvents.isEmpty) = true := by simp [State.areaFull_iff, hroom, hheld]
    rw [State.post, if_neg this]
    rfl
  · intro i hi
    rw [Memory.get_write_in (by rwa [length_leBytes]), getElem_leBytes]
  · intro a ha
    exact Memory.get_write_out (by rwa [length_leBytes])

theorem State.reported_report (s : State) (k : MsgKind) (body : List Byte) : Reported s k body (s.report k body) := by
  rw [State.report, message_eq_mail]
  exact s.posted_post _

/-- An error record is reported, but for a correctable error while the area is full, which is counted alone (R415). -/
theorem State.errorRecord_reported (s : State) (cls unit pa ctx : Nat) (h : cls ≠ errCorrectable ∨ ¬ Full s) :
    Reported s .errorRecord (errorBody s cls unit pa ctx) (s.errorRecord cls unit pa ctx) := by
  have hc : ¬ (cls = errCorrectable && s.areaFull) = true := by
    simp only [Bool.and_eq_true, decide_eq_true_eq, State.areaFull_iff]
    tauto
  rw [State.errorRecord, if_neg hc, errorBody]
  simp only [← leBytes_eq_bytesOf]
  exact s.reported_report _ _

theorem State.errorRecord_dropped (s : State) (unit pa ctx : Nat) (h : Full s) :
    s.errorRecord errCorrectable unit pa ctx = { s with droppedEvents := s.droppedEvents + 1 } := by
  have hc : (errCorrectable = errCorrectable && s.areaFull) = true := by simpa [State.areaFull_iff] using h
  rw [State.errorRecord, if_pos hc]

end Sys2Proof.Machine
end

section
/-! The step, branch by branch: which of them runs, and what the two slots of a decoded bundle lead to (R19, R79, R85 to R88, R96, R236). -/

namespace Sys2Proof.Machine

open Sys2Proof.Claims

/-! ## Which branch of the step runs (R19; log 1) -/

theorem step_of_input {s : State} {i : Instr} {rest : List Instr} (h : s.input = i :: rest) : step s = exec i { s with input := rest } := by
  rw [step, h]

theorem step_powerless {s : State} (hi : s.input = []) (hp : s.power = .off) : step s = .fault .poweredOff := by
  rw [step, hi]
  exact if_pos hp

theorem step_of_event {s t : State} (hi : s.input = []) (hp : s.power = .active) (he : s.event = some t) : step s = .next t := by
  simp [step, hi, hp, he]

theorem step_of_turn {s : State} {k : Nat} (h : Turn s k) : step s = s.issueBundle k := by
  obtain ⟨hi, hp, he, hk⟩ := h
  simp [step, hi, hp, he, hk]

theorem step_idle {s : State} (hi : s.input = []) (hp : s.power = .active) (he : s.event = none) (hk : s.nextThread = none) :
    step s = .next (s.lastEvent.getD s.clock) := by
  cases hl : s.lastEvent <;> simp [step, hi, hp, he, hk, hl]

/-! ## The issue of a bundle -/

theorem State.issueBundle_half {s : State} {k : Nat} {h : Half} (hh : (s.thread k).half = some h) : s.issueBundle k = (issuing s k).slotVHalf k h := by
  have : ((issuing s k).thread k).half = some h := hh
  rw [State.issueBundle, ← issuing, this]

section
variable {s s1 : State} {k : Nat} {bs : List Byte} (hw : Whole s k) (hf : (issuing s k).fetch k = (.bytes bs, s1))
include hw hf

theorem State.issueBundle_decoded {u : Bundle} (hd : decode bs = .ok u) : s.issueBundle k = s1.runBundle k u := by
  have : ((issuing s k).thread k).half = none := hw
  rw [State.issueBundle, ← issuing, this]
  simp only [hf, hd]

theorem State.issueBundle_undecoded {e : DecodeError} {a : State} (hd : decode bs = .error e) (hx : exec (.illegalBundle e.op e.slotV) s1 = .next a) :
    s.issueBundle k = .next (a.trapDone k) := by
  have : ((issuing s k).thread k).half = none := hw
  rw [State.issueBundle, ← issuing, this]
  simp only [hf, hd, hx]

end

theorem State.runBundle_illegal {s : State} {k : Nat} {u : Bundle} {i : Instr} (h : s.illegalNow k u = some i) :
    s.runBundle k u = .next (s.trapFrom k { cause := 2, info := opWord i, fva := 0, upc := (s.thread k).pc }) := by
  rw [State.runBundle, h]
  rfl

theorem State.runBundle_go {s : State} {k : Nat} {u : Bundle} {p : Pops} (hi : s.illegalNow k u = none) (hb : s.before k u (s.openNow k u) = .go)
    (hp : s.popStreams k u.v = .ok p) : s.runBundle k u = s.slots p k u := by
  simp only [State.runBundle, hi, hb, hp]

/-! ## Slot V and the end of the bundle -/

section
variable {s0 sb s t : State} {k : Nat} {u : Bundle} {open_ : Bool} {p : Pops}

/-- A slot V that completes, without a write of a special register in slot A. -/
theorem State.slotV_completes (h : RunsV k u p open_ s t) : s0.slotV sb s k u open_ p none false = .next (t.finish k u.sc) := by
  obtain ⟨hl, hh, v, hv, hd, hq, hp⟩ := h
  simp [State.slotV, hl, hh, hv, hd, hq, hp]

/-- A slot V that completes, before the write of a special register in slot A (log 71). -/
theorem State.slotV_completes_last {x : State} (h : RunsV k u p open_ s t) (hx : exec u.a t = .next x) :
    s0.slotV sb s k u open_ p none true = .next (x.finish k u.sc) := by
  obtain ⟨hl, hh, v, hv, hd, hq, hp⟩ := h
  simp [State.slotV, hl, hh, hv, hd, hq, hp, hx]

/-- An SBIND is left for later turns while slot A's access to its descriptor is in flight (R236). -/
theorem State.slotV_left {last : Bool} {h : Half} (hl : (s.thread k).life = .resident) (hh : s.sbindHalf k u = some h) :
    s0.slotV sb s k u open_ p none last = .next ((s.setThread k { s.thread k with half := some h }).holdAt k .hold) := by
  simp [State.slotV, hl, hh]

/-- Slot A has ended the thread, or taken it off its core. -/
theorem State.slotV_gone {last : Bool} (hl : (s.thread k).life ≠ .resident) : s0.slotV sb s k u open_ p none last = .next (s.finish k u.sc) := by
  simp [State.slotV, hl]

end

/-! ## Both slots -/

section
variable {s0 a : State} {p : Pops} {k : Nat} {u : Bundle}

theorem State.slots_closed (hg : (p.s.begin_ k u.len).guardHolds u.guard = false) :
    s0.slots p k u = s0.slotV (p.s.begin_ k u.len) (p.s.begin_ k u.len) k u false p none false := by
  simp [State.slots, hg]

section
variable (hg : (p.s.begin_ k u.len).guardHolds u.guard = true) (hx : exec u.a (p.s.begin_ k u.len) = .next a)
include hg hx

theorem State.slots_done (hd : a.issue = .done) (hs : ¬ IsSwr u.a) : s0.slots p k u = s0.slotV (p.s.begin_ k u.len) a k u true p none false := by
  simp only [State.slots, hg, hx, hd, if_true]
  split
  · next h => exact absurd ⟨_, _, _, h⟩ hs
  · rfl

theorem State.slots_swr (hd : a.issue = .done) (hs : IsSwr u.a) :
    s0.slots p k u = s0.slotV (p.s.begin_ k u.len) (p.s.begin_ k u.len) k u true p none true := by
  obtain ⟨sel, hi, x, h⟩ := hs
  rw [h] at hx
  simp only [State.slots, hg, h, hx, hd, if_true]

theorem State.slots_parked (hd : a.issue = .parked) (hv : parksWithEffect u.a ((a.thread k).wait.getD .poll) = true → (p.s.begin_ k u.len).vTrap k u = none) :
    s0.slots p k u = .next ((s0.unpop a k).holdAt k ((a.thread k).wait.getD .poll)) := by
  have : (if parksWithEffect u.a ((a.thread k).wait.getD .poll) then (p.s.begin_ k u.len).vTrap k u else none) = none := by
    split
    · next h => exact hv h
    · rfl
  simp only [State.slots, hg, hx, hd, if_true, this]

end
end

/-! ## The begin and the end of a bundle (R79, R96) -/

theorem CoreCtx.hAt_eq_hBefore (s : State) (c : Nat) : (s.coreCtx c).hAt s.cycle = Vector.ofFn (hBefore s c) := by
  refine Vector.ext fun i hi => ?_
  simp only [CoreCtx.hAt, hBefore, startOf, Vector.getElem_ofFn]
  cases lookupWriter (s.coreCtx c).writers i with
  | none => simp
  | some w => dsimp only; split <;> simp

theorem CoreCtx.wAt_eq_wBefore (s : State) (c : Nat) : (s.coreCtx c).wAt s.cycle = Vector.ofFn (wBefore s c) := rfl

theorem State.thread_begin_ (s : State) (k n : Nat) : (s.begin_ k n).thread k =
    { s.thread k with wait := (if (s.thread k).wait = some .poll then none else (s.thread k).wait), npc := wrap ((s.thread k).pc.toNat + n : Nat), issued := (s.thread k).issued + 1
                      latch := some { regs := (s.thread k).regs, h := Vector.ofFn (hBefore s (s.thread k).cc), w := Vector.ofFn (wBefore s (s.thread k).cc) } } := by
  have hnpc : (s.thread k).pc + BitVec.ofNat 64 n = wrap ((s.thread k).pc.toNat + n : Nat) := by
    rw [wrap, BitVec.ofInt_natCast, BitVec.ofNat_add, BitVec.ofNat_toNat, BitVec.setWidth_eq]
  rw [← hnpc, ← CoreCtx.hAt_eq_hBefore, ← CoreCtx.wAt_eq_wBefore]
  exact State.thread_setThread_same s k _

theorem State.finish_resident {s : State} {k : Nat} (sc : BitVec 4) (h : (s.thread k).life = .resident) : s.finish k sc =
    s.setThread k { s.thread k with pc := (s.thread k).npc, latch := none, wait := none, reply := none, got := none, next := s.cycle + 16 * (1 + sc.toNat) } := by
  rw [State.finish]
  exact if_pos h

end Sys2Proof.Machine

open Sys2Proof Sys2Proof.Machine Sys2Proof.Claims

/-- Settles O25: each clause is one branch of `step`, of `issueBundle`, of `runBundle`, of `slots` and of `slotV`. -/
theorem aStepRunsTheDecodedBundle : Obligations.AStepRunsTheDecodedBundle := by
  intro s
  refine ⟨fun i rest h => step_of_input h, step_powerless, fun hi hp => ⟨fun t he => step_of_event hi hp he, fun he hk => ⟨fun t hl => ?_, fun hl => ?_⟩⟩,
    fun k h ht hh => ?_, fun k bs s1 u ht hw hf hd => ⟨fun i hi => ?_, fun p hi hb hp => ?_⟩, fun k bs s1 e ht hw hf hd a hx => ?_,
    fun k n => ⟨rfl, rfl, State.thread_begin_ s k n⟩, fun k sc => State.finish_resident sc⟩
  · rw [step_idle hi hp he hk, hl, Option.getD_some]
  · rw [step_idle hi hp he hk, hl, Option.getD_none]
  · rw [step_of_turn ht, State.issueBundle_half hh]
  · rw [step_of_turn ht, State.issueBundle_decoded hw hf hd, State.runBundle_illegal hi]
  · have run : step s = s1.slots p k u := by rw [step_of_turn ht, State.issueBundle_decoded hw hf hd, State.runBundle_go hi hb hp]
    dsimp only
    rw [run]
    refine ⟨fun hg a t hx hd hs hv => ?_, fun hg a t x hs hx hd hv ht => ?_, fun hg a h hx hd hs hl hh => ?_, fun hg t hv => ?_, fun hg a hx hd hs hl => ?_, fun hg a hx hd hv => ?_⟩
    · rw [State.slots_done hg hx hd hs, State.slotV_completes hv]
    · rw [State.slots_swr hg hx hd hs, State.slotV_completes_last hv ht]
    · rw [State.slots_done hg hx hd hs, State.slotV_left hl hh]
    · rw [State.slots_closed hg, State.slotV_completes hv]
    · rw [State.slots_done hg hx hd hs, State.slotV_gone hl]
    · exact State.slots_parked hg hx hd hv
  · rw [step_of_turn ht, State.issueBundle_undecoded hw hf hd hx]
end

section
/-! The second part of BootErrorsAndPower: scrub passes, clock steps, the temperature limit and the sleep of clusters (R414, R415, R417, R418). -/

namespace Sys2Proof.Machine

open Sys2Proof.Claims

/-- Whether a word of State.ecc lies in the range of a scrub pass. -/
def scrubHits (base n : Nat) (e : Nat × Nat) : Bool := decide (base ≤ e.1 * 8) && decide (e.1 * 8 < base + n)

/-- The words that a pass leaves marked: all but the correctable ones of its range. -/
theorem State.scrub_eq (s : State) (base n : Nat) :
    s.scrub base n = (byUnit (s.ecc.filter (scrubHits base n))).foldl
      (fun s e => s.errorRecord (if e.2 = 1 then errCorrectable else errScrub) (errUnit (e.1 * 8)) (e.1 * 8) 0xFFFF)
      { s with ecc := s.ecc.filter (fun e => !(scrubHits base n e && e.2 == 1)) } := rfl

theorem exec_scrubPass {s : State} (base n : Nat) (h : s.power = .active) : exec (.scrubPass base n) s = .next (s.scrub base n) := by
  show execScrubPass base n s = _
  simp [execScrubPass, h, done]

/-- A pass that finds nothing to correct keeps every mark. -/
theorem filter_uncorrected {l : List (Nat × Nat)} {hit : Nat × Nat → Bool} (h : ∀ e ∈ l.filter hit, e.2 ≠ 1) : l.filter (fun e => !(hit e && e.2 == 1)) = l := by
  rw [List.filter_eq_self]
  intro e he
  by_cases hh : hit e = true
  · have := h e (List.mem_filter.mpr ⟨he, hh⟩)
    simp [this]
  · simp [hh]

/-- A pass that finds only correctable words clears the marks of all of them. -/
theorem filter_corrected {l : List (Nat × Nat)} {hit : Nat × Nat → Bool} (h : ∀ e ∈ l.filter hit, e.2 = 1) :
    l.filter (fun e => !(hit e && e.2 == 1)) = l.filter (fun e => !hit e) := by
  apply List.filter_congr
  intro e he
  by_cases hh : hit e = true
  · have := h e (List.mem_filter.mpr ⟨he, hh⟩)
    simp [this]
  · simp [hh]

theorem State.scrub_nothing {s : State} {base n : Nat} (h : s.ecc.filter (scrubHits base n) = []) : s.scrub base n = s := by
  rw [State.scrub_eq, filter_uncorrected (by simp [h]), h]
  rfl

theorem State.scrub_correctable {s : State} {base n w : Nat} (h : s.ecc.filter (scrubHits base n) = [(w, 1)]) :
    s.scrub base n = State.errorRecord { s with ecc := s.ecc.filter (fun e => !scrubHits base n e) } errCorrectable (errUnit (w * 8)) (w * 8) 0xFFFF := by
  rw [State.scrub_eq, filter_corrected (by simp [h]), h]
  rfl

theorem State.scrub_uncorrectable {s : State} {base n w : Nat} (h : s.ecc.filter (scrubHits base n) = [(w, 2)]) :
    s.scrub base n = s.errorRecord errScrub (errUnit (w * 8)) (w * 8) 0xFFFF := by
  rw [State.scrub_eq, filter_uncorrected (by simp [h]), h]
  rfl

/-- A clock step that is due, by its branches (R418). -/
theorem exec_clockStep {s : State} (w : Nat) (ha : s.power = .active) (hd : s.stepAt ≤ s.tick) :
    exec (.clockStep w) s =
      if s.hot = true ∨ s.capWatts < w then
        if 750 ≤ s.mhz then .next { s with mhz := s.mhz - 50, stepAt := s.tick + 2 ^ 20 }
        else if w ≤ s.capWatts ∨ s.capReported = true then .next s
        else .next (State.report { s with capReported := true } .power (leBytes 8 w ++ leBytes 8 s.capWatts))
      else if 100 * w < 95 * s.capWatts ∧ s.mhz < 1400 then .next { s with mhz := s.mhz + 50, stepAt := s.tick + 2 ^ 20, capReported := false }
      else .next s := by
  show execClockStep w s = _
  simp [execClockStep, ha, Nat.not_lt.mpr hd, done]

/-- The temperature limit, by its branches (R418). -/
theorem exec_coldPlateTemperatureLimit (s : State) (b : Bool) :
    exec (.coldPlateTemperatureLimit b) s =
      if s.power = .off then .next s
      else if b = true ∧ s.hot = false then .next (State.report { s with hot := true } .power (leBytes 8 1))
      else .next { s with hot := b } := by
  show execColdPlateTemperatureLimit b s = _
  simp only [execColdPlateTemperatureLimit, done, Bool.and_eq_true, Bool.not_eq_true']
  split
  · rfl
  · split <;> rfl

/-! ## Parts of the claim -/

/-- R414, R415: what a scrub pass corrects and reports. -/
theorem scrubPass_corrects_and_reports (s : State) (ha : s.power = .active) (base n : Nat) :
    (s.ecc.filter (scrubHits base n) = [] → exec (.scrubPass base n) s = .next s) ∧
    (∀ w, s.ecc.filter (scrubHits base n) = [(w, 1)] → let u := { s with ecc := s.ecc.filter (fun e => !scrubHits base n e) }
      ∃ t, exec (.scrubPass base n) s = .next t ∧ (Full u → t = { u with droppedEvents := u.droppedEvents + 1 }) ∧
        (¬ Full u → Reported u .errorRecord (errorBody s 0 (errUnit (w * 8)) (w * 8) 0xFFFF) t)) ∧
    (∀ w, s.ecc.filter (scrubHits base n) = [(w, 2)] →
      ∃ t, exec (.scrubPass base n) s = .next t ∧ Reported s .errorRecord (errorBody s 2 (errUnit (w * 8)) (w * 8) 0xFFFF) t) := by
  rw [exec_scrubPass base n ha]
  refine ⟨fun h => ?_, fun w h => ?_, fun w h => ?_⟩
  · rw [State.scrub_nothing h]
  · rw [State.scrub_correctable h]
    exact ⟨_, rfl, fun hf => State.errorRecord_dropped _ _ _ _ hf, fun hf => State.errorRecord_reported _ _ _ _ _ (.inr hf)⟩
  · rw [State.scrub_uncorrectable h]
    exact ⟨_, rfl, State.errorRecord_reported _ _ _ _ _ (.inl (by decide))⟩

end Sys2Proof.Machine

namespace Sys2Proof.Claims

open Sys2Proof.Machine

/-- The second part of O60 (R414, R415, R417, R418). -/
theorem errorsAndPower : ErrorsAndPower := by
  refine fun s => ⟨scrubPass_corrects_and_reports s, fun ha hd w => ?_, fun b => ?_, fun c hc => ⟨fun h1 h2 h3 h4 h5 => ?_, fun h1 h2 => ?_⟩⟩
  · rw [exec_clockStep w ha hd]
    refine ⟨fun hh hm => ?_, fun hl => ?_, fun hh hm hw hr => ?_, fun hh hm hr => ?_, fun hh hl => ?_⟩
    · rw [if_pos hh, if_pos hm]
    · rw [if_neg hl.1, if_pos hl.2]
    · rw [if_pos hh, if_neg (Nat.not_le.mpr hm), if_neg (by simp [hr, hw]), leBytes_eq_bytesOf, leBytes_eq_bytesOf]
      exact ⟨_, rfl, State.reported_report _ _ _⟩
    · rw [if_pos hh, if_neg (Nat.not_le.mpr hm), if_pos hr]
    · rw [if_neg hh, if_neg fun h => hl ⟨hh, h⟩]
  · rw [exec_coldPlateTemperatureLimit]
    refine ⟨fun h => ?_, fun h hb => ?_, fun h hb hh => ?_⟩
    · rw [if_pos h]
    · rw [if_neg h, if_neg (by rcases hb with rfl | hh <;> simp [*])]
    · rw [if_neg h, if_pos ⟨hb, hh⟩, leBytes_eq_bytesOf]
      exact ⟨_, rfl, State.reported_report _ _ _⟩
  · have hs : (s.sleepy c && decide (c < 128)) = true := by simpa [State.sleepy, h1, h2, h3, h4, hc] using h5
    show execClusterSleep c s = _
    rw [execClusterSleep, if_pos hs, done]
  · have hw : s.wakes c = true := by simp [State.wakes, h1, h2]
    show execClusterWake c s = _
    rw [execClusterWake, if_pos hw, done]

end Sys2Proof.Claims
end

section
/-! Tables written entry by entry, as the boot steps write them. -/

namespace Sys2Proof

/-- Each entry below n written once, from its own value: reading sees the new value there. -/
theorem AMap.get_foldl_range {α : Type} {d : α} {g : AMap α → Nat → AMap α} {f : Nat → α → α}
    (hg : ∀ m l j, (g m l).get d j = if j = l then f l (m.get d l) else m.get d j) (n j : Nat) (m : AMap α) :
    ((List.range n).foldl g m).get d j = if j < n then f j (m.get d j) else m.get d j := by
  induction n with
  | zero => simp
  | succ n ih =>
    rw [List.range_succ, List.foldl_concat, hg]
    by_cases hj : j = n
    · subst hj; simp [ih]
    · rw [if_neg hj, ih]
      simp only [show j < n + 1 ↔ j < n by omega]

theorem AMap.get_mapV {α : Type} {d : α} {f : Nat → α → α} (hd : ∀ n, f n d = d) (m : AMap α) (j : Nat) : (m.mapV f).get d j = f j (m.get d j) := by
  induction m with
  | nil => exact (hd j).symm
  | cons e t ih =>
    show (if e.1 = j then f e.1 e.2 else AMap.get d (AMap.mapV t f) j) = f j (if e.1 = j then e.2 else AMap.get d t j)
    split
    · next h => rw [h]
    · exact ih

theorem AMap.get_filterMap {α : Type} {d v : α} (p : Nat → Bool) (l : List Nat) (j : Nat) :
    AMap.get d (l.filterMap (fun c => if p c then some (c, v) else none)) j = if j ∈ l ∧ p j then v else d := by
  induction l with
  | nil => simp [AMap.get]
  | cons c t ih =>
    by_cases hc : p c = true
    · rw [List.filterMap_cons_some (by rw [if_pos hc]), AMap.get, ih]
      by_cases hj : c = j
      · simp [← hj, hc]
      · simp [hj, Ne.symm hj]
    · rw [List.filterMap_cons_none (by rw [if_neg hc]), ih]
      by_cases hj : j = c
      · simp [hj, hc]
      · simp [hj]

/-- A property of every value of a table, and of its default, holds of what is read. -/
theorem AMap.get_of_forall {α : Type} {d : α} {P : α → Prop} {m : AMap α} (hd : P d) (h : ∀ e ∈ m, P e.2) (j : Nat) : P (m.get d j) := by
  induction m with
  | nil => exact hd
  | cons e t ih =>
    rw [AMap.get]
    split
    · exact h e List.mem_cons_self
    · exact ih fun x hx => h x (List.mem_cons_of_mem _ hx)

theorem AMap.forall_put {α : Type} {P : α → Prop} {m : AMap α} {n : Nat} {w : α} (h : ∀ e ∈ m, P e.2) (hw : P w) : ∀ e ∈ m.put n w, P e.2 := by
  induction m with
  | nil => simpa [AMap.put] using hw
  | cons e t ih =>
    obtain ⟨he, ht⟩ := List.forall_mem_cons.mp h
    rw [AMap.put]
    split
    · exact List.forall_mem_cons.mpr ⟨hw, ht⟩
    · split
      · exact List.forall_mem_cons.mpr ⟨hw, h⟩
      · exact List.forall_mem_cons.mpr ⟨he, ih ht⟩

end Sys2Proof
end

section
/-! The start of a device (R408 to R411): what one boot step can do, and what the seven of them keep. -/

namespace Sys2Proof.Machine

open Sys2Proof.Claims

/-! ## The tables that steps 5 and 6 write -/

/-- A link after step 5 succeeds, by its alternative or not. -/
def Link.afterTraining (alt : Bool) (k : Link) : Link :=
  if alt && k.st = linkFailed then { k with st := linkDown, lanes := 0, held := true } else { sync := k.sync, st := linkTraining }
def linksTrained (alt : Bool) (m : AMap Link) : AMap Link :=
  (List.range 18).foldl (fun (m : AMap Link) l =>
    let k := m.get {} l
    if alt && k.st = linkFailed then m.put l { k with st := linkDown, lanes := 0, held := true }
    else m.put l { sync := k.sync, st := linkTraining }) m
/-- The links after step 5 fails for some of them. -/
def linksFailed (units : List Nat) (m : AMap Link) : AMap Link :=
  (List.range 18).foldl (fun (m : AMap Link) l =>
    let k := m.get {} l
    m.put l (if units.contains l then { sync := k.sync, st := linkFailed } else { sync := k.sync, st := linkTraining })) m
/-- The clusters of a mask excluded. -/
def clustersExcluded (mask : BitVec 128) (m : AMap Cluster) : AMap Cluster :=
  (List.range 128).foldl (fun (m : AMap Cluster) c => if mask.getLsbD c then m.put c { m.get {} c with excluded := true } else m) m

theorem get_linksTrained (alt : Bool) (m : AMap Link) (l : Nat) :
    (linksTrained alt m).get {} l = if l < 18 then (m.get {} l).afterTraining alt else m.get {} l := by
  rw [linksTrained, AMap.get_foldl_range (f := fun _ k => k.afterTraining alt)]
  intro m l j
  dsimp only [Link.afterTraining]
  split <;> rw [AMap.get_put]

theorem get_linksFailed (units : List Nat) (m : AMap Link) (l : Nat) :
    (linksFailed units m).get {} l = if l < 18 then (if units.contains l then { sync := (m.get {} l).sync, st := linkFailed } else { sync := (m.get {} l).sync, st := linkTraining })
      else m.get {} l := by
  rw [linksFailed, AMap.get_foldl_range (f := fun l k => if units.contains l then { sync := k.sync, st := linkFailed } else { sync := k.sync, st := linkTraining })]
  exact fun m l j => AMap.get_put ..

theorem get_clustersExcluded (mask : BitVec 128) (m : AMap Cluster) (c : Nat) :
    (clustersExcluded mask m).get {} c = if c < 128 then (if mask.getLsbD c then { m.get {} c with excluded := true } else m.get {} c) else m.get {} c := by
  rw [clustersExcluded, AMap.get_foldl_range (f := fun l k => if mask.getLsbD l then { k with excluded := true } else k)]
  intro m l j
  split
  · rw [AMap.get_put]
  · split
    · next h => rw [h]
    · rfl

/-- No link is marked SYNC: the device is its own source of time (R403). -/
def NoSync (m : AMap Link) : Prop := ∀ e ∈ m, e.2.sync = false

theorem NoSync.get {m : AMap Link} (h : NoSync m) (l : Nat) : (m.get {} l).sync = false := AMap.get_of_forall (P := fun k : Link => k.sync = false) rfl h l
theorem NoSync.put {m : AMap Link} (h : NoSync m) (l : Nat) {k : Link} (hk : k.sync = false) : NoSync (m.put l k) :=
  AMap.forall_put (P := fun k : Link => k.sync = false) h hk

theorem NoSync.trained {m : AMap Link} (h : NoSync m) (alt : Bool) : NoSync (linksTrained alt m) :=
  List.foldlRecOn (motive := NoSync) _ _ h fun m hm l _ => by
    dsimp only
    split <;> exact hm.put l (hm.get l)

theorem NoSync.failed {m : AMap Link} (h : NoSync m) (units : List Nat) : NoSync (linksFailed units m) :=
  List.foldlRecOn (motive := NoSync) _ _ h fun m hm l _ => by
    refine hm.put l ?_
    split <;> exact hm.get l

theorem getLsbD_clusterMask (cs : List Nat) {c : Nat} (hc : c < 128) : (clusterMask cs).getLsbD c = cs.contains c := by
  have bit (x : Nat) : (BitVec.ofNat 128 (if x < 128 then 2 ^ x else 0)).getLsbD c = (c == x) := by
    rw [BitVec.getLsbD_ofNat]
    split
    · simp [hc, Nat.testBit_two_pow, beq_eq_decide, eq_comm]
    · have : c ≠ x := by omega
      simp [this]
  have go (m : BitVec 128) : (cs.foldl (fun m c => m ||| BitVec.ofNat 128 (if c < 128 then 2 ^ c else 0)) m).getLsbD c = (m.getLsbD c || cs.contains c) := by
    induction cs generalizing m with
    | nil => simp
    | cons x t ih => rw [List.foldl_cons, ih, BitVec.getLsbD_or, bit, List.contains_cons, Bool.or_assoc]
  simpa [clusterMask] using go 0

/-! ## What the parts of a boot step change -/

/-- A step that succeeds changes the fields of its number. -/
theorem State.stepOk_eq (s : State) (n : Nat) (r : BootResult) (b : BootIn) (alt : Bool) : s.stepOk n r b alt =
    { s with
      imageVersion := if n = 2 then BitVec.ofNat 32 b.ver else s.imageVersion
      imageDigest := if n = 2 then Config.shake256 b.image else s.imageDigest
      badChannels := if n = 3 then [] else s.badChannels
      halfBridges := if n = 4 then (if alt then r.units else []) else s.halfBridges
      deviceId := if n = 5 then r.device.getD s.deviceId else s.deviceId
      links := if n = 5 then linksTrained alt s.links else s.links
      excludedMask := if n = 6 then (if alt then s.excludedMask else 0) else s.excludedMask
      clusters := if n = 6 then clustersExcluded (if alt then s.excludedMask else 0) s.clusters else s.clusters
      keys := if n = 7 then [] else s.keys } := by
  match n with
  | 0 | 1 | 2 | 3 | 4 | 5 | 6 | 7 | _ + 8 => rfl

/-- So does one that fails. -/
theorem State.stepFailed_eq (s : State) (n : Nat) (r : BootResult) (b : BootIn) : s.stepFailed n r b =
    { s with
      badChannels := if n = 3 then r.units else s.badChannels
      links := if n = 5 then linksFailed r.units s.links else s.links
      excludedMask := if n = 6 then clusterMask b.failing else s.excludedMask } := by
  match n with
  | 0 | 1 | 2 | 3 | 4 | 5 | 6 | _ + 7 => rfl

/-- A report at boot touches the mailbox alone. -/
theorem State.bootFail_eq (s : State) (n : Nat) : ∃ h w e o, s.bootFail n = { s with hostMem := h, writeIdx := w, heldEvents := e, out := o } := by
  rw [State.bootFail, State.errorRecord, if_neg (by simp [errBoot, errCorrectable]), State.report, State.post]
  split
  · exact ⟨s.hostMem, s.writeIdx, _, s.out, rfl⟩
  · exact ⟨_, _, s.heldEvents, _, rfl⟩

/-! ## What every boot step keeps -/

/-- The parts that a boot step is made of. A property that each keeps is kept by the step. -/
theorem State.bootStep_induction {P : State → Prop} {t : State} {n : Nat} {r : BootResult} {b : BootIn} (h : P t)
    (ok : ∀ u alt, P u → P (u.stepOk n r b alt)) (failed : ∀ u, P u → P (u.stepFailed n r b)) (entry : ∀ u out code, P u → P (u.setEntry n out code))
    (report : ∀ u, P u → P (u.bootFail n)) (recovery : ∀ u, P u → P u.toRecovery) : P (t.bootStep n r b) := by
  have fails : P (((t.setEntry n 2 r.code).bootFail n).stepFailed n r b) := failed _ (report _ (entry _ _ _ h))
  have alternative : P ((t.stepOk n r b true).setEntry n 3 0) := entry _ _ _ (ok _ _ h)
  have succeeds : P ((t.stepOk n r b false).setEntry n 1 0) := entry _ _ _ (ok _ _ h)
  unfold State.bootStep
  dsimp only
  split_ifs
  · exact h
  · exact recovery _ h
  · exact report _ alternative
  · exact alternative
  · exact recovery _ fails
  · exact fails
  · exact succeeds
  · exact recovery _ fails
  · exact fails

/-- The device as a start begins, before its first step. -/
def State.starting (s : State) : State := { s.cold with starts := s.starts + 1, power := .started, areaBase := Config.eventArea }

/-- What holds of a device throughout its start: the persistent store of s, what its configuration gives, and no time base yet. -/
structure Booting (s t : State) : Prop where
  persists : Persists s t
  starts : t.starts = s.starts + 1
  regions : t.hostRegions = s.hostRegions
  area : t.areaBase = Config.eventArea
  time : t.timeSet = false
  source : OwnSource s → OwnSource t
  fused : ∀ c, (t.cluster c).fused = (s.cold.cluster c).fused

theorem Booting.stepOk {s t : State} (h : Booting s t) (n : Nat) (r : BootResult) (b : BootIn) (alt : Bool) : Booting s (t.stepOk n r b alt) := by
  rw [State.stepOk_eq]
  obtain ⟨⟨store, hostSide, gone⟩, starts, regions, area, time, source, fused⟩ := h
  refine ⟨⟨store, hostSide, ?_⟩, starts, regions, area, time, fun hs => (source hs).imp id fun hl => ?_, fun c => ?_⟩
  · obtain ⟨mem, threads, ccs, kernels, ctxs, engs, keys, ops, version⟩ := gone
    refine ⟨mem, threads, ccs, kernels, ctxs, engs, ?_, ops, version⟩
    dsimp only
    split
    · rfl
    · exact keys
  · show NoSync (if n = 5 then _ else _)
    split
    · exact NoSync.trained hl alt
    · exact hl
  · rw [← fused c, State.cluster, State.cluster]
    dsimp only
    split
    · rw [get_clustersExcluded]
      split_ifs <;> rfl
    · rfl

theorem Booting.stepFailed {s t : State} (h : Booting s t) (n : Nat) (r : BootResult) (b : BootIn) : Booting s (t.stepFailed n r b) := by
  rw [State.stepFailed_eq]
  obtain ⟨⟨store, hostSide, gone⟩, starts, regions, area, time, source, fused⟩ := h
  refine ⟨⟨store, hostSide, gone⟩, starts, regions, area, time, fun hs => (source hs).imp id fun hl => ?_, fused⟩
  show NoSync (if n = 5 then _ else _)
  split
  · exact NoSync.failed hl r.units
  · exact hl

theorem Booting.bootFail {s t : State} (h : Booting s t) (n : Nat) : Booting s (t.bootFail n) := by
  obtain ⟨_, _, _, _, e⟩ := t.bootFail_eq n
  obtain ⟨⟨store, hostSide, gone⟩, starts, regions, area, time, source, fused⟩ := h
  rw [e]
  exact ⟨⟨store, hostSide, gone⟩, starts, regions, area, time, source, fused⟩

theorem Booting.setEntry {s t : State} (h : Booting s t) (n : Nat) (out : BitVec 2) (code : BitVec 16) : Booting s (t.setEntry n out code) :=
  ⟨⟨h.persists.store, h.persists.hostSide, h.persists.gone⟩, h.starts, h.regions, h.area, h.time, h.source, h.fused⟩

theorem Booting.toRecovery {s t : State} (h : Booting s t) : Booting s t.toRecovery :=
  ⟨⟨h.persists.store, h.persists.hostSide, h.persists.gone⟩, h.starts, h.regions, h.area, h.time, h.source, h.fused⟩

theorem Booting.bootStep {s t : State} (h : Booting s t) (n : Nat) (r : BootResult) (b : BootIn) : Booting s (t.bootStep n r b) :=
  State.bootStep_induction h (fun _ alt hu => hu.stepOk n r b alt) (fun _ hu => hu.stepFailed n r b) (fun _ out code hu => hu.setEntry n out code)
    (fun _ hu => hu.bootFail n) fun _ hu => hu.toRecovery

/-! ## What belongs to one step alone -/

/-- t and u agree in the entry of step n, and in what step n alone writes. -/
structure SameFor (n : Nat) (t u : State) : Prop where
  entry : u.entry n = t.entry n
  image : n = 2 → u.imageVersion = t.imageVersion ∧ u.imageDigest = t.imageDigest
  channels : n = 3 → u.badChannels = t.badChannels
  bridges : n = 4 → u.halfBridges = t.halfBridges
  links : n = 5 → u.deviceId = t.deviceId ∧ u.links = t.links
  clusters : n = 6 → u.excludedMask = t.excludedMask ∧ u.clusters = t.clusters

theorem SameFor.refl (n : Nat) (t : State) : SameFor n t t := ⟨rfl, fun _ => ⟨rfl, rfl⟩, fun _ => rfl, fun _ => rfl, fun _ => ⟨rfl, rfl⟩, fun _ => ⟨rfl, rfl⟩⟩

theorem SameFor.trans {n : Nat} {t u v : State} (h : SameFor n t u) (k : SameFor n u v) : SameFor n t v where
  entry := k.entry.trans h.entry
  image e := ⟨(k.image e).1.trans (h.image e).1, (k.image e).2.trans (h.image e).2⟩
  channels e := (k.channels e).trans (h.channels e)
  bridges e := (k.bridges e).trans (h.bridges e)
  links e := ⟨(k.links e).1.trans (h.links e).1, (k.links e).2.trans (h.links e).2⟩
  clusters e := ⟨(k.clusters e).1.trans (h.clusters e).1, (k.clusters e).2.trans (h.clusters e).2⟩

theorem State.entry_setEntry (s : State) (n : Nat) (out : BitVec 2) (code : BitVec 16) (m : Nat) : (s.setEntry n out code).entry m =
    if m = n then { out := out, fails := (if out = 2 then BitVec.ofNat 8 (min ((s.entry n).fails.toNat + 1) 255) else 0), code := (if out = 2 then code else 0), start := s.starts }
    else s.entry m := AMap.get_put ..

/-- A boot step leaves alone what belongs to another. -/
theorem State.bootStep_sameFor {m n : Nat} (h : n ≠ m) (t : State) (r : BootResult) (b : BootIn) : SameFor n t (t.bootStep m r b) := by
  refine State.bootStep_induction (P := SameFor n t) (SameFor.refl n t) (fun u alt hu => hu.trans ?_) (fun u hu => hu.trans ?_) (fun u out code hu => hu.trans ?_) (fun u hu => hu.trans ?_)
    fun u hu => hu.trans ?_
  · rw [State.stepOk_eq]
    refine ⟨rfl, fun e => ?_, fun e => ?_, fun e => ?_, fun e => ?_, fun e => ?_⟩ <;> simp [← e, h.symm]
  · rw [State.stepFailed_eq]
    refine ⟨rfl, fun e => ?_, fun e => ?_, fun e => ?_, fun e => ?_, fun e => ?_⟩ <;> simp [← e, h.symm]
  · exact ⟨(u.entry_setEntry m out code n).trans (if_neg h), fun _ => ⟨rfl, rfl⟩, fun _ => rfl, fun _ => rfl, fun _ => ⟨rfl, rfl⟩, fun _ => ⟨rfl, rfl⟩⟩
  · obtain ⟨_, _, _, _, e⟩ := u.bootFail_eq m
    rw [e]
    exact ⟨rfl, fun _ => ⟨rfl, rfl⟩, fun _ => rfl, fun _ => rfl, fun _ => ⟨rfl, rfl⟩, fun _ => ⟨rfl, rfl⟩⟩
  · exact ⟨rfl, fun _ => ⟨rfl, rfl⟩, fun _ => rfl, fun _ => rfl, fun _ => ⟨rfl, rfl⟩, fun _ => ⟨rfl, rfl⟩⟩

/-! ## The outcomes of one boot step (R408) -/

/-- Step n succeeds at a start of s. -/
structure Passes (s : State) (b : BootIn) (n : Nat) (r : BootResult) : Prop where
  fresh : ¬ FailedLast s n
  ok : r.ok = true
  image : n = 2 → s.imageOk r b = true
  selfTest : n = 6 → b.failing = []

/-- A device in its start before step n: nothing that belongs to the step has changed. -/
structure AtStep (s : State) (n : Nat) (t : State) : Prop where
  booting : Booting s t
  power : t.power = .started
  same : SameFor n s.starting t

/-- The test of a boot step: its entry shows a failure at the previous start. -/
def State.failedBefore (t : State) (n : Nat) : Bool := (t.entry n).out = 2 && (t.entry n).start + 1 = t.starts

/-- What a step that fails leaves, but for the recovery of the vital ones. -/
def State.stepFails (t : State) (n : Nat) (r : BootResult) (b : BootIn) : State := ((t.setEntry n 2 r.code).bootFail n).stepFailed n r b

/-- A boot step by its branches, outside recovery. -/
theorem State.bootStep_eq {t : State} (n : Nat) (r : BootResult) (b : BootIn) (hp : t.power = .started) : t.bootStep n r b =
    if t.failedBefore n then
      if hasAlt n = false then t.toRecovery
      else if (r.altOk = true ∨ n = 4 ∨ n = 5 ∨ n = 6) ∧ (n ≠ 2 ∨ t.imageOk r b = true) then
        if n = 4 then ((t.stepOk n r b true).setEntry n 3 0).bootFail n else (t.stepOk n r b true).setEntry n 3 0
      else if n = 2 then (t.stepFails n r b).toRecovery else t.stepFails n r b
    else if r.ok = true ∧ (n ≠ 2 ∨ t.imageOk r b = true) ∧ (n ≠ 6 ∨ b.failing = []) then (t.stepOk n r b false).setEntry n 1 0
    else if vital n then (t.stepFails n r b).toRecovery else t.stepFails n r b := by
  have hr : ¬ t.power = .recovery := by rw [hp]; decide
  unfold State.bootStep State.failedBefore State.stepFails
  dsimp only
  rw [if_neg hr]
  cases hf : ((t.entry n).out = 2 && (t.entry n).start + 1 = t.starts : Bool) <;> cases ha : hasAlt n <;> simp [and_assoc, or_assoc]

section
variable {s t : State} {n : Nat} {r : BootResult} {b : BootIn} (h : AtStep s n t)
include h

theorem AtStep.failedBefore_iff : t.failedBefore n = true ↔ FailedLast s n := by
  have he : t.entry n = s.entry n := h.same.entry
  have hs : (s.entry n).start + 1 = t.starts ↔ (s.entry n).start = s.starts := by rw [h.booting.starts]; exact BitVec.add_left_inj 1
  simp only [State.failedBefore, he, Bool.and_eq_true, decide_eq_true_eq, hs, FailedLast]

theorem AtStep.imageOk_eq : t.imageOk r b = s.imageOk r b := by
  obtain ⟨-, digest, rollback, -⟩ := h.booting.persists.store
  rw [State.imageOk, State.imageOk, digest, rollback]

theorem AtStep.passes_iff : Passes s b n r ↔ ¬ t.failedBefore n = true ∧ r.ok = true ∧ (n ≠ 2 ∨ t.imageOk r b = true) ∧ (n ≠ 6 ∨ b.failing = []) := by
  rw [h.failedBefore_iff, h.imageOk_eq, ← imp_iff_not_or, ← imp_iff_not_or]
  exact ⟨fun ⟨h1, h2, h3, h4⟩ => ⟨h1, h2, h3, h4⟩, fun ⟨h1, h2, h3, h4⟩ => ⟨h1, h2, h3, h4⟩⟩

theorem AtStep.bootStep_passes (hp : Passes s b n r) : t.bootStep n r b = (t.stepOk n r b false).setEntry n 1 0 := by
  obtain ⟨hf, hr⟩ := h.passes_iff.mp hp
  rw [State.bootStep_eq n r b h.power, if_neg hf, if_pos hr]

theorem AtStep.bootStep_fails (hf : ¬ FailedLast s n) (hr : ¬ Passes s b n r) :
    t.bootStep n r b = if vital n then (t.stepFails n r b).toRecovery else t.stepFails n r b := by
  rw [← h.failedBefore_iff] at hf
  rw [State.bootStep_eq n r b h.power, if_neg hf, if_neg fun hc => hr (h.passes_iff.mpr ⟨hf, hc⟩)]

/-- Steps 4 to 6 run by their alternative, without a further check of it. -/
theorem AtStep.bootStep_alternative (hf : FailedLast s n) (hn : n = 4 ∨ n = 5 ∨ n = 6) :
    t.bootStep n r b = if n = 4 then ((t.stepOk n r b true).setEntry n 3 0).bootFail n else (t.stepOk n r b true).setEntry n 3 0 := by
  have ha : ¬ hasAlt n = false := by rcases hn with rfl | rfl | rfl <;> decide
  have h2 : n ≠ 2 := by omega
  rw [State.bootStep_eq n r b h.power, if_pos (h.failedBefore_iff.mpr hf), if_neg ha, if_pos ⟨.inr hn, .inl h2⟩]

end

theorem State.power_stepOk (s : State) (n : Nat) (r : BootResult) (b : BootIn) (alt : Bool) : (s.stepOk n r b alt).power = s.power := by rw [State.stepOk_eq]

theorem State.power_bootFail (s : State) (n : Nat) : (s.bootFail n).power = s.power := by
  obtain ⟨_, _, _, _, e⟩ := s.bootFail_eq n
  rw [e]

theorem State.power_stepFails (s : State) (n : Nat) (r : BootResult) (b : BootIn) : (s.stepFails n r b).power = s.power := by
  rw [State.stepFails, State.stepFailed_eq]
  exact State.power_bootFail ..

/-- Only steps 1, 2 and 7 lead to recovery. -/
theorem State.power_bootStep {t : State} {n : Nat} (r : BootResult) (b : BootIn) (hp : t.power = .started) (hv : vital n = false) : (t.bootStep n r b).power = .started := by
  simp only [vital, Bool.or_eq_false_iff, decide_eq_false_iff_not] at hv
  obtain ⟨⟨h1, h2⟩, h7⟩ := hv
  have ha : ¬ hasAlt n = false := by simp [hasAlt, h1, h7]
  have hv : ¬ vital n = true := by simp [vital, h1, h2, h7]
  have entry (u : State) (out : BitVec 2) (code : BitVec 16) : (u.setEntry n out code).power = u.power := rfl
  rw [State.bootStep_eq n r b hp, if_neg ha, if_neg h2, if_neg hv]
  split_ifs <;> simp only [State.power_bootFail, entry, State.power_stepOk, State.power_stepFails, hp]

/-! ## Silent steps -/

/-- The host has heard nothing between two states. -/
def Silent (s t : State) : Prop := SameMail s t ∧ t.out = s.out

theorem Silent.refl (s : State) : Silent s s := ⟨⟨rfl, rfl, rfl, rfl⟩, rfl⟩
theorem Silent.trans {s t u : State} (h : Silent s t) (k : Silent t u) : Silent s u := by
  obtain ⟨⟨h1, h2, h3, h4⟩, h5⟩ := h
  obtain ⟨⟨k1, k2, k3, k4⟩, k5⟩ := k
  exact ⟨⟨k1.trans h1, k2.trans h2, k3.trans h3, k4.trans h4⟩, k5.trans h5⟩

theorem State.silent_stepOk (s : State) (n : Nat) (r : BootResult) (b : BootIn) (alt : Bool) : Silent s (s.stepOk n r b alt) := by
  rw [State.stepOk_eq]
  exact ⟨⟨rfl, rfl, rfl, rfl⟩, rfl⟩
theorem State.silent_stepFailed (s : State) (n : Nat) (r : BootResult) (b : BootIn) : Silent s (s.stepFailed n r b) := by
  rw [State.stepFailed_eq]
  exact ⟨⟨rfl, rfl, rfl, rfl⟩, rfl⟩
theorem State.silent_setEntry (s : State) (n : Nat) (out : BitVec 2) (code : BitVec 16) : Silent s (s.setEntry n out code) := ⟨⟨rfl, rfl, rfl, rfl⟩, rfl⟩
theorem State.silent_toRecovery (s : State) : Silent s s.toRecovery := ⟨⟨rfl, rfl, rfl, rfl⟩, rfl⟩

/-- A failure reported at a point of the start before which the host has heard nothing, and after which it hears nothing. -/
theorem toldFailure {s u t : State} {n : Nat} (hb : Booting s u) (hq : Silent s.starting u) (ht : Silent (u.bootFail n) t) : ToldFailure s t n := by
  obtain ⟨⟨held, mem, idx, ret⟩, out⟩ := hq
  exact ⟨u, u.bootFail n, mem, out, hb.area, idx, ret, held, State.errorRecord_reported _ _ _ _ _ (.inl (by decide)), ht.1, ht.2⟩

/-! ## The seven steps -/

theorem Booting.starting (s : State) : Booting s s.starting where
  persists := ⟨⟨rfl, rfl, rfl, rfl, rfl⟩, ⟨rfl, rfl, rfl⟩, ⟨rfl, rfl, rfl, rfl, rfl, rfl, rfl, rfl, rfl⟩⟩
  starts := rfl
  regions := rfl
  area := rfl
  time := rfl
  source h := h.imp id fun hl e he => by
    obtain ⟨x, hx, rfl⟩ := List.mem_map.mp he
    exact hl x hx
  fused _ := rfl

/-- Before the first step every link is down, but for those that failed at the previous start. -/
theorem State.link_starting (s : State) (l : Nat) : s.starting.link l = { st := if (s.link l).st = linkFailed then linkFailed else linkDown, sync := (s.link l).sync } :=
  AMap.get_mapV (d := ({} : Link)) (f := fun _ k => { st := if k.st = linkFailed then linkFailed else linkDown, sync := k.sync }) (fun _ => rfl) s.links l

/-- Before the first step a cluster is as made, with those of a G120 fused out (R11). -/
theorem State.cluster_cold (s : State) (c : Nat) :
    s.cold.cluster c = if c ∈ List.range 128 ∧ ((s.cluster c).fused || (s.skuG120 && fusedPair c)) = true then { fused := true } else {} :=
  AMap.get_filterMap (fun c => (s.cluster c).fused || (s.skuG120 && fusedPair c)) _ c

theorem AtStep.starting (s : State) (n : Nat) : AtStep s n s.starting := ⟨.starting s, rfl, .refl n _⟩

theorem AtStep.power_bootStep {s t : State} {n : Nat} {r : BootResult} {b : BootIn} (h : AtStep s n t) (hp : vital n = true → Passes s b n r) : (t.bootStep n r b).power = .started := by
  cases hv : vital n with
  | false => exact State.power_bootStep r b h.power hv
  | true =>
    rw [h.bootStep_passes (hp hv)]
    exact (State.power_stepOk ..).trans h.power

/-- The other steps' results do not matter to step n, unless the device leaves its start. -/
theorem AtStep.bootStep_other {s t : State} {m n : Nat} {r : BootResult} {b : BootIn} (h : AtStep s n t) (hn : n ≠ m) (hm : AtStep s m t) (hp : vital m = true → Passes s b m r) :
    AtStep s n (t.bootStep m r b) :=
  ⟨h.booting.bootStep m r b, hm.power_bootStep hp, h.same.trans (State.bootStep_sameFor hn t r b)⟩

theorem AtStep.silent_bootStep {s t : State} {n : Nat} {r : BootResult} {b : BootIn} (h : AtStep s n t) (hp : Passes s b n r) : Silent t (t.bootStep n r b) := by
  rw [h.bootStep_passes hp]
  exact (State.silent_stepOk ..).trans (State.silent_setEntry ..)

/-! ## The steps in their order -/

/-- Boot steps with their results, in order. -/
def State.runSteps (t : State) (b : BootIn) (ps : List (Nat × BootResult)) : State := ps.foldl (fun t p => t.bootStep p.1 p.2 b) t

theorem State.bootSteps_eq_runSteps (b : BootIn) {ns : List Nat} {rs : List BootResult} (h : ns.length = rs.length) (t : State) : t.bootSteps b ns rs = t.runSteps b (ns.zip rs) := by
  induction ns generalizing rs t with
  | nil => rfl
  | cons n ns ih =>
    cases rs with
    | nil => simp at h
    | cons r rs => exact ih (by simpa using h) _

section
variable {s t : State} {b : BootIn} {ps : List (Nat × BootResult)}

theorem State.runSteps_recovery (h : t.power = .recovery) : t.runSteps b ps = t := by
  induction ps with
  | nil => rfl
  | cons p ps ih =>
    have : t.bootStep p.1 p.2 b = t := if_pos h
    rw [State.runSteps, List.foldl_cons, this]
    exact ih

theorem Booting.runSteps (h : Booting s t) : Booting s (t.runSteps b ps) :=
  List.foldlRecOn (motive := Booting s) _ _ h fun _ hu p _ => hu.bootStep p.1 p.2 b

theorem State.runSteps_sameFor {n : Nat} (h : ∀ p ∈ ps, n ≠ p.1) : SameFor n t (t.runSteps b ps) :=
  List.foldlRecOn (motive := SameFor n t) _ _ (.refl n t) fun u hu p hp => hu.trans (State.bootStep_sameFor (h p hp) u p.2 b)

/-- Steps of which the vital ones succeed leave the device in its start; the host hears nothing where all succeed. -/
theorem State.runSteps_started (hd : (ps.map Prod.fst).Nodup) (hp : t.power = .started) (ha : ∀ p ∈ ps, AtStep s p.1 t) (hv : ∀ p ∈ ps, vital p.1 = true → Passes s b p.1 p.2) :
    (t.runSteps b ps).power = .started ∧ ((∀ p ∈ ps, Passes s b p.1 p.2) → Silent t (t.runSteps b ps)) := by
  induction ps generalizing t with
  | nil => exact ⟨hp, fun _ => .refl t⟩
  | cons p ps ih =>
    obtain ⟨hfirst, hrest⟩ := List.nodup_cons.mp hd
    obtain ⟨hap, ha⟩ := List.forall_mem_cons.mp ha
    obtain ⟨hvp, hv⟩ := List.forall_mem_cons.mp hv
    have hpower : (t.bootStep p.1 p.2 b).power = .started := hap.power_bootStep hvp
    obtain ⟨h1, h2⟩ := ih hrest hpower (fun q hq => (ha q hq).bootStep_other (fun e => hfirst (e ▸ List.mem_map_of_mem hq)) hap hvp) hv
    refine ⟨h1, fun hall => ?_⟩
    obtain ⟨hpass, hall⟩ := List.forall_mem_cons.mp hall
    exact (hap.silent_bootStep hpass).trans (h2 hall)

end

/-! ## The whole start -/

/-- The seven steps of a start. -/
def bootOrder : List Nat := [1, 2, 3, 4, 5, 6, 7]

theorem mem_bootOrder_zip {res : List BootResult} {n : Nat} {r : BootResult} : (n, r) ∈ bootOrder.zip res ↔ 1 ≤ n ∧ n ≤ 7 ∧ res[n - 1]? = some r := by
  have order (i : Nat) : bootOrder[i]? = some n ↔ i < 7 ∧ n = i + 1 := by
    rw [show bootOrder = List.range' 1 7 from rfl, List.getElem?_eq_some_iff]
    simp only [List.length_range', List.getElem_range']
    constructor
    · rintro ⟨h, rfl⟩; exact ⟨h, by omega⟩
    · rintro ⟨h, rfl⟩; exact ⟨h, by omega⟩
  simp only [List.mem_iff_getElem?, List.getElem?_zip_eq_some, order]
  constructor
  · rintro ⟨i, ⟨hi, rfl⟩, hr⟩; exact ⟨by omega, by omega, hr⟩
  · rintro ⟨h1, h7, hr⟩; exact ⟨n - 1, ⟨by omega, by omega⟩, hr⟩

/-- The device after the seven steps. -/
def State.booted (s : State) (b : BootIn) (res : List BootResult) : State := s.starting.runSteps b (bootOrder.zip res)
/-- A device whose start has succeeded runs. -/
def State.activated (t : State) : State :=
  let t := { t with power := .active, hostRegions := Config.hostRegions }
  if t.ownSource then t.ownTime else t

theorem exec_boot (s : State) {res : List BootResult} (b : BootIn) (hlen : res.length = 7) :
    exec (.boot res b.failing b.image b.ver) s =
      let t := s.booted b res
      if t.power = .started then .next t.activated else .next t := by
  rw [State.booted, ← State.bootSteps_eq_runSteps _ (by rw [hlen]; rfl)]
  exact ite_not ..

/-- What the activation changes: nothing that a step wrote, and nothing the host sees. -/
theorem State.activated_eq (t : State) : ∃ time frac last set locked changes, t.activated =
    { t with power := .active, hostRegions := Config.hostRegions, time := time, frac := frac, lastTime := last, timeSet := set, locked := locked, lockChanges := changes } := by
  unfold State.activated State.ownTime State.setLocked
  dsimp only
  split_ifs <;> exact ⟨_, _, _, _, _, _, rfl⟩

theorem State.ownSource_iff (s : State) : s.ownSource = true ↔ OwnSource s := by
  simp [State.ownSource, State.hasSync, OwnSource]

theorem State.setLocked_eq (s : State) (b : Bool) : s.setLocked b = lockedNow s b := by
  by_cases h : s.locked = b
  · subst h; simp [State.setLocked, lockedNow]
  · simp [State.setLocked, lockedNow, h]

theorem State.activated_time {t : State} (h : OwnSource t) (hs : t.timeSet = false) : t.activated.timeSet = true ∧ t.activated.locked = true ∧ t.activated.time = 0 := by
  have hown : State.ownSource { t with power := .active, hostRegions := Config.hostRegions } = true := (State.ownSource_iff _).mpr h
  have hset : ¬ t.timeSet = true := by rw [hs]; decide
  rw [State.activated, if_pos hown, State.ownTime, if_neg hset, State.setLocked_eq]
  exact ⟨rfl, rfl, rfl⟩

/-! ## A start that no vital step stops -/

/-- Steps 1, 2 and 7 succeed. -/
structure Starts (s : State) (b : BootIn) (res : List BootResult) : Prop where
  length : res.length = 7
  vitalPass : ∀ n r, (n, r) ∈ bootOrder.zip res → vital n = true → Passes s b n r

/-- Every step but n succeeds. -/
def OthersPass (s : State) (b : BootIn) (res : List BootResult) (n : Nat) : Prop := ∀ m q, (m, q) ∈ bootOrder.zip res → m ≠ n → Passes s b m q

theorem Starts.of_othersPass {s : State} {b : BootIn} {res : List BootResult} {n : Nat} (hlen : res.length = 7) (h : OthersPass s b res n) (hn : vital n = false) : Starts s b res :=
  ⟨hlen, fun m q hm hv => h m q hm fun e => by rw [e, hn] at hv; exact Bool.noConfusion hv⟩

section
variable {s t : State} {b : BootIn} {res : List BootResult}

theorem nodup_bootOrder_zip (hlen : res.length = 7) : ((bootOrder.zip res).map Prod.fst).Nodup := by
  rw [List.map_fst_zip (by rw [hlen]; decide)]
  decide

theorem AtStep.runSteps {n : Nat} {ps : List (Nat × BootResult)} (h : AtStep s n t) (hn : ∀ p ∈ ps, n ≠ p.1) (hd : (ps.map Prod.fst).Nodup) (ha : ∀ p ∈ ps, AtStep s p.1 t)
    (hv : ∀ p ∈ ps, vital p.1 = true → Passes s b p.1 p.2) : AtStep s n (t.runSteps b ps) :=
  ⟨h.booting.runSteps, (State.runSteps_started hd h.power ha hv).1, h.same.trans (State.runSteps_sameFor hn)⟩

theorem State.activated_sameFor (t : State) (n : Nat) : SameFor n t t.activated := by
  obtain ⟨_, _, _, _, _, _, e⟩ := t.activated_eq
  rw [e]
  exact ⟨rfl, fun _ => ⟨rfl, rfl⟩, fun _ => rfl, fun _ => rfl, fun _ => ⟨rfl, rfl⟩, fun _ => ⟨rfl, rfl⟩⟩

theorem State.silent_activated (t : State) : Silent t t.activated := by
  obtain ⟨_, _, _, _, _, _, e⟩ := t.activated_eq
  rw [e]
  exact ⟨⟨rfl, rfl, rfl, rfl⟩, rfl⟩

theorem Starts.power (h : Starts s b res) : (s.booted b res).power = .started :=
  (State.runSteps_started (nodup_bootOrder_zip h.length) rfl (fun p _ => .starting s p.1) fun p hp => h.vitalPass p.1 p.2 hp).1

theorem Starts.exec_boot (h : Starts s b res) :
    exec (.boot res b.failing b.image b.ver) s = .next (s.booted b res).activated := by
  rw [Machine.exec_boot s b h.length]
  exact if_pos h.power

/-- Step n of a start that goes on: the state before it, and what of the step is found in the active device. -/
theorem Starts.step (h : Starts s b res) {n : Nat} {r : BootResult} (hr : (n, r) ∈ bootOrder.zip res) :
    ∃ u, AtStep s n u ∧ SameFor n (u.bootStep n r b) (s.booted b res).activated ∧
      (OthersPass s b res n → Silent s.starting u ∧ Silent (u.bootStep n r b) (s.booted b res).activated) := by
  obtain ⟨before, after, hsplit⟩ := List.append_of_mem hr
  have hd := nodup_bootOrder_zip h.length
  rw [hsplit, List.map_append, List.map_cons, List.nodup_append] at hd
  obtain ⟨hdBefore, hdRest, hdisjoint⟩ := hd
  obtain ⟨hnAfter, hdAfter⟩ := List.nodup_cons.mp hdRest
  have memBefore : ∀ p ∈ before, p ∈ bootOrder.zip res := fun p hp => by rw [hsplit]; exact List.mem_append_left _ hp
  have memAfter : ∀ p ∈ after, p ∈ bootOrder.zip res := fun p hp => by rw [hsplit]; exact List.mem_append_right _ (List.mem_cons_of_mem _ hp)
  have neBefore : ∀ p ∈ before, n ≠ p.1 := fun p hp e => hdisjoint _ (List.mem_map_of_mem hp) _ List.mem_cons_self e.symm
  have neAfter : ∀ p ∈ after, n ≠ p.1 := fun p hp e => hnAfter (List.mem_map.mpr ⟨p, hp, e.symm⟩)
  have vBefore : ∀ p ∈ before, vital p.1 = true → Passes s b p.1 p.2 := fun p hp => h.vitalPass p.1 p.2 (memBefore p hp)
  have vAfter : ∀ p ∈ after, vital p.1 = true → Passes s b p.1 p.2 := fun p hp => h.vitalPass p.1 p.2 (memAfter p hp)
  have reach (m : Nat) (hm : ∀ p ∈ before, m ≠ p.1) : AtStep s m (s.starting.runSteps b before) :=
    (AtStep.starting s m).runSteps hm hdBefore (fun p _ => .starting s p.1) vBefore
  have hu := reach n neBefore
  have hnext : ∀ p ∈ after, AtStep s p.1 ((s.starting.runSteps b before).bootStep n r b) := fun p hp =>
    (reach p.1 fun q hq e => hdisjoint _ (List.mem_map_of_mem hq) _ (List.mem_cons_of_mem _ (List.mem_map_of_mem hp)) e.symm).bootStep_other
      (Ne.symm (neAfter p hp)) hu (h.vitalPass n r hr)
  have hend : s.booted b res = ((s.starting.runSteps b before).bootStep n r b).runSteps b after := by
    rw [State.booted, hsplit, State.runSteps, List.foldl_append, List.foldl_cons]
    rfl
  refine ⟨_, hu, ?_, fun ho => ⟨?_, ?_⟩⟩
  · rw [hend]
    exact (State.runSteps_sameFor neAfter).trans (State.activated_sameFor _ n)
  · exact (State.runSteps_started hdBefore rfl (fun p _ => .starting s p.1) vBefore).2 fun p hp => ho p.1 p.2 (memBefore p hp) (Ne.symm (neBefore p hp))
  · rw [hend]
    exact ((State.runSteps_started hdAfter (hu.power_bootStep (h.vitalPass n r hr)) hnext vAfter).2 fun p hp => ho p.1 p.2 (memAfter p hp) (Ne.symm (neAfter p hp))).trans
      (State.silent_activated _)

/-- An active device has the persistent store, the regions and the event area of its configuration, and its own
time where it is its own source. -/
theorem booted_active (s : State) (b : BootIn) (res : List BootResult) : let t := (s.booted b res).activated
    t.power = .active ∧ Persists s t ∧ t.starts = s.starts + 1 ∧ t.hostRegions = Config.hostRegions ∧ t.areaBase = Config.eventArea ∧
      (OwnSource s → t.timeSet = true ∧ t.locked = true ∧ t.time = 0) ∧ ∀ c, (t.cluster c).fused = (s.cold.cluster c).fused := by
  obtain ⟨⟨store, hostSide, gone⟩, starts, -, area, time, source, fused⟩ : Booting s (s.booted b res) := (Booting.starting s).runSteps
  have own (ho : OwnSource s) := State.activated_time (source ho) time
  obtain ⟨_, _, _, _, _, _, e⟩ := (s.booted b res).activated_eq
  rw [e] at own ⊢
  exact ⟨rfl, ⟨store, hostSide, gone⟩, starts, rfl, area, own, fused⟩

end

/-! ## What step n leaves in the active device -/

/-- An entry written at this start stands in the record of t. -/
theorem entry_of_setEntry {u t : State} {n : Nat} {out : BitVec 2} {code : BitVec 16} (h : t.entry n = (u.setEntry n out code).entry n) (hs : t.starts = u.starts) :
    Entry t n out.toNat (if out = 2 then min ((u.entry n).fails.toNat + 1) 255 else 0) (if out = 2 then code.toNat else 0) := by
  rw [Entry, h, State.entry_setEntry, if_pos rfl, hs]
  split <;> simp

theorem State.entry_bootFail (s : State) (m n : Nat) : (s.bootFail m).entry n = s.entry n := by
  obtain ⟨_, _, _, _, e⟩ := s.bootFail_eq m
  rw [e]
  rfl

theorem State.entry_stepFails (s : State) (n : Nat) (r : BootResult) (b : BootIn) : (s.stepFails n r b).entry n = (s.setEntry n 2 r.code).entry n := by
  rw [State.stepFails, State.stepFailed_eq]
  exact State.entry_bootFail ..

theorem State.links_setEntry (s : State) (n : Nat) (out : BitVec 2) (code : BitVec 16) : (s.setEntry n out code).links = s.links := rfl

theorem State.links_stepOk (s : State) (r : BootResult) (b : BootIn) (alt : Bool) : (s.stepOk 5 r b alt).links = linksTrained alt s.links := by
  rw [State.stepOk_eq]
  simp only [if_true]

theorem State.clusters_setEntry (s : State) (n : Nat) (out : BitVec 2) (code : BitVec 16) : (s.setEntry n out code).clusters = s.clusters := rfl

theorem State.clusters_stepOk (s : State) (r : BootResult) (b : BootIn) : (s.stepOk 6 r b true).clusters = clustersExcluded s.excludedMask s.clusters := by
  rw [State.stepOk_eq]
  simp only [if_true]

theorem State.channels_stepFails (s : State) (r : BootResult) (b : BootIn) : (s.stepFails 3 r b).badChannels = r.units := by
  rw [State.stepFails, State.stepFailed_eq]
  simp only [if_true]

theorem State.links_stepFails (s : State) (r : BootResult) (b : BootIn) : (s.stepFails 5 r b).links = linksFailed r.units s.links := by
  obtain ⟨_, _, _, _, e⟩ := (s.setEntry 5 2 r.code).bootFail_eq 5
  rw [State.stepFails, State.stepFailed_eq, e]
  simp only [if_true]
  rfl

theorem State.mask_stepFails (s : State) (r : BootResult) (b : BootIn) : (s.stepFails 6 r b).excludedMask = clusterMask b.failing := by
  rw [State.stepFails, State.stepFailed_eq]
  simp only [if_true]

section
variable {s t u : State} {n : Nat} {r : BootResult} {b : BootIn} (hu : AtStep s n u)
include hu

theorem AtStep.entry_of_fails (he : t.entry n = (u.stepFails n r b).entry n) (hs : t.starts = s.starts + 1) : Entry t n 2 (fails1 s n) r.code.toNat := by
  have record := entry_of_setEntry (he.trans (State.entry_stepFails ..)) (hs.trans hu.booting.starts.symm)
  have hentry : u.entry n = s.entry n := hu.same.entry
  rw [hentry] at record
  exact record

theorem AtStep.told_of_fails (hq : Silent s.starting u) (ht : Silent (u.stepFails n r b) t) : ToldFailure s t n :=
  toldFailure (hu.booting.setEntry n 2 r.code) (hq.trans (State.silent_setEntry ..)) ((State.silent_stepFailed ..).trans ht)

/-- A failure of a step that no context can be built without. -/
theorem AtStep.recovers (hq : Silent s.starting u) (hv : vital n = true) (hf : ¬ FailedLast s n) (hp : ¬ Passes s b n r) : let t := u.bootStep n r b
    t.power = .recovery ∧ Entry t n 2 (fails1 s n) r.code.toNat ∧ ToldFailure s t n := by
  have hstarts := (hu.booting.bootStep n r b).starts
  rw [hu.bootStep_fails hf hp, if_pos hv] at hstarts ⊢
  exact ⟨rfl, hu.entry_of_fails rfl hstarts, hu.told_of_fails hq (State.silent_toRecovery _)⟩

end

section
variable {s : State} {b : BootIn} {res : List BootResult} (h : Starts s b res) {n : Nat} {r : BootResult} (hr : (n, r) ∈ bootOrder.zip res)
include h hr

theorem Starts.passed (hp : Passes s b n r) : let t := (s.booted b res).activated
    Entry t n 1 0 0 ∧ (n = 2 → t.imageVersion = BitVec.ofNat 32 b.ver ∧ t.imageDigest = Config.shake256 b.image) ∧ (n = 3 → t.badChannels = []) ∧ (n = 4 → t.halfBridges = []) ∧
      (n = 5 → t.deviceId = r.device.getD s.deviceId ∧ ∀ l < 18, (t.link l).st = 1) ∧ (n = 6 → t.excludedMask = 0) := by
  obtain ⟨u, hu, hs, -⟩ := h.step hr
  obtain ⟨-, -, hstarts, -⟩ := booted_active s b res
  rw [hu.bootStep_passes hp] at hs
  refine ⟨entry_of_setEntry hs.entry ?_, ?_, ?_, ?_, ?_, ?_⟩
  · rw [hstarts, State.stepOk_eq]
    exact hu.booting.starts.symm
  · rintro rfl; exact hs.image rfl
  · rintro rfl; exact hs.channels rfl
  · rintro rfl; exact hs.bridges rfl
  · rintro rfl
    obtain ⟨hid, hlinks⟩ := hs.links rfl
    obtain ⟨hid', -⟩ := hu.same.links rfl
    refine ⟨hid.trans (congrArg r.device.getD hid'), fun l hl => ?_⟩
    have hk : (s.booted b res).activated.links = linksTrained false u.links := by rw [hlinks, State.links_setEntry, State.links_stepOk]
    rw [State.link, hk, get_linksTrained, if_pos hl]
    rfl
  · rintro rfl; exact (hs.clusters rfl).1

theorem Starts.failed (hn : vital n = false) (hf : ¬ FailedLast s n) (hp : ¬ Passes s b n r) (ho : OthersPass s b res n) : let t := (s.booted b res).activated
    Entry t n 2 (fails1 s n) r.code.toNat ∧ ToldFailure s t n ∧ (n = 3 → t.badChannels = r.units) ∧ (n = 5 → ∀ l < 18, (t.link l).st = if r.units.contains l then 5 else 1) ∧
      (n = 6 → ∀ c < 128, t.excludedMask.getLsbD c = b.failing.contains c) := by
  obtain ⟨u, hu, hs, hsilent⟩ := h.step hr
  obtain ⟨hquiet, hafter⟩ := hsilent ho
  obtain ⟨-, -, hstarts, -⟩ := booted_active s b res
  have hstep : u.bootStep n r b = u.stepFails n r b := by rw [hu.bootStep_fails hf hp, hn]; rfl
  rw [hstep] at hs hafter
  refine ⟨hu.entry_of_fails hs.entry hstarts, hu.told_of_fails hquiet hafter, ?_, ?_, ?_⟩
  · rintro rfl
    rw [hs.channels rfl, State.channels_stepFails]
  · rintro rfl l hl
    rw [State.link, (hs.links rfl).2, State.links_stepFails, get_linksFailed, if_pos hl]
    split <;> rfl
  · rintro rfl c hc
    rw [(hs.clusters rfl).1, State.mask_stepFails, getLsbD_clusterMask _ hc]

theorem Starts.alternative (hn : n = 4 ∨ n = 5 ∨ n = 6) (hf : FailedLast s n) : let t := (s.booted b res).activated
    Entry t n 3 0 0 ∧ (n = 4 → t.halfBridges = r.units ∧ (OthersPass s b res 4 → ToldFailure s t 4)) ∧
      (n = 5 → ∀ l < 18, if (s.link l).st = 5 then (t.link l).st = 0 ∧ (t.link l).held = true else (t.link l).st = 1) ∧
      (n = 6 → t.excludedMask = s.excludedMask ∧ ∀ c < 128, (t.cluster c).excluded = s.excludedMask.getLsbD c) := by
  obtain ⟨u, hu, hs, hsilent⟩ := h.step hr
  obtain ⟨-, -, hstarts, -⟩ := booted_active s b res
  rw [hu.bootStep_alternative hf hn] at hs hsilent
  refine ⟨?_, ?_, ?_, ?_⟩
  · have hentry : (s.booted b res).activated.entry n = ((u.stepOk n r b true).setEntry n 3 0).entry n := by
      rw [hs.entry]
      split
      · exact State.entry_bootFail ..
      · rfl
    refine entry_of_setEntry hentry ?_
    rw [hstarts, State.stepOk_eq]
    exact hu.booting.starts.symm
  · rintro rfl
    rw [if_pos rfl] at hs hsilent
    refine ⟨?_, fun ho => ?_⟩
    · obtain ⟨_, _, _, _, e⟩ := ((u.stepOk 4 r b true).setEntry 4 3 0).bootFail_eq 4
      rw [hs.bridges rfl, e]
      rfl
    · obtain ⟨hquiet, hafter⟩ := hsilent ho
      exact toldFailure ((hu.booting.stepOk 4 r b true).setEntry 4 3 0) ((hquiet.trans (State.silent_stepOk ..)).trans (State.silent_setEntry ..)) hafter
  · rintro rfl l hl
    rw [if_neg (by decide)] at hs
    have hk : (s.booted b res).activated.link l = (State.link s.starting l).afterTraining true := by
      rw [State.link, (hs.links rfl).2, State.links_setEntry, State.links_stepOk, get_linksTrained, if_pos hl, (hu.same.links rfl).2, State.link]
    rw [hk, State.link_starting]
    by_cases h5 : (s.link l).st = 5 <;> simp [Link.afterTraining, linkFailed, linkDown, linkTraining, h5]
  · rintro rfl
    rw [if_neg (by decide)] at hs
    obtain ⟨hmask, hclusters⟩ := hs.clusters rfl
    obtain ⟨hmask', hclusters'⟩ := hu.same.clusters rfl
    refine ⟨?_, fun c hc => ?_⟩
    · exact hmask.trans hmask'
    · rw [State.cluster, hclusters, State.clusters_setEntry, State.clusters_stepOk, get_clustersExcluded, if_pos hc, hmask', hclusters']
      have hcold : (AMap.get {} s.starting.clusters c).excluded = false := by
        show (s.cold.cluster c).excluded = false
        rw [State.cluster_cold]
        split <;> rfl
      show _ = s.starting.excludedMask.getLsbD c
      cases s.starting.excludedMask.getLsbD c <;> simp [hcold]

end
/-! ## Starts that end in recovery (R410) -/

/-- A start whose first steps lead to recovery goes no further. -/
theorem exec_boot_recovery {s : State} {res : List BootResult} {b : BootIn} {first rest : List (Nat × BootResult)} (hlen : res.length = 7)
    (hsplit : bootOrder.zip res = first ++ rest) (hr : (s.starting.runSteps b first).power = .recovery) :
    exec (.boot res b.failing b.image b.ver) s = .next (s.starting.runSteps b first) := by
  have hend : s.booted b res = s.starting.runSteps b first := by
    rw [State.booted, hsplit, State.runSteps, List.foldl_append]
    exact State.runSteps_recovery hr
  rw [exec_boot s b hlen, hend]
  exact if_neg (by rw [hr]; decide)

theorem bootStep_recovers_at_once {s : State} (r : BootResult) (b : BootIn) (hf : FailedLast s 1) : s.starting.bootStep 1 r b = s.starting.toRecovery := by
  have hu := AtStep.starting s 1
  rw [State.bootStep_eq 1 r b hu.power, if_pos (hu.failedBefore_iff.mpr hf)]
  rfl

/-! ## The fuses of a G120 (R11) -/

/-- Of the 32 clusters of a glade the fuses of a G120 take out two. -/
theorem length_fusedPair (g : Nat) : ((List.range 32).filter (fun i => fusedPair (32 * g + i))).length = 2 := by
  let a := Config.fusedOut g % 32
  let c := (a + 1 + Config.fusedOut (4 + g) % 31) % 32
  have hne : a ≠ c := by omega
  have hmem : ((List.range 32).filter (fun i => fusedPair (32 * g + i))).toFinset = {a, c} := by
    ext i
    simp only [List.mem_toFinset, List.mem_filter, List.mem_range, Finset.mem_insert, Finset.mem_singleton]
    constructor
    · rintro ⟨hi, hp⟩
      have h1 : (32 * g + i) / 32 = g := by omega
      have h2 : (32 * g + i) % 32 = i := by omega
      simpa [fusedPair, h1, h2] using hp
    · intro h
      have hi : i < 32 := by omega
      have h1 : (32 * g + i) / 32 = g := by omega
      have h2 : (32 * g + i) % 32 = i := by omega
      exact ⟨hi, by simpa [fusedPair, h1, h2] using h⟩
  rw [← List.toFinset_card_of_nodup (List.nodup_range.filter _), hmem, Finset.card_pair hne]

theorem fused_cold {s : State} (h : ∀ c, (s.cluster c).fused = false) {c : Nat} (hc : c < 128) : (s.cold.cluster c).fused = (s.skuG120 && fusedPair c) := by
  rw [State.cluster_cold, h c]
  cases hk : (s.skuG120 && fusedPair c) <;> simp [hc]

theorem length_fused_cold {s : State} (h : ∀ c, (s.cluster c).fused = false) {g : Nat} (hg : g < 4) :
    ((List.range 32).filter (fun i => (s.cold.cluster (32 * g + i)).fused)).length = if s.skuG120 then 2 else 0 := by
  have hcong : (List.range 32).filter (fun i => (s.cold.cluster (32 * g + i)).fused) = (List.range 32).filter (fun i => s.skuG120 && fusedPair (32 * g + i)) :=
    List.filter_congr fun i hi => fused_cold h (by have := List.mem_range.mp hi; omega)
  rw [hcong]
  cases s.skuG120 with
  | false => simp
  | true => exact length_fusedPair g

/-! ## The hypotheses of the claim -/

section
variable {s : State} {res : List BootResult} {b : BootIn} {n : Nat}

/-- Every step but n succeeds where none of them failed at the previous start. -/
theorem passes_of_allBut (h : allBut s res b.image b.ver n) {m : Nat} {q : BootResult} (hm : (m, q) ∈ bootOrder.zip res) (hne : m ≠ n) (hf : ¬ FailedLast s m)
    (h6 : m = 6 → b.failing = []) : Passes s b m q := by
  obtain ⟨-, hok, himage⟩ := h
  obtain ⟨h1, -, hq⟩ := mem_bootOrder_zip.mp hm
  refine ⟨hf, hok (m - 1) q hq (by omega), fun h2 => ?_, h6⟩
  subst h2
  obtain ⟨hdigest, hroot, hver⟩ := himage q hq
  simp [State.imageOk, hdigest, hroot, hver, leBytes_eq_bytesOf]

theorem othersPass_of_allBut (h : allBut s res b.image b.ver n) (hf : ∀ m, 1 ≤ m → m ≤ 7 → m ≠ n → ¬ FailedLast s m) (h6 : n ≠ 6 → b.failing = []) :
    OthersPass s b res n := fun m q hm hne => by
  obtain ⟨h1, h7, -⟩ := mem_bootOrder_zip.mp hm
  exact passes_of_allBut h hm hne (hf m h1 h7 hne) fun e => h6 fun e' => hne (e.trans e'.symm)

theorem allBut_of_all (h : allBut s res b.image b.ver 0) (n : Nat) : allBut s res b.image b.ver n :=
  ⟨h.1, fun i r hi _ => h.2.1 i r hi (by omega), h.2.2⟩

theorem exists_result (hlen : res.length = 7) (h1 : 1 ≤ n) (h7 : n ≤ 7) : ∃ r, (n, r) ∈ bootOrder.zip res :=
  ⟨res[n - 1], mem_bootOrder_zip.mpr ⟨h1, h7, List.getElem?_eq_getElem (by omega)⟩⟩

end

/-! ## Parts of the claim (R408 to R411) -/

section
variable {s : State} {res : List BootResult} {b : BootIn}

/-- A start whose steps succeed, but for clusters that fail the self-test. -/
theorem start_succeeds (ha : allBut s res b.image b.ver 0) (hf : ∀ n, 1 ≤ n → n ≤ 7 → ¬ FailedLast s n) :
    ∃ t, exec (.boot res b.failing b.image b.ver) s = .next t ∧ Persists s t ∧ t.starts = s.starts + 1 ∧ t.power = .active ∧ t.imageVersion = BitVec.ofNat 32 b.ver ∧
        t.imageDigest = Config.shake256 b.image ∧ (∀ n, n = 1 ∨ n = 2 ∨ n = 3 ∨ n = 4 ∨ n = 5 ∨ n = 7 → Entry t n 1 0 0) ∧ (∀ l < 18, (t.link l).st = 1) ∧
        (∀ r, res[4]? = some r → t.deviceId = r.device.getD s.deviceId) ∧ t.badChannels = [] ∧ t.halfBridges = [] ∧
        (OwnSource s → t.timeSet = true ∧ t.locked = true ∧ t.time = 0) ∧
        (b.failing = [] → Entry t 6 1 0 0 ∧ t.excludedMask = 0 ∧ t.hostMem = s.hostMem ∧ t.out = s.out) ∧
        t.hostRegions = Config.hostRegions ∧ t.areaBase = Config.eventArea ∧
        ((∀ c, (s.cluster c).fused = false) → ∀ g < 4, ((List.range 32).filter (fun i => (t.cluster (32 * g + i)).fused)).length = if s.skuG120 then 2 else 0) ∧
        (b.failing ≠ [] → (t.entry 6).out = 2 ∧ (∀ c < 128, t.excludedMask.getLsbD c = b.failing.contains c) ∧ ToldFailure s t 6) := by
  have ho : OthersPass s b res 6 := othersPass_of_allBut (allBut_of_all ha 6) (fun m h1 h7 _ => hf m h1 h7) (absurd rfl)
  have hs := Starts.of_othersPass ha.1 ho (by decide)
  have result {n : Nat} (h1 : 1 ≤ n) (h7 : n ≤ 7) := exists_result (res := res) ha.1 h1 h7
  obtain ⟨hactive, hpersists, hstarts, hregions, harea, htime, hfused⟩ := booted_active s b res
  have passed {n : Nat} {r : BootResult} (hr : (n, r) ∈ bootOrder.zip res) (hn : n ≠ 6) := hs.passed hr (ho n r hr hn)
  obtain ⟨r2, hr2⟩ := result (n := 2) (by omega) (by omega)
  obtain ⟨r3, hr3⟩ := result (n := 3) (by omega) (by omega)
  obtain ⟨r4, hr4⟩ := result (n := 4) (by omega) (by omega)
  obtain ⟨r5, hr5⟩ := result (n := 5) (by omega) (by omega)
  obtain ⟨r6, hr6⟩ := result (n := 6) (by omega) (by omega)
  obtain ⟨-, himage, -⟩ := passed hr2 (by decide)
  obtain ⟨-, -, hchannels, -⟩ := passed hr3 (by decide)
  obtain ⟨-, -, -, hbridges, -⟩ := passed hr4 (by decide)
  obtain ⟨-, -, -, -, hlinks, -⟩ := passed hr5 (by decide)
  refine ⟨_, hs.exec_boot, hpersists, hstarts, hactive, (himage rfl).1, (himage rfl).2, fun n hn => ?_, (hlinks rfl).2, fun r hr => ?_, hchannels rfl, hbridges rfl, htime, fun he => ?_, hregions, harea,
    fun hc g hg => ?_, fun hne => ?_⟩
  · obtain ⟨r, hr⟩ := result (n := n) (by omega) (by omega)
    exact (passed hr (by omega)).1
  · have hr' : (5, r) ∈ bootOrder.zip res := mem_bootOrder_zip.mpr ⟨by omega, by omega, hr⟩
    obtain ⟨-, -, -, -, hid, -⟩ := passed hr' (by decide)
    exact (hid rfl).1
  · have h6 := passes_of_allBut ha hr6 (by decide) (hf 6 (by omega) (by omega)) fun _ => he
    obtain ⟨hentry, -, -, -, -, hmask⟩ := hs.passed hr6 h6
    obtain ⟨u, hu, -, hsilent⟩ := hs.step hr6
    obtain ⟨hbefore, hafter⟩ := hsilent ho
    obtain ⟨⟨-, hmem, -⟩, hout⟩ := (hbefore.trans (hu.silent_bootStep h6)).trans hafter
    exact ⟨hentry, hmask rfl, hmem, hout⟩
  · simp only [hfused]
    exact length_fused_cold hc hg
  · obtain ⟨hentry, htold, -, -, hmask⟩ := hs.failed hr6 (by decide) (hf 6 (by omega) (by omega)) (fun hp => hne (hp.selfTest rfl)) ho
    rw [hentry]
    exact ⟨rfl, hmask rfl, htold⟩

/-- The start after a failed self-test runs without the clusters that failed it. -/
theorem start_excludes (ha : allBut s res b.image b.ver 6) (hf : ∀ n, 1 ≤ n → n ≤ 7 → n ≠ 6 → ¬ FailedLast s n) (h6 : FailedLast s 6) :
    ∃ t, exec (.boot res b.failing b.image b.ver) s = .next t ∧ t.power = .active ∧ Entry t 6 3 0 0 ∧ t.excludedMask = s.excludedMask ∧
      ∀ c < 128, (t.cluster c).excluded = s.excludedMask.getLsbD c := by
  have ho : OthersPass s b res 6 := othersPass_of_allBut ha hf (absurd rfl)
  have hs := Starts.of_othersPass ha.1 ho (by decide)
  obtain ⟨r, hr⟩ := exists_result (n := 6) ha.1 (by omega) (by omega)
  obtain ⟨hentry, -, -, hexcluded⟩ := hs.alternative hr (.inr (.inr rfl)) h6
  obtain ⟨hmask, hclusters⟩ := hexcluded rfl
  exact ⟨_, hs.exec_boot, (booted_active s _ res).1, hentry, hmask, hclusters⟩

/-- A failure of step 3, 4 or 5, and the start after it. -/
theorem start_without (n : Nat) (r : BootResult) (hn : n = 3 ∨ n = 4 ∨ n = 5) (ha : allBut s res b.image b.ver n) (hr : res[n - 1]? = some r) (he : b.failing = [])
    (hf : ∀ m, 1 ≤ m → m ≤ 7 → m ≠ n → ¬ FailedLast s m) :
    (¬ FailedLast s n → r.ok = false →
        ∃ t, exec (.boot res b.failing b.image b.ver) s = .next t ∧ t.power = .active ∧ Entry t n 2 (fails1 s n) r.code.toNat ∧ ToldFailure s t n ∧ (n = 3 → t.badChannels = r.units) ∧
          (n = 5 → ∀ l < 18, (t.link l).st = if r.units.contains l then 5 else 1)) ∧
      (FailedLast s n → n ≠ 3 → ∃ t, exec (.boot res b.failing b.image b.ver) s = .next t ∧ t.power = .active ∧ Entry t n 3 0 0 ∧ (n = 4 → t.halfBridges = r.units ∧ ToldFailure s t 4) ∧
          (n = 5 → ∀ l < 18, if (s.link l).st = 5 then (t.link l).st = 0 ∧ (t.link l).held = true else (t.link l).st = 1)) := by
  have ho : OthersPass s b res n := othersPass_of_allBut ha hf fun _ => he
  have hv : vital n = false := by rcases hn with rfl | rfl | rfl <;> decide
  have hs := Starts.of_othersPass ha.1 ho hv
  have hmem : (n, r) ∈ bootOrder.zip res := mem_bootOrder_zip.mpr ⟨by omega, by omega, hr⟩
  refine ⟨fun hl hok => ?_, fun hl h3 => ?_⟩
  · have hp (hp : Passes s b n r) : False := by simpa [hok] using hp.ok
    obtain ⟨hentry, htold, hchannels, hlinks, -⟩ := hs.failed hmem hv hl hp ho
    exact ⟨_, hs.exec_boot, (booted_active s _ res).1, hentry, htold, hchannels, hlinks⟩
  · obtain ⟨hentry, hbridges, hlinks, -⟩ := hs.alternative hmem (by omega) hl
    exact ⟨_, hs.exec_boot, (booted_active s _ res).1, hentry, fun e => ⟨(hbridges e).1, (hbridges e).2 (e ▸ ho)⟩, hlinks⟩

/-- A failure of step 1 leaves recovery. -/
theorem start_recovers_selfTest (r : BootResult) (rest : List BootResult) (hres : res = r :: rest) (hlen : rest.length = 6) (hf : ¬ FailedLast s 1) (hok : r.ok = false) :
    ∃ t, exec (.boot res b.failing b.image b.ver) s = .next t ∧ t.power = .recovery ∧ Persists s t ∧ t.hostRegions = s.hostRegions ∧ Entry t 1 2 (fails1 s 1) r.code.toNat ∧ ToldFailure s t 1 := by
  subst hres
  have hu := AtStep.starting s 1
  have hp (hp : Passes s b 1 r) : False := by simpa [hok] using hp.ok
  obtain ⟨hpower, hentry, htold⟩ := hu.recovers (.refl _) (by decide) hf hp
  have hb := hu.booting.bootStep 1 r b
  exact ⟨_, exec_boot_recovery (first := [(1, r)]) (by simp [hlen]) rfl hpower, hpower, hb.persists, hb.regions, hentry, htold⟩

/-- An image that is not accepted leaves recovery. -/
theorem start_recovers_image (r r2 : BootResult) (rest : List BootResult) (hres : res = r :: r2 :: rest) (hlen : rest.length = 5) (hf : ¬ FailedLast s 1) (hf2 : ¬ FailedLast s 2)
    (hok : r.ok = true) (hbad : r2.ok = false ∨ Config.shake256 r2.key ≠ s.rootDigest ∨ b.ver < s.rollback.toNat) :
    ∃ t, exec (.boot res b.failing b.image b.ver) s = .next t ∧ t.power = .recovery ∧ Persists s t ∧ Entry t 2 2 (fails1 s 2) r2.code.toNat ∧ ToldFailure s t 2 := by
  subst hres
  have hp1 : Passes s b 1 r := ⟨hf, hok, fun e => by omega, fun e => by omega⟩
  have hp2 (hp : Passes s b 2 r2) : False := by
    have himage := hp.image rfl
    simp only [State.imageOk, Bool.and_eq_true, beq_iff_eq, decide_eq_true_eq] at himage
    rcases hbad with h | h | h
    · simpa [h] using hp.ok
    · exact h himage.1.1
    · omega
  have hu1 := AtStep.starting s 1
  have hu2 := (AtStep.starting s 2).bootStep_other (by decide) hu1 fun _ => hp1
  obtain ⟨hpower, hentry, htold⟩ := hu2.recovers (hu1.silent_bootStep hp1) (by decide) hf2 hp2
  have hb := hu2.booting.bootStep 2 r2 b
  exact ⟨_, exec_boot_recovery (first := [(1, r), (2, r2)]) (by simp [hlen]) rfl hpower, hpower, hb.persists, hentry, htold⟩

/-- Step 1 has no alternative: the start after its failure stays in recovery. -/
theorem start_recovers_again (hlen : res.length = 7) (hf : FailedLast s 1) :
    ∃ t, exec (.boot res b.failing b.image b.ver) s = .next t ∧ t.power = .recovery ∧ Persists s t ∧ t.hostRegions = s.hostRegions ∧ t.bootRec = s.bootRec := by
  obtain ⟨r, rest, rfl⟩ : ∃ r rest, res = r :: rest := List.exists_cons_of_ne_nil (by rintro rfl; simp at hlen)
  have hstep : s.starting.runSteps b [(1, r)] = s.starting.toRecovery := bootStep_recovers_at_once r _ hf
  have hb := (Booting.starting s).toRecovery
  refine ⟨_, exec_boot_recovery (first := [(1, r)]) hlen rfl (by rw [hstep]; rfl), ?_⟩
  rw [hstep]
  exact ⟨rfl, hb.persists, hb.regions, rfl⟩

/-- Power lost in step 1. -/
theorem start_cut_short (s : State) (b : BootIn) : ∃ t, exec (.boot [] b.failing b.image b.ver) s = .next t ∧ t.power = .off ∧ Persists s t ∧ t.hostRegions = s.hostRegions ∧ t.entry 1 = {} := by
  obtain ⟨store, hostSide, gone⟩ := (Booting.starting s).persists
  exact ⟨{ s.starting with bootRec := s.starting.bootRec.put 1 {}, power := .off }, rfl, rfl, ⟨store, hostSide, gone⟩, rfl, AMap.get_put_same ..⟩

end

end Sys2Proof.Machine

namespace Sys2Proof.Claims

open Sys2Proof.Machine

/-- The first part of O60 (R11, R297, R403, R408 to R411). -/
theorem deviceStarts : DeviceStarts := by
  intro s res failing image ver
  let b : BootIn := { failing := failing, image := image, ver := ver }
  refine ⟨start_succeeds (b := b), start_excludes (b := b), start_without (b := b), start_recovers_selfTest (b := b), start_recovers_image (b := b), start_recovers_again (b := b), ?_, ?_⟩
  · rintro rfl
    exact start_cut_short s b
  · obtain ⟨store, hostSide, gone⟩ := (Booting.starting s).persists
    exact ⟨{ s.cold with power := .off }, rfl, rfl, ⟨store, hostSide, gone⟩, rfl, rfl, rfl, rfl, rfl, rfl⟩

end Sys2Proof.Claims

open Sys2Proof.Claims

/-- Settles O60: the start of the device by its seven steps, and its error records and power steps. -/
theorem bootErrorsAndPower : Obligations.BootErrorsAndPower := ⟨deviceStarts, errorsAndPower⟩
end

section
/-! Fields of the encoding, one by one: every field code reads back, and the bits of a join are the parts joined (R86, R89). -/

namespace Sys2Proof

/-! ## Field codes -/

@[simp] theorem Cond.ofCode_mod {m : Nat} (h : 8 ≤ m) (c : Cond) : Cond.ofCode (c.code % m) = some c := by
  rw [Nat.mod_eq_of_lt (by cases c <;> exact Nat.lt_of_lt_of_le (by decide) h)]; cases c <;> rfl
@[simp] theorem Scope.ofCode_mod {m : Nat} (h : 8 ≤ m) (c : Scope) : Scope.ofCode (c.code % m) = some c := by
  rw [Nat.mod_eq_of_lt (by cases c <;> exact Nat.lt_of_lt_of_le (by decide) h)]; cases c <;> rfl
@[simp] theorem Size.ofCode_mod {m : Nat} (h : 8 ≤ m) (c : Size) : Size.ofCode (c.code % m) = some c := by
  rw [Nat.mod_eq_of_lt (by cases c <;> exact Nat.lt_of_lt_of_le (by decide) h)]; cases c <;> rfl
@[simp] theorem ASize.ofCode_mod {m : Nat} (h : 8 ≤ m) (c : ASize) : ASize.ofCode (c.code % m) = some c := by
  rw [Nat.mod_eq_of_lt (by cases c <;> exact Nat.lt_of_lt_of_le (by decide) h)]; cases c <;> rfl
@[simp] theorem LdClass.ofCode_mod {m : Nat} (h : 8 ≤ m) (c : LdClass) : LdClass.ofCode (c.code % m) = some c := by
  rw [Nat.mod_eq_of_lt (by cases c <;> exact Nat.lt_of_lt_of_le (by decide) h)]; cases c <;> rfl
@[simp] theorem StClass.ofCode_mod {m : Nat} (h : 8 ≤ m) (c : StClass) : StClass.ofCode (c.code % m) = some c := by
  rw [Nat.mod_eq_of_lt (by cases c <;> exact Nat.lt_of_lt_of_le (by decide) h)]; cases c <;> rfl
@[simp] theorem VClass.ofCode_mod {m : Nat} (h : 8 ≤ m) (c : VClass) : VClass.ofCode (c.code % m) = some c := by
  rw [Nat.mod_eq_of_lt (by cases c <;> exact Nat.lt_of_lt_of_le (by decide) h)]; cases c <;> rfl
@[simp] theorem Dir.ofCode_mod {m : Nat} (h : 4 ≤ m) (c : Dir) : Dir.ofCode (c.code % m) = some c := by
  rw [Nat.mod_eq_of_lt (by cases c <;> exact Nat.lt_of_lt_of_le (by decide) h)]; cases c <;> rfl
@[simp] theorem Eng.ofCode_mod {m : Nat} (h : 8 ≤ m) (c : Eng) : Eng.ofCode (c.code % m) = some c := by
  rw [Nat.mod_eq_of_lt (by cases c <;> exact Nat.lt_of_lt_of_le (by decide) h)]; cases c <;> rfl
@[simp] theorem FenceKind.ofCode_mod {m : Nat} (h : 4 ≤ m) (c : FenceKind) : FenceKind.ofCode (c.code % m) = some c := by
  rw [Nat.mod_eq_of_lt (by cases c <;> exact Nat.lt_of_lt_of_le (by decide) h)]; cases c <;> rfl
@[simp] theorem Ty.ofCode_mod {m : Nat} (h : 16 ≤ m) (c : Ty) : Ty.ofCode (c.code % m) = some c := by
  rw [Nat.mod_eq_of_lt (by cases c <;> exact Nat.lt_of_lt_of_le (by decide) h)]; cases c <;> rfl
@[simp] theorem FTy.ofCode_mod {m : Nat} (h : 16 ≤ m) (c : FTy) : FTy.ofCode (c.code % m) = some c := by
  rw [Nat.mod_eq_of_lt (by cases c <;> exact Nat.lt_of_lt_of_le (by decide) h)]; cases c <;> rfl
@[simp] theorem ITy.ofCode_mod {m : Nat} (h : 16 ≤ m) (c : ITy) : ITy.ofCode (c.code % m) = some c := by
  rw [Nat.mod_eq_of_lt (by cases c <;> exact Nat.lt_of_lt_of_le (by decide) h)]; cases c <;> rfl
@[simp] theorem Rm.ofCode_mod {m : Nat} (h : 8 ≤ m) (c : Rm) : Rm.ofCode (c.code % m) = some c := by
  rw [Nat.mod_eq_of_lt (by cases c <;> exact Nat.lt_of_lt_of_le (by decide) h)]; cases c <;> rfl
@[simp] theorem Rm5.ofCode_mod {m : Nat} (h : 8 ≤ m) (c : Rm5) : Rm5.ofCode (c.code % m) = some c := by
  rw [Nat.mod_eq_of_lt (by cases c <;> exact Nat.lt_of_lt_of_le (by decide) h)]; cases c <;> rfl
@[simp] theorem FCond.ofCode_mod {m : Nat} (h : 8 ≤ m) (c : FCond) : FCond.ofCode (c.code % m) = some c := by
  rw [Nat.mod_eq_of_lt (by cases c <;> exact Nat.lt_of_lt_of_le (by decide) h)]; cases c <;> rfl
@[simp] theorem RedOp.ofCode_mod {m : Nat} (h : 8 ≤ m) (c : RedOp) : RedOp.ofCode (c.code % m) = some c := by
  rw [Nat.mod_eq_of_lt (by cases c <;> exact Nat.lt_of_lt_of_le (by decide) h)]; cases c <;> rfl

/-! ## Bits of a join. The library's lemmas in a form that simp applies where the width is written as a numeral -/

@[simp] theorem extractLsb'_append_low {v w start len : Nat} {hi : BitVec v} {lo : BitVec w} (h : start + len ≤ w) :
    BitVec.extractLsb' start len (n := no_index (v + w)) (no_index (hi ++ lo)) = BitVec.extractLsb' start len lo := BitVec.extractLsb'_append_eq_of_add_le h
@[simp] theorem extractLsb'_append_high {v w start len : Nat} {hi : BitVec v} {lo : BitVec w} (h : w ≤ start) :
    BitVec.extractLsb' start len (n := no_index (v + w)) (no_index (hi ++ lo)) = BitVec.extractLsb' (start - w) len hi := BitVec.extractLsb'_append_eq_of_le h
theorem append_extractLsb' {w start₁ start₂ len₁ len₂ : Nat} {x : BitVec w} (h : start₂ = start₁ + len₁) :
    no_index (BitVec.extractLsb' start₂ len₂ x ++ BitVec.extractLsb' start₁ len₁ x) = BitVec.extractLsb' start₁ (len₂ + len₁) x := BitVec.extractLsb'_append_extractLsb'_eq_extractLsb' h

/-! ## Flags and narrow names in their fields -/

@[simp] theorem bit_eq_one (b : Bool) : bit b = 1#1 ↔ b = true := by cases b <;> decide
@[simp] theorem bit_false : bit false = 0#1 := rfl

/-- CLASS of FEST is its flag (R91). -/
theorem ofNat_flag (b : Bool) : BitVec.ofNat 3 (if b then 1 else 0) = 0#2 ++ bit b := by cases b <;> rfl

/-- A shift count leaves the upper 30 bits of imm36 zero (R104). -/
theorem imm36_count_high (n : BitVec 6) : BitVec.extractLsb' 6 30 (0#12 ++ BitVec.extractLsb' 0 24 (0#30 ++ n : BitVec 36) : BitVec 36) = 0#30 := by
  revert n; decide

/-! ## The decoder's checks, where they pass -/

@[simp] theorem field_some {α β : Type} (a : α) (k : α → Dec β) : field (some a) k = k a := rfl
@[simp] theorem zeros_true (i : Instr) : zeros true i = .ok i := rfl
theorem ranged_of_wf {i : Instr} (h : i.wf = true) : ranged i = .ok i := if_pos h
@[simp] theorem small_six (x : BitVec 3) (k : BitVec 3 → Dec Instr) : small (six x) k = k x := by simp [small, six]
@[simp] theorem stream_streamReg (x : BitVec 3) (k : BitVec 3 → Dec Instr) : stream (streamReg x) k = k x := by simp [stream, streamReg]

/-! ## The fields of a slot -/

theorem AF.split_join (f : AF) : AF.split f.join = f := by simp [AF.split, AF.join]
theorem VF.split_join (f : VF) : VF.split f.join = f := by simp [VF.split, VF.join]

end Sys2Proof
end

section
/-! Decoding undoes encoding: slot by slot over the groups of R90 and R92, then the bundle of each format (R85, R88). -/

namespace Sys2Proof

/-! ## Slot A, by the groups of R90 -/

theorem decodeAF_encodeAF (i : Instr) (g : BitVec 4) (hg : g ≠ 8#4) (ha : i.isSlotA = true) (hl : i.isLong = false) (hw : i.wf = true) :
    decodeAF { encodeAF i with grd := g } = .ok i := by
  cases i
  case nop | add | sub | mul | mulh | mulhu | div | divu | rem | remu | and | or | xor | andn | sll | srl =>
    dsimp only [encodeAF, mkA]
    simp [decodeAF, hg, decA0, AF.ar, AF.none]
  case sra | rol | min | max | minu | maxu | addw | subw | mulw | lea =>
    dsimp only [encodeAF, mkA]
    simp [decodeAF, hg, decA1, AF.ar]
  case addi | andi | ori | xori | slli | srli | srai | lih | addwi =>
    dsimp only [encodeAF, mkAI, mkA]
    simp [decodeAF, hg, decA2, AF.imm36, AF.count, append_extractLsb', imm36_count_high]
  case set | seti | pset | pseti | plog | sel | clz | ctz | popc | brev | bswap | bfx | bfi | sext | zext | mfold =>
    dsimp only [encodeAF, mkAC, mkA]
    simp [decodeAF, hg, decA3, AF.ar, AF.ar1, AF.bits, AF.cond3, AF.imm33, append_extractLsb', ranged_of_wf hw]
  case b | bp | j | jal | jr | dbnz | trap | eret | brk =>
    dsimp only [encodeAF, mkAB, mkAJ, mkA]
    simp [decodeAF, hg, decA4, AF.ar1, AF.none, AF.code16, AF.disp30, AF.disp42, append_extractLsb', ranged_of_wf hw]
  case spawn | exit | join | leave | meet | gcount | waitm | waitr | waitt | sleep | migr =>
    dsimp only [encodeAF, mkA]
    simp [decodeAF, hg, decA5, AF.ar, AF.ar1, AF.ar0, AF.none, AF.mid, AF.win, append_extractLsb']
  case send | recv | qstat | taskq | taskd | tret | dqpush | dqpop | dqsplit | dqsteal | nrd | barm | barr | bwait | bstat | klaunch =>
    dsimp only [encodeAF, mkA]
    simp [decodeAF, hg, decA6, AF.ar, AF.ar1, AF.ar0, AF.none]
  case srd | swr | rand | fence | rfence | lease | lrel | enq =>
    dsimp only [encodeAF, mkA]
    simp [decodeAF, hg, decA7, AF.ar0, AF.none, ranged_of_wf hw]
  case ld | st | ldfe | stfe | ldff | feset | pref | lwb | linv | lr | sc | amoAdd | amoMin | amoMax | amoAnd | amoOr | amoXchg | amoAddi | cas | xacc | xrd | xclr =>
    dsimp only [encodeAF, mkAM, mkA]
    simp [decodeAF, hg, decA8, AF.fe, AF.size, AF.scope, AF.cls, AF.off, ofNat_flag]
  case acopy | acopys | tilest | tileld | wmap | wunmap | wsync | wstat =>
    dsimp only [encodeAF, mkA]
    simp [decodeAF, hg, decA9, ranged_of_wf hw]
  case li | enqi => cases hl
  -- Every other row has the opcode of NOP in slot A, and is none of its instructions.
  all_goals exact absurd ha Bool.false_ne_true

/-! ## Slot V, by the groups of R92 -/

theorem decodeVF_encodeVF (i : Instr) (hv : i.isSlotV = true) (hw : i.wf = true) : decodeVF (encodeVF i) = .ok i := by
  cases i
  case vnop | vadd | vsub | vmul | vfma | vfms | vfnma | vmin | vmax | vabs | vneg | vdiv | vsqrt =>
    dsimp only [encodeVF, mkV, unmasked]
    simp [decodeVF, decV0, VF.fp2, VF.fp3, VF.m, VF.plain2, VF.plain1]
  case vrcp | vrsq | vexp2 | vlog2 | vtanh | verf =>
    dsimp only [encodeVF, mkV]
    simp [decodeVF, decV1, VF.m, VF.plain1]
  case vshl n | vshr n | vsra n =>
    cases n with
    | reg r =>
      dsimp only [encodeVF, mkV, ShCount.fields]
      simp [decodeVF, decV2, VF.m, VF.shift]
    | imm n =>
      dsimp only [encodeVF, mkV, ShCount.fields]
      simp [decodeVF, decV2, VF.m, VF.shift]
  case viadd | visub | vimul | vimad | vand | vor | vxor | vimin | vimax | vpopc | vclz | vdot4 | viabs =>
    dsimp only [encodeVF, mkV]
    simp [decodeVF, decV2, VF.m, VF.int1, VF.int2, VF.plain3, VF.plain2, VF.plain1]
  case vcmp | vicmp | vsel | vmov | vbcast | vins | vext | vperm | vshuf | qlog | qcnt | viota =>
    dsimp only [encodeVF, mkV, unmasked]
    simp [decodeVF, decV3, VF.m, VF.plain2, VF.plain1, ranged_of_wf hw]
  case vcvt | vqnt | vdqnt | vscale | vpack | vunpk =>
    dsimp only [encodeVF, mkV, unmasked]
    simp [decodeVF, decV4, VF.m, VF.ty2, ranged_of_wf hw]
  case vred | vscan | vsortk | vmergek | qsum | vargmx =>
    dsimp only [encodeVF, mkV, unmasked]
    simp [decodeVF, decV5, VF.m, VF.plain1, ranged_of_wf hw]
  case vld | vst | vgath | vscat =>
    dsimp only [encodeVF, mkV]
    simp [decodeVF, decV6, VF.m, ranged_of_wf hw]
  case sbind | sunb | sisect | sstat | sskip =>
    dsimp only [encodeVF, mkV, unmasked]
    simp [decodeVF, decV7, VF.strm, ranged_of_wf hw]
  case vmaxx int col vd vs1 p =>
    dsimp only [encodeVF, mkV, unmasked]
    cases int <;> simp [decodeVF, decV8]
  case vrand raw m vd =>
    dsimp only [encodeVF, mkV]
    cases raw <;> simp [decodeVF, decV8, VF.m]
  case vnrd =>
    dsimp only [encodeVF, mkV, unmasked]
    simp [decodeVF, decV8]
  -- Every other row has the opcode of VNOP in slot V, and is none of its instructions.
  all_goals exact absurd hv Bool.false_ne_true

/-! ## Bundles in bytes -/

theorem leNat_leBytes (k n : Nat) : leNat (leBytes k n) = n % 256 ^ k := by
  induction k generalizing n with
  | zero => simp [leBytes, leNat, Nat.mod_one]
  | succ k ih => simp [leBytes, leNat, ih, Nat.pow_succ', Nat.mod_mul]

theorem bundleBits_leBytes (x : BitVec 128) (more : List Byte) : bundleBits (leBytes 16 x.toNat ++ more) = x := by
  rw [bundleBits, List.take_left' (Machine.length_leBytes 16 _), leNat_leBytes, Nat.mod_eq_of_lt (show x.toNat < 256 ^ 16 from x.isLt), BitVec.ofNat_toNat, BitVec.setWidth_eq]

/-- FMT 0b00 is read as two slots (R85). -/
theorem decode_short {x : BitVec 128} (more : List Byte) (hz : x.extractLsb' 120 2 = 0#2) (hf : x.extractLsb' 122 2 = 0#2) : decode (leBytes 16 x.toNat ++ more) = decodeShort x := by
  simp [decode, bundleBits_leBytes, Machine.length_leBytes, hz, hf]

/-- FMT 0b01 is read as LI or ENQI (R88). -/
theorem decode_long {x : BitVec 128} (more : List Byte) (hz : x.extractLsb' 120 2 = 0#2) (hf : x.extractLsb' 122 2 = 1#2) : decode (leBytes 16 x.toNat ++ more) = decodeLong x more := by
  simp [decode, bundleBits_leBytes, Machine.length_leBytes, hz, hf]

/-! ## Guards and command words -/

theorem Guard.ofBits_bits (g : Guard) : Guard.ofBits g.bits = g := by
  obtain ⟨neg, p⟩ := g
  cases neg <;> simp [Guard.ofBits, Guard.bits]

/-- GRD 8, p0 negated, is the guard that R86 reserves. -/
theorem Guard.bits_ne {g : Guard} (h : (g.neg && g.p = 0) = false) : g.bits ≠ 8#4 := by
  obtain ⟨neg, p⟩ := g
  revert neg p
  decide

theorem CmdWord.ofParts_bits (w : CmdWord) : CmdWord.ofParts (w.bits.extractLsb' 240 16) (w.bits.extractLsb' 0 120) (w.bits.extractLsb' 120 120) = w := by
  have hjoin (x : BitVec 256) : (x.extractLsb' 240 16 ++ x.extractLsb' 120 120 ++ x.extractLsb' 0 120 : BitVec 256) = x := by simp [append_extractLsb']
  rw [CmdWord.ofParts, hjoin]
  simp [CmdWord.bits]

/-! ## Bundles by format -/

theorem decodeShort_encodeShort {u : Bundle} (ha : u.a.isSlotA = true) (hv : u.v.isSlotV = true) (hwa : u.a.wf = true) (hwv : u.v.wf = true) (hg : u.guard.bits ≠ 8#4)
    (hl : u.a.isLong = false) (hq : qsumOk u.a u.v = true) (hd : disjointWrites u.a u.v = true) (hlen : u.len = 16) : decodeShort (encodeShort u) = .ok u := by
  have hsc : (encodeShort u).extractLsb' 124 4 = u.sc := by simp [encodeShort]
  have hA : AF.split ((encodeShort u).extractLsb' 60 60) = { encodeAF u.a with grd := u.guard.bits } := by simp [encodeShort, AF.split_join]
  have hV : VF.split ((encodeShort u).extractLsb' 0 60) = encodeVF u.v := by simp [encodeShort, VF.split_join]
  simp [decodeShort, hsc, hA, hV, decodeAF_encodeAF u.a _ hg ha hl hwa, decodeVF_encodeVF u.v hv hwv, hq, hd, Guard.ofBits_bits, ← hlen]

theorem encode_short {u : Bundle} (h : u.a.isLong = false) : encode u = leBytes 16 (encodeShort u).toNat := by
  unfold encode
  split <;> simp_all [Instr.isLong]

theorem decode_encode_li (sc : BitVec 4) {g : Guard} (hg : g.bits ≠ 8#4) (d : SReg) (x : BitVec 64) (more : List Byte) :
    decode (encode ⟨sc, g, .li d x, .vnop, 16⟩ ++ more) = .ok ⟨sc, g, .li d x, .vnop, 16⟩ := by
  rw [encode, decode_long more (by simp) (by simp)]
  simp [decodeLong, hg, Guard.ofBits_bits]

theorem decode_encode_enqi (sc : BitVec 4) {g : Guard} (hg : g.bits ≠ 8#4) (e : Eng) (d s1 s2 : SReg) (w : CmdWord) (more : List Byte) :
    decode (encode ⟨sc, g, .enqi e d s1 s2 w, .vnop, 48⟩ ++ more) = .ok ⟨sc, g, .enqi e d s1 s2 w, .vnop, 48⟩ := by
  rw [encode, List.append_assoc, List.append_assoc, decode_long _ (by simp) (by simp)]
  have hdata : ¬ 16 + (16 + more.length) < 32 := by omega
  simp [decodeLong, hg, Machine.length_leBytes, hdata, bundleBits_leBytes, isData, Guard.ofBits_bits, CmdWord.ofParts_bits]

end Sys2Proof

open Sys2Proof

/-- Settles O27: the format of the bundle follows its slot A, and each format reads back. -/
theorem decodingUndoesEncoding : Obligations.DecodingUndoesEncoding := by
  intro u more h
  simp only [Bundle.wf, Bool.and_eq_true, Bool.not_eq_true', Bool.or_eq_true, beq_iff_eq] at h
  obtain ⟨⟨⟨⟨⟨⟨⟨⟨ha, hv⟩, hwa⟩, hwv⟩, hguard⟩, hq⟩, hd⟩, hlong⟩, hlen⟩ := h
  have hg := Guard.bits_ne hguard
  cases hl : u.a.isLong with
  | false =>
    have hlen : u.len = 16 := by revert hl hlen; cases u.a <;> simp [Instr.isLong]
    rw [encode_short hl, decode_short _ (by simp [encodeShort]) (by simp [encodeShort])]
    exact decodeShort_encodeShort ha hv hwa hwv hg hl hq hd hlen
  | true =>
    obtain ⟨sc, guard, a, v, len⟩ := u
    obtain rfl : v = .vnop := by simpa [hl] using hlong
    cases a
    case li d x =>
      obtain rfl : len = 16 := hlen
      exact decode_encode_li sc hg d x more
    case enqi e d s1 s2 w =>
      obtain rfl : len = 48 := hlen
      exact decode_encode_enqi sc hg e d s1 s2 w more
    all_goals cases hl

/-- Settles O26: each word is decoded by evaluation. -/
theorem wordsDecode : Obligations.WordsDecode := by
  unfold Obligations.WordsDecode
  refine ⟨?_, ?_, ?_, ?_, ?_, ?_, ?_, ?_, ?_, ?_⟩ <;> decide +kernel
end

section
/-! What leaves the tables of kernels, contexts and key slots alone: all that an access, a report or a written byte does. -/

namespace Sys2Proof.Machine
open Sys2Proof.Claims

/-- Kernels, contexts and key slots of t are those of s. -/
def Untouched (s t : State) : Prop := t.kernels = s.kernels ∧ t.ctxs = s.ctxs ∧ t.keys = s.keys

@[simp] theorem Untouched.refl (s : State) : Untouched s s := ⟨rfl, rfl, rfl⟩

section
variable (s t : State)

@[simp] theorem untouched_ite {c : Prop} [Decidable c] (a b : State) : Untouched s (if c then a else b) ↔ if c then Untouched s a else Untouched s b := by split <;> rfl

theorem untouched_foldl {α : Type} {f : State → α → State} (h : ∀ t x, Untouched s (f t x) ↔ Untouched s t) (l : List α) : Untouched s (l.foldl f t) ↔ Untouched s t := by
  induction l generalizing t with
  | nil => rfl
  | cons x l ih => exact (ih _).trans (h t x)

/-- The state of a pair that an operation answers. -/
theorem untouched_of_fst {α : Type} {p : State × α} {u : State} {a : α} (h : p = (u, a)) : Untouched s u ↔ Untouched s p.1 := by rw [h]
theorem untouched_of_snd {α : Type} {p : α × State} {u : State} {a : α} (h : p = (a, u)) : Untouched s u ↔ Untouched s p.2 := by rw [h]

/-! ## One table written -/

@[simp] theorem untouched_setThread (k v) : Untouched s (t.setThread k v) ↔ Untouched s t := .rfl
@[simp] theorem untouched_setCoreCtx (k v) : Untouched s (t.setCoreCtx k v) ↔ Untouched s t := .rfl
@[simp] theorem untouched_setCore (k v) : Untouched s (t.setCore k v) ↔ Untouched s t := .rfl
@[simp] theorem untouched_dropOp (i) : Untouched s (t.dropOp i) ↔ Untouched s t := .rfl
@[simp] theorem untouched_mapOps (f) : Untouched s (t.mapOps f) ↔ Untouched s t := .rfl
@[simp] theorem untouched_soon : Untouched s t.soon.2 ↔ Untouched s t := .rfl
@[simp] theorem untouched_mended (pa n) : Untouched s (t.mended pa n) ↔ Untouched s t := .rfl
@[simp] theorem untouched_setWin (cc n w) : Untouched s (t.setWin cc n w) ↔ Untouched s t := .rfl
@[simp] theorem untouched_serve (k) : Untouched s (t.serve k) ↔ Untouched s t := .rfl
@[simp] theorem untouched_hold (cs h) : Untouched s (t.hold cs h) ↔ Untouched s t := .rfl
@[simp] theorem untouched_forget (k) : Untouched s (t.forget k) ↔ Untouched s t := .rfl
@[simp] theorem untouched_wake (k v) : Untouched s (t.wake k v) ↔ Untouched s t := .rfl
@[simp] theorem untouched_setBar (c b r) : Untouched s (t.setBar c b r) ↔ Untouched s t := .rfl
@[simp] theorem untouched_setDq (c q) : Untouched s (t.setDq c q) ↔ Untouched s t := .rfl
@[simp] theorem untouched_lmPut (c o b) : Untouched s (t.lmPut c o b) ↔ Untouched s t := .rfl
@[simp] theorem untouched_postEntry (m) : Untouched s (t.postEntry m) ↔ Untouched s t := .rfl

/-! ## Reports -/

@[simp] theorem untouched_post (m) : Untouched s (t.post m) ↔ Untouched s t := by unfold State.post; split <;> rfl
@[simp] theorem untouched_report (k b) : Untouched s (t.report k b) ↔ Untouched s t := untouched_post ..
@[simp] theorem untouched_errorRecord (c u p x) : Untouched s (t.errorRecord c u p x) ↔ Untouched s t := by
  unfold State.errorRecord
  split
  · rfl
  · exact untouched_report ..
@[simp] theorem untouched_reportData (c va) : Untouched s (t.reportData c va) ↔ Untouched s t := by
  unfold State.reportData
  split
  · simp
  split
  · simp
  · split <;> simp
@[simp] theorem untouched_reportLm (cc off) : Untouched s (t.reportLm cc off) ↔ Untouched s t := untouched_reportData ..
@[simp] theorem untouched_dropHeld (cc off) : Untouched s (t.dropHeld cc off) ↔ Untouched s t := untouched_report ..
@[simp] theorem untouched_noteBad (va n) : Untouched s (t.noteBad va n) ↔ Untouched s t := untouched_foldl s t (fun t p => by simp) _
@[simp] theorem untouched_correct (c pa n) : Untouched s (t.correct c pa n) ↔ Untouched s t := by
  unfold State.correct
  dsimp only
  split
  · rfl
  · exact untouched_foldl s _ (fun t e => by simp) _
@[simp] theorem untouched_lmCorrect (cc off n) : Untouched s (t.lmCorrect cc off n) ↔ Untouched s t := untouched_correct ..
@[simp] theorem untouched_correctVa (c va n) : Untouched s (t.correctVa c va n) ↔ Untouched s t := by
  unfold State.correctVa
  split
  · simp
  · rfl

/-! ## Registers and threads -/

@[simp] theorem untouched_setH (cc f w sl i) : Untouched s (t.setH cc f w sl i) ↔ Untouched s t := by simp [State.setH]
@[simp] theorem untouched_setW (cc f w sl i) : Untouched s (t.setW cc f w sl i) ↔ Untouched s t := by simp [State.setW]
@[simp] theorem untouched_putX (k f w i) : Untouched s (t.putX k f w i) ↔ Untouched s t := by simp [State.putX]
@[simp] theorem untouched_putV (k f w i) : Untouched s (t.putV k f w i) ↔ Untouched s t := by simp [State.putV]
@[simp] theorem untouched_putP (k p b) : Untouched s (t.putP k p b) ↔ Untouched s t := by simp [State.putP]
@[simp] theorem untouched_unpark (o) : Untouched s (t.unpark o) ↔ Untouched s t := by simp [State.unpark]
@[simp] theorem untouched_reserve (o k) : Untouched s (t.reserve o k) ↔ Untouched s t := by unfold State.reserve; dsimp only; split <;> rfl
@[simp] theorem untouched_markError (o) : Untouched s (t.markError o) ↔ Untouched s t := by unfold State.markError; dsimp only; split <;> simp
@[simp] theorem untouched_deliverX (o w f) : Untouched s (t.deliverX o w f) ↔ Untouched s t := by
  unfold State.deliverX
  dsimp only
  split <;> simp
@[simp] theorem untouched_fillOne (b i) : Untouched s (t.fillOne b i) ↔ Untouched s t := by
  unfold State.fillOne
  split
  · rfl
  · simp
@[simp] theorem untouched_fillPush (p b) : Untouched s (t.fillPush p b) ↔ Untouched s t := untouched_foldl s t (fun t p => by simp) _
@[simp] theorem untouched_dropPush (p) : Untouched s (t.dropPush p) ↔ Untouched s t := untouched_foldl s t (fun t p => by simp) _
@[simp] theorem untouched_finishOp (o w v b) : Untouched s (t.finishOp o w v b) ↔ Untouched s t := by
  unfold State.finishOp
  dsimp only
  split
  · simp
  · split <;> simp
@[simp] theorem untouched_deliverV (o v) : Untouched s (t.deliverV o v) ↔ Untouched s t := by
  unfold State.deliverV
  dsimp only
  split
  · simp
  · split <;> simp
@[simp] theorem untouched_dataFail (o va) : Untouched s (t.dataFail o va) ↔ Untouched s t := by simp [State.dataFail]
@[simp] theorem untouched_faultReq (va c) : Untouched s (t.faultReq va c) ↔ Untouched s t := by unfold State.faultReq; dsimp only; split <;> rfl
@[simp] theorem untouched_heard (k f) : Untouched s (t.heard k f) ↔ Untouched s t := by simp [State.heard]
@[simp] theorem untouched_checkBar (c b) : Untouched s (t.checkBar c b) ↔ Untouched s t := by
  unfold State.checkBar
  dsimp only
  split
  · rw [untouched_foldl s _ (fun t p => by simp)]; simp
  · rfl
@[simp] theorem untouched_arriveBar (c b m) : Untouched s (t.arriveBar c b m) ↔ Untouched s t := by simp [State.arriveBar]
@[simp] theorem untouched_stealFrom (c) : Untouched s (t.stealFrom c).2 ↔ Untouched s t := by unfold State.stealFrom; dsimp only; split <;> simp
@[simp] theorem untouched_performNear (o) : Untouched s (t.performNear o) ↔ Untouched s t := by unfold State.performNear; dsimp only; split <;> simp

/-! ## Memory -/

@[simp] theorem untouched_loseResv (k) : Untouched s (t.loseResv k) ↔ Untouched s t := by
  unfold State.loseResv; dsimp only; split <;> split <;> rfl
@[simp] theorem untouched_lmWrite (c o b) : Untouched s (t.lmWrite c o b) ↔ Untouched s t := by
  unfold State.lmWrite
  simp only [untouched_ite, untouched_dropHeld, untouched_reportLm, untouched_foldl s _ (fun t x => untouched_loseResv s t _), untouched_lmPut, ite_self]
@[simp] theorem untouched_writePa (l p b) : Untouched s (t.writePa l p b) ↔ Untouched s t := by
  unfold State.writePa
  rw [untouched_foldl s _ (fun t x => untouched_loseResv s t _)]
  dsimp only
  split <;> split <;> rfl
@[simp] theorem untouched_writeVa (va b) : Untouched s (t.writeVa va b) ↔ Untouched s t := untouched_foldl s t (fun t p => by
  unfold State.writePiece
  split <;> simp) _

/-! ## Lines and caches -/

@[simp] theorem untouched_dropCopies (b k) : Untouched s (t.dropCopies b k) ↔ Untouched s t := by unfold State.dropCopies; dsimp only; split <;> rfl
@[simp] theorem untouched_l2Mark (va f) : Untouched s (t.l2Mark va f) ↔ Untouched s t := by
  unfold State.l2Mark
  split
  · dsimp only
    split <;> rfl
  · rfl
@[simp] theorem untouched_pinLine (va u) : Untouched s (t.pinLine va u).1 ↔ Untouched s t := by
  unfold State.pinLine
  split
  · dsimp only
    split
    · split
      · rfl
      · split <;> rfl
    · rfl
  · rfl
@[simp] theorem untouched_pageDue (va d) : Untouched s (t.pageDue va d) ↔ Untouched s t := by
  unfold State.pageDue
  split
  · split <;> rfl
  · rfl
@[simp] theorem untouched_markPage (va w) : Untouched s (t.markPage va w) ↔ Untouched s t := by
  unfold State.markPage
  split
  · dsimp only
    rw [untouched_ite]
    split <;> split <;> rfl
  · rfl
@[simp] theorem untouched_combineBytes (u o n f) : Untouched s (t.combineBytes u o n f) ↔ Untouched s t := by simp [State.combineBytes]
@[simp] theorem untouched_combineLine (u) : Untouched s (t.combineLine u) ↔ Untouched s t := by
  unfold State.combineLine
  rw [untouched_foldl s _ (fun t e => by simp), untouched_foldl s _ (fun t e => by simp)]
@[simp] theorem untouched_returnU (pc k) : Untouched s (t.returnU pc k) ↔ Untouched s t := by
  unfold State.returnU
  split <;> simp
@[simp] theorem untouched_stashWrite (cc w i) : Untouched s (t.stashWrite cc w i) ↔ Untouched s t := by simp [State.stashWrite]
@[simp] theorem untouched_recallStash (cc n i) : Untouched s (t.recallStash cc n i) ↔ Untouched s t := by
  unfold State.recallStash
  split
  · rfl
  · split
    · rfl
    · simp
@[simp] theorem untouched_recallStashes (k) : Untouched s (t.recallStashes k) ↔ Untouched s t :=
  untouched_foldl s t (fun t c => untouched_foldl s t (fun t w => untouched_foldl s t (fun t l => by split <;> simp) _) _) _
@[simp] theorem untouched_recallU (k) : Untouched s (t.recallU k) ↔ Untouched s t := untouched_foldl s t (fun t c => by simp) _
@[simp] theorem untouched_recallLine (k) : Untouched s (t.recallLine k) ↔ Untouched s t := by simp [State.recallLine]
@[simp] theorem untouched_evictL2 (l) : Untouched s (t.evictL2 l) ↔ Untouched s t := by simp [State.evictL2]
@[simp] theorem untouched_settle (va n) : Untouched s (t.settle va n) ↔ Untouched s t := by
  unfold State.settle
  split
  · rfl
  · exact untouched_foldl s t (fun t l => by split <;> simp) _
@[simp] theorem untouched_l2Access (va l p h c k) : Untouched s (t.l2Access va l p h c k).1 ↔ Untouched s t := by
  have hsave (u : State) (a b) : Untouched s { u with slices := a, glades := b } ↔ Untouched s u := .rfl
  unfold State.l2Access
  dsimp only
  split
  · split
    · simp [hsave]
    · split <;> simp [hsave]
  · split
    · split <;> simp
    · split <;> split <;> simp [hsave]
@[simp] theorem untouched_l1Fill (pc l) : Untouched s (t.l1Fill pc l) ↔ Untouched s t := by
  unfold State.l1Fill
  dsimp only
  split
  · rfl
  · split <;> simp
@[simp] theorem untouched_l1Hit (pc k r w) : Untouched s ((t.l1Hit pc k r w).getD t) ↔ Untouched s t := by
  unfold State.l1Hit
  dsimp only
  cases waysFind ((t.core pc).l1.sets.get [] (l1Set k)) k <;> simp
@[simp] theorem untouched_grantU (pc c va l p k) : Untouched s (t.grantU pc c va l p k).1 ↔ Untouched s t := by
  unfold State.grantU
  dsimp only
  split
  · simp
  · split <;> simp
@[simp] theorem untouched_gather (o k va l p) : Untouched s (t.gather o k va l p).2 ↔ Untouched s t := by
  unfold State.gather
  dsimp only
  split
  · next h => simp [untouched_of_fst s h]
  · next h =>
    split
    · simp [untouched_of_fst s h]
    · simp [untouched_of_fst s h]
@[simp] theorem untouched_stashTouch (cc va w k) : Untouched s (t.stashTouch cc va w k).2 ↔ Untouched s t := by
  unfold State.stashTouch
  dsimp only
  split
  · rfl
  · split
    · split <;> rfl
    · rfl
    · split
      · simp
      · split
        · split <;> simp
        · simp
@[simp] theorem untouched_gread (cc va n k) : Untouched s (t.gread cc va n k).2 ↔ Untouched s t := by
  unfold State.gread
  split
  · next h => simp [untouched_of_snd s h]
  · next h =>
    dsimp only
    split <;> simp [untouched_of_snd s h]
  · next h =>
    dsimp only
    split <;> simp [untouched_of_snd s h]
@[simp] theorem untouched_gwrite (cc va b k) : Untouched s (t.gwrite cc va b k).2 ↔ Untouched s t := by
  unfold State.gwrite
  split
  · next h => simp [untouched_of_snd s h]
  · next h =>
    dsimp only
    split
    · simp [untouched_of_snd s h]
    · dsimp only
      split <;> simp [untouched_of_snd s h]
  · next h =>
    dsimp only
    split
    · split <;> simp [untouched_of_snd s h]
    · simp [untouched_of_snd s h]
    · simp [untouched_of_snd s h]
@[simp] theorem untouched_l1Store (pc va l p h k) : Untouched s (t.l1Store pc va l p h k) ↔ Untouched s t := by simp [State.l1Store]
@[simp] theorem untouched_l1Load (pc va l p a r k) : Untouched s (t.l1Load pc va l p a r k) ↔ Untouched s t := by
  unfold State.l1Load
  dsimp only
  split
  · next u h => simpa [h] using untouched_l1Hit s t pc (lineKey l p) r k
  · simp
@[simp] theorem untouched_lineTouch (cc pc va u k) : Untouched s (t.lineTouch cc pc va u k) ↔ Untouched s t := by
  unfold State.lineTouch
  split
  · rfl
  · split
    · split <;> simp
    · rfl
@[simp] theorem untouched_opTouch (o va w) : Untouched s (t.opTouch o va w) ↔ Untouched s t := by simp [State.opTouch]
@[simp] theorem untouched_reachLines (va n h k) : Untouched s (t.reachLines va n h k) ↔ Untouched s t := untouched_foldl s t (fun t l => by split <;> simp) _
@[simp] theorem untouched_poke (va b) : Untouched s (t.poke va b) ↔ Untouched s t := by simp [State.poke]
@[simp] theorem untouched_writeDesc (k v) : Untouched s (t.writeDesc k v) ↔ Untouched s t := by simp [State.writeDesc]

/-! ## Windows -/

@[simp] theorem untouched_syncLines (cc n) (l : List Nat) (k : Nat) : Untouched s (t.syncLines cc n l k).1 ↔ Untouched s t := by
  induction l generalizing t k with
  | nil => rfl
  | cons i l ih =>
    unfold State.syncLines
    dsimp only
    split
    · simp [ih]
    · simp [ih]
    · split <;> simp [ih]
@[simp] theorem untouched_syncWin (cc n) : Untouched s (t.syncWin cc n).1 ↔ Untouched s t := by
  unfold State.syncWin
  dsimp only
  split
  · rfl
  · split
    · next h => simp [untouched_of_fst s h]
    · simp
@[simp] theorem untouched_dropWin (cc n) : Untouched s (t.dropWin cc n) ↔ Untouched s t := by
  unfold State.dropWin
  rw [untouched_setWin, untouched_foldl s _ (fun t e => by simp), untouched_foldl s _ (fun t e => by simp)]

/-! ## An access in flight -/

/-- The state that an access leaves where it is served. -/
def Perf.state : Perf → State
  | .ok _ s => s
  | .absent _ s => s
  | .bad _ s => s

@[simp] theorem untouched_performLm (o cc off) : Untouched s (t.performLm o cc off).state ↔ Untouched s t := by
  unfold State.performLm
  dsimp only
  split
  · rfl
  · split <;> simp [Perf.state]
theorem untouched_of_ok {p : Perf} {e : Effect} {u : State} (h : p = .ok e u) : Untouched s u ↔ Untouched s p.state := by rw [h]; rfl
theorem untouched_of_absent {p : Perf} {va : Nat} {u : State} (h : p = .absent va u) : Untouched s u ↔ Untouched s p.state := by rw [h]; rfl
theorem untouched_of_bad {p : Perf} {va : Nat} {u : State} (h : p = .bad va u) : Untouched s u ↔ Untouched s p.state := by rw [h]; rfl

@[simp] theorem untouched_performHome (o va) : Untouched s (t.performHome o va).state ↔ Untouched s t := by
  unfold State.performHome
  dsimp only
  split
  · split
    · simp [Perf.state]
    · split
      all_goals next h => simp [Perf.state, untouched_of_snd s h]
  · split
    · next h =>
      split
      · simp [Perf.state, untouched_of_snd s h]
      · split
        all_goals next h' => simp [Perf.state, untouched_of_snd s h, untouched_of_snd s h']
    · next h => simp [Perf.state, untouched_of_snd s h]
    · next h => simp [Perf.state, untouched_of_snd s h]
@[simp] theorem untouched_performGlob (o va) : Untouched s (t.performGlob o va).state ↔ Untouched s t := by
  unfold State.performGlob
  split
  · split
    · rfl
    · split
      · next h => simp [Perf.state, untouched_of_snd s h]
      · next h => rw [untouched_performHome, untouched_of_snd s h, untouched_gather]
  · simp
@[simp] theorem untouched_performScalar (o) : Untouched s (t.performScalar o) ↔ Untouched s t := by
  unfold State.performScalar
  split
  · rfl
  · split
    · next h => simp [untouched_of_ok s h]
    · next h => simpa using untouched_of_absent s h
    · next h => simp [untouched_of_bad s h]
  · split
    · next h => simp [untouched_of_ok s h]
    · next h => simpa using untouched_of_absent s h
    · next h => simp [untouched_of_bad s h]

@[simp] theorem untouched_lmGot (cc off n) : Untouched s (t.lmGot cc off n).2 ↔ Untouched s t := by
  unfold State.lmGot
  split <;> simp
@[simp] theorem untouched_readPart (o p) : Untouched s (t.readPart o p).2 ↔ Untouched s t := by
  unfold State.readPart
  split <;> simp
@[simp] theorem untouched_readParts (o) (l : List Piece) (v : VReg) : Untouched s (State.readParts t o l v).2 ↔ Untouched s t := by
  induction l generalizing t v with
  | nil => rfl
  | cons p l ih =>
    unfold State.readParts
    split
    all_goals next h => simp [untouched_of_snd s h, ih]
@[simp] theorem untouched_touchLines (o w) : Untouched s (t.touchLines o w) ↔ Untouched s t := untouched_foldl s t (fun t va => by simp) _
@[simp] theorem untouched_writePart (o p) : Untouched s (t.writePart o p) ↔ Untouched s t := by
  unfold State.writePart
  dsimp only
  split
  · rfl
  · simp
  · split
    · split
      all_goals next h => simp [untouched_of_snd s h]
    · split
      · next h =>
        split
        all_goals next h' => simp [untouched_of_snd s h, untouched_of_snd s h']
      · next h => simp [untouched_of_snd s h]
      · next h => simp [untouched_of_snd s h]
@[simp] theorem untouched_performVector (o) : Untouched s (t.performVector o) ↔ Untouched s t := by
  unfold State.performVector
  split
  · simp
  · dsimp only
    split
    · split
      · simp
      · split
        all_goals next h => simp [untouched_of_snd s h]
    · rw [untouched_heard, untouched_deliverX, untouched_touchLines]
      exact untouched_foldl s t (fun t p => by
        split
        · split <;> simp
        · simp) _
@[simp] theorem untouched_feServe (cc q) : Untouched s (t.feServe cc q) ↔ Untouched s t := by
  unfold State.feServe
  dsimp only
  split
  · simp
  · split <;> simp
@[simp] theorem untouched_feRun (n cc word) : Untouched s (State.feRun n t cc word) ↔ Untouched s t := by
  induction n generalizing t with
  | zero => rfl
  | succ n ih =>
    unfold State.feRun
    dsimp only
    split <;> simp [ih]
@[simp] theorem untouched_feAll (cc word) : Untouched s (t.feAll cc word) ↔ Untouched s t := untouched_feRun ..
@[simp] theorem untouched_feArrive (cc q) : Untouched s (t.feArrive cc q) ↔ Untouched s t := by simp [State.feArrive]
@[simp] theorem untouched_performOp (o) : Untouched s (t.performOp o) ↔ Untouched s t := by
  unfold State.performOp
  split
  · simp
  · simp
  · split
    · simp
    · split <;> simp
  · simp
  · simp
  · split <;> simp
  · simp
  · simp
  · simp

end
end Sys2Proof.Machine

end

section
/-! Mailbox commands, and those on launch queues (R329, R349). -/

namespace Sys2Proof.Machine
open Sys2Proof.Claims

theorem State.command_heard {s : State} (h : Heard s) (tag : BitVec 16) (always : Bool) (f : State → State) : s.command tag always f = .next (f (up s)) := by
  obtain ⟨hp, hv⟩ := h
  have hup : s.awake = up s := by
    rcases hp with hp | hp
    · simp only [State.awake, up, hp, reduceCtorEq, if_false]
      exact hp ▸ rfl
    · simp [State.awake, up, hp]
  have hv' : (up s).version ≠ 0 := hv
  rcases hp with hp | hp <;> simp [State.command, hp, hup, hv', done]

theorem State.answered_respond (u : State) (tag : BitVec 16) (status : Nat) (body : List Byte) : Answered u tag status body (u.respond tag status body) := by
  rw [State.respond, message_eq_mail]
  exact u.posted_post _

theorem done_of_answer {s u : State} {i : Instr} {tag : BitVec 16} (hx : exec i s = .next (u.answer tag true)) : Done s i tag u := ⟨_, hx, u.answered_respond tag 0 []⟩

theorem refused_of_answer {s : State} {i : Instr} {tag : BitVec 16} (hx : exec i s = .next ((up s).answer tag false)) : Refused s i tag := ⟨_, hx, (up s).answered_respond tag 1 []⟩

theorem exec_queueDrain {s : State} (h : Heard s) (tag : BitVec 16) (ctx q : Nat) : exec (.queueDrain tag ctx q) s =
    .next (if (s.lqueue ctx q).st = 1 ∨ (s.lqueue ctx q).st = 2 then ((up s).setLqueue ctx q { s.lqueue ctx q with st := 3 }).answer tag true else (up s).answer tag false) := by
  show execQueueDrain tag ctx q s = _
  rw [execQueueDrain, State.command_heard h]
  simp only [Bool.or_eq_true, decide_eq_true_eq]
  rfl

theorem exec_queueOpen {s : State} (h : Heard s) (tag : BitVec 16) (ctx q : Nat) : exec (.queueOpen tag ctx q) s =
    .next (if (s.lqueue ctx q).st = 4 ∧ ((s.ctx ctx).state = 2 ∨ (s.ctx ctx).state = 3) then ((up s).setLqueue ctx q { s.lqueue ctx q with st := 1 }).answer tag true
      else (up s).answer tag false) := by
  show execQueueOpen tag ctx q s = _
  rw [execQueueOpen, State.command_heard h]
  simp only [Bool.and_eq_true, Bool.or_eq_true, decide_eq_true_eq]
  rfl

theorem exec_runtimeQueueMark {s : State} (h : Heard s) (tag : BitVec 16) (ctx q : Nat) : exec (.runtimeQueueMark tag ctx q) s =
    .next (if 1024 ≤ ctx ∨ (s.ctx ctx).nlq < q ∨ (s.ctx ctx).state = 0 then (up s).answer tag false else ((up s).setLqueue ctx q { s.lqueue ctx q with runtime := true }).answer tag true) := by
  show execRuntimeQueueMark tag ctx q s = _
  rw [execRuntimeQueueMark, State.command_heard h]
  simp only [Bool.or_eq_true, decide_eq_true_eq, or_assoc]
  rfl

theorem State.msix_zero (s : State) (ctx : Nat) : s.msix ctx 0 = signalled s ctx 0 := by simp [State.msix, signalled]

theorem State.queueEmpty_of {s : State} {ctx q : Nat} (hd : (s.lqueue ctx q).st = 3) (hz : (s.lqueue ctx q).frozen = false) (hr : (s.lqueue ctx q).recs = [])
    (hk : ∀ e ∈ s.kernels, e.2.ctx = ctx → e.2.q = q → e.2.st = .retired ∨ e.2.st = .faulted) : s.queueEmpty ctx q = true := by
  have hk' : s.kernels.any (fun e => e.2.ctx == ctx && e.2.q == q && e.2.st != .retired && e.2.st != .faulted) = false := by
    simp only [List.any_eq_false, Bool.and_eq_true, beq_iff_eq, bne_iff_ne]
    rintro e he ⟨⟨⟨hc, hq⟩, h1⟩, h2⟩
    exact (hk e he hc hq).elim h1 h2
  simp [State.queueEmpty, hd, hz, hr, hk', lqDraining]
end Sys2Proof.Machine
namespace Sys2Proof.Claims
open Sys2Proof.Machine
theorem queuesChangeState : QueuesChangeState := by
  intro s tag ctx q
  refine ⟨fun hs => ⟨fun h => ?_, fun h1 h2 => ?_, fun h1 h2 => ?_, fun h => ?_, fun h1 h2 h3 => ?_, fun h => ?_⟩, fun hd hz hr hk => ?_⟩
  · exact done_of_answer (by rw [exec_queueDrain hs, if_pos h])
  · exact refused_of_answer (by rw [exec_queueDrain hs, if_neg (by tauto)])
  · exact done_of_answer (by rw [exec_queueOpen hs, if_pos ⟨h1, h2⟩])
  · exact refused_of_answer (by rw [exec_queueOpen hs, if_neg (by tauto)])
  · exact done_of_answer (by rw [exec_runtimeQueueMark hs, if_neg (by omega)])
  · exact refused_of_answer (by rw [exec_runtimeQueueMark hs, if_pos h])
  · show execQueueClosed ctx q s = _
    rw [execQueueClosed, if_pos (State.queueEmpty_of hd hz hr hk), State.msix_zero]
    rfl
end Sys2Proof.Claims

end

section
/-! The fields of a context record (R302, R303). -/

namespace Sys2Proof.Machine
open Sys2Proof.Claims

/-! ## The bits of a context record (R302) -/

theorem toNat_extractLsb' {w : Nat} (r : BitVec w) (lo n : Nat) : (r.extractLsb' lo n).toNat = r.toNat / 2 ^ lo % 2 ^ n := by
  rw [BitVec.extractLsb'_toNat, Nat.shiftRight_eq_div_pow]

theorem getLsbD_inState (c : Ctx) {n b : Nat} (hn : n < 16) (hb : b < 1024) : (inState c n).record.getLsbD b = if b < 4 then n.testBit b else c.record.getLsbD b := by
  have hsum : c.record.toNat / 16 * 16 + n = 2 ^ 4 * (c.record.toNat / 2 ^ 4) + n := by omega
  rw [inState, hsum, BitVec.getLsbD_ofNat, decide_eq_true hb, Bool.true_and, Nat.testBit_two_pow_mul_add _ (by omega : n < 2 ^ 4), Nat.testBit_div_two_pow]
  split
  · rfl
  · rw [Nat.sub_add_cancel (by omega)]
    rfl

theorem Ctx.setState_eq (c : Ctx) {n : Nat} (hn : n < 16) : c.setState n = inState c n := by
  have hr : (c.setState n).record = (inState c n).record := by
    apply BitVec.eq_of_getLsbD_eq
    intro b hb
    have h15 : (0xF : BitVec 1024).getLsbD b = decide (b < 4) := Eq.trans (BitVec.getLsbD_ofNat ..) (by
      rw [decide_eq_true hb]
      exact Nat.testBit_two_pow_sub_one 4 b)
    rw [getLsbD_inState c hn hb]
    simp only [Ctx.setState, BitVec.getLsbD_or, BitVec.getLsbD_and, BitVec.getLsbD_not, BitVec.getLsbD_ofNat, Nat.mod_eq_of_lt hn, hb, h15]
    by_cases h4 : b < 4
    · simp [h4]
    · have hz : n.testBit b = false := Nat.testBit_lt_two_pow (lt_of_lt_of_le hn (Nat.pow_le_pow_right (by omega) (Nat.le_of_not_lt h4) : 2 ^ 4 ≤ 2 ^ b))
      simp [h4, hz]
  exact congrArg (fun r => ({ c with record := r } : Ctx)) hr

theorem Ctx.state_inState (c : Ctx) {n : Nat} (hn : n < 16) : (inState c n).state = n := by
  rw [Ctx.state, toNat_extractLsb', inState, BitVec.toNat_ofNat]
  omega

/-- A field of ones in a word. -/
theorem getLsbD_ones {w lo n b : Nat} (hb : b < w) : (BitVec.ofNat w ((2 ^ n - 1) * 2 ^ lo)).getLsbD b = (decide (lo ≤ b) && decide (b < lo + n)) := by
  rw [BitVec.getLsbD_ofNat, Nat.testBit_mul_two_pow, Nat.testBit_two_pow_sub_one]
  by_cases h : lo ≤ b
  · simp [hb, h, Nat.sub_lt_iff_lt_add h, Nat.add_comm]
  · simp [h]

theorem getLsbD_ctxMask {b : Nat} (hb : b < 1024) : ctxMask.getLsbD b = recordFields.any (fun f => decide (f.1 ≤ b) && decide (b < f.1 + f.2)) := by
  simp only [ctxMask, recordFields, BitVec.getLsbD_or, getLsbD_ones hb, List.any_cons, List.any_nil, Bool.or_false, Bool.or_assoc]

/-- A field that firmware writes lies above STATE. -/
theorem recordFields_low {b : Nat} (hb : b < 4) : recordFields.any (fun f => decide (f.1 ≤ b) && decide (b < f.1 + f.2)) = false := by
  rw [List.any_eq_false]
  have hall : ∀ f ∈ recordFields, 4 ≤ f.1 := by decide
  intro f hf
  have := hall f hf
  simp only [Bool.and_eq_true, decide_eq_true_eq]
  omega

theorem getLsbD_built (r : BitVec 1024) (c : Ctx) (b : Nat) : (inState { c with record := r &&& ctxMask } 1).record.getLsbD b =
    (decide (b = 0) || (recordFields.any (fun f => decide (f.1 ≤ b) && decide (b < f.1 + f.2)) && r.getLsbD b)) := by
  by_cases hb : b < 1024
  · rw [getLsbD_inState _ (by decide) hb]
    split
    · next h4 =>
      rw [recordFields_low h4, Bool.false_and, Bool.or_false]
      exact (by decide : ∀ b < 4, Nat.testBit 1 b = decide (b = 0)) b h4
    · next h4 => rw [BitVec.getLsbD_and, getLsbD_ctxMask hb, decide_eq_false (by omega), Bool.false_or, Bool.and_comm]
  · rw [BitVec.getLsbD_of_ge _ _ (by omega), BitVec.getLsbD_of_ge _ _ (by omega), decide_eq_false (by omega), Bool.and_false, Bool.or_false]

/-! ## The first bad field of a context record (R303) -/

theorem fieldBad_mem {c : Ctx} {f : Nat} (h : fieldBad c f) : f ∈ [16, 64, 128, 192, 256, 320, 384, 448] := by
  unfold fieldBad at h
  split at h
  all_goals simp_all

theorem Ctx.extractLsb'_record (c : Ctx) (lo n : Nat) : (c.record.extractLsb' lo n).toNat = ctxBits c lo n := toNat_extractLsb' ..

/-- The check of each field, in the order of their lowest bits. -/
theorem Ctx.badField_eq (c : Ctx) (d : Nat → Bool) (hd : ∀ f, (d f = true) = fieldBad c f) : c.badField = [16, 64, 128, 192, 256, 320, 384, 448].find? d := by
  have h16 : (c.pmargin = 0) = (d 16 = true) := by simp only [hd, fieldBad, Ctx.pmargin, Ctx.extractLsb'_record]
  have h64 : (c.protroot % 8192 ≠ 0 ∨ 2 ^ 52 ≤ c.protroot) = (d 64 = true) := by simp only [hd, fieldBad, Ctx.protroot, Ctx.extractLsb'_record]
  have h128 : (c.clrbase % 8192 ≠ 0 ∨ 2 ^ 56 ≤ c.clrbase) = (d 128 = true) := by simp only [hd, fieldBad, Ctx.clrbase, Ctx.extractLsb'_record]
  have h192 : (c.logbase % 32 ≠ 0 ∨ 2 ^ 56 ≤ c.logbase) = (d 192 = true) := by simp only [hd, fieldBad, Ctx.logbase, Ctx.extractLsb'_record]
  have h256 : (24 < c.logn) = (d 256 = true) := by simp only [hd, fieldBad, Ctx.logn, Ctx.extractLsb'_record]
  have h320 : (c.logctl % 32 ≠ 0 ∨ 2 ^ 56 ≤ c.logctl) = (d 320 = true) := by simp only [hd, fieldBad, Ctx.logctl, Ctx.extractLsb'_record]
  have h384 : (c.savebase % 4096 ≠ 0 ∨ 2 ^ 56 ≤ c.savebase) = (d 384 = true) := by simp only [hd, fieldBad, Ctx.savebase, Ctx.extractLsb'_record]
  have h448 : (1024 < c.keybase + c.keycnt) = (d 448 = true) := by simp only [hd, fieldBad, Ctx.keybase, Ctx.keycnt, Ctx.extractLsb'_record]
  simp only [Ctx.badField, Bool.or_eq_true, decide_eq_true_eq, h16, h64, h128, h192, h256, h320, h384, h448, List.find?]
  clear hd h16 h64 h128 h192 h256 h320 h384 h448
  split_ifs <;> simp_all

/-- The lowest bad field is the one found. -/
theorem Ctx.badField_some {c : Ctx} {f : Nat} (hf : fieldBad c f) (hg : ∀ g < f, ¬ fieldBad c g) : c.badField = some f := by
  classical
  rw [c.badField_eq (fun f => decide (fieldBad c f)) (by simp)]
  have hmem := fieldBad_mem hf
  simp only [List.mem_cons, List.not_mem_nil, or_false] at hmem
  rcases hmem with rfl | rfl | rfl | rfl | rfl | rfl | rfl | rfl <;> simp [List.find?, hf, hg]

theorem Ctx.badField_none {c : Ctx} (h : ∀ f, ¬ fieldBad c f) : c.badField = none := by
  rw [c.badField_eq (fun _ => false) (by simp [h])]
  rfl
end Sys2Proof.Machine

end

section
/-! CONTEXT_BUILD and CONTEXT_LOAD (R36, R302, R303). -/

namespace Sys2Proof.Machine
open Sys2Proof.Claims

/-! ## Tables written at a load, and at a teardown -/

theorem AMap.get_eq_default {α : Type} {d : α} {m : AMap α} {k : Nat} (h : ∀ e ∈ m, e.1 ≠ k) : m.get d k = d := by
  induction m with
  | nil => rfl
  | cons e m ih =>
    obtain ⟨he, hm⟩ := List.forall_mem_cons.mp h
    exact (if_neg he).trans (ih hm)

theorem AMap.get_filter {α : Type} (d : α) (p : Nat → Bool) (m : AMap α) (k : Nat) : AMap.get d (m.filter (fun e => p e.1)) k = if p k then m.get d k else d := by
  induction m with
  | nil => exact (ite_self d).symm
  | cons e m ih =>
    show _ = if p k then (if e.1 = k then e.2 else AMap.get d m k) else d
    by_cases hp : p e.1
    · rw [List.filter_cons_of_pos (p := fun e : Nat × α => p e.1) hp]
      show (if e.1 = k then e.2 else AMap.get d (m.filter (fun e => p e.1)) k) = _
      rw [ih]
      by_cases hk : e.1 = k
      · rw [if_pos hk, if_pos hk, if_pos (hk ▸ hp)]
      · rw [if_neg hk, if_neg hk]
    · rw [List.filter_cons_of_neg (p := fun e : Nat × α => p e.1) hp, ih]
      by_cases hk : e.1 = k
      · rw [if_neg (hk ▸ hp), if_neg (hk ▸ hp)]
      · rw [if_neg hk]

theorem AMap.get_map_of_mem {α : Type} {d : α} (g : Nat → α) (l : List Nat) (q : Nat) : AMap.get d (l.map (fun n => (n, g n))) q = if q ∈ l then g q else d := by
  induction l with
  | nil => rfl
  | cons n l ih =>
    show (if n = q then g n else AMap.get d (l.map (fun n => (n, g n))) q) = _
    by_cases h : n = q
    · subst h
      simp
    · rw [if_neg h, ih]
      simp [Ne.symm h]

/-- The table of the places in a list that hold true. -/
theorem AMap.get_places (l : List Bool) (k j : Nat) :
    AMap.get false (((l.zipIdx k).filter (·.1)).map (fun e => (e.2, true))) j = (decide (k ≤ j) && l.getD (j - k) false) := by
  induction l generalizing k with
  | nil => simp [AMap.get]
  | cons b l ih =>
    have hhead : AMap.get false ((((b :: l).zipIdx k).filter (·.1)).map (fun e => (e.2, true))) j =
        if k = j then b else AMap.get false (((l.zipIdx (k + 1)).filter (·.1)).map (fun e => (e.2, true))) j := by
      cases b
      · by_cases hk : k = j
        · rw [if_pos hk, List.zipIdx_cons, List.filter_cons_of_neg (by simp), ih]
          simp [hk]
        · rw [if_neg hk, List.zipIdx_cons, List.filter_cons_of_neg (by simp)]
      · rfl
    rw [hhead]
    rcases Nat.lt_trichotomy j k with h | h | h
    · rw [if_neg (by omega), ih]
      simp [show ¬ k ≤ j by omega, show ¬ k + 1 ≤ j by omega]
    · simp [h]
    · obtain ⟨n, rfl⟩ : ∃ n, j = k + 1 + n := ⟨j - (k + 1), by omega⟩
      rw [if_neg (by omega), ih, show k + 1 + n - k = n + 1 by omega, Nat.add_sub_cancel_left, List.getD_cons_succ]
      simp [show k ≤ k + 1 + n by omega]

theorem Memory.get_image (bs : List Byte) (n a : Nat) (h : a < n) : (Memory.write [] 0 (bs.take n)).get a = bs.getD a 0 := by
  by_cases ha : a < bs.length
  · have := Memory.get_write_in (m := []) (a := 0) (j := a) (bs := bs.take n) (by rw [List.length_take]; omega)
    rw [Nat.zero_add] at this
    rw [this]
    simp [ha]
  · rw [Memory.get_write_out (by rw [List.length_take]; omega)]
    simp [Nat.le_of_not_lt ha, Memory.get]

/-! ## Commands on contexts -/

theorem stateBody_eq (ctx st : Nat) : leBytes 2 ctx ++ leBytes 2 st = stateBody ctx st := by rw [leBytes_eq_bytesOf, leBytes_eq_bytesOf, stateBody]

theorem exec_contextBuild {s : State} (h : Heard s) (tag : BitVec 16) (ctx : Nat) (r : BitVec 1024) : exec (.contextBuild tag ctx r) s =
    .next (if 1024 ≤ ctx ∨ (s.ctx ctx).state ≠ 0 then (up s).answer tag false
      else (((up s).setCtx ctx (inState { record := r &&& ctxMask, queues := (s.ctx ctx).queues } 1)).report .contextState (stateBody ctx 1)).answer tag true) := by
  show execContextBuild tag ctx r s = _
  rw [execContextBuild, State.command_heard h]
  simp only [Bool.or_eq_true, decide_eq_true_eq, stateBody_eq, Ctx.setState_eq _ (by decide : ctxBuilt < 16)]
  rfl

/-- The context that CONTEXT_LOAD makes of a built one. -/
def loadedCtx (c : Ctx) (lm : List Byte) (full : List Bool) : Ctx :=
  { inState c 2 with
    queues := (List.range (c.nlq + 1)).map (fun q => (q, { st := 1, runtime := (c.queues.get {} q).runtime })), fatal := none, peers := none, stop := false, arrays := []
    lmImage := Memory.write [] 0 (lm.take 262144)
    lmFull := ((full.take 32768).zipIdx.filter (·.1)).map (fun e => (e.2, true)) }

theorem exec_contextLoad {s : State} (h : Heard s) (tag : BitVec 16) (ctx : Nat) (lm : List Byte) (full : List Bool) : exec (.contextLoad tag ⟨ctx, lm, full⟩) s =
    .next (if (s.ctx ctx).state ≠ 1 ∨ s.timeSet = false then (up s).answer tag false
      else match (s.ctx ctx).badField with
        | some f => ((up s).report .contextField (bytesOf 2 ctx ++ bytesOf 2 f)).answer tag false
        | none => (((up s).setCtx ctx (loadedCtx (s.ctx ctx) lm full)).report .contextState (stateBody ctx 2)).answer tag true) := by
  show execContextLoad tag ⟨ctx, lm, full⟩ s = _
  rw [execContextLoad, State.command_heard h]
  simp only [Bool.or_eq_true, decide_eq_true_eq, Bool.not_eq_true', Ctx.setState_eq _ (by decide : ctxResident < 16), leBytes_eq_bytesOf]
  rfl

theorem contextBuild_done {s : State} (h : Heard s) (tag : BitVec 16) {ctx : Nat} (r : BitVec 1024) (hc : ctx < 1024) (hst : (s.ctx ctx).state = 0) :
    ∃ x v t, exec (.contextBuild tag ctx r) s = .next t ∧ Reported ((up s).setCtx ctx { record := x, queues := (s.ctx ctx).queues }) .contextState (stateBody ctx 1) v ∧ Answered v tag 0 [] t ∧
      ∀ b, x.getLsbD b = (decide (b = 0) || (recordFields.any (fun f => decide (f.1 ≤ b) && decide (b < f.1 + f.2)) && r.getLsbD b)) :=
  ⟨_, _, _, by rw [exec_contextBuild h, if_neg (by omega)]; rfl, State.reported_report .., State.answered_respond .., getLsbD_built r { record := r, queues := (s.ctx ctx).queues }⟩

theorem lqueue_loaded (u : State) (ctx : Nat) (c : Ctx) (lm : List Byte) (full : List Bool) (q : Nat) :
    (u.setCtx ctx (loadedCtx c lm full)).lqueue ctx q = if q ≤ ctxBits c 21 3 then { st := 1, runtime := (c.queues.get {} q).runtime } else {} := by
  rw [State.lqueue, State.ctx_setCtx_same, loadedCtx, AMap.get_map_of_mem (fun q => ({ st := 1, runtime := (c.queues.get {} q).runtime } : LQueue)), Ctx.nlq, Ctx.extractLsb'_record]
  simp only [List.mem_range, Nat.lt_succ_iff]

theorem lmFull_loaded (c : Ctx) (lm : List Byte) (full : List Bool) {i : Nat} (hi : i < 32768) : (loadedCtx c lm full).lmFull.get false i = full.getD i false := by
  rw [loadedCtx, AMap.get_places]
  simp [hi]

theorem contextLoad_refused {s : State} (h : Heard s) (tag : BitVec 16) {ctx f : Nat} (lm : List Byte) (full : List Bool) (hst : (s.ctx ctx).state = 1) (ht : s.timeSet = true)
    (hf : fieldBad (s.ctx ctx) f) (hg : ∀ g < f, ¬ fieldBad (s.ctx ctx) g) :
    ∃ v t, exec (.contextLoad tag ⟨ctx, lm, full⟩) s = .next t ∧ Reported (up s) .contextField (bytesOf 2 ctx ++ bytesOf 2 f) v ∧ Answered v tag 1 [] t :=
  ⟨_, _, by rw [exec_contextLoad h, if_neg (by simp [hst, ht]), Ctx.badField_some hf hg]; rfl, State.reported_report .., State.answered_respond ..⟩

theorem contextLoad_done {s : State} (h : Heard s) (tag : BitVec 16) {ctx : Nat} (lm : List Byte) (full : List Bool) (hst : (s.ctx ctx).state = 1) (ht : s.timeSet = true)
    (hf : ∀ f, ¬ fieldBad (s.ctx ctx) f) :
    ∃ v t, exec (.contextLoad tag ⟨ctx, lm, full⟩) s = .next t ∧ Reported ((up s).setCtx ctx (loadedCtx (s.ctx ctx) lm full)) .contextState (stateBody ctx 2) v ∧ Answered v tag 0 [] t :=
  ⟨_, _, by rw [exec_contextLoad h, if_neg (by simp [hst, ht]), Ctx.badField_none hf]; rfl, State.reported_report .., State.answered_respond ..⟩

end Sys2Proof.Machine

end

section
/-! CONTEXT_CLOSE and the end of a teardown (R315). -/

namespace Sys2Proof.Machine
open Sys2Proof.Claims

/-! ## The teardown of a context (R315) -/

/-- Kernels are those of s, and so are the records of the contexts. -/
def SameRecords (s t : State) : Prop := t.kernels = s.kernels ∧ ∀ c, (t.ctx c).record = (s.ctx c).record

theorem SameRecords.refl (s : State) : SameRecords s s := ⟨rfl, fun _ => rfl⟩
theorem SameRecords.trans {s t u : State} (h : SameRecords s t) (h' : SameRecords t u) : SameRecords s u := ⟨h'.1.trans h.1, fun c => (h'.2 c).trans (h.2 c)⟩
theorem Untouched.sameRecords {s t : State} (h : Untouched s t) : SameRecords s t := ⟨h.1, fun c => by rw [State.ctx, h.2.1]; rfl⟩

theorem sameRecords_foldl {α : Type} {f : State → α → State} (hf : ∀ s x, SameRecords s (f s x)) (l : List α) (s : State) : SameRecords s (l.foldl f s) := by
  induction l generalizing s with
  | nil => exact .refl s
  | cons x l ih => exact (hf s x).trans (ih _)

theorem sameRecords_setCtx {s : State} {ctx : Nat} {c : Ctx} (hc : c.record = (s.ctx ctx).record) : SameRecords s (s.setCtx ctx c) := by
  refine ⟨rfl, fun d => ?_⟩
  by_cases hd : d = ctx
  · rw [hd, State.ctx_setCtx_same, hc]
  · rw [State.ctx_setCtx_ne _ _ _ _ hd]

theorem sameRecords_fatal (s : State) (k cause inner : Nat) (fva pc : Word) : SameRecords s (s.fatal k cause inner fva pc) :=
  sameRecords_setCtx (s := s) (ctx := (s.thread k).ctx) (c := { s.ctx (s.thread k).ctx with fatal := _ }) rfl

theorem sameRecords_endLm (s : State) (ctx : Nat) : SameRecords s (s.endLm ctx) := by
  refine sameRecords_foldl (fun s o => ?_) _ _
  split
  · exact Untouched.sameRecords (by simp)
  split
  · exact SameRecords.trans (Untouched.sameRecords (by simp)) (sameRecords_fatal ..)
  · exact Untouched.sameRecords (by simp)

@[simp] theorem untouched_returnWins (s t : State) (ctx : Nat) : Untouched s (t.returnWins ctx) ↔ Untouched s t :=
  untouched_foldl s t (fun t c => by
    split
    · rfl
    · exact untouched_foldl s t (fun t n => by split <;> simp) _) _

@[simp] theorem untouched_killThreads (s t : State) (ctx : Nat) : Untouched s (t.killThreads ctx) ↔ Untouched s t := .rfl

/-- A context once its teardown has reached it. -/
def closedCtx (c : Ctx) : Ctx := { c with queues := c.queues.mapV (fun _ u => { u with st := lqClosed, recs := [] }), fatal := none, stop := false, teardown := true }

/-- The teardown before the tables of the context are emptied. -/
def beforeEmptied (s : State) (ctx : Nat) : State := (s.endLm ctx).setCtx ctx (closedCtx ((s.endLm ctx).ctx ctx))

theorem untouched_teardown (s : State) (ctx : Nat) : Untouched (beforeEmptied s ctx) (s.teardown ctx) := by
  have h : Untouched (beforeEmptied s ctx) (((beforeEmptied s ctx).returnWins ctx).killThreads ctx) := by simp
  exact h

theorem kernels_teardown (s : State) (ctx : Nat) : (s.teardown ctx).kernels = s.kernels := (untouched_teardown s ctx).1.trans (sameRecords_endLm s ctx).1

theorem ctx_teardown (s : State) (ctx : Nat) : (s.teardown ctx).ctx ctx = closedCtx ((s.endLm ctx).ctx ctx) := by
  rw [State.ctx, (untouched_teardown s ctx).2.1]
  exact State.ctx_setCtx_same ..

theorem state_teardown (s : State) (ctx : Nat) : ((s.teardown ctx).ctx ctx).state = (s.ctx ctx).state := by
  rw [ctx_teardown, Ctx.state, closedCtx, (sameRecords_endLm s ctx).2]
  rfl

theorem queues_teardown {s : State} {ctx : Nat} : ∀ e ∈ ((s.teardown ctx).ctx ctx).queues, e.2.st = 4 ∧ e.2.recs = [] := by
  intro e he
  rw [ctx_teardown] at he
  obtain ⟨e', -, rfl⟩ := List.mem_map.mp he
  exact ⟨rfl, rfl⟩

theorem engs_teardown {s : State} {ctx : Nat} : ∀ e ∈ (s.teardown ctx).engs, e.1 / 4096 ≠ ctx := fun _ he => bne_iff_ne.mp (List.mem_filter.mp he).2
theorem clauses_teardown {s : State} {ctx : Nat} : ∀ e ∈ (s.teardown ctx).clauses, e.1 / 4096 ≠ ctx := fun _ he => bne_iff_ne.mp (List.mem_filter.mp he).2

theorem threads_teardown {s : State} {ctx : Nat} : ∀ e ∈ (s.teardown ctx).threads, e.2.ctx = ctx → e.2.life = .ended := by
  intro e he hc
  obtain ⟨e', -, rfl⟩ := List.mem_map.mp he
  dsimp only at hc ⊢
  split at hc
  · next h => rw [if_pos h]
  · next h => exact absurd hc h

theorem cores_teardown {s : State} {ctx : Nat} : ∀ e ∈ (s.teardown ctx).cores, ∀ p ∈ e.2.plb, p.ctx ≠ ctx := by
  intro e he p hp
  obtain ⟨e', -, rfl⟩ := List.mem_map.mp he
  exact bne_iff_ne.mp (List.mem_filter.mp hp).2

theorem ofContext_ccKey {s : State} {ctx kid c : Nat} (hk : s.kernels.has kid = true) (hctx : (s.kernel kid).ctx = ctx) (hc : c < 1024) : s.ofContext ctx (ccKey kid c) = true := by
  have hdiv : ccKey kid c / 1024 = kid := by rw [ccKey]; omega
  simp [State.ofContext, hdiv, hk, hctx]

theorem ofContext_congr {s t : State} (h : t.kernels = s.kernels) : t.ofContext = s.ofContext := by
  funext ctx cc
  rw [State.ofContext, State.kernel, h]
  rfl

theorem coreCtx_teardown {s : State} {ctx cc : Nat} (h : s.ofContext ctx cc = true) : (s.teardown ctx).coreCtx cc = {} := by
  have hmap : (s.teardown ctx).coreCtx cc = if (s.teardown ctx).ofContext ctx cc then {} else (((beforeEmptied s ctx).returnWins ctx).killThreads ctx).coreCtx cc :=
    AMap.get_mapV (d := ({} : CoreCtx)) (f := fun k (x : CoreCtx) => if (s.teardown ctx).ofContext ctx k then {} else x) (fun _ => ite_self _) (((beforeEmptied s ctx).returnWins ctx).killThreads ctx).ccs cc
  rw [hmap, ofContext_congr (kernels_teardown s ctx), if_pos h]

theorem bank_teardown {s : State} {ctx cc b : Nat} (h : s.ofContext ctx cc = true) (hb : b < 2) : (s.teardown ctx).bank cc b = [] := by
  refine AMap.get_eq_default fun e he hk => ?_
  have hdiv : e.1 / 2 = cc := by rw [hk, bankKey]; omega
  have hkeep : (!(s.teardown ctx).ofContext ctx (e.1 / 2)) = true := (List.mem_filter.mp he).2
  rw [hdiv, ofContext_congr (kernels_teardown s ctx), h] at hkeep
  exact absurd hkeep (by decide)

/-! ## CONTEXT_CLOSE and TEARDOWN_COMPLETE -/

theorem exec_contextClose {s : State} (h : Heard s) (tag : BitVec 16) (ctx : Nat) : exec (.contextClose tag ctx) s =
    .next (if (s.ctx ctx).state ≠ 2 ∧ (s.ctx ctx).state ≠ 4 ∧ (s.ctx ctx).state ≠ 5 then ((up s).report .contextState (stateBody ctx (s.ctx ctx).state)).answer tag false
      else (((up s).setCtx ctx (inState (s.ctx ctx) 6)).teardown ctx).answer tag true) := by
  show execContextClose tag ctx s = _
  rw [execContextClose, State.command_heard h]
  simp only [Bool.and_eq_true, decide_eq_true_eq, stateBody_eq, and_assoc, Ctx.setState_eq _ (by decide : ctxClosing < 16)]
  rfl

/-- The state that CONTEXT_CLOSE leaves, before its answer. -/
def closing (s : State) (ctx : Nat) : State := ((up s).setCtx ctx (inState (s.ctx ctx) 6)).teardown ctx

theorem contextClose_done {s : State} (h : Heard s) (tag : BitVec 16) {ctx : Nat} (hst : (s.ctx ctx).state = 2 ∨ (s.ctx ctx).state = 4 ∨ (s.ctx ctx).state = 5) :
    Done s (.contextClose tag ctx) tag (closing s ctx) := done_of_answer (by rw [exec_contextClose h, if_neg (by omega)]; rfl)

theorem contextClose_refused {s : State} (h : Heard s) (tag : BitVec 16) {ctx : Nat} (h2 : (s.ctx ctx).state ≠ 2) (h4 : (s.ctx ctx).state ≠ 4) (h5 : (s.ctx ctx).state ≠ 5) :
    ∃ v t, exec (.contextClose tag ctx) s = .next t ∧ Reported (up s) .contextState (stateBody ctx (s.ctx ctx).state) v ∧ Answered v tag 1 [] t :=
  ⟨_, _, by rw [exec_contextClose h, if_pos ⟨h2, h4, h5⟩]; rfl, State.reported_report .., State.answered_respond ..⟩

theorem state_closing (s : State) (ctx : Nat) : ((closing s ctx).ctx ctx).state = 6 := by
  rw [closing, state_teardown, State.ctx_setCtx_same, Ctx.state_inState _ (by decide)]

theorem teardown_closing (s : State) (ctx : Nat) : ((closing s ctx).ctx ctx).teardown = true := by
  rw [closing, ctx_teardown]
  rfl

theorem emptied_closing {s : State} {ctx kid c : Nat} (hk : s.kernels.has kid = true) (hctx : (s.kernel kid).ctx = ctx) (hc : c < 1024) :
    (closing s ctx).coreCtx (ccKey kid c) = {} ∧ ∀ b < 2, (closing s ctx).bank (ccKey kid c) b = [] := by
  have hof : ((up s).setCtx ctx (inState (s.ctx ctx) 6)).ofContext ctx (ccKey kid c) = true := ofContext_ccKey hk hctx hc
  exact ⟨coreCtx_teardown hof, fun b hb => bank_teardown hof hb⟩

/-- A teardown is complete once no operation of the context is left. -/
theorem tornDown_of {s : State} {ctx : Nat} (hst : (s.ctx ctx).state = 6) (ht : (s.ctx ctx).teardown = true)
    (ho : ∀ o ∈ s.ops, s.threads.has o.thr = true → (s.thread o.thr).ctx ≠ ctx) : s.tornDown ctx = true := by
  have hops : s.ops.all (fun o => !s.threads.has o.thr || (s.thread o.thr).ctx != ctx) = true := by
    rw [List.all_eq_true]
    intro o hmem
    rcases Bool.eq_false_or_eq_true (s.threads.has o.thr) with hb | hb
    · simp [ho o hmem hb]
    · simp [hb]
  simp [State.tornDown, hst, ht, hops, ctxClosing]

/-- The kernels of a context forgotten, their descriptors no longer valid. -/
def kernelsForgotten (s : State) (ctx : Nat) : State := (s.kernels.filter (fun e => e.2.ctx == ctx)).foldl (fun s k => (s.writeDesc k.1 false).forget k.1) s

theorem untouched_kernelsForgotten (s : State) (ctx : Nat) : Untouched s (kernelsForgotten s ctx) := (untouched_foldl s s (fun t k => by simp) _).mpr (.refl s)

/-- What stays of a context whose teardown is complete. -/
def freedCtx (c : Ctx) : Ctx :=
  { record := 0x4_0000 ||| BitVec.ofNat 1024 (c.tenant * 16), queues := c.queues.mapV (fun _ u => { accepted := u.accepted, done := u.done }) }

/-- The state that TEARDOWN_COMPLETE leaves, before its report. -/
def freed (s : State) (ctx : Nat) : State :=
  ({ kernelsForgotten s ctx with
    kernels := (kernelsForgotten s ctx).kernels.filter (fun e => e.2.ctx != ctx)
    keys := (kernelsForgotten s ctx).keys.filter (fun k => !((s.ctx ctx).keybase ≤ k.1 && k.1 < (s.ctx ctx).keybase + (s.ctx ctx).keycnt)) } : State).setCtx ctx (freedCtx (s.ctx ctx))

theorem exec_teardownComplete {s : State} {ctx : Nat} (h : s.tornDown ctx = true) : exec (.teardownComplete ctx) s = .next ((freed s ctx).report .contextState (stateBody ctx 0)) := by
  show execTeardownComplete ctx s = _
  rw [execTeardownComplete, h]
  simp only [stateBody_eq]
  rfl

theorem record_freedCtx (c : Ctx) : (freedCtx c).record = BitVec.ofNat 1024 (0x4_0000 + c.tenant * 16) := by
  have ht : c.tenant < 64 := (c.record.extractLsb' 4 6).isLt
  have hor : 0x4_0000 + c.tenant * 16 = 0x4_0000 ||| c.tenant * 16 := Nat.two_pow_add_eq_or_of_lt (i := 18) (b := c.tenant * 16) (by omega) 1
  rw [hor, BitVec.ofNat_or]
  rfl

theorem lqueue_freed (s : State) (ctx q : Nat) : (freed s ctx).lqueue ctx q = { accepted := (s.lqueue ctx q).accepted, done := (s.lqueue ctx q).done } := by
  rw [State.lqueue, freed, State.ctx_setCtx_same]
  exact AMap.get_mapV (f := fun _ u => ({ accepted := u.accepted, done := u.done } : LQueue)) (d := {}) (fun _ => rfl) _ q

theorem kernels_freed (s : State) (ctx : Nat) : ∀ e ∈ (freed s ctx).kernels, e.2.ctx ≠ ctx := fun _ he => bne_iff_ne.mp (List.mem_filter.mp he).2

theorem keys_freed (s : State) (ctx k : Nat) : (freed s ctx).keys.get 0 k = if (s.ctx ctx).keybase ≤ k ∧ k < (s.ctx ctx).keybase + (s.ctx ctx).keycnt then 0 else s.keys.get 0 k := by
  have hfilter : (freed s ctx).keys = s.keys.filter (fun e => !((s.ctx ctx).keybase ≤ e.1 && e.1 < (s.ctx ctx).keybase + (s.ctx ctx).keycnt)) := by
    rw [← (untouched_kernelsForgotten s ctx).2.2]
    rfl
  rw [hfilter, AMap.get_filter 0 (fun n => !((s.ctx ctx).keybase ≤ n && n < (s.ctx ctx).keybase + (s.ctx ctx).keycnt))]
  by_cases h : (s.ctx ctx).keybase ≤ k ∧ k < (s.ctx ctx).keybase + (s.ctx ctx).keycnt
  · rw [if_pos h, if_neg (by simpa using h)]
  · rw [if_neg h, if_pos (by simp only [Bool.not_eq_true', Bool.and_eq_false_iff, decide_eq_false_iff_not]; omega)]
end Sys2Proof.Machine

namespace Sys2Proof.Claims
open Sys2Proof.Machine

theorem contextsComeAndGo : ContextsComeAndGo := by
  intro s tag ctx hs
  refine ⟨fun r => ⟨contextBuild_done hs tag r, fun h => ?_⟩, fun lm full => ⟨fun h => ?_, fun hst ht => ⟨fun f hf hg => contextLoad_refused hs tag lm full hst ht hf hg, fun hf => ?_⟩⟩,
    ⟨contextClose_refused hs tag, fun hst => ?_⟩, fun hst ht ho => ?_⟩
  · exact refused_of_answer (by rw [exec_contextBuild hs, if_pos h])
  · exact refused_of_answer (by rw [exec_contextLoad hs, if_pos h])
  · obtain ⟨v, t, hx, hr, ha⟩ := contextLoad_done hs tag lm full hst ht hf
    refine ⟨_, v, t, hx, hr, ha, rfl, ?_, fun a h => ?_, fun i h => ?_, fun q => lqueue_loaded .., fun d hd => State.ctx_setCtx_ne _ _ _ _ hd⟩
    · rw [State.ctx_setCtx_same]
      rfl
    · rw [State.ctx_setCtx_same]
      exact Memory.get_image lm 262144 a h
    · rw [State.ctx_setCtx_same]
      exact lmFull_loaded _ lm full h
  · exact ⟨_, contextClose_done hs tag hst, state_closing s ctx, teardown_closing s ctx, queues_teardown, engs_teardown, clauses_teardown, threads_teardown,
      fun kid c => emptied_closing, cores_teardown⟩
  · refine ⟨_, _, exec_teardownComplete (tornDown_of hst ht ho), State.reported_report .., ?_, lqueue_freed s ctx, kernels_freed s ctx, keys_freed s ctx⟩
    rw [freed, State.ctx_setCtx_same, ← record_freedCtx]
    rfl

end Sys2Proof.Claims
namespace Sys2Proof
/-- Settles O58: the commands on contexts and on launch queues, each by the equation of its instruction. -/
theorem contextsAndQueues : Obligations.ContextsAndQueues := ⟨Claims.contextsComeAndGo, Claims.queuesChangeState⟩
end Sys2Proof

end

section
/-! Admission of a head record (R329, R336, R337). -/

namespace Sys2Proof.Machine
open Sys2Proof.Claims

/-! ## Bits of a launch record (R327) -/

theorem recField_eq (r : BitVec 512) (lo n : Nat) : recField r lo n = recBits r lo n := toNat_extractLsb' ..

theorem getLsbD_iff_recBits (r : BitVec 512) (i : Nat) : r.getLsbD i = true ↔ recBits r i 1 = 1 := by
  rw [BitVec.getLsbD, Nat.testBit_eq_decide_div_mod_eq, decide_eq_true_eq]
  rfl

theorem getLsbD_false_iff_recBits (r : BitVec 512) (i : Nat) : r.getLsbD i = false ↔ recBits r i 1 = 0 := by
  rw [← Bool.not_eq_true, getLsbD_iff_recBits]
  have : recBits r i 1 < 2 := Nat.mod_lt _ (by decide)
  omega

/-! ## The checks of a head record (R336) -/

/-- Check n of R336 fails. -/
def recordBad (r : BitVec 512) (runtime : Bool) : Nat → Prop
  | 1 => recBits r 0 8 ≠ 1
  | 2 => ¬(recBits r 12 4 = 0 ∧ recBits r 21 3 = 0 ∧ recBits r 30 2 = 0 ∧ recBits r 145 47 = 0)
  | 3 => ¬ shapeLegal (recBits r 128 8) (recBits r 136 8)
  | 4 => recBits r 32 32 = 0
  | 5 => recBits r 64 64 % 16 ≠ 0 ∨ 2 ^ 56 ≤ recBits r 64 64
  | 6 => recBits r 11 1 = 1 ∧ recBits r 10 1 = 0
  | 7 => recBits r 16 5 = 31 ∧ runtime = false
  | _ => False

theorem admitsAs_iff (r : BitVec 512) (runtime : Bool) (code : Nat) : admitsAs r runtime code ↔
    code ≤ 7 ∧ (∀ n, n < code ∨ code = 0 → ¬ recordBad r runtime n) ∧ (code ≠ 0 → recordBad r runtime code) := Iff.rfl

theorem legalShape_iff (m n : Nat) : legalShape m n = true ↔ shapeLegal m n := by
  simp only [legalShape, shapeLegal, Bool.and_eq_true, Bool.or_eq_true, decide_eq_true_eq, and_assoc, or_assoc]

/-- The checks in their order, for a record without a footprint. -/
theorem accept_eq_find {s : State} {ctx : Nat} {runtime : Bool} {r : BitVec 512} (hfoot : recBits r 192 64 = 0) (d : Nat → Bool) (hd : ∀ n, (d n = true) = recordBad r runtime n) :
    s.accept ctx runtime r = (.code (([1, 2, 3, 4, 5, 6, 7].find? d).getD 0) [], s) := by
  classical
  have h1 : (recBits r 0 8 ≠ 1) = (d 1 = true) := (hd 1).symm
  have h2 : (¬(recBits r 12 4 = 0 ∧ recBits r 21 3 = 0 ∧ recBits r 30 2 = 0 ∧ recBits r 145 47 = 0)) = (d 2 = true) := (hd 2).symm
  have h3 : (¬ shapeLegal (recBits r 128 8) (recBits r 136 8)) = (d 3 = true) := (hd 3).symm
  have h4 : (recBits r 32 32 = 0) = (d 4 = true) := (hd 4).symm
  have h5 : (recBits r 64 64 % 16 ≠ 0 ∨ 2 ^ 56 ≤ recBits r 64 64) = (d 5 = true) := (hd 5).symm
  have h6 : (recBits r 11 1 = 1 ∧ recBits r 10 1 = 0) = (d 6 = true) := (hd 6).symm
  have h7 : (recBits r 16 5 = 31 ∧ runtime = false) = (d 7 = true) := (hd 7).symm
  simp only [State.accept, recZero, recThreads, recPri, isLocal, recField_eq, Bool.not_eq_true', Bool.and_eq_true, Bool.or_eq_true,
    ← Bool.not_eq_true (legalShape _ _), ← Bool.not_eq_true (_ && _), decide_eq_true_eq, decide_eq_false_iff_not, not_lt, legalShape_iff,
    getLsbD_iff_recBits, getLsbD_false_iff_recBits, and_assoc, h1, h2, h3, h4, h5, h6, h7, State.footList, hfoot, if_true, List.find?]
  clear hd h1 h2 h3 h4 h5 h6 h7
  split_ifs <;> simp_all

/-- The code is that of the first check that fails, or 0. -/
theorem accept_of_admitsAs {s : State} {ctx code : Nat} {runtime : Bool} {r : BitVec 512} (hfoot : recBits r 192 64 = 0) (h : admitsAs r runtime code) :
    s.accept ctx runtime r = (.code code [], s) := by
  classical
  obtain ⟨hle, hgood, hbad⟩ := (admitsAs_iff ..).mp h
  rw [accept_eq_find hfoot (fun n => decide (recordBad r runtime n)) (by simp)]
  obtain rfl | rfl | rfl | rfl | rfl | rfl | rfl | rfl : code = 0 ∨ code = 1 ∨ code = 2 ∨ code = 3 ∨ code = 4 ∨ code = 5 ∨ code = 6 ∨ code = 7 := by omega
  all_goals simp_all [List.find?]

/-! ## Admission (R329, R336, R337) -/

theorem le_foldl_max {l : List Nat} {n : Nat} (a : Nat) (h : n = a ∨ n ∈ l) : n ≤ l.foldl max a := by
  induction l generalizing a n with
  | nil => exact (h.resolve_right List.not_mem_nil).le
  | cons b l ih =>
    rcases h with rfl | h
    · exact (le_max_left n b).trans (ih _ (.inl rfl))
    rcases List.mem_cons.mp h with rfl | h
    · exact (le_max_right a n).trans (ih _ (.inl rfl))
    · exact ih _ (.inr h)

theorem State.lt_newKid (s : State) : ∀ e ∈ s.kernels, e.1 < s.newKid := by
  intro e he
  have hmax : e.1 ≤ (s.kernels.map (·.1)).foldl max 0 := le_foldl_max 0 (.inr (List.mem_map_of_mem he))
  rw [State.newKid]
  omega

/-- A queue whose head record has left. -/
def poppedQueue (u : LQueue) (now : Nat) : LQueue := { u with recs := u.recs.tail, st := if u.st = 2 then 1 else u.st, headAt := now }

theorem State.popHead_eq (s : State) (ctx q : Nat) : s.popHead ctx q = s.setLqueue ctx q (poppedQueue (s.lqueue ctx q) s.tick) := rfl

theorem State.lqueue_setLqueue_same (s : State) (ctx q : Nat) (u : LQueue) : (s.setLqueue ctx q u).lqueue ctx q = u := by
  rw [State.lqueue, State.setLqueue, State.ctx_setCtx_same]
  exact AMap.get_put_same ..

/-- The state of a faulted record's report: the record has left its queue, and counts with CADV. -/
def recordFaulted (s : State) (ctx q : Nat) (cadv : Bool) : State :=
  (s.popHead ctx q).setLqueue ctx q { poppedQueue (s.lqueue ctx q) s.tick with done := (if cadv then (s.lqueue ctx q).done + 1 else (s.lqueue ctx q).done) }

/-- The report of a faulted record. -/
def faultBody (ctx q code accepted : Nat) : List Byte := bytesOf 2 ctx ++ bytesOf 1 q ++ bytesOf 1 code ++ bytesOf 4 0 ++ bytesOf 8 accepted

theorem State.faultRecord_eq (s : State) (ctx q code accepted : Nat) (cadv : Bool) : (s.popHead ctx q).faultRecord ctx q code accepted cadv =
    signalled ((recordFaulted s ctx q cadv).report .admission (faultBody ctx q code accepted)) ctx 0 := by
  simp only [State.faultRecord, State.msix_zero, leBytes_eq_bytesOf, State.popHead_eq, State.lqueue_setLqueue_same, recordFaulted, faultBody]
  rfl

theorem exec_kernelAdmission_admitted {s : State} {ctx q : Nat} {l : Launch} {rest : List Launch} (hs : s.schedule = some (.accept ctx q)) (hr : (s.lqueue ctx q).recs = l :: rest)
    (ha : s.accept ctx (s.lqueue ctx q).runtime l.record = (.code 0 [], s)) : exec (.kernelAdmission ctx q) s = .next ((s.popHead ctx q).setKernel s.newKid
      { st := .admitted, ctx := ctx, q := q, record := l.record, accepted := l.accepted, prio := recBits l.record 16 5, headAt := (s.lqueue ctx q).headAt, runtime := (s.lqueue ctx q).runtime }) := by
  show execKernelAdmission ctx q s = _
  rw [execKernelAdmission, if_neg (not_not.mpr hs)]
  simp only [hr, ha, recPri, recField_eq]
  rfl

theorem exec_kernelAdmission_faulted {s : State} {ctx q code : Nat} {l : Launch} {rest : List Launch} (hs : s.schedule = some (.accept ctx q)) (hr : (s.lqueue ctx q).recs = l :: rest)
    (hc : code ≠ 0) (ha : s.accept ctx (s.lqueue ctx q).runtime l.record = (.code code [], s)) :
    exec (.kernelAdmission ctx q) s = .next ((s.popHead ctx q).faultRecord ctx q code l.accepted (l.record.getLsbD 25)) := by
  obtain ⟨n, rfl⟩ := Nat.exists_eq_succ_of_ne_zero hc
  show execKernelAdmission ctx q s = _
  rw [execKernelAdmission, if_neg (not_not.mpr hs)]
  simp only [hr, ha]
  rfl

end Sys2Proof.Machine

namespace Sys2Proof.Claims
open Sys2Proof.Machine

theorem kernelsAreAdmitted : KernelsAreAdmitted := by
  intro s ctx q code l rest hs hr hfoot hadm
  have ha := accept_of_admitsAs (s := s) (ctx := ctx) hfoot hadm
  refine ⟨fun hc => ⟨s.newKid, s.lt_newKid, ?_⟩, fun hc => ?_⟩
  · rw [exec_kernelAdmission_admitted hs hr (hc ▸ ha), State.popHead_eq, poppedQueue, hr]
    rfl
  · refine ⟨recordFaulted s ctx q (l.record.getLsbD 25), _, (exec_kernelAdmission_faulted hs hr hc ha).trans (congrArg _ (s.faultRecord_eq ..)), ?_, rfl, _, State.reported_report .., rfl⟩
    rw [recordFaulted, State.lqueue_setLqueue_same, poppedQueue, hr]
    cases l.record.getLsbD 25
    · simp
    · rfl
end Sys2Proof.Claims

end

section
/-! The grant of clusters, and what staging leaves in the core-contexts (R36, R338, R340, R341). -/

namespace Sys2Proof.Machine
open Sys2Proof.Claims

/-! ## Tables with an entry written for each of a list -/

/-- An entry that some member of the list writes, or that held x before, where no member writes another value there. -/
theorem AMap.get_foldl_put {α β : Type} {d x : α} {key : β → Nat} {v : β → α} {l : List β} {j : Nat} {m : AMap α} (hv : ∀ b ∈ l, key b = j → v b = x)
    (h : (∃ b ∈ l, key b = j) ∨ m.get d j = x) : (l.foldl (fun m b => m.put (key b) (v b)) m).get d j = x := by
  induction l generalizing m with
  | nil => exact h.resolve_left (by simp)
  | cons b l ih =>
    obtain ⟨hb, hl⟩ := List.forall_mem_cons.mp hv
    refine ih hl ?_
    dsimp only
    by_cases hj : key b = j
    · right
      rw [hj, AMap.get_put_same, hb hj]
    · rw [AMap.get_put_ne _ _ _ _ _ (Ne.symm hj)]
      simpa [hj] using h

theorem ccKey_inj {kid c c' : Nat} (h : ccKey kid c = ccKey kid c') : c = c' := Nat.add_left_cancel h
theorem threadKey_inj {kid t t' : Nat} (h : threadKey kid t = threadKey kid t') : t = t' := Nat.add_left_cancel h

/-! ## The windows of a footprint (R338) -/

/-- The stash window of range i of a footprint. -/
def rangeWin (foot : List (Nat × Nat)) (i : Nat) : Win :=
  { mapped := true, stash := true, staged := false, gran := BitVec.ofNat 7 (foot.getD i (0, 0)).2, lmg := BitVec.ofNat 6 (64 - ((foot.take (i + 1)).map (·.2)).sum), bound := (foot.getD i (0, 0)).1, lines := [] }

theorem get_footWins (f : Win → Win) (foot : List (Nat × Nat)) (j g i : Nat) (hi : i < foot.length) :
    ((footWins foot j g).mapV (fun _ w => f w)).get {} (j + i) = f { rangeWin foot i with lmg := BitVec.ofNat 6 (64 - (g + ((foot.take (i + 1)).map (·.2)).sum)) } := by
  induction foot generalizing j g i with
  | nil => exact absurd hi (Nat.not_lt_zero i)
  | cons r foot ih =>
    cases i with
    | zero => simp [footWins, AMap.mapV, AMap.get, rangeWin]
    | succ i =>
      have hrest := ih (j + 1) (g + r.2) i (Nat.lt_of_succ_lt_succ hi)
      rw [show j + (i + 1) = j + 1 + i by omega]
      have hskip : ((footWins (r :: foot) j g).mapV (fun _ w => f w)).get {} (j + 1 + i) = ((footWins foot (j + 1) (g + r.2)).mapV (fun _ w => f w)).get {} (j + 1 + i) := if_neg (by omega)
      rw [hskip, hrest]
      simp [rangeWin, Nat.add_assoc]

/-- A range outside far space is judged by its own address. -/
theorem checkRange_of_near {s : State} {t : Thread} {a n : Nat} (h : isFar a = false) :
    (∃ e, s.checkRange t a n = .error e) ∨ s.checkRange t a n = .ok (some (a, t.ctx, false)) := by
  unfold State.checkRange
  simp only [Int.toNat_natCast, h, Bool.false_eq_true, if_false]
  split_ifs
  · exact .inl ⟨_, rfl⟩
  · exact .inl ⟨_, rfl⟩
  · exact .inl ⟨_, rfl⟩
  · exact .inr rfl

theorem footWin_of_near {s : State} {ctx : Nat} {w : Win} (h : isFar w.bound = false) (hn : w.name = 0) : s.footWin ctx w = w := by
  rw [State.footWin]
  rcases checkRange_of_near (s := s) (t := { ctx := ctx }) (n := w.gran.toNat * 4096) h with ⟨e, he⟩ | he
  · rw [he]
  · rw [he]
    show ({ w with bound := w.bound, name := 0 } : Win) = w
    rw [← hn]

theorem footWin_of_far {s : State} {ctx la home : Nat} {w : Win} (h : s.checkRange { ctx := ctx } w.bound (w.gran.toNat * 4096) = .ok (some (la, home, true))) :
    s.footWin ctx w = { w with bound := la, name := w.bound } := by
  rw [State.footWin, h]
  rfl

/-! ## The grant (R341) -/

/-- A core-context as staging leaves it (R36, R338). -/
def stagedCore (s : State) (k : Kernel) : CoreCtx :=
  { wins := (footWins k.foot 0 0).mapV (fun _ w => s.footWin k.ctx w), winStart := s.tick, lm := (s.ctx k.ctx).lmImage, full := (s.ctx k.ctx).lmFull }

/-- The first n core-contexts of a kernel prepared. -/
def prepared (s : State) (kid n : Nat) : State :=
  { s with
    ccs := (List.range n).foldl (fun m c => m.put (ccKey kid c) (stagedCore s (s.kernel kid))) s.ccs
    ecc := s.ecc.filter (fun e => (List.range n).all (fun c => !(lmPa (ccKey kid c) 0 ≤ e.1 * 8 && e.1 * 8 + 8 ≤ lmPa (ccKey kid c) 0 + 0x4_0000))) }

theorem prepared_succ (s : State) (kid n : Nat) : prepared s kid (n + 1) =
    ((prepared s kid n).mended (lmPa (ccKey kid n) 0) 0x4_0000).setCoreCtx (ccKey kid n) (stagedCore s (s.kernel kid)) := by
  have hecc : s.ecc.filter (fun e => (List.range (n + 1)).all (fun c => !(lmPa (ccKey kid c) 0 ≤ e.1 * 8 && e.1 * 8 + 8 ≤ lmPa (ccKey kid c) 0 + 0x4_0000))) =
      (prepared s kid n).ecc.filter (fun e => !(lmPa (ccKey kid n) 0 ≤ e.1 * 8 && e.1 * 8 + 8 ≤ lmPa (ccKey kid n) 0 + 0x4_0000)) := by
    rw [prepared, List.filter_filter]
    exact List.filter_congr fun e _ => by rw [List.range_succ, List.all_append, Bool.and_comm]; simp
  rw [prepared, hecc, List.range_succ, List.foldl_append]
  rfl

theorem State.prepare_eq (s : State) (kid : Nat) : s.prepare kid = prepared s kid (s.kernel kid).ncore := by
  rw [State.prepare]
  induction (s.kernel kid).ncore with
  | zero => simp [prepared]
  | succ n ih =>
    rw [List.range_succ, List.foldl_append, ih, prepared_succ]
    rfl

theorem coreCtx_prepared {s : State} {kid n c : Nat} (hc : c < n) : (prepared s kid n).coreCtx (ccKey kid c) = stagedCore s (s.kernel kid) :=
  AMap.get_foldl_put (fun _ _ _ => rfl) (.inl ⟨c, List.mem_range.mpr hc, rfl⟩)

theorem mem_ecc_prepared {s : State} {kid n : Nat} (e : Nat × Nat) : e ∈ (prepared s kid n).ecc ↔
    e ∈ s.ecc ∧ ∀ c < n, ¬(lmPa (ccKey kid c) 0 ≤ e.1 * 8 ∧ e.1 * 8 + 8 ≤ lmPa (ccKey kid c) 0 + 0x4_0000) := by
  rw [prepared, List.mem_filter, List.all_eq_true]
  simp only [List.mem_range, Bool.not_eq_true', ← Bool.not_eq_true, Bool.and_eq_true, decide_eq_true_eq]

/-- The kernel that a grant makes of an admitted one. -/
def grantedKernel (s : State) (k : Kernel) (b : Bid) : Kernel :=
  { k with
    st := .staging, prio := b.prio, clusters := s.freeClusters.take (min k.lclusters s.usable.length), stagingDue := s.cycle + 1 + Config.latency s.drawn, nthread := recBits k.record 32 32
    saveSlot := s.freeDesc k.ctx }

/-- A cluster taken by a kernel. -/
def takenCluster (s : State) (kid c : Nat) : Cluster := { s.cluster c with holder := some kid, freeSince := s.tick }

/-- A grant before its core-contexts are prepared. -/
def granted (s : State) (kid : Nat) (b : Bid) (p g : Nat) : State :=
  { s with
    rrPtr := p, rrGranted := g + recBits (s.kernel kid).record 32 32, drawn := s.drawn + 1
    clusters := (grantedKernel s (s.kernel kid) b).clusters.foldl (fun m c => m.put c (takenCluster s kid c)) s.clusters
    kernels := s.kernels.put kid (grantedKernel s (s.kernel kid) b) }

theorem exec_clusterGrant {s : State} {kid p g : Nat} {b : Bid} (hs : s.schedule = some (.grant kid)) (hp : s.pick = some (b, p, g)) :
    exec (.clusterGrant kid) s = .next (((granted s kid b p g).prepare kid).writeDesc kid true) := by
  show execClusterGrant kid s = _
  rw [execClusterGrant, if_neg (not_not.mpr hs)]
  simp only [hp, recThreads, recField_eq]
  rfl

theorem wins_stagedCore {s : State} {k : Kernel} {i : Nat} (hi : i < k.foot.length) : (stagedCore s k).wins.get {} i = s.footWin k.ctx (rangeWin k.foot i) := by
  have h := get_footWins (s.footWin k.ctx) k.foot 0 0 i hi
  rw [Nat.zero_add, Nat.zero_add] at h
  exact h

theorem cluster_granted_of_mem {s : State} {kid p g c : Nat} {b : Bid} (hc : c ∈ (grantedKernel s (s.kernel kid) b).clusters) : (granted s kid b p g).cluster c = takenCluster s kid c := by
  exact AMap.get_foldl_put (key := fun c => c) (fun _ _ h => congrArg _ h) (.inl ⟨c, hc, rfl⟩)

theorem cluster_granted_of_not_mem {s : State} {kid p g c : Nat} {b : Bid} (hc : c ∉ (grantedKernel s (s.kernel kid) b).clusters) : (granted s kid b p g).cluster c = s.cluster c := by
  exact AMap.get_foldl_put (key := fun c => c) (fun _ h (hk : _ = c) => absurd (hk ▸ h) hc) (.inr rfl)

theorem kernel_granted (s : State) (kid p g : Nat) (b : Bid) : (granted s kid b p g).kernel kid = grantedKernel s (s.kernel kid) b := AMap.get_put_same ..

/-- A grant with its core-contexts prepared. -/
def staged (s : State) (kid : Nat) (b : Bid) (p g : Nat) : State := prepared (granted s kid b p g) kid (s.kernel kid).ncore

theorem kernel_staged (s : State) (kid p g : Nat) (b : Bid) : (staged s kid b p g).kernel kid = grantedKernel s (s.kernel kid) b := kernel_granted s kid p g b

theorem frame_prepared (s : State) (kid n : Nat) : { prepared s kid n with ccs := s.ccs, ecc := s.ecc } = s := rfl

theorem frame_granted (s : State) (kid p g : Nat) (b : Bid) :
    { granted s kid b p g with kernels := s.kernels, clusters := s.clusters, rrPtr := s.rrPtr, rrGranted := s.rrGranted, drawn := s.drawn } = s := rfl

theorem frame_staged (s : State) (kid p g : Nat) (b : Bid) :
    { staged s kid b p g with kernels := s.kernels, clusters := s.clusters, ccs := s.ccs, ecc := s.ecc, rrPtr := s.rrPtr, rrGranted := s.rrGranted, drawn := s.drawn } = s := rfl

theorem exec_clusterGrant_staged {s : State} {kid p g : Nat} {b : Bid} (hs : s.schedule = some (.grant kid)) (hp : s.pick = some (b, p, g)) :
    exec (.clusterGrant kid) s = .next ((staged s kid b p g).writeDesc kid true) := by
  have hn : ((granted s kid b p g).kernel kid).ncore = (s.kernel kid).ncore := by rw [kernel_granted]; rfl
  rw [exec_clusterGrant hs hp, State.prepare_eq, hn, staged]

theorem coreCtx_staged {s : State} {kid p g c : Nat} {b : Bid} (hc : c < (s.kernel kid).ncore) :
    (staged s kid b p g).coreCtx (ccKey kid c) = stagedCore (granted s kid b p g) (grantedKernel s (s.kernel kid) b) := by
  rw [staged, coreCtx_prepared hc, kernel_granted]

theorem footWin_granted (s : State) (kid p g ctx : Nat) (b : Bid) (w : Win) : (granted s kid b p g).footWin ctx w = s.footWin ctx w := rfl

theorem win_staged {s : State} {kid p g c i : Nat} {b : Bid} (hc : c < (s.kernel kid).ncore) (hi : i < (s.kernel kid).foot.length) :
    ((staged s kid b p g).coreCtx (ccKey kid c)).wins.get {} i = s.footWin (s.kernel kid).ctx (rangeWin (s.kernel kid).foot i) := by
  rw [coreCtx_staged hc, wins_stagedCore (k := grantedKernel s (s.kernel kid) b) hi]
  exact footWin_granted ..

theorem rangeWin_eq {foot : List (Nat × Nat)} {i : Nat} (hi : i < foot.length) : rangeWin foot i =
    { mapped := true, stash := true, staged := false, gran := BitVec.ofNat 7 foot[i].2, lmg := BitVec.ofNat 6 (64 - ((foot.take (i + 1)).map (·.2)).sum), bound := foot[i].1, lines := [] } := by
  simp [rangeWin, hi]
end Sys2Proof.Machine

end

section
/-! The start of a kernel's threads (R303, R335, R339). -/

namespace Sys2Proof.Machine
open Sys2Proof.Claims

/-! ## The threads of a kernel that starts (R335, R339) -/

theorem extractLsb'_eq_wrap (r : BitVec 512) (lo : Nat) : r.extractLsb' lo 64 = wrap (recBits r lo 64 : Int) := by
  rw [wrap, BitVec.ofInt_natCast]
  apply BitVec.eq_of_toNat_eq
  rw [toNat_extractLsb', BitVec.toNat_ofNat, recBits, Nat.mod_mod]

theorem toNat_wrap_recBits (r : BitVec 512) (lo : Nat) : (wrap (recBits r lo 64 : Int)).toNat = recBits r lo 64 := by
  rw [← extractLsb'_eq_wrap, toNat_extractLsb']
  rfl

theorem recBits_one (r : BitVec 512) (i : Nat) : recBits r i 1 = if r.getLsbD i then 1 else 0 := by
  split
  · next h => exact (getLsbD_iff_recBits r i).mp h
  · next h => exact (getLsbD_false_iff_recBits r i).mp (Bool.not_eq_true _ ▸ h)

/-- The kernel runs, and its context. -/
def running (s : State) (kid : Nat) : State :=
  { s with
    kernels := s.kernels.put kid { s.kernel kid with st := .running, startedAt := s.tick, gangHeld := false }
    ctxs := s.ctxs.put (s.kernel kid).ctx (inState (s.ctx (s.kernel kid).ctx) 3) }

/-- Initial thread i of a kernel as it starts. -/
def startThread (s : State) (kid i : Nat) : Thread :=
  { kid := kid, ctx := (s.kernel kid).ctx, tid := BitVec.ofNat 32 i, core := i / 16 % max (s.kernel kid).ncore 1, slot := i % 16
    life := (if i < 16 * (s.kernel kid).ncore then .resident else .waiting), next := s.cycle + 16
    pc := wrap (recBits (s.kernel kid).record 64 64 : Int), npc := wrap (recBits (s.kernel kid).record 64 64 : Int)
    regs := { Regs.zero with x := Regs.zero.x.set 1 (wrap (recBits (s.kernel kid).record 256 64 : Int)) }
    rper := (s.coreCtx (ccKey kid (i / 16 % max (s.kernel kid).ncore 1))).rper, rkey := mix64 (wrap (i : Int))
    modeReg := BitVec.ofNat 5 (recBits (s.kernel kid).record 9 1 * 8 + recBits (s.kernel kid).record 8 1 * 16)
    upvec := (if (s.kernel kid).runtime ∧ recBits (s.kernel kid).record 256 64 % 16 = 0 then wrap (recBits (s.kernel kid).record 256 64 : Int) else 0) }

theorem runtimeVec_eq (s : State) (kid : Nat) : s.runtimeVec kid =
    if (s.kernel kid).runtime ∧ recBits (s.kernel kid).record 256 64 % 16 = 0 then wrap (recBits (s.kernel kid).record 256 64 : Int) else 0 := by
  simp only [State.runtimeVec, Bool.and_eq_true, decide_eq_true_eq, extractLsb'_eq_wrap, toNat_wrap_recBits]

theorem modeReg_eq (k : Kernel) : (if k.mig then 8 else 0 : BitVec 5) ||| (if k.det then 16 else 0) = BitVec.ofNat 5 (recBits k.record 9 1 * 8 + recBits k.record 8 1 * 16) := by
  rw [recBits_one, recBits_one, Kernel.mig, Kernel.det]
  cases k.record.getLsbD 9 <;> cases k.record.getLsbD 8 <;> rfl

theorem initial_eq (s : State) (kid i : Nat) : s.initial kid i = startThread s kid i := by
  have hkey : mix64 (BitVec.ofNat 64 i) = mix64 (wrap (i : Int)) := by rw [wrap, BitVec.ofInt_natCast]
  rw [State.initial, State.newThread, startThread, runtimeVec_eq, modeReg_eq, hkey, extractLsb'_eq_wrap, extractLsb'_eq_wrap]

theorem kernel_running (s : State) (kid : Nat) : (running s kid).kernel kid = { s.kernel kid with st := .running, startedAt := s.tick, gangHeld := false } := AMap.get_put_same ..

theorem startThread_running (s : State) (kid i : Nat) : startThread (running s kid) kid i = startThread s kid i := by
  rw [startThread, kernel_running]
  rfl

/-- The first n initial threads of a running kernel in place. -/
def threaded (s : State) (kid n : Nat) : State :=
  { s with threads := (List.range n).foldl (fun m i => m.put (threadKey kid i) (startThread s kid i)) s.threads }

theorem foldl_initial (s : State) (kid n : Nat) : (List.range n).foldl (fun v i => v.setThread (threadKey kid i) (v.initial kid i)) s = threaded s kid n := by
  induction n with
  | zero => rfl
  | succ n ih =>
    rw [threaded, List.range_succ, List.foldl_append, List.foldl_append, ih]
    show (threaded s kid n).setThread (threadKey kid n) ((threaded s kid n).initial kid n) = _
    rw [initial_eq]
    rfl

/-! ## Upcalls held for a thread that starts (R212) -/

/-- t is s, but for the table of core-contexts, which reads the same. -/
def CoresAlike (s t : State) : Prop := (∀ c, t.coreCtx c = s.coreCtx c) ∧ { t with ccs := s.ccs } = s

theorem CoresAlike.refl (s : State) : CoresAlike s s := ⟨fun _ => rfl, rfl⟩

theorem CoresAlike.trans {s t u : State} (h : CoresAlike s t) (h' : CoresAlike t u) : CoresAlike s u :=
  ⟨fun c => (h'.1 c).trans (h.1 c), (congrArg (fun v : State => { v with ccs := s.ccs }) h'.2).trans h.2⟩

theorem CoresAlike.kernels {s t : State} (h : CoresAlike s t) : t.kernels = s.kernels := (congrArg State.kernels h.2 :)
theorem CoresAlike.ctxs {s t : State} (h : CoresAlike s t) : t.ctxs = s.ctxs := (congrArg State.ctxs h.2 :)
theorem CoresAlike.thread {s t : State} (h : CoresAlike s t) (j : Nat) : t.thread j = s.thread j := by
  have hthreads : t.threads = s.threads := (congrArg State.threads h.2 :)
  rw [State.thread, hthreads]
  rfl

theorem nothingHeld_congr {s t : State} {cc : Nat} (hc : ∀ c, t.coreCtx c = s.coreCtx c) (hp : ∀ c, (t.ctx c).peers = (s.ctx c).peers) (h : NothingHeld s cc) : NothingHeld t cc :=
  ⟨(hc cc).symm ▸ h.1, fun c => (hp c).trans (h.2 c)⟩

theorem givePeer_of_none {s : State} {k : Nat} (h : (s.ctx (s.thread k).ctx).peers = none) : s.givePeer k = s := by
  rw [State.givePeer]
  simp only [h]

/-- A thread takes nothing where nothing is held. -/
theorem coresAlike_giveHeld {s : State} {k : Nat} (h : NothingHeld s (s.thread k).cc) : CoresAlike s (s.giveHeld k) := by
  obtain ⟨hheld, hpeers⟩ := h
  have hset : ({ s.coreCtx (s.thread k).cc with held := [] } : CoreCtx) = s.coreCtx (s.thread k).cc := by rw [← hheld]
  have hsame : s.giveHeld k = s.setCoreCtx (s.thread k).cc (s.coreCtx (s.thread k).cc) := by
    rw [State.giveHeld]
    simp only [hheld, List.foldl_nil, hset]
    exact givePeer_of_none (hpeers _)
  rw [hsame]
  refine ⟨fun c => ?_, rfl⟩
  by_cases hc : c = (s.thread k).cc
  · rw [hc, State.coreCtx_setCoreCtx_same]
  · rw [State.coreCtx_setCoreCtx_ne _ _ _ _ hc]

theorem coresAlike_foldl_giveHeld {s : State} {l : List Nat} (h : ∀ k ∈ l, NothingHeld s (s.thread k).cc) : CoresAlike s (l.foldl State.giveHeld s) := by
  induction l generalizing s with
  | nil => exact .refl s
  | cons k l ih =>
    obtain ⟨hk, hl⟩ := List.forall_mem_cons.mp h
    have hstep := coresAlike_giveHeld hk
    refine hstep.trans (ih fun j hj => ?_)
    rw [hstep.thread]
    exact nothingHeld_congr hstep.1 (fun c => by rw [State.ctx, hstep.ctxs]; rfl) (hl j hj)

/-! ## A kernel starts (R303, R335, R339) -/

theorem startKernel_eq (s : State) (kid : Nat) : s.startKernel kid =
    ((List.range (min (recBits (s.kernel kid).record 32 32) (16 * (s.kernel kid).ncore))).map (threadKey kid)).foldl State.giveHeld
      (threaded (running s kid) kid (recBits (s.kernel kid).record 32 32)) := by
  rw [← foldl_initial, List.foldl_map, State.startKernel, recThreads, recField_eq]
  simp only [Ctx.setState_eq _ (by decide : ctxRunning < 16)]
  rfl

theorem thread_threaded {s : State} {kid n i : Nat} (hi : i < n) : (threaded s kid n).thread (threadKey kid i) = startThread s kid i :=
  AMap.get_foldl_put (fun _ _ h => by rw [threadKey_inj h]) (.inl ⟨i, List.mem_range.mpr hi, rfl⟩)

theorem thread_threaded_of_ne {s : State} {kid n j : Nat} (hj : ∀ i < n, j ≠ threadKey kid i) : (threaded s kid n).thread j = s.thread j :=
  AMap.get_foldl_put (fun i hi h => absurd h.symm (hj i (List.mem_range.mp hi))) (.inr rfl)

theorem peers_running (s : State) (kid c : Nat) : ((running s kid).ctx c).peers = (s.ctx c).peers := by
  rw [State.ctx, running, AMap.get_put]
  split
  · next h => rw [h, inState]
  · next => rw [State.ctx]

/-- Every resident thread of a kernel stands on one of its cores. -/
theorem startThread_core_lt {s : State} {kid i : Nat} (h : i < 16 * (s.kernel kid).ncore) : (startThread s kid i).core < (s.kernel kid).ncore := by
  have hpos : max (s.kernel kid).ncore 1 = (s.kernel kid).ncore := by omega
  rw [startThread]
  dsimp only
  rw [hpos]
  exact Nat.mod_lt _ (by omega)

theorem started_startKernel {s : State} {kid : Nat} (h : ∀ c < (s.kernel kid).ncore, NothingHeld s (ccKey kid c)) : Started s (s.startKernel kid) kid := by
  have halike : CoresAlike (threaded (running s kid) kid (recBits (s.kernel kid).record 32 32)) (s.startKernel kid) := by
    rw [startKernel_eq]
    refine coresAlike_foldl_giveHeld fun k hk => ?_
    obtain ⟨i, hi, rfl⟩ := List.mem_map.mp hk
    have hlt := List.mem_range.mp hi
    rw [thread_threaded (by omega), startThread_running]
    exact nothingHeld_congr (s := s) (fun _ => rfl) (peers_running s kid) (h _ (startThread_core_lt (i := i) (by omega)))
  constructor
  case kernel => rw [State.kernel, halike.kernels]; exact kernel_running s kid
  case kernels => intro j hj; rw [State.kernel, halike.kernels]; exact AMap.get_put_ne _ _ _ _ _ hj
  case context => rw [State.ctx, halike.ctxs]; exact AMap.get_put_same ..
  case contexts => intro c hc; rw [State.ctx, halike.ctxs]; exact AMap.get_put_ne _ _ _ _ _ hc
  case threads => intro i hi; rw [halike.thread, thread_threaded hi, startThread_running]; rfl
  case others => intro j hj; rw [halike.thread, thread_threaded_of_ne hj]; rfl
  case cores => exact halike.1
  case rest => exact congrArg (fun v : State => { v with kernels := s.kernels, ctxs := s.ctxs, threads := s.threads, ccs := s.ccs }) halike.2

end Sys2Proof.Machine

end

section
/-! The end of staging, and gangs (R338, R339, R404 to R406). -/

namespace Sys2Proof.Machine
open Sys2Proof.Claims

/-! ## The end of staging (R338, R339) -/

theorem fillAll_of_foot_nil {s : State} {kid : Nat} (h : (s.kernel kid).foot = []) : s.fillAll kid = (s, none) := by
  rw [State.fillAll, h]
  rfl

theorem staging_of {s : State} {kid : Nat} (hst : (s.kernel kid).st = .staging) (hs : (s.kernel kid).staged = false) (hdue : (s.kernel kid).stagingDue ≤ s.cycle)
    (hrun : s.engRuns (s.kernel kid).ctx = true) (hawake : ∀ c ∈ (s.kernel kid).clusters, (s.cluster c).asleep = false) : s.staging kid = true := by
  have hany : (s.kernel kid).clusters.any (fun c => (s.cluster c).asleep) = false := List.any_eq_false.mpr fun c hc => by simp [hawake c hc]
  simp [State.staging, hst, hs, hdue, hrun, hany]

/-- A kernel whose footprint is in its windows. -/
def fullyStaged (s : State) (kid : Nat) : State := s.setKernel kid { s.kernel kid with staged := true }

theorem exec_stagingComplete {s : State} {kid : Nat} (h : s.staging kid = true) (hfoot : (s.kernel kid).foot = []) : exec (.stagingComplete kid) s =
    .next (if (s.kernel kid).gang then fullyStaged s kid else (fullyStaged s kid).startKernel kid) := by
  show execStagingComplete kid s = _
  rw [execStagingComplete, h]
  simp only [fillAll_of_foot_nil hfoot]
  rfl

/-! ## Gangs (R404 to R406) -/

theorem gangReport_eq (s : State) (kid start late : Nat) (held unsync : Bool) : s.gangReport kid start late held unsync =
    signalled (s.report .gangReport (gangBody (s.kernel kid) start late held unsync)) (s.kernel kid).ctx 0 := by
  rw [State.gangReport]
  simp only [State.msix_zero, leBytes_eq_bytesOf]
  rfl

theorem gangDue_of {s : State} {kid : Nat} (hst : (s.kernel kid).st = .staging) (hs : (s.kernel kid).staged = true) (hg : (s.kernel kid).gang = true) (hh : (s.kernel kid).gangHeld = false)
    (ht : (s.kernel kid).gtick.toNat ≤ s.tick) (hrun : s.engRuns (s.kernel kid).ctx = true) : s.gangDue kid = true := by
  have hle : (s.kernel kid).gtick ≤ s.time := ht
  simp [State.gangDue, hst, hs, hg, hh, hrun, hle]

theorem exec_gangStart {s : State} {kid : Nat} (h : s.gangDue kid = true) : exec (.gangStart kid) s =
    .next (if (!s.lockedAt (s.kernel kid).gtick.toNat) = false ∧ s.lastTime.toNat < (s.kernel kid).gtick.toNat then s.startKernel kid
      else if (s.kernel kid).strict then
        (s.setKernel kid { s.kernel kid with gangHeld := true }).gangReport kid 0 (s.tick - (s.kernel kid).gtick.toNat) true (!s.lockedAt (s.kernel kid).gtick.toNat)
      else (s.startKernel kid).gangReport kid s.tick (s.tick - (s.kernel kid).gtick.toNat) false (!s.lockedAt (s.kernel kid).gtick.toNat)) := by
  show execGangStart kid s = _
  rw [execGangStart, h]
  simp only [Bool.not_eq_true', Bool.or_eq_false_iff, decide_eq_false_iff_not, BitVec.le_def, not_le, Bool.not_true, Bool.false_eq_true, if_false]
  split_ifs <;> rfl

theorem not_onTime {unsync : Bool} {due last : Nat} (h : unsync = true ∨ due ≤ last) : ¬(unsync = false ∧ last < due) := by
  rintro ⟨hu, hl⟩
  rcases h with h | h
  · exact absurd (h.symm.trans hu) (by decide)
  · omega

theorem exec_gangRelease {s : State} (h : Heard s) (tag : BitVec 16) (kid : Nat) : exec (.gangRelease tag kid) s =
    .next (if (s.kernel kid).st = .staging ∧ (s.kernel kid).gangHeld = true ∧ s.engRuns (s.kernel kid).ctx = true then ((up s).startKernel kid).answer tag true else (up s).answer tag false) := by
  show execGangRelease tag kid s = _
  rw [execGangRelease, State.command_heard h]
  simp only [Bool.and_eq_true, decide_eq_true_eq, and_assoc]
  rfl

end Sys2Proof.Machine

namespace Sys2Proof.Claims
open Sys2Proof.Machine

theorem kernelsAreStaged : KernelsAreStaged := by
  intro s kid
  refine ⟨fun b p g hs hp => ⟨staged s kid b p g, exec_clusterGrant_staged hs hp, ?_, ?_, fun c hc => cluster_granted_of_mem (p := p) (g := g) hc,
    fun c hc => cluster_granted_of_not_mem (p := p) (g := g) hc, rfl, rfl, fun c hc => ⟨?_, fun i hi => ?_⟩, mem_ecc_prepared, frame_staged s kid p g b⟩,
    fun hst hs hdue hrun hawake hfoot => ⟨fun hg => ?_, fun hg hheld => ⟨(fullyStaged s kid).startKernel kid, ?_, ?_⟩⟩⟩
  · rw [kernel_staged, grantedKernel]
    show s.cycle < s.cycle + 1 + _
    omega
  · rw [kernel_staged]
    rfl
  · rw [coreCtx_staged hc]
    rfl
  · rw [win_staged hc hi, rangeWin_eq hi]
    exact ⟨fun hfar => footWin_of_near hfar rfl, fun la home hr => footWin_of_far hr⟩
  · rw [exec_stagingComplete (staging_of hst hs hdue hrun hawake) hfoot, if_pos hg]
    rfl
  · rw [exec_stagingComplete (staging_of hst hs hdue hrun hawake) hfoot, if_neg (by rw [hg]; decide)]
  · refine started_startKernel fun c hc => ?_
    rw [State.kernel_setKernel_same] at hc
    exact hheld c hc

theorem gangsStart : GangsStart := by
  intro s kid hheld
  refine ⟨fun hst hs hg hh ht hrun => ⟨fun hu hl => ⟨s.startKernel kid, ?_, started_startKernel hheld⟩, fun hlate => ⟨fun hstrict => ?_, fun hstrict => ?_⟩⟩, fun heard tag => ⟨fun hst hh hrun => ?_, fun h => ?_⟩⟩
  · rw [exec_gangStart (gangDue_of hst hs hg hh ht hrun), if_pos ⟨hu, hl⟩]
  · have hstart := started_startKernel hheld
    refine ⟨_, s.startKernel kid, _, ?_, hstart, State.reported_report .., rfl⟩
    rw [exec_gangStart (gangDue_of hst hs hg hh ht hrun), if_neg (not_onTime hlate), if_neg (by rw [hstrict]; decide), gangReport_eq, hstart.kernel]
    rfl
  · refine ⟨_, _, ?_, State.reported_report .., rfl⟩
    rw [exec_gangStart (gangDue_of hst hs hg hh ht hrun), if_neg (not_onTime hlate), if_pos hstrict, gangReport_eq, State.kernel_setKernel_same]
    rfl
  · refine ⟨(up s).startKernel kid, started_startKernel hheld, done_of_answer ?_⟩
    rw [exec_gangRelease heard, if_pos ⟨hst, hh, hrun⟩]
  · exact refused_of_answer (by rw [exec_gangRelease heard, if_neg (by rintro ⟨h1, h2, -⟩; simp_all)])

end Sys2Proof.Claims

namespace Sys2Proof
/-- Settles O55: admission by the checks in their order, the grant by the state it leaves, a start by the threads it places. -/
theorem kernelsStart : Obligations.KernelsStart := ⟨Claims.kernelsAreAdmitted, Claims.kernelsAreStaged, Claims.gangsStart⟩
end Sys2Proof

end

section
/-! Magnitudes and codes: a magnitude by a unit 2^q, its exponent, and the code at or below it (R42 to R47, R50). -/

namespace Sys2Proof
open Sys2Proof.Claims

/-- The magnitude n / d × 2^e. -/
def magnitude (n d : Nat) (e : Int) : ℚ := (n : ℚ) / d * (2 : ℚ) ^ e
/-- The factor of a sign. -/
def signOf (neg : Bool) : ℚ := if neg then -1 else 1

theorem ratOf_fin (neg : Bool) (n d : Nat) (e : Int) : ratOf (.fin neg n d e) = some (signOf neg * magnitude n d e) := by
  rw [ratOf, signOf, magnitude, mul_assoc]

theorem signOf_mul_self (neg : Bool) : signOf neg * signOf neg = 1 := by cases neg <;> norm_num [signOf]
theorem abs_signOf_mul (neg : Bool) (x : ℚ) : |signOf neg * x| = |x| := by cases neg <;> simp [signOf]

theorem magnitude_pos {n d : Nat} (e : Int) (hn : 0 < n) (hd : 0 < d) : 0 < magnitude n d e := by
  rw [magnitude]; positivity

theorem signOf_mul_neg_iff {neg : Bool} {x : ℚ} (hx : 0 < x) : signOf neg * x < 0 ↔ neg = true := by
  cases neg <;> simp [signOf, hx, hx.le]

/-! ## Numerator and denominator of a scaled magnitude -/

theorem scalePair_den_pos {n d : Nat} {k : Int} (hd : 0 < d) : 0 < (scalePair n d k).2 := by
  rw [scalePair]
  split
  · exact hd
  · simpa [Nat.shiftLeft_eq] using hd

theorem scalePair_value (n d : Nat) (k : Int) : ((scalePair n d k).1 : ℚ) / (scalePair n d k).2 = magnitude n d k := by
  rw [scalePair, magnitude]
  split
  · next hk =>
    obtain ⟨j, rfl⟩ := Int.eq_ofNat_of_zero_le hk
    simp only [Int.toNat_natCast, Nat.shiftLeft_eq, Nat.cast_mul, Nat.cast_pow, Nat.cast_ofNat, zpow_natCast]
    ring
  · next hk =>
    obtain ⟨j, hj⟩ := Int.eq_ofNat_of_zero_le (a := -k) (by omega)
    obtain rfl : k = -(j : Int) := by simpa using congrArg (-·) hj
    simp only [neg_neg, Int.toNat_natCast, Nat.shiftLeft_eq, Nat.cast_mul, Nat.cast_pow, Nat.cast_ofNat, zpow_neg, zpow_natCast]
    rw [div_mul_eq_div_div, div_eq_mul_inv _ ((2 : ℚ) ^ j)]

theorem magnitude_shift (n d : Nat) (e q : Int) : magnitude n d e = magnitude n d (e - q) * 2 ^ q := by
  rw [magnitude, magnitude, mul_assoc, ← zpow_add₀ (by norm_num), sub_add_cancel]

/-- A magnitude is its quotient by a unit 2^q, whole part and remainder. -/
theorem scalePair_parts {n d : Nat} (e q : Int) (hd : 0 < d) {a b : Nat} (h : scalePair n d (e - q) = (a, b)) :
    0 < b ∧ magnitude n d e = (((a / b : Nat) : ℚ) + ((a % b : Nat) : ℚ) / b) * 2 ^ q := by
  have hb : 0 < b := by simpa [h] using scalePair_den_pos (n := n) (k := e - q) hd
  have hv : (a : ℚ) / b = magnitude n d (e - q) := by simpa [h] using scalePair_value n d (e - q)
  refine ⟨hb, ?_⟩
  rw [magnitude_shift n d e q, ← hv]
  have hab : (a : ℚ) = b * ((a / b : Nat) : ℚ) + ((a % b : Nat) : ℚ) := by exact_mod_cast (Nat.div_add_mod a b).symm
  have : (b : ℚ) ≠ 0 := by positivity
  congr 1
  rw [div_eq_iff this, add_mul, div_mul_cancel₀ _ this]
  linarith

/-! ## The exponent of a magnitude -/

theorem two_zpow_log2_le {n : Nat} (hn : 0 < n) : (2 : ℚ) ^ (Nat.log2 n : Int) ≤ n := by
  exact_mod_cast Nat.log2_self_le hn.ne'
theorem lt_two_zpow_log2_succ (n : Nat) : (n : ℚ) < (2 : ℚ) ^ ((Nat.log2 n : Int) + 1) := by
  exact_mod_cast Nat.lt_log2_self (n := n)

/-- The exponent of n / d stands between those of n over 2 d and of 2 n over d. -/
theorem log2_sub_bounds {n d : Nat} (hn : 0 < n) (hd : 0 < d) :
    (2 : ℚ) ^ ((Nat.log2 n : Int) - Nat.log2 d - 1) ≤ (n : ℚ) / d ∧ (n : ℚ) / d < 2 ^ ((Nat.log2 n : Int) - Nat.log2 d + 1) := by
  have hd' : (0 : ℚ) < d := by exact_mod_cast hd
  constructor
  · rw [le_div_iff₀ hd']
    calc (2 : ℚ) ^ ((Nat.log2 n : Int) - Nat.log2 d - 1) * d
        ≤ 2 ^ ((Nat.log2 n : Int) - Nat.log2 d - 1) * 2 ^ ((Nat.log2 d : Int) + 1) := by gcongr; exact (lt_two_zpow_log2_succ d).le
      _ = 2 ^ (Nat.log2 n : Int) := by rw [← zpow_add₀ (by norm_num)]; congr 1; ring
      _ ≤ n := two_zpow_log2_le hn
  · rw [div_lt_iff₀ hd']
    calc (n : ℚ) < 2 ^ ((Nat.log2 n : Int) + 1) := lt_two_zpow_log2_succ n
      _ = 2 ^ ((Nat.log2 n : Int) - Nat.log2 d + 1) * 2 ^ (Nat.log2 d : Int) := by rw [← zpow_add₀ (by norm_num)]; congr 1; ring
      _ ≤ _ := by gcongr; exact two_zpow_log2_le hd

theorem floorLog_bounds {n d : Nat} (hn : 0 < n) (hd : 0 < d) :
    (2 : ℚ) ^ floorLog n d ≤ (n : ℚ) / d ∧ (n : ℚ) / d < 2 ^ (floorLog n d + 1) := by
  obtain ⟨hlow, hhigh⟩ := log2_sub_bounds hn hd
  set k : Int := (Nat.log2 n : Int) - Nat.log2 d with hk
  -- the comparison of the scaled pair tells whether n / d reaches 2^k
  have hb : (0 : ℚ) < (scalePair n d (-k)).2 := by exact_mod_cast scalePair_den_pos hd
  have hreach : (scalePair n d (-k)).2 ≤ (scalePair n d (-k)).1 ↔ (2 : ℚ) ^ k ≤ (n : ℚ) / d := by
    rw [← Nat.cast_le (α := ℚ), ← one_le_div hb, scalePair_value, magnitude, zpow_neg, ← div_eq_mul_inv, one_le_div (by positivity)]
  rw [floorLog, ← hk]
  split
  next a b hab =>
  rw [hab] at hreach
  split
  · next h => exact ⟨hreach.mp h, hhigh⟩
  · next h => exact ⟨hlow, by rw [sub_add_cancel]; exact lt_of_not_ge (fun hle => h (hreach.mpr hle))⟩

theorem exponent_bounds {n d : Nat} (e : Int) (hn : 0 < n) (hd : 0 < d) :
    (2 : ℚ) ^ (floorLog n d + e) ≤ magnitude n d e ∧ magnitude n d e < 2 ^ (floorLog n d + e + 1) := by
  obtain ⟨hlow, hhigh⟩ := floorLog_bounds hn hd
  rw [magnitude, add_right_comm, zpow_add₀ (by norm_num), zpow_add₀ (by norm_num) _ e]
  exact ⟨by gcongr, by gcongr⟩

/-- A magnitude from 2^(q + f) on has at least 2^f units 2^q, one below it fewer. -/
theorem le_whole_of_le {n d f : Nat} {e q : Int} (hd : 0 < d) {a b : Nat} (h : scalePair n d (e - q) = (a, b)) (hx : (2 : ℚ) ^ (q + f) ≤ magnitude n d e) :
    2 ^ f ≤ a / b := by
  have hb : 0 < b := by simpa [h] using scalePair_den_pos (n := n) (k := e - q) hd
  rw [Nat.le_div_iff_mul_le hb, ← Nat.cast_le (α := ℚ), Nat.cast_mul, ← le_div_iff₀ (by exact_mod_cast hb)]
  have hv : (a : ℚ) / b = magnitude n d (e - q) := by simpa [h] using scalePair_value n d (e - q)
  rw [magnitude_shift n d e q, ← hv, add_comm, zpow_add₀ (by norm_num)] at hx
  exact_mod_cast le_of_mul_le_mul_right hx (by positivity)

theorem whole_lt_of_lt {n d f : Nat} {e q : Int} (hd : 0 < d) {a b : Nat} (h : scalePair n d (e - q) = (a, b)) (hx : magnitude n d e < (2 : ℚ) ^ (q + f)) :
    a / b < 2 ^ f := by
  have hb : 0 < b := by simpa [h] using scalePair_den_pos (n := n) (k := e - q) hd
  rw [Nat.div_lt_iff_lt_mul hb, ← Nat.cast_lt (α := ℚ), Nat.cast_mul, ← div_lt_iff₀ (by exact_mod_cast hb)]
  have hv : (a : ℚ) / b = magnitude n d (e - q) := by simpa [h] using scalePair_value n d (e - q)
  rw [magnitude_shift n d e q, ← hv, add_comm q, zpow_add₀ (by norm_num)] at hx
  exact_mod_cast lt_of_mul_lt_mul_right hx (by positivity)

/-! ## The magnitudes of the codes of a format (R42 to R47) -/

/-- The step of the MK8 table in which a code stands (R47); codes above the greatest go on in the topmost. -/
def mk8Step (c : Nat) : Nat := min (Nat.log2 c) 6
/-- Whole units of a code's magnitude. Codes go on above the greatest finite one as with an unbounded exponent (R53). -/
def significand (m : Fmt) (c : Nat) : Nat :=
  if m.mk8 then (if c = 0 then 0 else 2 ^ (mk8Row (mk8Step c)).2.1 + (c - 2 ^ mk8Step c) % 2 ^ (mk8Row (mk8Step c)).2.1)
  else if c / 2 ^ m.f = 0 then c % 2 ^ m.f else 2 ^ m.f + c % 2 ^ m.f
/-- The power of two that is the unit of a code's magnitude, and its distance to the next. -/
def unitExp (m : Fmt) (c : Nat) : Int :=
  if m.mk8 then ((c - 2 ^ mk8Step c) / 2 ^ (mk8Row (mk8Step c)).2.1 : Nat) - (mk8Row (mk8Step c)).2.2 - (mk8Row (mk8Step c)).2.1
  else max 1 ((c / 2 ^ m.f : Nat) : Int) - m.bias - m.f
def codeMag (m : Fmt) (c : Nat) : ℚ := significand m c * 2 ^ unitExp m c

/-- What the formats of R42 to R47 have in common: the greatest finite code leaves room for a sign, and is not the first of its exponent. -/
structure Fmt.Sound (m : Fmt) : Prop where
  two_le_width : 2 ≤ m.width
  maxCode_lt : m.maxCode < 2 ^ (m.width - 1)
  maxCode_mod : m.maxCode % 2 ^ m.f ≠ 0
  eq_mk8 : m.mk8 = true → m = fmtMk8

theorem Ty.fmt_sound (t : Ty) : t.fmt.Sound := by
  cases t <;> exact ⟨by decide, by decide, by decide, by decide⟩

/-- A code of an MK8 step by its exponent field j and its fraction g. -/
theorem mk8_code {m : Fmt} (hm : m.mk8 = true) {p f j g : Nat} {w : Nat} {b : Int} (hp : p ≤ 6) (hrow : mk8Row p = (w, f, b)) (hg : g < 2 ^ f) (hj : p = 6 ∨ (j + 1) * 2 ^ f ≤ 2 ^ p) :
    significand m (2 ^ p + j * 2 ^ f + g) = 2 ^ f + g ∧ unitExp m (2 ^ p + j * 2 ^ f + g) = j - b - f := by
  have hpos : 0 < 2 ^ p := by positivity
  have hstep : mk8Step (2 ^ p + j * 2 ^ f + g) = p := by
    have hge : p ≤ Nat.log2 (2 ^ p + j * 2 ^ f + g) := (Nat.le_log2 (by omega)).mpr (by omega)
    rcases hj with rfl | hj
    · rw [mk8Step, min_eq_right hge]
    · have hlt : Nat.log2 (2 ^ p + j * 2 ^ f + g) < p + 1 := (Nat.log2_lt (by omega)).mpr (by rw [pow_succ]; rw [add_mul] at hj; omega)
      rw [mk8Step]; omega
  have hlow : 2 ^ p + j * 2 ^ f + g - 2 ^ p = g + j * 2 ^ f := by omega
  rw [significand, unitExp, if_pos hm, if_pos hm, hstep, hrow, if_neg (by omega), hlow, Nat.add_mul_mod_self_right, Nat.mod_eq_of_lt hg,
    Nat.add_mul_div_right _ _ (by positivity), Nat.div_eq_of_lt hg, zero_add]
  exact ⟨rfl, rfl⟩

/-- A code of another format by its exponent field j and its fraction g. -/
theorem ieee_code {m : Fmt} (hm : m.mk8 = false) {j g : Nat} (hg : g < 2 ^ m.f) :
    significand m (j * 2 ^ m.f + g) = (if j = 0 then g else 2 ^ m.f + g) ∧ unitExp m (j * 2 ^ m.f + g) = max 1 (j : Int) - m.bias - m.f := by
  have hdiv : (j * 2 ^ m.f + g) / 2 ^ m.f = j := by rw [add_comm, Nat.add_mul_div_right _ _ (by positivity), Nat.div_eq_of_lt hg, zero_add]
  have hmod : (j * 2 ^ m.f + g) % 2 ^ m.f = g := by rw [add_comm, Nat.add_mul_mod_self_right, Nat.mod_eq_of_lt hg]
  rw [significand, unitExp, hm, hdiv, hmod]
  exact ⟨by simp, by simp⟩

/-- The magnitude x stands at a code, with r / den of the way to the next. -/
def Placed (m : Fmt) (x : ℚ) (t : Nat × Nat × Nat) : Prop :=
  t.2.1 < t.2.2 ∧ x = (significand m t.1 + (t.2.1 : ℚ) / t.2.2) * 2 ^ unitExp m t.1

theorem placed_of_parts {m : Fmt} {n d c : Nat} {e q : Int} {a b : Nat} (hd : 0 < d) (h : scalePair n d (e - q) = (a, b)) (hc : significand m c = a / b ∧ unitExp m c = q) :
    Placed m (magnitude n d e) (c, a % b, b) := by
  obtain ⟨hb, hx⟩ := scalePair_parts e q hd h
  exact ⟨Nat.mod_lt _ hb, by rw [hx, hc.1, hc.2]⟩

theorem two_zpow_mono {j k : Int} (h : j ≤ k) : (2 : ℚ) ^ j ≤ 2 ^ k := zpow_le_zpow_right₀ one_le_two h

section
variable {m : Fmt} {n d a b : Nat} {e q : Int}

/-- With f + 1 bits of the magnitude the quotient is a significand. -/
theorem whole_normal {f : Nat} (hn : 0 < n) (hd : 0 < d) (hq : floorLog n d + e = q + f) (h : scalePair n d (e - q) = (a, b)) : 2 ^ f ≤ a / b ∧ a / b < 2 ^ (f + 1) := by
  obtain ⟨hlow, hhigh⟩ := exponent_bounds e hn hd
  rw [hq] at hlow hhigh
  exact ⟨le_whole_of_le hd h hlow, whole_lt_of_lt hd h (by rwa [Nat.cast_succ, ← add_assoc])⟩

/-- A quotient below 2^f is a code of the least exponent. -/
theorem placed_subnormal (hm : m.mk8 = false) (hn : 0 < n) (hd : 0 < d) (hk : floorLog n d + e + m.bias < 1)
    (h : scalePair n d (e - (1 - m.bias - m.f)) = (a, b)) : Placed m (magnitude n d e) (a / b, a % b, b) := by
  have hlt : a / b < 2 ^ m.f := whole_lt_of_lt hd h ((exponent_bounds e hn hd).2.trans_le (two_zpow_mono (by omega)))
  have hcode := ieee_code hm (j := 0) hlt
  rw [zero_mul, zero_add] at hcode
  exact placed_of_parts hd h ⟨by simpa using hcode.1, by simpa using hcode.2⟩

theorem placed_normal (hm : m.mk8 = false) (hn : 0 < n) (hd : 0 < d) (hk : 1 ≤ floorLog n d + e + m.bias) (hq : q = floorLog n d + e - m.f)
    (h : scalePair n d (e - q) = (a, b)) : Placed m (magnitude n d e) ((floorLog n d + e + m.bias).toNat * 2 ^ m.f + (a / b - 2 ^ m.f), a % b, b) := by
  obtain ⟨hge, hlt⟩ := whole_normal (f := m.f) hn hd (by omega) h
  rw [pow_succ] at hlt
  obtain ⟨hsig, hexp⟩ := ieee_code hm (j := (floorLog n d + e + m.bias).toNat) (g := a / b - 2 ^ m.f) (by omega)
  refine placed_of_parts hd h ⟨?_, ?_⟩
  · rw [hsig, if_neg (by omega)]; omega
  · rw [hexp]; omega

theorem placed_mk8_zero (hm : m.mk8 = true) (hn : 0 < n) (hd : 0 < d) (hk : floorLog n d + e < -22) (h : scalePair n d (e + 22) = (a, b)) :
    Placed m (magnitude n d e) (a / b, a % b, b) := by
  have h' : scalePair n d (e - (-22)) = (a, b) := by rwa [sub_neg_eq_add]
  have hlt : a / b < 2 ^ 0 := whole_lt_of_lt hd h' ((exponent_bounds e hn hd).2.trans_le (two_zpow_mono (by omega)))
  have hz : a / b = 0 := Nat.lt_one_iff.mp hlt
  exact placed_of_parts hd h' (by rw [hz, significand, unitExp, if_pos hm, if_pos hm]; exact ⟨rfl, rfl⟩)

theorem placed_mk8_step (hm : m.mk8 = true) (hn : 0 < n) (hd : 0 < d) {p f w : Nat} {bias : Int} (hp : p ≤ 6) (hrow : mk8Row p = (w, f, bias)) (hk : 0 ≤ floorLog n d + e + bias)
    (hj : p = 6 ∨ ((floorLog n d + e + bias).toNat + 1) * 2 ^ f ≤ 2 ^ p) (hq : q = floorLog n d + e - f) (h : scalePair n d (e - q) = (a, b)) :
    Placed m (magnitude n d e) (2 ^ p + (floorLog n d + e + bias).toNat * 2 ^ f + (a / b - 2 ^ f), a % b, b) := by
  obtain ⟨hge, hlt⟩ := whole_normal (f := f) hn hd (by omega) h
  rw [pow_succ] at hlt
  obtain ⟨hsig, hexp⟩ := mk8_code hm hp hrow (g := a / b - 2 ^ f) (by omega) hj
  refine placed_of_parts hd h ⟨?_, ?_⟩
  · rw [hsig]; omega
  · rw [hexp]; omega
end

/-- The code at or below a magnitude, and the part of the gap above it. -/
theorem codeFloor_placed (m : Fmt) {n d : Nat} (e : Int) (hn : 0 < n) (hd : 0 < d) : Placed m (magnitude n d e) (codeFloor m n d e) := by
  cases hm : m.mk8 with
  | true =>
    simp only [codeFloor, hm, if_true]
    split
    · next hk => exact placed_mk8_zero hm hn hd hk rfl
    · next hk =>
      split
      · exact placed_mk8_step hm hn hd (by decide) rfl (by simp only [mk8Row]; omega) (.inl rfl) rfl rfl
      · split_ifs
        all_goals exact placed_mk8_step hm hn hd (by decide) rfl (by simp only [mk8Row]; omega) (.inr (by simp only [mk8Row]; omega)) rfl rfl
  | false =>
    simp only [codeFloor, hm, Bool.false_eq_true, if_false]
    split
    · next hk => exact placed_subnormal hm hn hd hk rfl
    · next hk => exact placed_normal hm hn hd (by omega) rfl rfl

end Sys2Proof
end

section
/-! The codes of a format in their order, and the values that a format has (R42 to R48). -/

namespace Sys2Proof
open Sys2Proof.Claims

/-! ## Codes in their order -/

/-- Code d stands one unit of code c above it. -/
def OneUp (m : Fmt) (c d : Nat) : Prop :=
  (unitExp m d = unitExp m c ∧ significand m d = significand m c + 1) ∨ (unitExp m d = unitExp m c + 1 ∧ 2 * significand m d = significand m c + 1)

theorem oneUp_ieee {m : Fmt} (hm : m.mk8 = false) (c : Nat) : OneUp m c (c + 1) := by
  have hpos : 0 < 2 ^ m.f := by positivity
  obtain ⟨j, g, hg, rfl⟩ : ∃ j g, g < 2 ^ m.f ∧ c = j * 2 ^ m.f + g := ⟨c / 2 ^ m.f, c % 2 ^ m.f, Nat.mod_lt _ hpos, (Nat.div_add_mod' ..).symm⟩
  obtain ⟨hs, he⟩ := ieee_code hm (j := j) hg
  rw [OneUp, hs, he]
  by_cases hlast : g + 1 = 2 ^ m.f
  · -- the next code begins an exponent
    obtain ⟨hs', he'⟩ := ieee_code hm (j := j + 1) hpos
    rw [show j * 2 ^ m.f + g + 1 = (j + 1) * 2 ^ m.f + 0 by rw [add_mul]; omega, hs', he', if_neg (Nat.succ_ne_zero _)]
    split_ifs with hj
    · exact .inl ⟨by rw [hj]; rfl, by omega⟩
    · exact .inr ⟨by omega, by omega⟩
  · obtain ⟨hs', he'⟩ := ieee_code hm (j := j) (g := g + 1) (by omega)
    rw [add_assoc, hs', he']
    refine .inl ⟨rfl, ?_⟩
    split_ifs <;> omega

theorem oneUp_mk8_top {m : Fmt} (hm : m.mk8 = true) {c : Nat} (hc : 64 ≤ c) : OneUp m c (c + 1) := by
  have key (j g : Nat) (hg : g < 2 ^ 4) := mk8_code hm (p := 6) (j := j) (g := g) (le_refl 6) rfl hg (.inl rfl)
  obtain ⟨hs, he⟩ := key ((c - 64) / 16) ((c - 64) % 16) (by omega)
  obtain ⟨hs', he'⟩ := key ((c + 1 - 64) / 16) ((c + 1 - 64) % 16) (by omega)
  rw [show 2 ^ 6 + (c - 64) / 16 * 2 ^ 4 + (c - 64) % 16 = c by omega] at hs he
  rw [show 2 ^ 6 + (c + 1 - 64) / 16 * 2 ^ 4 + (c + 1 - 64) % 16 = c + 1 by omega] at hs' he'
  rw [OneUp, hs, he, hs', he']
  omega

theorem oneUp_mk8_low : ∀ c < 64, OneUp fmtMk8 c (c + 1) := by unfold OneUp; decide

theorem oneUp_succ {m : Fmt} (hm : m.Sound) (c : Nat) : OneUp m c (c + 1) := by
  cases h8 : m.mk8 with
  | false => exact oneUp_ieee h8 c
  | true =>
    rcases lt_or_ge c 64 with hc | hc
    · rw [hm.eq_mk8 h8]; exact oneUp_mk8_low c hc
    · exact oneUp_mk8_top h8 hc

/-- The distance from a code's magnitude to the next. -/
def gap (m : Fmt) (c : Nat) : ℚ := 2 ^ unitExp m c
theorem gap_pos (m : Fmt) (c : Nat) : 0 < gap m c := by rw [gap]; positivity

theorem codeMag_succ {m : Fmt} (hm : m.Sound) (c : Nat) : codeMag m (c + 1) = codeMag m c + gap m c := by
  rw [codeMag, codeMag, gap]
  rcases oneUp_succ hm c with ⟨he, hs⟩ | ⟨he, hs⟩
  · rw [he, hs]; push_cast; ring
  · have hs' : (2 : ℚ) * significand m (c + 1) = significand m c + 1 := by exact_mod_cast hs
    rw [he, zpow_add_one₀ (by norm_num), ← add_one_mul, ← hs']; ring

theorem codeMag_strictMono {m : Fmt} (hm : m.Sound) : StrictMono (codeMag m) :=
  strictMono_nat_of_lt_succ fun c => by rw [codeMag_succ hm]; linarith [gap_pos m c]

theorem codeMag_zero (m : Fmt) : codeMag m 0 = 0 := by
  have : significand m 0 = 0 := by simp [significand]
  rw [codeMag, this]; simp

theorem codeMag_nonneg (m : Fmt) (c : Nat) : 0 ≤ codeMag m c := by rw [codeMag]; positivity

/-- A placed magnitude, by the magnitude of its code and the gap above it. -/
theorem placed_iff {m : Fmt} {x : ℚ} {c r den : Nat} : Placed m x (c, r, den) ↔ r < den ∧ x = codeMag m c + (r : ℚ) / den * gap m c := by
  rw [Placed, codeMag, gap, add_mul]

/-! ## Codes and values (R42 to R47) -/

theorem fmtValue_mk8 : ∀ neg, ∀ c < 128, c ≠ 0 →
    fmtValue fmtMk8 (withSign fmtMk8 neg c) = .fin neg (significand fmtMk8 c) 1 (unitExp fmtMk8 c) := by decide +kernel

/-- The value of a code of the formats other than MK8, by its sign and its magnitude code. -/
theorem fmtValue_ieee {m : Fmt} (h8 : m.mk8 = false) {neg : Bool} {c : Nat} (hc : c ≤ m.maxCode) (hmax : m.maxCode < 2 ^ (m.width - 1)) :
    fmtValue m ((if neg then 2 ^ (m.width - 1) else 0) + c) = .fin neg (significand m c) 1 (unitExp m c) := by
  have hlt : c < 2 ^ (m.width - 1) := by omega
  have hmod : ((if neg then 2 ^ (m.width - 1) else 0) + c) % 2 ^ (m.width - 1) = c := by
    cases neg <;> simp [Nat.mod_eq_of_lt hlt]
  have hsign : ((if neg then 2 ^ (m.width - 1) else 0) + c) / 2 ^ (m.width - 1) % 2 = if neg then 1 else 0 := by
    cases neg <;> simp [Nat.div_eq_of_lt hlt, Nat.add_div_left]
  simp only [fmtValue, h8, Nat.shiftRight_eq_div_pow, hmod, hsign, significand, unitExp, if_neg (not_lt.mpr hc), Bool.false_eq_true, if_false]
  split
  · next hj => rw [hj]; cases neg <;> simp
  · next hj => rw [max_eq_right (by exact_mod_cast Nat.pos_of_ne_zero hj)]; cases neg <;> simp

theorem valueAt_of_fmtValue {m : Fmt} {code c : Nat} {neg : Bool} (h : fmtValue m code = .fin neg (significand m c) 1 (unitExp m c)) :
    valueAt m code = some (signOf neg * codeMag m c) := by
  rw [valueAt, h, ratOf_fin, magnitude, codeMag, Nat.cast_one, div_one]

theorem withSign_lt {m : Fmt} (hm : m.Sound) (neg : Bool) {c : Nat} (hc : c ≤ m.maxCode) : withSign m neg c < 2 ^ m.width := by
  have hw := hm.two_le_width
  have hmax := hm.maxCode_lt
  have hpow : 2 ^ m.width = 2 ^ (m.width - 1) + 2 ^ (m.width - 1) := by rw [← mul_two, ← pow_succ, Nat.sub_add_cancel (by omega)]
  rw [withSign]
  split_ifs <;> omega

theorem valueAt_withSign {m : Fmt} (hm : m.Sound) (neg : Bool) {c : Nat} (hc : c ≤ m.maxCode) :
    valueAt m (withSign m neg c) = some (signOf neg * codeMag m c) := by
  have hmax := hm.maxCode_lt
  cases h8 : m.mk8 with
  | false =>
    have := fmtValue_ieee h8 (neg := neg) hc hmax
    rw [withSign, h8, Bool.false_and, if_neg (by decide), ← valueAt_of_fmtValue this]
    cases neg <;> simp [add_comm]
  | true =>
    rw [hm.eq_mk8 h8] at hc hmax ⊢
    by_cases h0 : c = 0
    · rw [h0, codeMag_zero, mul_zero]
      cases neg <;> decide +kernel
    · exact valueAt_of_fmtValue (fmtValue_mk8 neg c (Nat.lt_succ_of_le hc) h0)

/-- A code is a sign and a magnitude code; in MK8 all but 0x80, the NaN. -/
theorem eq_withSign_mk8 : ∀ c < 2 ^ fmtMk8.width, c ≠ 128 → c % 128 ≤ fmtMk8.maxCode ∧ c = withSign fmtMk8 (decide (128 ≤ c)) (c % 128) := by decide +kernel

theorem eq_withSign_ieee {m : Fmt} (h8 : m.mk8 = false) (hw : 2 ≤ m.width) {c : Nat} (hc : c < 2 ^ m.width) :
    ∃ neg, ∃ k < 2 ^ (m.width - 1), c = withSign m neg k := by
  have hpow : 2 ^ m.width = 2 ^ (m.width - 1) + 2 ^ (m.width - 1) := by rw [← mul_two, ← pow_succ, Nat.sub_add_cancel (by omega)]
  rcases lt_or_ge c (2 ^ (m.width - 1)) with h | h
  · exact ⟨false, c, h, by simp [withSign, h8]⟩
  · exact ⟨true, c - 2 ^ (m.width - 1), by omega, by simp [withSign, h8]; omega⟩

/-- A code above the greatest finite one has no value, or 0. -/
theorem valueAt_special {m : Fmt} (h8 : m.mk8 = false) {neg : Bool} {k : Nat} (hk : k < 2 ^ (m.width - 1)) (hmax : m.maxCode < k) {q : ℚ}
    (h : valueAt m (withSign m neg k) = some q) : q = 0 := by
  have hmod : withSign m neg k % 2 ^ (m.width - 1) = k := by
    cases neg <;> simp [withSign, h8, Nat.mod_eq_of_lt hk]
  rw [valueAt, fmtValue, h8, hmod] at h
  simp only [Bool.false_eq_true, if_false, if_pos hmax] at h
  revert h
  split <;> split_ifs <;> simp [ratOf, eq_comm]

/-- A representable value has the magnitude of a finite code. -/
theorem representable_iff {m : Fmt} (hm : m.Sound) {q : ℚ} : Representable m q ↔ ∃ k ≤ m.maxCode, |q| = codeMag m k := by
  have hval (neg : Bool) (k : Nat) (hk : k ≤ m.maxCode) (h : valueAt m (withSign m neg k) = some q) : |q| = codeMag m k := by
    rw [valueAt_withSign hm neg hk] at h
    rw [← Option.some.inj h, abs_signOf_mul, abs_of_nonneg (codeMag_nonneg m k)]
  constructor
  · rintro ⟨c, hc, h⟩
    cases h8 : m.mk8 with
    | true =>
      rw [hm.eq_mk8 h8] at hc h hval ⊢
      obtain ⟨hk, hcode⟩ := eq_withSign_mk8 c hc (by rintro rfl; simp [valueAt, ratOf, fmtValue, fmtMk8, mk8Value] at h)
      exact ⟨c % 128, hk, hval (decide (128 ≤ c)) _ hk (hcode ▸ h)⟩
    | false =>
      obtain ⟨neg, k, hk, rfl⟩ := eq_withSign_ieee h8 hm.two_le_width hc
      rcases le_or_gt k m.maxCode with hle | hgt
      · exact ⟨k, hle, hval neg k hle h⟩
      · exact ⟨0, Nat.zero_le _, by rw [valueAt_special h8 hk hgt h, abs_zero, codeMag_zero]⟩
  · rintro ⟨k, hk, h⟩
    refine ⟨withSign m (decide (q < 0)) k, withSign_lt hm _ hk, ?_⟩
    rw [valueAt_withSign hm _ hk, ← h]
    rcases lt_or_ge q 0 with hq | hq
    · simp [signOf, hq, abs_of_neg hq]
    · simp [signOf, not_lt.mpr hq, abs_of_nonneg hq]

end Sys2Proof
end

section
/-! The neighbours of a value and the choice that RM makes between them (R50 to R52). -/

namespace Sys2Proof
open Sys2Proof.Claims

/-! ## Representable values around a magnitude -/

section
variable {m : Fmt} (hm : m.Sound)
include hm

theorem representable_neg {q : ℚ} (h : Representable m q) : Representable m (-q) := by
  rw [representable_iff hm] at h ⊢
  rwa [abs_neg]

theorem representable_signed {q : ℚ} (h : Representable m q) (neg : Bool) : Representable m (signOf neg * q) := by
  cases neg
  · simpa [signOf] using h
  · simpa [signOf] using representable_neg hm h

theorem representable_codeMag {c : Nat} (hc : c ≤ m.maxCode) : Representable m (codeMag m c) :=
  (representable_iff hm).mpr ⟨c, hc, abs_of_nonneg (codeMag_nonneg m c)⟩

/-- No representable value stands between two codes that follow each other. -/
theorem representable_le_or_ge {r : ℚ} (h : Representable m r) (c : Nat) : r ≤ codeMag m c ∨ codeMag m (c + 1) ≤ r := by
  obtain ⟨k, -, hk⟩ := (representable_iff hm).mp h
  rcases le_or_gt k c with hle | hlt
  · exact .inl ((le_abs_self r).trans (hk ▸ (codeMag_strictMono hm).monotone hle))
  · rcases abs_choice r with habs | habs
    · exact .inr (habs ▸ hk ▸ (codeMag_strictMono hm).monotone hlt)
    · have := codeMag_nonneg m k
      have := codeMag_nonneg m c
      exact .inl (by linarith)

end

theorem below_self {m : Fmt} {w : ℚ} (h : Representable m w) : Below m w w := ⟨h, le_rfl, fun _ _ hr => hr⟩
theorem above_self {m : Fmt} {w : ℚ} (h : Representable m w) : Above m w w := ⟨h, le_rfl, fun _ _ hr => hr⟩

theorem below_unique {m : Fmt} {w p q : ℚ} (hp : Below m w p) (hq : Below m w q) : p = q :=
  le_antisymm (hq.2.2 p hp.1 hp.2.1) (hp.2.2 q hq.1 hq.2.1)
theorem above_unique {m : Fmt} {w p q : ℚ} (hp : Above m w p) (hq : Above m w q) : p = q :=
  le_antisymm (hp.2.2 q hq.1 hq.2.1) (hq.2.2 p hp.1 hp.2.1)

theorem toward_unique {m : Fmt} {w p q : ℚ} (hp : Toward m w p) (hq : Toward m w q) : p = q := by
  rw [Toward] at hp hq
  split at hp
  · next h => rw [if_pos h] at hq; exact below_unique hp hq
  · next h => rw [if_neg h] at hq; exact above_unique hp hq
theorem away_unique {m : Fmt} {w p q : ℚ} (hp : Away m w p) (hq : Away m w q) : p = q := by
  rw [Away] at hp hq
  split at hp
  · next h => rw [if_pos h] at hq; exact above_unique hp hq
  · next h => rw [if_neg h] at hq; exact below_unique hp hq

/-- A representable value rounds to itself in every mode. -/
theorem roundsTo_self {m : Fmt} {w : ℚ} (h : Representable m w) (rm : Rm) (rnd c : Nat) : RoundsTo m rm rnd w w c := by
  have hnear : ∀ r, |w - w| = |w - r| → r = w := fun r hr => by
    rw [sub_self, abs_zero, eq_comm, abs_eq_zero, sub_eq_zero] at hr
    exact hr.symm
  cases rm with
  | rne => exact fun r _ => ⟨by simp, fun hne heq => absurd (hnear r heq.symm) hne⟩
  | rna => exact fun r _ => ⟨by simp, fun hne heq => absurd (hnear r heq.symm) hne⟩
  | rtz => rw [RoundsTo, Toward]; split <;> [exact below_self h; exact above_self h]
  | rdn => exact below_self h
  | rup => exact above_self h
  | sto => exact ⟨fun _ => rfl, fun hno => absurd h hno⟩

/-! ## The choice between two neighbours (R50, R52) -/

/-- When a part t of the gap goes to the upper code. -/
def Chosen (rm : Rm) (neg : Bool) (rnd : Nat) (odd : Bool) (t : ℚ) : Prop :=
  0 < t ∧ match rm with
    | .rtz => False
    | .rdn => neg = true
    | .rup => neg = false
    | .rne => 1 / 2 < t ∨ (t = 1 / 2 ∧ odd = true)
    | .rna => 1 / 2 ≤ t
    | .sto => 1 ≤ t + (rnd : ℚ) / 2 ^ 16

theorem goesUp_iff {rm : Rm} {neg odd : Bool} {rnd r den : Nat} (hden : 0 < den) : goesUp rm neg rnd odd r den = true ↔ Chosen rm neg rnd odd ((r : ℚ) / den) := by
  have hd : (0 : ℚ) < den := by exact_mod_cast hden
  unfold Chosen
  by_cases h : r = 0
  · simp [goesUp, h]
  · have hr : 0 < (r : ℚ) / den := div_pos (by exact_mod_cast Nat.pos_of_ne_zero h) hd
    rw [and_iff_right hr]
    cases rm with
    | rtz => simp [goesUp]
    | rdn => simp [goesUp, h]
    | rup => simp [goesUp, h]
    | rne =>
      have hlt : den < 2 * r ↔ (1 : ℚ) / 2 < r / den := by
        rw [div_lt_div_iff₀ two_pos hd, one_mul, mul_comm]; exact_mod_cast Iff.rfl
      have heq : 2 * r = den ↔ (r : ℚ) / den = 1 / 2 := by
        rw [div_eq_div_iff hd.ne' two_ne_zero, one_mul, mul_comm]; exact_mod_cast Iff.rfl
      simp [goesUp, h, hlt, heq]
    | rna =>
      have hle : den ≤ 2 * r ↔ (1 : ℚ) / 2 ≤ r / den := by
        rw [div_le_div_iff₀ two_pos hd, one_mul, mul_comm]; exact_mod_cast Iff.rfl
      simp [goesUp, h, hle]
    | sto =>
      have hle : den * 65536 ≤ r * 65536 + rnd * den ↔ (1 : ℚ) ≤ r / den + (rnd : ℚ) / 2 ^ 16 := by
        rw [div_add_div _ _ hd.ne' (by norm_num), one_le_div (by positivity), mul_comm (den : ℚ) rnd]
        norm_num
        exact_mod_cast Iff.rfl
      simpa [goesUp, h] using hle

/-! ## Between two neighbours (R50 to R52) -/

section
variable {lo g t r : ℚ} (hg : 0 < g) (hr : r ≤ lo ∨ lo + g ≤ r)
include hg hr

/-- In the lower half of a gap the lower end is nearest, alone but at the middle. -/
theorem nearest_lower (h0 : 0 < t) (h : t ≤ 1 / 2) : |lo + t * g - lo| ≤ |lo + t * g - r| ∧ (r ≠ lo → |lo + t * g - r| = |lo + t * g - lo| → t = 1 / 2) := by
  have hu : 0 < t * g := mul_pos h0 hg
  have hhalf : t * g ≤ 1 / 2 * g := mul_le_mul_of_nonneg_right h hg.le
  rw [add_sub_cancel_left, abs_of_pos hu]
  rcases hr with hr | hr
  · rw [abs_of_nonneg (by linarith)]
    exact ⟨by linarith, fun hne heq => absurd (by linarith) hne⟩
  · rw [abs_of_nonpos (by linarith)]
    exact ⟨by linarith, fun _ heq => mul_right_cancel₀ hg.ne' (by linarith)⟩

theorem nearest_upper (h1 : t < 1) (h : 1 / 2 ≤ t) :
    |lo + t * g - (lo + g)| ≤ |lo + t * g - r| ∧ (r ≠ lo + g → |lo + t * g - r| = |lo + t * g - (lo + g)| → t = 1 / 2 ∧ r = lo) := by
  have hu : t * g < 1 * g := mul_lt_mul_of_pos_right h1 hg
  have hhalf : 1 / 2 * g ≤ t * g := mul_le_mul_of_nonneg_right h hg.le
  rw [abs_of_neg (a := lo + t * g - (lo + g)) (by linarith)]
  rcases hr with hr | hr
  · rw [abs_of_pos (by linarith)]
    refine ⟨by linarith, fun _ heq => ?_⟩
    have ht : t = 1 / 2 := mul_right_cancel₀ hg.ne' (by linarith)
    exact ⟨ht, by rw [ht] at heq; linarith⟩
  · rw [abs_of_neg (by linarith)]
    exact ⟨by linarith, fun hne heq => absurd (by linarith) hne⟩
end

theorem signOf_false_mul (x : ℚ) : signOf false * x = x := one_mul x
theorem signOf_true_mul (x : ℚ) : signOf true * x = -x := neg_one_mul x

theorem abs_signed_sub (neg : Bool) (x r : ℚ) : |signOf neg * x - r| = |x - signOf neg * r| := by
  cases neg
  · simp [signOf]
  · rw [signOf, if_pos rfl, neg_one_mul, neg_one_mul, ← abs_neg]; congr 1; ring

theorem eq_signed_iff {neg : Bool} {x r : ℚ} : r = signOf neg * x ↔ signOf neg * r = x := by
  constructor
  · rintro rfl; rw [← mul_assoc, signOf_mul_self, one_mul]
  · rintro rfl; rw [← mul_assoc, signOf_mul_self, one_mul]

theorem withSign_mod_two {m : Fmt} (hm : m.Sound) (neg : Bool) (c : Nat) : withSign m neg c % 2 = c % 2 := by
  obtain ⟨w, hw⟩ : ∃ w, m.width - 1 = w + 1 := ⟨m.width - 2, by have := hm.two_le_width; omega⟩
  rw [withSign, hw, pow_succ]
  split_ifs with h
  · simp only [Bool.and_eq_true, beq_iff_eq] at h
    rw [h.2]
  · omega
  · rfl

section
variable {m : Fmt} (hm : m.Sound) {c : Nat} {t : ℚ} (hc : c + 1 ≤ m.maxCode) (h0 : 0 < t) (h1 : t < 1)
include hm hc h0 h1

theorem below_between : Below m (codeMag m c + t * gap m c) (codeMag m c) := by
  have hg := gap_pos m c
  refine ⟨representable_codeMag hm (by omega), by linarith [mul_pos h0 hg], fun r hr hle => (representable_le_or_ge hm hr c).resolve_right fun h => ?_⟩
  rw [codeMag_succ hm] at h
  linarith [mul_lt_mul_of_pos_right h1 hg]

theorem above_between : Above m (codeMag m c + t * gap m c) (codeMag m (c + 1)) := by
  have hg := gap_pos m c
  refine ⟨representable_codeMag hm hc, by rw [codeMag_succ hm]; linarith [mul_lt_mul_of_pos_right h1 hg], fun r hr hle =>
    (representable_le_or_ge hm hr c).resolve_left fun h => ?_⟩
  linarith [mul_pos h0 hg]

omit hc in
theorem not_representable_between (neg : Bool) : ¬ Representable m (signOf neg * (codeMag m c + t * gap m c)) := fun h => by
  have hrep := representable_signed hm h neg
  rw [← mul_assoc, signOf_mul_self, one_mul] at hrep
  have hg := gap_pos m c
  rcases representable_le_or_ge hm hrep c with h | h
  · linarith [mul_pos h0 hg]
  · rw [codeMag_succ hm] at h
    linarith [mul_lt_mul_of_pos_right h1 hg]
end

theorem above_neg {m : Fmt} (hm : m.Sound) {w q : ℚ} (h : Below m w q) : Above m (-w) (-q) :=
  ⟨representable_neg hm h.1, neg_le_neg h.2.1, fun r hr hle => neg_le.mp (h.2.2 (-r) (representable_neg hm hr) (neg_le.mp hle))⟩
theorem below_neg {m : Fmt} (hm : m.Sound) {w q : ℚ} (h : Above m w q) : Below m (-w) (-q) :=
  ⟨representable_neg hm h.1, neg_le_neg h.2.1, fun r hr hle => le_neg.mp (h.2.2 (-r) (representable_neg hm hr) (le_neg.mp hle))⟩

theorem toward_signed {m : Fmt} (hm : m.Sound) {x q : ℚ} (hx : 0 < x) (h : Below m x q) (neg : Bool) : Toward m (signOf neg * x) (signOf neg * q) := by
  rw [Toward]
  cases neg
  · rw [signOf_false_mul, signOf_false_mul, if_pos hx.le]; exact h
  · rw [signOf_true_mul, signOf_true_mul, if_neg (by linarith)]; exact above_neg hm h
theorem away_signed {m : Fmt} (hm : m.Sound) {x q : ℚ} (hx : 0 < x) (h : Above m x q) (neg : Bool) : Away m (signOf neg * x) (signOf neg * q) := by
  rw [Away]
  cases neg
  · rw [signOf_false_mul, signOf_false_mul, if_pos hx.le]; exact h
  · rw [signOf_true_mul, signOf_true_mul, if_neg (by linarith)]; exact below_neg hm h

section
variable {m : Fmt} (hm : m.Sound) {c : Nat} {t : ℚ} (hc : c + 1 ≤ m.maxCode) (h0 : 0 < t) (h1 : t < 1) {up : Bool} (neg : Bool) (rnd : Nat)
include hm h0 h1

theorem rne_between (hup : up = true ↔ 1 / 2 < t ∨ t = 1 / 2 ∧ (c % 2 == 1) = true) :
    RoundsTo m .rne rnd (signOf neg * (codeMag m c + t * gap m c)) (signOf neg * codeMag m (if up then c + 1 else c)) (withSign m neg (if up then c + 1 else c)) := by
  intro r hr
  have hside := representable_le_or_ge hm (representable_signed hm hr neg) c
  rw [codeMag_succ hm] at hside
  rw [abs_signed_sub, abs_signed_sub, ← mul_assoc, signOf_mul_self, one_mul, ne_eq, eq_signed_iff, withSign_mod_two hm]
  cases up with
  | false =>
    have hlow : ¬(1 / 2 < t ∨ t = 1 / 2 ∧ (c % 2 == 1) = true) := fun h => Bool.false_ne_true (hup.mpr h)
    obtain ⟨hle, htie⟩ := nearest_lower (gap_pos m c) hside h0 (not_lt.mp fun h => hlow (.inl h))
    refine ⟨hle, fun hne heq => ?_⟩
    have hodd : ¬ c % 2 = 1 := fun h => hlow (.inr ⟨htie hne heq, by simpa using h⟩)
    show c % 2 = 0
    omega
  | true =>
    have hhigh : 1 / 2 < t ∨ t = 1 / 2 ∧ (c % 2 == 1) = true := hup.mp rfl
    obtain ⟨hle, htie⟩ := nearest_upper (gap_pos m c) hside h1 (hhigh.elim le_of_lt fun h => h.1.ge)
    rw [if_pos rfl, codeMag_succ hm]
    refine ⟨hle, fun hne heq => ?_⟩
    have hodd : (c % 2 == 1) = true := (hhigh.resolve_left (htie hne heq).1.not_gt).2
    rw [beq_iff_eq] at hodd
    omega

theorem rna_between (hup : up = true ↔ 1 / 2 ≤ t) (code : Nat) :
    RoundsTo m .rna rnd (signOf neg * (codeMag m c + t * gap m c)) (signOf neg * codeMag m (if up then c + 1 else c)) code := by
  intro r hr
  have hg := gap_pos m c
  have hside := representable_le_or_ge hm (representable_signed hm hr neg) c
  rw [codeMag_succ hm] at hside
  rw [abs_signed_sub, abs_signed_sub, ← mul_assoc, signOf_mul_self, one_mul, ne_eq, eq_signed_iff, abs_signOf_mul, ← abs_signOf_mul neg r]
  cases up with
  | false =>
    have hlow : ¬ 1 / 2 ≤ t := fun h => Bool.false_ne_true (hup.mpr h)
    obtain ⟨hle, htie⟩ := nearest_lower hg hside h0 (not_le.mp hlow).le
    exact ⟨hle, fun hne heq => absurd (htie hne heq).ge hlow⟩
  | true =>
    obtain ⟨hle, htie⟩ := nearest_upper hg hside h1 (hup.mp rfl)
    rw [if_pos rfl, codeMag_succ hm]
    refine ⟨hle, fun hne heq => ?_⟩
    rw [(htie hne heq).2, abs_of_nonneg (codeMag_nonneg m c), abs_of_nonneg (by linarith [codeMag_nonneg m c])]
    linarith

include hc

theorem toward_between : Toward m (signOf neg * (codeMag m c + t * gap m c)) (signOf neg * codeMag m c) :=
  toward_signed hm (add_pos_of_nonneg_of_pos (codeMag_nonneg m c) (mul_pos h0 (gap_pos m c))) (below_between hm hc h0 h1) neg
theorem away_between : Away m (signOf neg * (codeMag m c + t * gap m c)) (signOf neg * codeMag m (c + 1)) :=
  away_signed hm (add_pos_of_nonneg_of_pos (codeMag_nonneg m c) (mul_pos h0 (gap_pos m c))) (above_between hm hc h0 h1) neg

theorem sto_between (hup : up = true ↔ 1 ≤ t + (rnd : ℚ) / 2 ^ 16) (code : Nat) :
    RoundsTo m .sto rnd (signOf neg * (codeMag m c + t * gap m c)) (signOf neg * codeMag m (if up then c + 1 else c)) code := by
  have hg := gap_pos m c
  refine ⟨fun h => absurd h (not_representable_between hm h0 h1 neg), fun _ lo hi hlo hhi => ?_⟩
  rw [toward_unique hlo (toward_between hm hc h0 h1 neg), away_unique hhi (away_between hm hc h0 h1 neg)]
  have hgap : |signOf neg * codeMag m (c + 1)| - |signOf neg * codeMag m c| = gap m c := by
    rw [abs_signOf_mul, abs_signOf_mul, abs_of_nonneg (codeMag_nonneg m _), abs_of_nonneg (codeMag_nonneg m _), codeMag_succ hm, add_sub_cancel_left]
  have hpart : |signOf neg * (codeMag m c + t * gap m c)| - |signOf neg * codeMag m c| = t * gap m c := by
    rw [abs_signOf_mul, abs_signOf_mul, abs_of_nonneg (codeMag_nonneg m _), abs_of_pos (add_pos_of_nonneg_of_pos (codeMag_nonneg m c) (mul_pos h0 hg)), add_sub_cancel_left]
  rw [hgap, hpart, mul_div_right_comm, ← add_mul]
  cases up with
  | true => rw [if_pos ((le_mul_iff_one_le_left hg).mpr (hup.mp rfl)), if_pos rfl]
  | false => rw [if_neg fun h => Bool.false_ne_true (hup.mpr ((le_mul_iff_one_le_left hg).mp h))]; rfl

/-- Between two neighbours, the chosen code is the one that RM names. -/
theorem roundsTo_between {rm : Rm} (hup : up = true ↔ Chosen rm neg rnd (c % 2 == 1) t) :
    RoundsTo m rm rnd (signOf neg * (codeMag m c + t * gap m c)) (signOf neg * codeMag m (if up then c + 1 else c)) (withSign m neg (if up then c + 1 else c)) := by
  unfold Chosen at hup
  rw [and_iff_right h0] at hup
  cases rm with
  | rne => exact rne_between hm h0 h1 neg rnd hup
  | rna => exact rna_between hm h0 h1 neg rnd hup _
  | sto => exact sto_between hm hc h0 h1 neg rnd hup _
  | rtz =>
    obtain rfl : up = false := by simpa using hup
    exact toward_between hm hc h0 h1 neg
  | rdn =>
    obtain rfl : up = neg := Bool.eq_iff_iff.mpr hup
    show Below ..
    cases up
    · rw [signOf_false_mul, signOf_false_mul]; exact below_between hm hc h0 h1
    · rw [signOf_true_mul, signOf_true_mul]; exact below_neg hm (above_between hm hc h0 h1)
  | rup =>
    obtain rfl : up = !neg := Bool.eq_iff_iff.mpr (by simpa using hup)
    show Above ..
    cases neg
    · rw [signOf_false_mul, signOf_false_mul]; exact above_between hm hc h0 h1
    · rw [signOf_true_mul, signOf_true_mul]; exact above_neg hm (below_between hm hc h0 h1)
end

end Sys2Proof
end

section
/-! Rounding to a format: within the finite range, at its end and beyond (R50 to R53, R58). -/

namespace Sys2Proof
open Sys2Proof.Claims

/-! ## Rounding to a format (R50 to R53) -/

theorem withSign_false (m : Fmt) (c : Nat) : withSign m false c = c := by
  rw [withSign]; split_ifs <;> simp_all

theorem withSign_eq_signed {m : Fmt} {neg : Bool} {c : Nat} {x : ℚ} (hx : 0 < x) (h : m.mk8 = true → c ≠ 0) : withSign m neg c = signed m (signOf neg * x) c := by
  rw [withSign, signed, if_neg (by simpa using h)]
  exact if_congr (signOf_mul_neg_iff hx).symm rfl rfl

theorem greatest_eq {m : Fmt} (hm : m.Sound) : greatest m = codeMag m m.maxCode := by
  have h := valueAt_withSign hm false (le_refl m.maxCode)
  rw [withSign_false, signOf_false_mul] at h
  rw [greatest, h]; rfl

theorem maxCode_pos {m : Fmt} (hm : m.Sound) : 0 < m.maxCode :=
  Nat.pos_of_ne_zero fun h => hm.maxCode_mod (by rw [h, Nat.zero_mod])

/-- The value that would follow the greatest is one more gap above it. -/
theorem following_eq {m : Fmt} (hm : m.Sound) : following m = codeMag m (m.maxCode + 1) := by
  obtain ⟨k, hk⟩ : ∃ k, m.maxCode = k + 1 := ⟨m.maxCode - 1, by have := maxCode_pos hm; omega⟩
  have hunit : unitExp m (k + 1) = unitExp m k := by
    cases h8 : m.mk8 with
    | true =>
      rw [hm.eq_mk8 h8] at hk ⊢
      obtain rfl : k = 126 := Nat.succ.inj hk.symm
      decide
    | false =>
      have hdvd : ¬ 2 ^ m.f ∣ k + 1 := fun h => hm.maxCode_mod (hk ▸ Nat.mod_eq_zero_of_dvd h)
      simp only [unitExp, h8, Nat.succ_div, if_neg hdvd, add_zero, Bool.false_eq_true, if_false]
  have hprev := valueAt_withSign hm false (c := k) (by omega)
  rw [withSign_false, signOf_false_mul] at hprev
  rw [following, greatest_eq hm, hk, Nat.add_sub_cancel, hprev, codeMag_succ hm (k + 1), codeMag_succ hm k, gap, gap, hunit, Option.getD_some]
  ring

theorem directed_eq {rm : Rm} {neg : Bool} {x : ℚ} (hx : 0 < x) :
    directed rm (signOf neg * x) = match rm with | .rtz => true | .rdn => !neg | .rup => neg | _ => false := by
  cases rm <;> cases neg <;> simp [directed, signOf, hx, hx.le]

theorem overflowCode_greatest {m : Fmt} (hm : m.Sound) {rm : Rm} {sat neg : Bool} {x : ℚ} (hx : 0 < x) (h : (sat || directed rm (signOf neg * x)) = true) :
    overflowCode m rm sat neg = signed m (signOf neg * x) m.maxCode := by
  rw [directed_eq hx] at h
  rw [← withSign_eq_signed hx fun _ => (maxCode_pos hm).ne']
  exact if_pos h

theorem overflowCode_special {m : Fmt} (hm : m.Sound) {rm : Rm} {neg : Bool} {x : ℚ} (hx : 0 < x) (h : directed rm (signOf neg * x) = false) :
    overflowCode m rm false neg =
      match m.inf, m.nan with | some i, _ => signed m (signOf neg * x) i | none, some k => k | none, none => signed m (signOf neg * x) m.maxCode := by
  have hinf (i : Nat) (hi : m.inf = some i) : m.mk8 = true → i ≠ 0 := fun h8 => by rw [hm.eq_mk8 h8] at hi; cases hi
  rw [directed_eq hx] at h
  refine (if_neg (ne_true_of_eq_false h)).trans ?_
  cases hi : m.inf with
  | some i => exact withSign_eq_signed hx (hinf i hi)
  | none =>
    cases m.nan with
    | some k => rfl
    | none => exact withSign_eq_signed hx fun _ => (maxCode_pos hm).ne'

/-- What roundF makes of a magnitude, by its place among the codes. -/
theorem roundF_placed {m : Fmt} {n d : Nat} {e : Int} (hn : n ≠ 0) {c r den : Nat} (h : codeFloor m n d e = (c, r, den)) (rm : Rm) (sat neg : Bool) (rnd : Nat) : let up := goesUp rm neg rnd (c % 2 == 1) r den
    roundF m rm sat rnd (.fin neg n d e) =
      if m.maxCode < (if up then c + 1 else c) then (overflowCode m rm sat neg, flOF ||| flNX)
      else (withSign m neg (if up then c + 1 else c), if r = 0 then 0 else flNX ||| (if isTiny m rm neg rnd n d e (if up then c + 1 else c) then flUF else 0)) := by
  simp only [roundF, if_neg hn, h]

/-- The flags of an inexact result, tiny or not: nx, and none of nv, dz and of. -/
theorem inexact_flags (tiny : Bool) : (flNX ||| if tiny then flUF else 0).getLsbD 4 = true ∧ (flNX ||| if tiny then flUF else 0) &&& 7 = 0 := by
  cases tiny <;> decide

/-- What R50 to R53 ask of a value within the finite range. -/
def RoundsWithin (m : Fmt) (rm : Rm) (rnd : Nat) (w : ℚ) (c : Nat) (fl : Fl) : Prop :=
  c < 2 ^ m.width ∧ ∃ q, valueAt m c = some q ∧ RoundsTo m rm rnd w q c ∧ (Representable m w → q = w) ∧
    (q = 0 → w ≠ 0 → c = if m.mk8 then 0 else signed m w 0) ∧ (fl.getLsbD 4 = true ↔ q ≠ w) ∧ fl &&& 7 = 0

/-- A value that the format has stays as it is. -/
theorem roundsWithin_exact {m : Fmt} (hm : m.Sound) (rm : Rm) (rnd : Nat) (neg : Bool) {c : Nat} (hc : c ≤ m.maxCode) :
    RoundsWithin m rm rnd (signOf neg * codeMag m c) (withSign m neg c) 0 :=
  ⟨withSign_lt hm neg hc, _, valueAt_withSign hm neg hc, roundsTo_self (representable_signed hm (representable_codeMag hm hc) neg) rm rnd _, fun _ => rfl,
    fun h0 hne => absurd h0 hne, by simp, by simp⟩

theorem roundsWithin_between {m : Fmt} (hm : m.Sound) {c : Nat} {t : ℚ} (hc : c + 1 ≤ m.maxCode) (h0 : 0 < t) (h1 : t < 1) {up : Bool} (neg : Bool) (rnd : Nat) {rm : Rm}
    (hup : up = true ↔ Chosen rm neg rnd (c % 2 == 1) t) {fl : Fl} (hfl : fl.getLsbD 4 = true ∧ fl &&& 7 = 0) :
    RoundsWithin m rm rnd (signOf neg * (codeMag m c + t * gap m c)) (withSign m neg (if up then c + 1 else c)) fl := by
  have hle : (if up then c + 1 else c) ≤ m.maxCode := by split <;> omega
  have hx : 0 < codeMag m c + t * gap m c := add_pos_of_nonneg_of_pos (codeMag_nonneg m c) (mul_pos h0 (gap_pos m c))
  have hno := not_representable_between hm (c := c) h0 h1 neg
  refine ⟨withSign_lt hm neg hle, _, valueAt_withSign hm neg hle, roundsTo_between hm hc h0 h1 neg rnd hup, fun h => absurd h hno, fun hq _ => ?_,
    iff_of_true hfl.1 fun h => hno (h ▸ representable_signed hm (representable_codeMag hm hle) neg), hfl.2⟩
  have hzero : (if up then c + 1 else c) = 0 := by
    rw [← (codeMag_strictMono hm).injective.eq_iff, codeMag_zero]
    exact (mul_eq_zero.mp hq).resolve_left fun h => by simpa [h] using signOf_mul_self neg
  rw [hzero]
  cases h8 : m.mk8 with
  | true => rw [withSign, h8]; rfl
  | false => exact withSign_eq_signed hx fun h => by rw [h8] at h; cases h

/-- A magnitude by its code, and the part t = r / den of the gap above it. -/
theorem codeFloor_between (m : Fmt) {n d : Nat} (e : Int) (hn : 0 < n) (hd : 0 < d) : ∃ c r den, codeFloor m n d e = (c, r, den) ∧
    0 < den ∧ 0 ≤ (r : ℚ) / den ∧ (r : ℚ) / den < 1 ∧ magnitude n d e = codeMag m c + (r : ℚ) / den * gap m c := by
  obtain ⟨hlt, hx⟩ := placed_iff.mp (codeFloor_placed m e hn hd)
  refine ⟨_, _, _, rfl, by omega, by positivity, ?_, hx⟩
  rw [div_lt_one (by exact_mod_cast (Nat.zero_le _).trans_lt hlt)]
  exact_mod_cast hlt

section
variable {m : Fmt} (hm : m.Sound) (rm : Rm) (sat neg : Bool) (rnd : Nat) {n d : Nat} (e : Int) (hn : 0 < n) (hd : 0 < d)
include hm hn hd

theorem roundF_within (hle : magnitude n d e ≤ greatest m) :
    RoundsWithin m rm rnd (signOf neg * magnitude n d e) (roundF m rm sat rnd (.fin neg n d e)).1 (roundF m rm sat rnd (.fin neg n d e)).2 := by
  obtain ⟨c, r, den, hfloor, hden, h0, h1, hx⟩ := codeFloor_between m e hn hd
  have hg := gap_pos m c
  have hden' : (0 : ℚ) < den := by exact_mod_cast hden
  rw [greatest_eq hm, hx] at hle
  rw [roundF_placed hn.ne' hfloor rm sat neg rnd, hx]
  have hup := goesUp_iff (rm := rm) (neg := neg) (odd := c % 2 == 1) (rnd := rnd) (r := r) hden
  by_cases hr : r = 0
  · -- the value is that of code c
    have hstay : goesUp rm neg rnd (c % 2 == 1) r den = false := by rw [goesUp.eq_def, if_pos hr]
    simp only [hr, Nat.cast_zero, zero_div, zero_mul, add_zero] at hle
    have hc : c ≤ m.maxCode := (codeMag_strictMono hm).le_iff_le.mp hle
    rw [hstay, if_neg (by simpa using hc), if_pos hr, hr, Nat.cast_zero, zero_div, zero_mul, add_zero]
    exact roundsWithin_exact hm rm rnd neg hc
  · -- the value stands between code c and the next
    have hpos : 0 < (r : ℚ) / den := div_pos (by exact_mod_cast Nat.pos_of_ne_zero hr) hden'
    have hc : c < m.maxCode := (codeMag_strictMono hm).lt_iff_lt.mp (by linarith [mul_pos hpos hg])
    rw [if_neg (by split <;> omega), if_neg hr]
    exact roundsWithin_between hm hc hpos h1 neg rnd hup (inexact_flags _)

theorem roundF_greatest (hgt : greatest m < magnitude n d e) (h : (sat || directed rm (signOf neg * magnitude n d e)) = true) :
    (roundF m rm sat rnd (.fin neg n d e)).1 = signed m (signOf neg * magnitude n d e) m.maxCode ∧ (roundF m rm sat rnd (.fin neg n d e)).2.getLsbD 4 = true := by
  obtain ⟨c, r, den, hfloor, hden, h0, h1, hx⟩ := codeFloor_between m e hn hd
  have hg := gap_pos m c
  have hpos := magnitude_pos e hn hd
  obtain ⟨k, hk⟩ : ∃ k, (if goesUp rm neg rnd (c % 2 == 1) r den then c + 1 else c) = k := ⟨_, rfl⟩
  have hck : c ≤ k := by rw [← hk]; split <;> omega
  rw [roundF_placed hn.ne' hfloor rm sat neg rnd, hk]
  by_cases hmax : m.maxCode < k
  · rw [if_pos hmax]
    exact ⟨overflowCode_greatest hm hpos h, show (flOF ||| flNX).getLsbD 4 = true by decide⟩
  · -- the value stands above the greatest code, and is rounded down to it
    rw [greatest_eq hm] at hgt
    have hc : m.maxCode < c + 1 := (codeMag_strictMono hm).lt_iff_lt.mp (by rw [codeMag_succ hm]; linarith [mul_lt_mul_of_pos_right h1 hg])
    obtain rfl : k = m.maxCode := by omega
    have hr : r ≠ 0 := by
      rintro rfl
      rw [hx, Nat.cast_zero, zero_div, zero_mul, add_zero, show c = m.maxCode by omega] at hgt
      exact lt_irrefl _ hgt
    rw [if_neg hmax, if_neg hr]
    exact ⟨withSign_eq_signed hpos fun _ => (maxCode_pos hm).ne', (inexact_flags _).1⟩

theorem roundF_overflow (hge : following m ≤ magnitude n d e) (h : directed rm (signOf neg * magnitude n d e) = false) :
    (roundF m rm false rnd (.fin neg n d e)).1 = (match m.inf, m.nan with
      | some i, _ => signed m (signOf neg * magnitude n d e) i
      | none, some x => x
      | none, none => signed m (signOf neg * magnitude n d e) m.maxCode) ∧ (roundF m rm false rnd (.fin neg n d e)).2 = 20 := by
  obtain ⟨c, r, den, hfloor, hden, h0, h1, hx⟩ := codeFloor_between m e hn hd
  have hg := gap_pos m c
  rw [following_eq hm] at hge
  have hc : m.maxCode + 1 < c + 1 := (codeMag_strictMono hm).lt_iff_lt.mp (by rw [codeMag_succ hm c]; linarith [mul_lt_mul_of_pos_right h1 hg])
  rw [roundF_placed hn.ne' hfloor rm false neg rnd, if_pos (by split <;> omega)]
  exact ⟨overflowCode_special hm (magnitude_pos e hn hd) h, rfl⟩
end

theorem following_pos {m : Fmt} (hm : m.Sound) : 0 < following m := by
  rw [following_eq hm, ← codeMag_zero m]; exact codeMag_strictMono hm (Nat.succ_pos _)

theorem roundF_zero (m : Fmt) (rm : Rm) (sat neg : Bool) (rnd d : Nat) (e : Int) : roundF m rm sat rnd (.fin neg 0 d e) = (withSign m neg 0, 0) := rfl

theorem roundingIsRight : RoundingIsRight := by
  intro ty rm sat rnd v w _ _ _ hv hw
  have hm := ty.fmt_sound
  obtain ⟨neg, n, d, e, rfl⟩ : ∃ neg n d e, v = .fin neg n d e := by cases v <;> [cases hv; cases hv; exact ⟨_, _, _, _, rfl⟩]
  have hd : 0 < d := hv
  rw [ratOf_fin] at hw
  obtain rfl := Option.some.inj hw
  rcases Nat.eq_zero_or_pos n with rfl | hn
  · have hzero : signOf neg * magnitude 0 d e = 0 := by simp [magnitude]
    dsimp only
    rw [roundF_zero, hzero, abs_zero]
    refine ⟨fun _ => ?_, fun h => absurd h (not_lt.mpr ?_), fun h => absurd h (not_le.mpr (following_pos hm))⟩
    · have := roundsWithin_exact hm rm rnd neg (Nat.zero_le ty.fmt.maxCode)
      rwa [codeMag_zero, mul_zero] at this
    · rw [greatest_eq hm]; exact codeMag_nonneg _ _
  · rw [abs_signOf_mul, abs_of_pos (magnitude_pos e hn hd)]
    refine ⟨roundF_within hm rm sat neg rnd e hn hd, roundF_greatest hm rm sat neg rnd e hn hd, ?_⟩
    rintro hge rfl h
    exact roundF_overflow hm rm neg rnd e hn hd hge h

end Sys2Proof
end

section
/-! Operations that round an exact value once (R59, R61, R62), and the uniform f32 of a draw (R76). -/

namespace Sys2Proof
open Sys2Proof.Claims

/-! ## Exact arithmetic on finite values (R59, R61, R62) -/

/-- The value v is a signed whole number of units 2^e, and stands for w. -/
def Dyadic (v : Val) (w : ℚ) : Prop := ∃ neg n e, v = .fin neg n 1 e ∧ w = signOf neg * ((n : ℚ) * 2 ^ e)

theorem Dyadic.proper {v : Val} {w : ℚ} (h : Dyadic v w) : Proper v ∧ ratOf v = some w := by
  obtain ⟨neg, n, e, rfl, rfl⟩ := h
  exact ⟨one_pos, by rw [ratOf_fin, magnitude, Nat.cast_one, div_one]⟩

theorem mk8Value_den {c n d : Nat} {neg : Bool} {e : Int} (h : mk8Value c = .fin neg n d e) : d = 1 := by
  rw [mk8Value] at h
  split_ifs at h <;> cases h <;> rfl

/-- The values of codes have no denominator. -/
theorem fmtValue_den {m : Fmt} {c n d : Nat} {neg : Bool} {e : Int} (h : fmtValue m c = .fin neg n d e) : d = 1 := by
  rw [fmtValue] at h
  split at h
  · exact mk8Value_den h
  · simp only at h
    split at h
    · split at h
      all_goals split_ifs at h <;> cases h <;> rfl
    · split_ifs at h <;> cases h <;> rfl

theorem dyadic_of_ratOf {m : Fmt} {c : Nat} {w : ℚ} (h : ratOf (fmtValue m c) = some w) : Dyadic (fmtValue m c) w := by
  cases hv : fmtValue m c with
  | nan _ => rw [hv] at h; cases h
  | inf _ => rw [hv] at h; cases h
  | fin neg n d e =>
    obtain rfl := fmtValue_den hv
    rw [hv, ratOf_fin, magnitude, Nat.cast_one, div_one] at h
    exact ⟨neg, n, e, rfl, (Option.some.inj h).symm⟩

theorem signOf_not (neg : Bool) : signOf (!neg) = -signOf neg := by cases neg <;> simp [signOf]
theorem signOf_bne (a b : Bool) : signOf (a != b) = signOf a * signOf b := by cases a <;> cases b <;> norm_num [signOf]

theorem Dyadic.neg {v : Val} {w : ℚ} (h : Dyadic v w) : Dyadic (fNeg v) (-w) := by
  obtain ⟨neg, n, e, rfl, rfl⟩ := h
  exact ⟨!neg, n, e, rfl, by rw [signOf_not, neg_mul]⟩

theorem Dyadic.mul {v u : Val} {x y : ℚ} (hv : Dyadic v x) (hu : Dyadic u y) : Dyadic (fMul v u) (x * y) := by
  obtain ⟨a, n, e, rfl, rfl⟩ := hv
  obtain ⟨b, k, f, rfl, rfl⟩ := hu
  refine ⟨a != b, n * k, e + f, rfl, ?_⟩
  rw [signOf_bne, zpow_add₀ (by norm_num), Nat.cast_mul]
  ring

/-- A signed number of units 2^e as a signed number of smaller units 2^f. -/
theorem units_shift (neg : Bool) (n : Nat) {e f : Int} (h : f ≤ e) :
    signOf neg * ((n : ℚ) * 2 ^ e) = ((if neg then -((n <<< (e - f).toNat : Nat) : Int) else ((n <<< (e - f).toNat : Nat) : Int) : Int) : ℚ) * 2 ^ f := by
  obtain ⟨j, hj⟩ := Int.eq_ofNat_of_zero_le (sub_nonneg.mpr h)
  obtain rfl : e = f + j := by omega
  rw [hj, zpow_add₀ (by norm_num), zpow_natCast]
  cases neg <;> simp [signOf, Nat.shiftLeft_eq] <;> ring

theorem signOf_natAbs (t : Int) : signOf (decide (t < 0)) * (t.natAbs : ℚ) = t := by
  rcases lt_or_ge t 0 with h | h
  · rw [decide_eq_true h, signOf_true_mul, Nat.cast_natAbs, abs_of_neg h]; push_cast; ring
  · rw [decide_eq_false h.not_gt, signOf_false_mul, Nat.cast_natAbs, abs_of_nonneg h]

/-- A whole number t of units, with the sign of a zero left open. -/
theorem dyadic_units (t : Int) (e : Int) (neg : Bool) : Dyadic (if t = 0 then .fin neg 0 1 0 else .fin (decide (t < 0)) t.natAbs 1 e) ((t : ℚ) * 2 ^ e) := by
  split
  · next h => exact ⟨neg, 0, 0, rfl, by simp [h]⟩
  · exact ⟨_, _, _, rfl, by rw [← mul_assoc, signOf_natAbs]⟩

theorem Dyadic.add {v u : Val} {x y : ℚ} (rm : Rm) (hv : Dyadic v x) (hu : Dyadic u y) : Dyadic (fAdd rm v u) (x + y) := by
  obtain ⟨a, n, e, rfl, rfl⟩ := hv
  obtain ⟨b, k, f, rfl, rfl⟩ := hu
  rw [units_shift a n (min_le_left e f), units_shift b k (min_le_right e f), ← add_mul, ← Int.cast_add]
  exact dyadic_units _ (min e f) (if a == b then a else rm == .rdn)

theorem Dyadic.fma {v u z : Val} {x y w : ℚ} (rm : Rm) (hv : Dyadic v x) (hu : Dyadic u y) (hz : Dyadic z w) : Dyadic (fFma rm v u z) (x * y + w) := by
  have h := Dyadic.add rm (hv.mul hu) hz
  obtain ⟨a, n, e, hp, -⟩ := hv.mul hu
  unfold fFma
  rw [hp] at h ⊢
  exact h

theorem fDiv_exact {v u : Val} {x y : ℚ} (hv : Dyadic v x) (hu : Dyadic u y) (hy : y ≠ 0) : ∃ q, fDiv v u = (q, false) ∧ Proper q ∧ ratOf q = some (x / y) := by
  obtain ⟨a, n, e, rfl, rfl⟩ := hv
  obtain ⟨b, k, f, rfl, rfl⟩ := hu
  have hk : k ≠ 0 := by rintro rfl; simp at hy
  refine ⟨.fin (a != b) n k (e - f), if_neg hk, Nat.pos_of_ne_zero hk, ?_⟩
  have hb : signOf b ≠ 0 := fun h => by simpa [h] using signOf_mul_self b
  rw [ratOf_fin, signOf_bne, magnitude, zpow_sub₀ (by norm_num)]
  congr 1
  have := signOf_mul_self b
  field_simp
  linear_combination (n : ℚ) * signOf a * this

theorem fRcp_exact {v : Val} {x : ℚ} (hv : Dyadic v x) (hx : x ≠ 0) : ∃ q, fRcp v = (q, false) ∧ Proper q ∧ ratOf q = some (1 / x) := by
  obtain ⟨a, n, e, rfl, rfl⟩ := hv
  have hn : n ≠ 0 := by rintro rfl; simp at hx
  refine ⟨.fin a 1 n (-e), if_neg hn, Nat.pos_of_ne_zero hn, ?_⟩
  have ha : signOf a ≠ 0 := fun h => by simpa [h] using signOf_mul_self a
  rw [ratOf_fin, magnitude, zpow_neg]
  congr 1
  have := signOf_mul_self a
  field_simp
  linear_combination this

/-- An element whose exact value sets no dz is that value rounded; VMIN and VMAX look at signalling operands besides. -/
theorem fpElem_eq {o : FOp} {ty : FTy} {rm : Rm} {a b c : Nat} {v : Val} (rnd : Nat) (ho : o ≠ .min ∧ o ≠ .max)
    (h : o.exact rm (fmtValue ty.fmt a) (fmtValue ty.fmt b) (fmtValue ty.fmt c) = (v, false)) : fpElem o ty rm rnd a b c = roundF ty.fmt rm false rnd v := by
  cases o with
  | min => exact absurd rfl ho.1
  | max => exact absurd rfl ho.2
  | _ => simp [fpElem, h]

theorem operationsAreExact : OperationsAreExact := by
  intro o ty rm rnd a b c x y z w hx hy hz hw
  replace hx := dyadic_of_ratOf hx
  replace hy := dyadic_of_ratOf hy
  replace hz := dyadic_of_ratOf hz
  have key {v : Val} {u : ℚ} (ho : o ≠ .min ∧ o ≠ .max) (h : o.exact rm (fmtValue ty.fmt a) (fmtValue ty.fmt b) (fmtValue ty.fmt c) = (v, false)) (hu : exactOf o x y z = some u)
      (hv : Proper v ∧ ratOf v = some u) : ∃ v, Proper v ∧ ratOf v = some w ∧ fpElem o ty rm rnd a b c = roundF ty.fmt rm false rnd v :=
    ⟨v, hv.1, hv.2.trans (hu.symm.trans hw), fpElem_eq rnd ho h⟩
  cases o with
  | add => exact key (by decide) rfl rfl (hx.add rm hy).proper
  | sub => exact key (by decide) rfl rfl (sub_eq_add_neg x y ▸ (hx.add rm hy.neg).proper)
  | mul => exact key (by decide) rfl rfl (hx.mul hy).proper
  | fma => exact key (by decide) rfl rfl (hx.fma rm hy hz).proper
  | fms => exact key (by decide) rfl rfl (sub_eq_add_neg (x * y) z ▸ (hx.fma rm hy hz.neg).proper)
  | fnma => exact key (by decide) rfl rfl (neg_mul x y ▸ (hx.neg.fma rm hy hz).proper)
  | div =>
    have h0 : y ≠ 0 := fun h => by simp [exactOf, h] at hw
    obtain ⟨q, hq, hproper⟩ := fDiv_exact hx hy h0
    exact key (by decide) hq (if_neg h0) hproper
  | rcp =>
    have h0 : x ≠ 0 := fun h => by simp [exactOf, h] at hw
    obtain ⟨q, hq, hproper⟩ := fRcp_exact hx h0
    exact key (by decide) hq (if_neg h0) hproper
  | min | max | sqrt | rsq | exp2 | log2 | tanh | erf => cases hw

/-- Settles O33: a finite operand is a whole number of units, on which the operations are exact; a magnitude stands at a code or between two that follow
each other, and the code chosen of the two is the one that RM names. -/
theorem floatOperationsAreExact : Obligations.FloatOperationsAreExact := ⟨operationsAreExact, roundingIsRight⟩

/-! ## The uniform f32 (R76) -/

/-- A number below 2^(f + 1) of units that are no smaller than the least is the magnitude of a code. -/
theorem exists_codeMag_units {m : Fmt} (h8 : m.mk8 = false) {n : Nat} (hn : n < 2 ^ (m.f + 1)) (j : Nat) : ∃ c, codeMag m c = (n : ℚ) * 2 ^ (1 - m.bias - m.f + j) := by
  induction j generalizing n with
  | zero =>
    rw [pow_succ] at hn
    rcases lt_or_ge n (2 ^ m.f) with hlt | hge
    · obtain ⟨hs, he⟩ := ieee_code h8 (j := 0) hlt
      exact ⟨_, by rw [codeMag, hs, he, if_pos rfl]; simp⟩
    · obtain ⟨hs, he⟩ := ieee_code h8 (j := 1) (g := n - 2 ^ m.f) (by omega)
      exact ⟨_, by rw [codeMag, hs, he, if_neg one_ne_zero, Nat.add_sub_cancel' hge]; simp⟩
  | succ j ih =>
    rw [pow_succ] at hn
    rcases lt_or_ge n (2 ^ m.f) with hlt | hge
    · obtain ⟨c, hc⟩ := ih (n := 2 * n) (by rw [pow_succ]; omega)
      refine ⟨c, hc.trans ?_⟩
      rw [Nat.cast_succ, ← add_assoc, zpow_add_one₀ (by norm_num)]
      push_cast; ring
    · obtain ⟨hs, he⟩ := ieee_code h8 (j := j + 2) (g := n - 2 ^ m.f) (by omega)
      exact ⟨_, by rw [codeMag, hs, he, if_neg (Nat.succ_ne_zero _), Nat.add_sub_cancel' hge]; congr 2; omega⟩

theorem greatest_f32_ge_one : 1 ≤ greatest fmtF32 := by
  have hm : fmtF32.Sound := Ty.fmt_sound .f32
  obtain ⟨hs, he⟩ := ieee_code (m := fmtF32) rfl (j := 127) (g := 0) (by decide)
  have hone : codeMag fmtF32 (127 * 2 ^ fmtF32.f + 0) = 1 := by
    rw [codeMag, hs, he]
    norm_num [fmtF32]
  rw [greatest_eq hm, ← hone]
  exact (codeMag_strictMono hm).monotone (by decide)

/-- Every multiple of 2^-24 below 1 is an f32 value, within the finite range. -/
theorem representable_uniform {n : Nat} (hn : n < 2 ^ 24) : Representable fmtF32 ((n : ℚ) / 2 ^ 24) ∧ |(n : ℚ) / 2 ^ 24| ≤ greatest fmtF32 := by
  have hm : fmtF32.Sound := Ty.fmt_sound .f32
  have hle : |(n : ℚ) / 2 ^ 24| ≤ greatest fmtF32 := by
    refine le_trans ?_ greatest_f32_ge_one
    rw [abs_of_nonneg (by positivity), div_le_one (by positivity)]
    exact_mod_cast hn.le
  obtain ⟨c, hc⟩ := exists_codeMag_units (m := fmtF32) rfl hn 125
  have hval : codeMag fmtF32 c = (n : ℚ) / 2 ^ 24 := by
    rw [hc, div_eq_mul_inv]
    norm_num [fmtF32]
  rw [← hval] at hle ⊢
  rw [abs_of_nonneg (codeMag_nonneg _ _), greatest_eq hm] at hle
  have hmax : c ≤ fmtF32.maxCode := (codeMag_strictMono hm).le_iff_le.mp hle
  exact ⟨representable_codeMag hm hmax, by rwa [abs_of_nonneg (codeMag_nonneg _ _), greatest_eq hm]⟩

/-- The rounding of R76 changes nothing. -/
theorem uniformF32_value (d : Word) : ratOf (tyValue .f32 (uniformF32 d).toNat) = some (((d.toNat / 2 ^ 40 : Nat) : ℚ) / 2 ^ 24) := by
  have hn : d.toNat / 2 ^ 40 < 2 ^ 24 := by omega
  obtain ⟨hrep, hle⟩ := representable_uniform hn
  have hshift : (d >>> 40).toNat = d.toNat / 2 ^ 40 := by rw [BitVec.toNat_ushiftRight, Nat.shiftRight_eq_div_pow]
  have hv : ratOf (.fin false (d.toNat / 2 ^ 40) 1 (-24)) = some (((d.toNat / 2 ^ 40 : Nat) : ℚ) / 2 ^ 24) := by
    rw [ratOf_fin, signOf_false_mul, magnitude, Nat.cast_one, div_one, zpow_neg, ← div_eq_mul_inv]
    rfl
  obtain ⟨hlt, q, hq, -, hexact, -⟩ := (roundingIsRight .f32 .rne false 0 _ _ rfl (by decide) (by decide) one_pos hv).1 hle
  have hlt32 : (roundF fmtF32 .rne false 0 (.fin false (d.toNat / 2 ^ 40) 1 (-24))).1 < 2 ^ 32 := hlt
  rw [uniformF32, hshift, BitVec.toNat_ofNat, Nat.mod_eq_of_lt hlt32, ← hexact hrep]
  exact hq

/-- What R76 says of the multiples of 2^-24 holds of the whole ones. -/
theorem exists_uniformF32 {n : Nat} (hn : n < 2 ^ 24) : ∃ d : Word, ratOf (tyValue .f32 (uniformF32 d).toNat) = some ((n : ℚ) / 2 ^ 24) := by
  refine ⟨BitVec.ofNat 64 (n * 2 ^ 40), ?_⟩
  rw [uniformF32_value, BitVec.toNat_ofNat, Nat.mod_eq_of_lt (by omega), Nat.mul_div_cancel _ (by positivity)]

/-- Refutes O32: its second part ranges over the rationals n below 2^24 (the cast in the statement makes n one), and no draw has the value -2^-24 of n = -1. -/
theorem not_uniformIsExact : ¬ Obligations.UniformIsExact := by
  rintro ⟨-, htakes⟩
  obtain ⟨d, hd⟩ := htakes (-1) (by norm_num)
  have hval : ((d.toNat / 2 ^ 40 : Nat) : ℚ) / 2 ^ 24 = -1 / 2 ^ 24 := Option.some.inj ((uniformF32_value d).symm.trans hd)
  have hnonneg : (0 : ℚ) ≤ ((d.toNat / 2 ^ 40 : Nat) : ℚ) / 2 ^ 24 := by positivity
  rw [hval] at hnonneg
  norm_num at hnonneg

end Sys2Proof
end

section
/-! Registers by cells, elements and lanes (R49, R172): what a register built from elements holds in a lane, and what a masked write leaves there. -/

namespace Sys2Proof
open Sys2Proof.Machine

theorem Ty.width_le_cell (t : Ty) : t.width ≤ t.cell := by cases t <;> decide
theorem Ty.perLane_mul_cell (t : Ty) : t.cell * perLane t = 32 := by cases t <;> decide
theorem Ty.count_eq (t : Ty) : t.count = 16 * perLane t := by cases t <;> decide

end Sys2Proof

namespace Sys2Proof.Machine
open Sys2Proof.Claims

/-! ## A register from the numbers of its cells -/

/-- The number whose cells of c bits hold the low w bits of each. -/
def cellsNat (c w : Nat) (xs : List Nat) : Nat := xs.foldr (fun x acc => x % 2 ^ w + acc * 2 ^ c) 0

section
variable {c w : Nat} (hw : w ≤ c) (xs : List Nat)

@[simp] theorem cellsNat_cons (x : Nat) : cellsNat c w (x :: xs) = x % 2 ^ w + cellsNat c w xs * 2 ^ c := rfl

include hw

theorem cell_lt (x : Nat) : x % 2 ^ w < 2 ^ c := (Nat.mod_lt _ (by positivity)).trans_le (Nat.pow_le_pow_right two_pos hw)

theorem cellsNat_lt : cellsNat c w xs < 2 ^ (c * xs.length) := by
  induction xs with
  | nil => exact Nat.one_pos
  | cons x xs ih =>
    have hx := cell_lt hw x
    rw [cellsNat_cons, List.length_cons, mul_add_one, pow_add]
    calc x % 2 ^ w + cellsNat c w xs * 2 ^ c < (cellsNat c w xs + 1) * 2 ^ c := by rw [add_one_mul]; omega
      _ ≤ 2 ^ (c * xs.length) * 2 ^ c := Nat.mul_le_mul_right _ ih

/-- Without its lowest k cells. -/
theorem cellsNat_div (k : Nat) : cellsNat c w xs / 2 ^ (c * k) = cellsNat c w (xs.drop k) := by
  induction k generalizing xs with
  | zero => simp
  | succ k ih =>
    cases xs with
    | nil => simp [cellsNat]
    | cons x xs =>
      rw [List.drop_succ_cons, ← ih xs, mul_add_one, add_comm, pow_add, ← Nat.div_div_eq_div_mul, cellsNat_cons, Nat.add_mul_div_right _ _ (by positivity),
        Nat.div_eq_of_lt (cell_lt hw x), zero_add]

/-- Its lowest k cells alone. -/
theorem cellsNat_mod (k : Nat) : cellsNat c w xs % 2 ^ (c * k) = cellsNat c w (xs.take k) := by
  induction k generalizing xs with
  | zero => simp [cellsNat, Nat.mod_one]
  | succ k ih =>
    cases xs with
    | nil => simp [cellsNat]
    | cons x xs =>
      have hx := cell_lt hw x
      rw [List.take_succ_cons, cellsNat_cons, cellsNat_cons, ← ih xs, mul_add_one, add_comm (c * k), pow_add, Nat.mod_mul, Nat.add_mul_mod_self_right,
        Nat.mod_eq_of_lt hx, Nat.add_mul_div_right _ _ (by positivity), Nat.div_eq_of_lt hx, zero_add, mul_comm]
end

theorem cellsNat_map_range (c w n : Nat) (f : Nat → Nat) :
    cellsNat c w ((List.range n).map f) = ((List.range n).map (fun e => f e % 2 ^ w * 2 ^ (c * e))).sum := by
  induction n generalizing f with
  | zero => rfl
  | succ n ih =>
    rw [List.range_succ_eq_map, List.map_cons, List.map_map, List.map_cons, List.map_map, List.sum_cons, cellsNat_cons, ih]
    simp only [mul_zero, pow_zero, mul_one, ← List.sum_map_mul_right]
    congr 2
    apply List.map_congr_left
    intro e _
    simp only [Function.comp_apply, Nat.succ_eq_add_one, mul_add_one, pow_add, mul_assoc]

/-! ## Elements and lanes -/

theorem elemGet_eq_elem (t : Ty) (v : VReg) (i : Nat) : elemGet t v i = elem t v i := by
  rw [elemGet, elem, BitVec.extractLsb'_toNat, Nat.shiftRight_eq_div_pow]

theorem laneN_eq_laneGet (v : VReg) (l : Nat) : laneN v l = (laneGet v l).toNat := by
  rw [laneN, laneGet, BitVec.extractLsb'_toNat, Nat.shiftRight_eq_div_pow]

theorem toNat_ofNat_of_lt {w n : Nat} (h : n < 2 ^ w) : (BitVec.ofNat w n).toNat = n := by rw [BitVec.toNat_ofNat, Nat.mod_eq_of_lt h]

/-- Lane l of a register that holds f in its elements. -/
theorem laneN_ofElems (t : Ty) (f : Nat → Nat) {l : Nat} (hl : l < 16) : laneN (ofElems t ((List.range t.count).map f)) l = laneFrom t f l := by
  have hw := Ty.width_le_cell t
  have hlen : t.cell * ((List.range t.count).map f).length = 512 := by
    rw [List.length_map, List.length_range, Ty.count_eq, mul_left_comm, Ty.perLane_mul_cell]; rfl
  have hbits : cellsNat t.cell t.width ((List.range t.count).map f) < 2 ^ 512 := hlen ▸ cellsNat_lt hw _
  have hcells : (((List.range t.count).map f).drop (perLane t * l)).take (perLane t) = (List.range (perLane t)).map (fun e => f (l * perLane t + e)) := by
    apply List.ext_getElem
    · simp only [List.length_take, List.length_drop, List.length_map, List.length_range, Ty.count_eq, mul_comm 16, ← Nat.mul_sub]
      exact min_eq_left (Nat.le_mul_of_pos_right _ (by omega))
    · intro i _ _
      simp [mul_comm]
  rw [laneN, ofElems]
  show (BitVec.ofNat 512 (cellsNat _ _ _)).toNat / _ % _ = _
  rw [toNat_ofNat_of_lt hbits]
  conv_lhs => rw [← Ty.perLane_mul_cell t, mul_assoc, cellsNat_div hw, cellsNat_mod hw, hcells, cellsNat_map_range]
  rfl

/-- Lane l of a register given by its lanes. -/
theorem laneN_ofLanes (f : Nat → Nat) {l : Nat} (hl : l < 16) : laneN (ofLanes f) l = f l % 2 ^ 32 := by
  have h := laneN_ofElems .n32 f hl
  have : laneFrom .n32 f l = f l % 2 ^ 32 := by simp [laneFrom, perLane, Ty.count, Ty.width]
  rwa [this] at h

/-! ## Masked writes (R172) -/

theorem laneGet_laneBits (q : BitVec 16) {l : Nat} (hl : l < 16) : laneGet (laneBits q) l = if q.getLsbD l then BitVec.allOnes 32 else 0 := by
  apply BitVec.eq_of_toNat_eq
  rw [← laneN_eq_laneGet, laneBits, laneN_ofLanes _ hl]
  split <;> rfl

theorem laneGet_and (x y : VReg) (l : Nat) : laneGet (x &&& y) l = laneGet x l &&& laneGet y l := BitVec.extractLsb'_and
theorem laneGet_or (x y : VReg) (l : Nat) : laneGet (x ||| y) l = laneGet x l ||| laneGet y l := BitVec.extractLsb'_or
theorem laneGet_not (x : VReg) {l : Nat} (hl : l < 16) : laneGet (~~~x) l = ~~~laneGet x l := by
  apply BitVec.eq_of_getLsbD_eq
  intro i hi
  have : 32 * l + i < 512 := by omega
  simp [laneGet, hi, this]

theorem laneGet_zero (l : Nat) : laneGet 0 l = 0 := by simp [laneGet]

theorem laneN_and_laneBits (x : VReg) (q : BitVec 16) {l : Nat} (hl : l < 16) : laneN (x &&& laneBits q) l = if q.getLsbD l then laneN x l else 0 := by
  rw [laneN_eq_laneGet, laneGet_and, laneGet_laneBits q hl, laneN_eq_laneGet]
  split
  · rw [BitVec.and_allOnes]
  · exact congrArg BitVec.toNat BitVec.and_zero

theorem laneGet_mergeLanes (q : BitVec 16) (zero : Bool) (old new : VReg) {l : Nat} (hl : l < 16) :
    laneGet (mergeLanes q zero old new) l = if q.getLsbD l then laneGet new l else if zero then 0 else laneGet old l := by
  rw [mergeLanes, laneGet_or, laneGet_and, laneGet_laneBits q hl]
  cases zero
  · rw [if_neg Bool.false_ne_true, if_neg Bool.false_ne_true, laneGet_and, laneGet_not _ hl, laneGet_laneBits q hl]
    split <;> simp [-BitVec.reduceAllOnes]
  · rw [if_pos rfl, if_pos rfl, laneGet_zero]
    split <;> simp [-BitVec.reduceAllOnes]

/-- A lane under vwrite: the new one where the mask names it, else the old one or 0. -/
theorem laneN_mergeLanes (q : BitVec 16) (zero : Bool) (old new : VReg) {l : Nat} (hl : l < 16) :
    laneN (mergeLanes q zero old new) l = if q.getLsbD l then laneN new l else if zero then 0 else laneN old l := by
  simp only [laneN_eq_laneGet, laneGet_mergeLanes q zero old new hl]
  split_ifs <;> rfl

theorem laneN_writtenBits (q : BitVec 16) (zero : Bool) {l : Nat} (hl : l < 16) : laneN (writtenBits q zero) l = if q.getLsbD l || zero then 2 ^ 32 - 1 else 0 := by
  rw [laneN_eq_laneGet, writtenBits]
  cases zero
  · rw [if_neg Bool.false_ne_true, laneGet_laneBits q hl, Bool.or_false]
    split <;> rfl
  · rw [if_pos rfl, laneGet_not _ hl, laneGet_zero, Bool.or_true]
    rfl

/-! ## Operations by element (R58, R172) -/

/-- Joining flags from the left or over the elements that have any is the same. -/
theorem foldl_flags (p : Nat → Bool) (f : Nat → Nat × Fl) (is : List Nat) (a : Fl) :
    (is.map (fun i => if p i then f i else (0, 0))).foldl (fun a r => a ||| r.2) a = a ||| joined (is.filter p) (fun i => (f i).2) := by
  induction is generalizing a with
  | nil => simp [joined]
  | cons i is ih =>
    rw [List.map_cons, List.foldl_cons, ih]
    cases hp : p i <;> simp [hp, joined, BitVec.or_assoc]

theorem mapElems_flags (t : Ty) (q : BitVec 16) (f : Nat → Nat × Fl) : (mapElems t q f).2 = joined (activeOf t q) (fun i => (f i).2) := by
  rw [mapElems]
  show List.foldl _ _ _ = _
  rw [foldl_flags (fun i => q.getLsbD (laneOf t i))]
  exact BitVec.zero_or

/-- An active lane of the codes of an operation. -/
theorem laneN_mapElems (t : Ty) (q : BitVec 16) (f : Nat → Nat × Fl) {l : Nat} (hl : l < 16) (hq : q.getLsbD l = true) :
    laneN (mapElems t q f).1 l = laneFrom t (fun i => (f i).1) l := by
  have hcodes : (mapElems t q f).1 = ofElems t ((List.range t.count).map (fun i => if q.getLsbD (laneOf t i) then (f i).1 else 0)) := by
    show ofElems t (List.map _ (List.map _ _)) = _
    rw [List.map_map]
    congr 2
    funext i
    exact apply_ite Prod.fst _ _ _
  rw [hcodes, laneN_ofElems t _ hl, laneFrom, laneFrom]
  congr 1
  apply List.map_congr_left
  intro e he
  have hlane : laneOf t (l * perLane t + e) = l := by
    have he' : e < perLane t := List.mem_range.mp he
    rw [laneOf, add_comm, Nat.add_mul_div_right _ _ (by omega), Nat.div_eq_of_lt he', zero_add]
  rw [hlane, if_pos hq]

/-- A masked write of the codes of an operation is the masked write of its elements. -/
theorem masked_mapElems (s : State) (m : VMask) (vd : VRegF) (t : Ty) (f : Nat → Nat × Fl) :
    Masked s m vd (mergeLanes (s.rq m.q) m.zero (s.rv vd) (mapElems t (s.rq m.q) f).1) (laneFrom t (fun i => (f i).1)) := by
  intro l hl
  rw [laneN_mergeLanes _ _ _ _ hl]
  by_cases hq : (s.rq m.q).getLsbD l = true
  · rw [if_pos hq, if_pos hq, laneN_mapElems t _ f hl hq]
  · rw [if_neg hq, if_neg hq]

end Sys2Proof.Machine
end

section
/-! Flags, draws and pending results beside a register write, in the words of the statements (R58, R74, R75, R82, R96). -/

namespace Sys2Proof

theorem AMap.put_put {α : Type} (m : AMap α) (n : Nat) (a b : α) : (m.put n a).put n b = m.put n b := by
  induction m with
  | nil => simp [AMap.put]
  | cons e t ih =>
    obtain ⟨k, v⟩ := e
    simp only [AMap.put]
    split_ifs with h1 h2
    · simp [AMap.put, h1]
    · simp [AMap.put]
    · simp [AMap.put, h1, h2, ih]

end Sys2Proof

namespace Sys2Proof.Machine
open Sys2Proof.Claims

theorem State.setMe_setMe (s : State) (t u : Thread) : (s.setMe t).setMe u = s.setMe u := by
  show ({ s with threads := (s.threads.put s.cur t).put s.cur u } : State) = _
  rw [AMap.put_put]
  rfl

/-! ## Flags and draws -/

theorem addFlags_eq_flagged (s : State) (f : Fl) : s.addFlags f = flagged s f := rfl

theorem advance_eq_drew (s : State) : s.advance = drew s := by
  have hwrap : s.me.rctr + 1 = 0 ↔ s.me.rctr = 0xFFFF_FFFF_FFFF_FFFF := by
    constructor
    · intro h; bv_omega
    · intro h; rw [h]; rfl
  rw [State.advance, drew]
  simp only [hwrap]
  split
  · rw [stuck, State.setMe_setMe, State.me_setMe]
    rfl
  · rfl

theorem drawnBy_eq_afterRm (s : State) (rm : Rm) : s.drawnBy rm = afterRm s rm := by
  rw [State.drawnBy, afterRm, advance_eq_drew]

/-! ## What the registers read beside them -/

theorem State.rq_setMe {s : State} {t : Thread} (hr : t.regs = s.me.regs) (hl : t.latch = s.me.latch) (q : QReg) : (s.setMe t).rq q = s.rq q := by
  rw [State.rq, State.rq, State.me_setMe, Thread.src, Thread.src, hr, hl]

theorem State.rv_setMe {s : State} {t : Thread} (hr : t.regs = s.me.regs) (hl : t.latch = s.me.latch) (hc : t.cc = s.me.cc) (f : VRegF) : (s.setMe t).rv f = s.rv f := by
  simp only [State.rv, State.me_setMe, Thread.src, hr, hl, hc]
  rfl

theorem rq_afterRm (s : State) (rm : Rm) (q : QReg) : (afterRm s rm).rq q = s.rq q := by
  rw [← drawnBy_eq_afterRm, State.drawnBy]
  split
  · rw [State.advance]; split <;> exact State.rq_setMe (by rfl) (by rfl) q
  · rfl

theorem rv_afterRm (s : State) (rm : Rm) (f : VRegF) : (afterRm s rm).rv f = s.rv f := by
  rw [← drawnBy_eq_afterRm, State.drawnBy]
  split
  · rw [State.advance]; split <;> exact State.rv_setMe (by rfl) (by rfl) (by rfl) f
  · rfl

/-! ## Flags and a result, in either order -/

theorem wv_stuck (s : State) (b : Word) (d : VRegF) (v : VReg) : (stuck s b).wv d v = stuck (s.wv d v) b := by
  have hme : (stuck s b).me = joinStat s.me s.cycle b := State.me_setMe ..
  cases hs : isShared d with
  | true =>
    have hw (u : State) : u.wv d v = u.setW u.me.cc d v u.me.slot u.me.issued := if_pos hs
    rw [hw, hw, hme]
    unfold State.setW
    dsimp only
    rw [apply_ite (fun u => stuck u b)]
    rfl
  | false =>
    have hw (u : State) : u.wv d v = u.setMe { u.me with regs := { u.me.regs with v := u.me.regs.v.set (low5 d).val v }, vde := setMark u.me.vde (low5 d) false } := by
      simp only [State.wv, State.putV, hs, Bool.false_eq_true, if_false]; rfl
    rw [hw, hw, hme, stuck, stuck, State.setMe_setMe, State.setMe_setMe, State.me_setMe]
    rfl

theorem wv_flagged (s : State) (f : Fl) (d : VRegF) (v : VReg) : (flagged s f).wv d v = flagged (s.wv d v) f := by
  rw [flagged, flagged]
  split
  · rfl
  · exact wv_stuck ..

/-- A rounded result with its flags and its draw, in the order of the statements. -/
theorem addFlags_wvm (s : State) (rm : Rm) (m : VMask) (vd : VRegF) (new : VReg) (f : Fl) :
    ((s.drawnBy rm).wvm m vd new).addFlags f = (flagged (afterRm s rm) f).wv vd (mergeLanes (s.rq m.q) m.zero (s.rv vd) new) := by
  rw [addFlags_eq_flagged, drawnBy_eq_afterRm, State.wvm, rq_afterRm, rv_afterRm, wv_flagged]

theorem wvLate_flagged (s : State) (f : Fl) (d : VRegF) (v w : VReg) (turns : Nat) : (s.wvLate d v w turns).addFlags f = (flagged s f).wvLate d v w turns := by
  rw [addFlags_eq_flagged, flagged, flagged]
  split
  · rfl
  · rw [State.wvLate, State.wvLate, stuck, stuck, State.setMe_setMe, State.setMe_setMe, State.me_setMe, State.me_setMe]
    rfl

/-- Everything a result of some turns does when it is issued. -/
theorem wroteLate_wvLate (s : State) (d : VRegF) (v w : VReg) (turns : Nat) : WroteLate s (s.wvLate d v w turns) turns [(d, v, w)] :=
  ⟨State.me_setMe .., fun _ hk => State.thread_setMe_ne _ _ _ hk, fun _ => ⟨rfl, rfl⟩, rfl⟩

/-! ## Rounding operations by element (R52, R176) -/

theorem bits_eq (s : State) (l e : Nat) : s.bits l e = (drawOf s l).toNat / 2 ^ (48 - 16 * e) % 2 ^ 16 := by
  rw [State.bits, drawBits, BitVec.toNat_ushiftRight, Nat.shiftRight_eq_div_pow]
  rfl

theorem fpMap_eq (s : State) (o : FOp) (t : FTy) (rm : Rm) (m : VMask) (a b c : VReg) : s.fpMap o t rm m a b c = mapElems t.ty (s.rq m.q) (fpAt s o t rm a b c) := by
  rw [State.fpMap]
  simp only [bits_eq, elemGet_eq_elem]
  rfl

section
variable (s : State) (o : FOp) (t : FTy) (rm : Rm) (m : VMask) (vd : VRegF) (a b c : VReg) (n : Nat)

theorem fpNow_result : ∃ v, WroteV (flagged (afterRm s rm) (joined (activeOf t.ty (s.rq m.q)) (fun k => (fpAt s o t rm a b c k).2))) (s.fpNow o t rm m vd a b c) vd v ∧
    Masked s m vd v (laneFrom t.ty (fun k => (fpAt s o t rm a b c k).1)) := by
  refine ⟨_, ?_, masked_mapElems s m vd t.ty (fpAt s o t rm a b c)⟩
  rw [State.fpNow, fpMap_eq, addFlags_wvm, mapElems_flags]
  exact wroteV_wv ..

theorem fpLate_result : ∃ v w,
    WroteLate (flagged s (joined (activeOf t.ty (s.rq m.q)) (fun k => (fpAt s o t rm a b 0 k).2))) (s.fpLate o t rm m vd a b n) n [(vd, v, w)] ∧
    (∀ l < 16, laneN v l = if (s.rq m.q).getLsbD l then laneFrom t.ty (fun k => (fpAt s o t rm a b 0 k).1) l else 0) ∧
    (∀ l < 16, laneN w l = if (s.rq m.q).getLsbD l || m.zero then 2 ^ 32 - 1 else 0) := by
  refine ⟨(mapElems t.ty (s.rq m.q) (fpAt s o t rm a b 0)).1 &&& laneBits (s.rq m.q), writtenBits (s.rq m.q) m.zero, ?_, fun l hl => ?_, fun l hl => laneN_writtenBits _ _ hl⟩
  · rw [State.fpLate, fpMap_eq, State.wvmLate, wvLate_flagged, mapElems_flags]
    exact wroteLate_wvLate ..
  · rw [laneN_and_laneBits _ _ hl]
    by_cases hq : (s.rq m.q).getLsbD l = true
    · rw [if_pos hq, if_pos hq, laneN_mapElems t.ty _ _ hl hq]
    · rw [if_neg hq, if_neg hq]
end

/-- A row of R176 is an operation of one turn, or one of several with at most two operands. -/
theorem exec_of_fpRow {i : Instr} {s : State} {o : FOp} {t : FTy} {rm : Rm} {m : VMask} {vd : VRegF} {a b c : VReg} {n : Nat} (h : fpRow i s = some (o, t, rm, m, vd, a, b, c, n)) :
    (n = 1 ∧ exec i s = .next (s.fpNow o t rm m vd a b c)) ∨ (n ≠ 1 ∧ c = 0 ∧ exec i s = .next (s.fpLate o t rm m vd a b n)) := by
  unfold fpRow at h
  split at h <;> cases h
  case h_1 | h_2 | h_3 | h_4 | h_5 | h_6 | h_7 | h_8 => exact .inl ⟨rfl, rfl⟩
  all_goals exact .inr ⟨by decide, rfl, rfl⟩

theorem vectorFloatResult : VectorFloatResult := by
  intro i s o t rm m vd a b c h
  rcases exec_of_fpRow h with ⟨-, hexec⟩ | ⟨hn, -⟩
  · obtain ⟨v, hwrote, hlanes⟩ := fpNow_result s o t rm m vd a b c
    exact ⟨_, v, hexec, hwrote, hlanes⟩
  · exact absurd rfl hn

theorem vectorFloatLateResult : VectorFloatLateResult := by
  intro i s o t rm m vd a b c n h hn
  rcases exec_of_fpRow h with ⟨hone, -⟩ | ⟨-, rfl, hexec⟩
  · exact absurd hone hn
  · obtain ⟨v, w, hlate, hv, hw⟩ := fpLate_result s o t rm m vd a b n
    exact ⟨_, v, w, hexec, hlate, hv, hw⟩

/-- Settles O35: the elements and flags of an operation are those of its active lanes, and flags, draw and result are entered in either order. -/
theorem vectorFloat : Obligations.VectorFloat := ⟨vectorFloatResult, vectorFloatLateResult⟩

end Sys2Proof.Machine
end

section
/-! Two statements that fail at one instruction each: a division into x0, and a conversion to e8m0. -/

namespace Sys2Proof
open Sys2Proof.Machine Sys2Proof.Claims

/-! ## A division into x0 (R77, R102) -/

/-- A division into x0 leaves no pending result: x0 discards it (R77). -/
theorem exec_div_x0 (s : State) (a b : SReg) : exec (.div 0 a b) s = .next s := rfl

/-- Refutes O34: the statement asks for one more pending result whatever the destination, and DIV into x0 leaves none. -/
theorem not_scalarInstructions : ¬ Obligations.ScalarInstructions := by
  rintro ⟨-, -, hdiv, -⟩
  obtain ⟨t, r, hexec, -, -, -, hlate, -⟩ := hdiv (.div 0 1 2) Tests.base 0 _ rfl
  have ht : t = Tests.base := Host.Outcome.next.inj (hexec.symm.trans (exec_div_x0 Tests.base 1 2))
  rw [ht] at hlate
  exact absurd (congrArg List.length hlate) (by rw [List.length_append]; exact (Nat.lt_succ_self _).ne)

/-! ## A conversion to e8m0 (R45, R182) -/

/-- Byte 0 of v2 is 1. -/
def oneInV2 : State := Tests.withV Tests.base [(2, Tests.lanes [1])]
/-- The ill-formed VCVT of n8 elements to e8m0, every lane active. -/
def toE8m0 : Instr := .vcvt .e8m0 .n8 .rne false Tests.every 1 2

/-- The model leaves the codes as they are (convElem): lane 0 of v1 is 1. -/
theorem lane_after_toE8m0 : Tests.after toE8m0 oneInV2 (fun t => decide (laneN (t.vOf 0 1) 0 = 1)) = true := by decide +kernel

/-- The statement rounds them as f32 elements: the low byte of the code of 1.0 is 0. -/
theorem claimed_lane_toE8m0 : laneFrom .e8m0 (fun k => (cvtAt oneInV2 .e8m0 .n8 .rne false (oneInV2.rv 2) k).1) 0 = 0 := by decide +kernel

theorem cur_flagged (s : State) (f : Fl) : (flagged s f).cur = s.cur := by
  rw [flagged]; split <;> rfl

/-- Refutes O36: its first part says of every VCVT that its elements are rounded (roundTo), where a VCVT to e8m0, which Instr.wf excludes and the statement
does not, moves their codes (convElem); with 1 in byte 0 lane 0 of the result is 1, and 0 in the statement. -/
theorem not_conversionAndQuantisation : ¬ Obligations.ConversionAndQuantisation := by
  rintro ⟨hconv, -, -⟩
  obtain ⟨t, v, hexec, hwrote, hlanes⟩ := hconv toE8m0 oneInV2 Tests.every 1 .rne .e8m0 _ rfl
  have hv : t.vOf 0 1 = v := by
    have h := hwrote.result
    rwa [cur_flagged, if_neg (by decide)] at h
  have hmodel : laneN v 0 = 1 := by
    have h := lane_after_toE8m0
    rw [Tests.after, hexec] at h
    rw [← hv]
    exact of_decide_eq_true h
  have hclaim : laneN v 0 = 0 := (hlanes 0 (by decide)).trans claimed_lane_toE8m0
  exact absurd (hmodel.symm.trans hclaim) one_ne_zero

end Sys2Proof
end

section
/-! The reset state, value by value (R215, R268, R302, R311, R339, R352, R369, R396, R398, R409). -/

namespace Sys2Proof.Machine
open Sys2Proof.Claims

theorem toNat_ofNat_margin {w : Nat} (hw : 19 ≤ w) : (BitVec.ofNat w 0x4_0000).toNat = 4 * 2 ^ 16 := by
  rw [BitVec.toNat_ofNat]
  exact Nat.mod_eq_of_lt (lt_of_lt_of_le (b := 2 ^ 19) (by norm_num) (Nat.pow_le_pow_right (by norm_num) hw))

theorem toNat_record_reset (c : Nat) : (State.reset.ctx c).record.toNat = 4 * 2 ^ 16 := toNat_ofNat_margin (by norm_num)

/-- Settles O24: each value is the one that State.reset, or the default of a table, names. -/
theorem resetState : Obligations.ResetState := by
  refine ⟨⟨⟨rfl, rfl⟩, fun _ he => absurd he List.not_mem_nil, fun _ he => absurd he List.not_mem_nil⟩, rfl, rfl, rfl, rfl, rfl, rfl, fun l => rfl, fun c => ⟨rfl, rfl, rfl, rfl⟩, rfl,
    fun c => ⟨toNat_record_reset c, ?_, fun q => rfl⟩, fun k => ⟨rfl, rfl, rfl, rfl, rfl, rfl, rfl, rfl, rfl, rfl, rfl, rfl, rfl, rfl, rfl, rfl, rfl⟩,
    fun c b w => ⟨rfl, rfl, rfl, rfl, fun a => rfl⟩, fun k g => rfl, fun n => rfl, fun e => ⟨rfl, rfl, rfl, rfl, rfl⟩, fun c b => rfl⟩
  rw [Ctx.state, toNat_extractLsb', toNat_record_reset]
  rfl

end Sys2Proof.Machine
end

section
/-! Special registers (R81 to R84, R132): what SRD reads and SWR writes, in the numbers of the statement. -/

namespace Sys2Proof.Machine
open Sys2Proof.Claims

/-! ## Words and fields as numbers -/

theorem wrap_natCast (n : Nat) : wrap (n : Int) = BitVec.ofNat 64 n := BitVec.ofInt_natCast ..

theorem and_not_fifteen (w : Word) : w &&& ~~~(0xF : Word) = BitVec.ofNat 64 (w.toNat / 16 * 16) := by
  have hshift : w &&& ~~~(0xF : Word) = w >>> 4 <<< 4 := by
    apply BitVec.eq_of_getLsbD_eq
    intro i hi
    have hmask : (0xF : Word).getLsbD i = (decide (0 ≤ i) && decide (i < 0 + 4)) := getLsbD_ones (n := 4) (lo := 0) hi
    rw [BitVec.getLsbD_and, BitVec.getLsbD_not, hmask, BitVec.getLsbD_shiftLeft, BitVec.getLsbD_ushiftRight]
    by_cases h : i < 4
    · simp [h]
    · simp [h, hi, show 4 + (i - 4) = i by omega]
  rw [hshift]
  apply BitVec.eq_of_toNat_eq
  rw [BitVec.toNat_shiftLeft, BitVec.toNat_ushiftRight, BitVec.toNat_ofNat, Nat.shiftRight_eq_div_pow, Nat.shiftLeft_eq]

theorem leNat_map_range (f : Nat → Byte) (n : Nat) : leNat ((List.range n).map f) = ((List.range n).map (fun p => (f p).toNat * 256 ^ p)).sum := by
  induction n generalizing f with
  | zero => rfl
  | succ n ih =>
    rw [List.range_succ_eq_map, List.map_cons, List.map_map, leNat, ih, List.map_cons, List.map_map, List.sum_cons, pow_zero, mul_one, ← List.sum_map_mul_left]
    congr 3
    funext p
    simp only [Function.comp_apply, Nat.succ_eq_add_one, pow_succ]
    ring

/-- %load, one byte for each position of the cluster (R345). -/
theorem loadWord_eq (s : State) (kid lc : Nat) : s.loadWord kid lc = BitVec.ofNat 64 ((List.range 8).map (fun p =>
    (match (s.kernel kid).coreAt lc p with | some c => s.readyCount kid c % 256 | none => 0) * 256 ^ p)).sum := by
  rw [State.loadWord, leNat_map_range]
  congr 4
  funext p
  cases (s.kernel kid).coreAt lc p <;> rfl

theorem claOf_eq (hi : BitVec 2) : claOf hi = if hi.toNat = 0 then .cla0 else if hi.toNat = 1 then .cla1 else if hi.toNat = 2 then .cla2 else .cla3 := by
  revert hi
  decide

theorem zx_eq {n : Nat} (x : BitVec n) : zx x = BitVec.ofNat 64 x.toNat := BitVec.eq_of_toNat_eq (by simp [zx])

theorem zx_shift (x : BitVec 6) : zx x <<< 8 = BitVec.ofNat 64 (x.toNat * 256) := by
  rw [zx_eq]
  apply BitVec.eq_of_toNat_eq
  simp [Nat.shiftLeft_eq]

/-! ## SRD -/

theorem special_guard (sel : BitVec 10) (hi : BitVec 2) : (hi ≠ 0 && sel ≠ 0x01D) = true ↔ hi.toNat ≠ 0 ∧ sel.toNat ≠ 0x01D := by
  simp [← BitVec.toNat_inj]

theorem specialOf_eq (s : State) (sel : BitVec 10) (hi : BitVec 2) : specialOf s sel.toNat hi.toNat = s.special sel hi := by
  unfold specialOf State.special
  simp only [zx_shift]
  simp only [special_guard, wrap_natCast, loadWord_eq, and_not_fifteen, claOf_eq, zx_eq, apply_ite some]
  rfl

/-! ## SWR -/

theorem truncate_eq (n : Nat) (w : Word) : w.truncate n = BitVec.ofNat n (w.toNat % 2 ^ n) :=
  BitVec.eq_of_toNat_eq (by rw [BitVec.toNat_setWidth, BitVec.toNat_ofNat, Nat.mod_mod])

theorem rper_clamped (w : Word) : (if 10 < w.toNat then 10 else w.truncate 4) = BitVec.ofNat 4 (min w.toNat 10) := by
  split
  · next h => rw [Nat.min_eq_right (by omega)]; rfl
  · next h => rw [truncate_eq, Nat.min_eq_left (by omega), Nat.mod_eq_of_lt (by omega)]

theorem umask_eq (w : Word) : w.extractLsb' 8 6 = BitVec.ofNat 6 (w.toNat % 2 ^ 14 / 256) :=
  BitVec.eq_of_toNat_eq (by rw [toNat_extractLsb', BitVec.toNat_ofNat]; omega)

theorem modeReg_written (m : BitVec 5) (w : Word) : (m &&& 0x10) ||| (w.truncate 5 &&& 0xF) = BitVec.ofNat 5 (w.toNat % 2 ^ 4 + if m.getLsbD 4 then 16 else 0) := by
  have hlow : w.truncate 5 &&& 0xF = BitVec.ofNat 5 (w.toNat % 2 ^ 4) := by
    apply BitVec.eq_of_toNat_eq
    rw [BitVec.toNat_and, BitVec.toNat_setWidth, BitVec.toNat_ofNat]
    show w.toNat % 2 ^ 5 &&& (2 ^ 4 - 1) = _
    rw [Nat.and_two_pow_sub_one_eq_mod]
    omega
  have hhigh : m &&& 0x10 = if m.getLsbD 4 then BitVec.ofNat 5 (2 ^ 4 * 1) else 0 := by
    revert m
    decide
  rw [hlow, hhigh]
  split
  · rw [← BitVec.ofNat_or, ← Nat.two_pow_add_eq_or_of_lt (Nat.mod_lt _ (by norm_num)), Nat.add_comm]
  · exact BitVec.zero_or

/-! ## %stat (R82) -/

/-- The count of denials in a %stat (R82). -/
def denialsIn (x : Word) : Nat := x.toNat / 2 ^ 16 % 2 ^ 16

theorem getLsbD_denials (x : Word) (k : Nat) : (x &&& 0xFFFF_0000).getLsbD k = (decide (16 ≤ k) && (denialsIn x).testBit (k - 16)) := by
  rw [BitVec.getLsbD_and, denialsIn, Nat.testBit_mod_two_pow, Nat.testBit_div_two_pow]
  by_cases hk : k < 64
  · have hmask : (0xFFFF_0000 : Word).getLsbD k = (decide (16 ≤ k) && decide (k < 16 + 16)) := getLsbD_ones (n := 16) (lo := 16) hk
    rw [hmask, ← BitVec.testBit_toNat]
    by_cases h : 16 ≤ k
    · simp [h, Bool.and_comm, show k - 16 < 16 ↔ k < 32 by omega]
    · simp [h]
  · rw [BitVec.getLsbD_of_ge _ _ (by omega), Bool.false_and, decide_eq_false (p := k - 16 < 16) (by omega), Bool.false_and, Bool.and_false]

theorem toNat_denials (x : Word) : (x &&& 0xFFFF_0000).toNat = denialsIn x * 2 ^ 16 := by
  apply Nat.eq_of_testBit_eq
  intro i
  rw [BitVec.testBit_toNat, getLsbD_denials, Nat.testBit_mul_two_pow]

theorem statClear_eq (st w : Word) : statClear st w = st &&& ~~~w &&& 0x3FF ||| if w.toNat % 2 ^ 32 / 2 ^ 16 = 0 then st &&& 0xFFFF_0000 else 0 := by
  have hcount : w.extractLsb' 16 16 = 0 ↔ w.toNat % 2 ^ 32 / 2 ^ 16 = 0 := by
    rw [← BitVec.toNat_inj, toNat_extractLsb']
    show w.toNat / 2 ^ 16 % 2 ^ 16 = 0 ↔ _
    omega
  rw [statClear]
  simp only [hcount]
  split
  · rfl
  · exact BitVec.or_zero.symm

theorem getLsbD_low (n : Nat) {k : Nat} (hk : k < 64) : (BitVec.ofNat 64 (2 ^ n - 1)).getLsbD k = decide (k < n) := by
  simpa using getLsbD_ones (lo := 0) (n := n) hk

theorem denialsIn_and (x m : Word) : denialsIn (x &&& m) = denialsIn x &&& denialsIn m := by
  simp only [denialsIn, BitVec.toNat_and, Nat.and_div_two_pow, Nat.and_mod_two_pow]

theorem denialsIn_or (x m : Word) : denialsIn (x ||| m) = denialsIn x ||| denialsIn m := by
  simp only [denialsIn, BitVec.toNat_or, Nat.or_div_two_pow, Nat.or_mod_two_pow]

theorem getLsbD_statClear (st w : Word) {k : Nat} (hk : k < 16) : (statClear st w).getLsbD k = (decide (k < 10) && st.getLsbD k && !w.getLsbD k) := by
  have hlow : (0x3FF : Word).getLsbD k = decide (k < 10) := getLsbD_low 10 (by omega)
  have hcount : (if w.toNat % 2 ^ 32 / 2 ^ 16 = 0 then st &&& 0xFFFF_0000 else 0).getLsbD k = false := by
    split
    · rw [getLsbD_denials, decide_eq_false (by omega), Bool.false_and]
    · exact BitVec.getLsbD_zero
  rw [statClear_eq, BitVec.getLsbD_or, hcount, Bool.or_false, BitVec.getLsbD_and, BitVec.getLsbD_and, BitVec.getLsbD_not, hlow, decide_eq_true (show k < 64 by omega), Bool.true_and,
    Bool.and_comm, Bool.and_assoc]

theorem denialsIn_statClear (st w : Word) : denialsIn (statClear st w) = if w.toNat % 2 ^ 32 / 2 ^ 16 = 0 then denialsIn st else 0 := by
  rw [statClear_eq, denialsIn_or, denialsIn_and]
  show (_ &&& 0) ||| _ = _
  rw [Nat.and_zero, Nat.zero_or]
  split
  · rw [denialsIn_and]
    show denialsIn st &&& (2 ^ 16 - 1) = _
    rw [Nat.and_two_pow_sub_one_eq_mod, denialsIn, Nat.mod_mod]
  · rfl

theorem getLsbD_moreDenials (old new : Word) (k : Nat) : (if (old &&& 0xFFFF_0000).ult (new &&& 0xFFFF_0000) then new &&& 0xFFFF_0000 else old &&& 0xFFFF_0000).getLsbD k =
    (decide (16 ≤ k) && (max (denialsIn old) (denialsIn new)).testBit (k - 16)) := by
  simp only [BitVec.ult, toNat_denials, decide_eq_true_eq]
  split
  · next h => rw [getLsbD_denials, max_eq_right (by omega)]
  · next h => rw [getLsbD_denials, max_eq_left (by omega)]

/-- A clearing write to %stat, bit by bit (R82). -/
theorem clearStat_eq (t : Thread) (cycle : Nat) (w : Word) : t.clearStat cycle w = { t with stat := ofBits (fun k =>
    if k < 16 then (decide (k < 10) && t.stat.getLsbD k && !w.getLsbD k) || (t.newStat cycle).getLsbD k
    else decide (k < 32) && (max (if w.toNat % 2 ^ 32 / 2 ^ 16 = 0 then denialsIn t.stat else 0) (denialsIn (t.newStat cycle))).testBit (k - 16)) } := by
  rw [Thread.clearStat]
  congr 1
  apply BitVec.eq_of_getLsbD_eq
  intro k hk
  have hmask : (0xFFFF : Word).getLsbD k = decide (k < 16) := getLsbD_low 16 hk
  rw [BitVec.getLsbD_or, getLsbD_moreDenials, BitVec.getLsbD_and, hmask, BitVec.getLsbD_or, ofBits, BitVec.getLsbD_ofFnLE, dif_pos hk, denialsIn_statClear]
  dsimp only
  by_cases h : k < 16
  · rw [if_pos h, getLsbD_statClear _ _ h]
    simp [h]
  · have hmax : max (if w.toNat % 2 ^ 32 / 2 ^ 16 = 0 then denialsIn t.stat else 0) (denialsIn (t.newStat cycle)) < 2 ^ 16 := by
      refine max_lt ?_ (Nat.mod_lt _ (by norm_num))
      split
      · exact Nat.mod_lt _ (by norm_num)
      · norm_num
    rw [if_neg h, decide_eq_false h, Bool.and_false, Bool.false_or, decide_eq_true (show 16 ≤ k by omega), Bool.true_and]
    by_cases h32 : k < 32
    · rw [decide_eq_true h32, Bool.true_and]
    · rw [decide_eq_false h32, Bool.false_and]
      exact Nat.testBit_lt_two_pow (hmax.trans_le (Nat.pow_le_pow_right (by norm_num) (by omega)))

theorem swrOf_eq (t : Thread) (cycle sel : Nat) (w : Word) : swrOf t cycle sel w = t.swr cycle sel w := by
  unfold swrOf Thread.swr
  simp only [clearStat_eq, rper_clamped, umask_eq, modeReg_written]
  simp only [truncate_eq]
  rfl

/-- Settles O5: the model's table of registers is the statement's, row by row, and so is its table of writes. -/
theorem specialRegisters : Obligations.SpecialRegisters := by
  intro s
  refine ⟨fun d sel hi v h => ⟨s.wx d v, ?_, wroteX_wx s d v⟩, fun a sel u h hmode => ?_⟩
  · rw [specialOf_eq] at h
    show execSrd d sel hi s = _
    rw [execSrd, h]
    rfl
  · rw [swrOf_eq] at h
    have huser : (runtimeOnly sel.toNat && s.me.mode = .user) = false := by
      by_contra hne
      rw [Bool.not_eq_false, Bool.and_eq_true, decide_eq_true_eq, runtimeOnly] at hne
      obtain ⟨hsel, hm⟩ := hne
      have := hmode hm
      simp [this] at hsel
    show execSwr sel 0 a s = _
    rw [execSwr, huser, h]
    rfl

end Sys2Proof.Machine
end

section
/-! ERET and the firmware services of TRAP in runtime mode (R110, R111, R139, R305). -/

namespace Sys2Proof.Machine
open Sys2Proof.Claims

theorem sameBytes_of_eq {s t : State} (hm : t.mem = s.mem) (hh : t.hostMem = s.hostMem) : SameBytes s t := fun a => by rw [hm, hh]; exact ⟨rfl, rfl⟩

/-! ## ERET (R110, R111, R139) -/

/-- What waited for one of the faulted accesses waits for those the runtime has in flight in their stead (R111, R139). -/
def stoodIn (owed now l : List Nat) : List Nat := if l.any owed.contains then l.filter (fun n => !owed.contains n) ++ now else l
/-- The accesses of thread k in flight. -/
def accessesOf (s : State) (k : Nat) : List Nat := (s.ops.filter (fun o => o.thr == k && o.kind.isAccess)).map (·.id)

theorem stoodIn_keeps {owed now l : List Nat} {n : Nat} (hn : n ∈ l) (ho : n ∉ owed) : n ∈ stoodIn owed now l := by
  rw [stoodIn]
  split
  · exact List.mem_append_left _ (List.mem_filter.mpr ⟨hn, by simpa using ho⟩)
  · exact hn

theorem stoodIn_adds {owed now l : List Nat} {n m : Nat} (hn : n ∈ l) (ho : n ∈ owed) (hm : m ∈ now) : m ∈ stoodIn owed now l := by
  rw [stoodIn, if_pos (List.any_eq_true.mpr ⟨n, hn, by simpa using ho⟩)]
  exact List.mem_append_right _ hm

theorem mem_accessesOf {s : State} {o : Op} {k : Nat} (ho : o ∈ s.ops) (hk : o.thr = k) (ha : o.kind.isAccess = true) : o.id ∈ accessesOf s k :=
  List.mem_map_of_mem (List.mem_filter.mpr ⟨ho, by simp [hk, ha]⟩)

/-- A thread with the accesses that its first bundle waits for replaced. -/
def afterIn (owed now : List Nat) (t : Thread) : Thread := { t with after := stoodIn owed now t.after }

theorem State.reExecuted_nothing {s : State} {k : Nat} (h : (s.thread k).owed = []) : s.reExecuted k = s := if_pos h

theorem State.reExecuted_eq {s : State} {k : Nat} (h : (s.thread k).owed ≠ []) : s.reExecuted k = { s with
    ops := s.ops.map (fun o => { o with needs := stoodIn (s.thread k).owed (accessesOf s k) o.needs })
    threads := (s.threads.put k { s.thread k with owed := [] }).mapV (fun _ c => afterIn (s.thread k).owed (accessesOf s k) c) } := if_neg h

theorem stoodIn_nothing (now l : List Nat) : stoodIn [] now l = l := if_neg (by simp)

theorem Thread.owed_nothing {t : Thread} (h : t.owed = []) : { t with owed := [] } = t := by rw [← h]

theorem State.thread_reExecuted (s : State) (k j : Nat) :
    (s.reExecuted k).thread j = afterIn (s.thread k).owed (accessesOf s k) (if j = k then { s.thread k with owed := [] } else s.thread j) := by
  by_cases h : (s.thread k).owed = []
  · rw [State.reExecuted_nothing h, h, afterIn, stoodIn_nothing]
    split
    · next hj => rw [Thread.owed_nothing h, hj]
    · rfl
  · rw [State.reExecuted_eq h, State.thread]
    dsimp only
    rw [AMap.get_mapV (fun _ => rfl), AMap.get_put]
    rfl

theorem State.ops_reExecuted (s : State) (k : Nat) : (s.reExecuted k).ops = s.ops.map (fun o => { o with needs := stoodIn (s.thread k).owed (accessesOf s k) o.needs }) := by
  by_cases h : (s.thread k).owed = []
  · rw [State.reExecuted_nothing h, h]
    simp only [stoodIn_nothing, List.map_id']
  · rw [State.reExecuted_eq h]

theorem State.rest_reExecuted (s : State) (k : Nat) : { s.reExecuted k with threads := s.threads, ops := s.ops } = s := by
  by_cases h : (s.thread k).owed = []
  · rw [State.reExecuted_nothing h]
  · rw [State.reExecuted_eq h]

theorem exec_eret {s : State} (h : s.me.mode = .runtime) : exec .eret s = .next ((s.reExecuted s.cur).returnFrom s.cur) := by
  show execEret s = _
  rw [execEret, if_neg (by rw [h]; decide)]
  rfl

theorem returnFromUpcall : ReturnFromUpcall := by
  intro s hmode
  rw [wrap_natCast, ← and_not_fifteen]
  have hthread := s.thread_reExecuted s.cur
  have hreturn := (s.reExecuted s.cur).returnFrom_spec s.cur
  have hrest := s.rest_reExecuted s.cur
  have hcur : (s.reExecuted s.cur).cur = s.cur := by simpa using congrArg State.cur hrest
  have hme : ((s.reExecuted s.cur).returnFrom s.cur).me = { afterIn s.me.owed (accessesOf s s.cur) s.me with
      mode := .user, pc := s.me.upc &&& ~~~0xF, npc := s.me.upc &&& ~~~0xF, owed := [] } := by
    show ((s.reExecuted s.cur).returnFrom s.cur).thread (s.reExecuted s.cur).cur = _
    rw [hcur, hreturn.1, hthread, if_pos rfl]
    rfl
  have hother (k : Nat) (hk : k ≠ s.cur) : ((s.reExecuted s.cur).returnFrom s.cur).thread k = afterIn s.me.owed (accessesOf s s.cur) (s.thread k) := by
    rw [hreturn.2 k hk, hthread, if_neg hk]
    rfl
  have hafter (k : Nat) : (((s.reExecuted s.cur).returnFrom s.cur).thread k).after = stoodIn s.me.owed (accessesOf s s.cur) (s.thread k).after := by
    by_cases hk : k = s.cur
    · rw [hk]
      exact (congrArg (fun j => (((s.reExecuted s.cur).returnFrom s.cur).thread j).after) hcur.symm).trans (congrArg Thread.after hme)
    · rw [hother k hk]; rfl
  refine ⟨_, exec_eret hmode, fun h => by rw [State.reExecuted_nothing h]; rfl, ?_, fun k hk => ?_, fun k n hn => ?_, ?_, ?_, hrest⟩
  · rw [hme]; rfl
  · rw [hother k hk]; rfl
  · rw [hafter]
    split
    · next ho => exact fun o hmem hthr hacc => stoodIn_adds hn ho (mem_accessesOf hmem hthr hacc)
    · next ho => exact stoodIn_keeps hn ho
  · show List.Forall₂ _ s.ops (s.reExecuted s.cur).ops
    rw [s.ops_reExecuted, List.forall₂_map_right_iff]
    exact List.forall₂_same.mpr fun _ _ => rfl
  · have hmem : (s.reExecuted s.cur).mem = s.mem := by simpa using congrArg State.mem hrest
    have hhost : (s.reExecuted s.cur).hostMem = s.hostMem := by simpa using congrArg State.hostMem hrest
    exact sameBytes_of_eq hmem hhost

/-! ## The firmware services of runtime mode (R305) -/

section
variable {s : State} (hmode : s.me.mode = .runtime)
include hmode

theorem State.trapBy_asks (hr : s.me.reply = none) (c : BitVec 16) : s.trapBy c =
    .next ((s.launch { id := 0, thr := s.cur, cc := s.me.cc, kind := .reply, slot := s.me.slot, issued := s.me.issued }).park (.message s.nextId)) := by
  rw [State.trapBy, if_neg (by rw [hmode]; decide), if_neg (by rw [hr]; decide)]
  rfl

theorem State.trapBy_answered (hr : s.me.reply.isSome) (c : BitVec 16) : s.trapBy c = .next (s.service (.trap c) c) := by
  rw [State.trapBy, if_neg (by rw [hmode]; decide), if_pos hr]
  rfl
end

/-- The instructions that call a service, with its code. -/
theorem exec_service {i : Instr} {s : State} (h : i = .pageInRequest ∨ i = .enterFaultHold ∨ i = .postToHostMailbox ∨ ∃ c, i = .trap c) :
    ∃ c, exec i s = s.trapBy c := by
  rcases h with rfl | rfl | rfl | ⟨c, rfl⟩
  exacts [⟨1, rfl⟩, ⟨2, rfl⟩, ⟨3, rfl⟩, ⟨c, rfl⟩]

theorem State.faultReqs_faultReq (s : State) (va cc : Nat) : ∃ l, s.faultReq va cc = { s with faultReqs := l } ∧ (∀ q ∈ s.faultReqs, q ∈ l) ∧ (va / 65536 * 65536, cc) ∈ l := by
  unfold State.faultReq
  dsimp only
  split
  · next h => exact ⟨s.faultReqs, rfl, fun _ hq => hq, by simpa using h⟩
  · exact ⟨_, rfl, fun _ hq => List.mem_append_left _ hq, List.mem_append_right _ List.mem_cons_self⟩

/-- A fault-hold, noted for the context (R305, R313). -/
theorem fatally_serviceHold (s : State) : Fatally s s.serviceHold { tid := s.me.tid, cause := 18, inner := 0, fva := s.rx 1, pc := s.me.pc } := by
  have hctx (c : Nat) : s.serviceHold.ctx c = if c = s.me.ctx then _ else s.ctx c := AMap.get_put _ s.ctxs s.me.ctx c _
  have hthread (k : Nat) : s.serviceHold.thread k = if k = s.cur then { s.me with wait := some .poll } else s.thread k := AMap.get_put _ s.threads s.cur k _
  refine ⟨?_, ?_, fun c hc => ?_, ?_, fun k hk => ?_, ⟨_, rfl⟩, fun _ => ⟨rfl, rfl⟩, rfl⟩
  · rw [hctx, if_pos rfl]; rfl
  · rw [hctx, if_pos rfl]; rfl
  · rw [hctx, if_neg hc]
  · have hme : s.serviceHold.me = { s.me with wait := some .poll } := (hthread s.cur).trans (if_pos rfl)
    rw [hme]
  · rw [hthread, if_neg hk]

theorem wroteX_servicePageIn (s : State) : let t := s.servicePageIn
    if (s.rx 1).toNat < 2 ^ 56 then
      WroteX { s with faultReqs := t.faultReqs } t 1 0 ∧ (∀ q ∈ s.faultReqs, q ∈ t.faultReqs) ∧ ((s.rx 1).toNat / 65536 * 65536, s.me.cc) ∈ t.faultReqs
    else WroteX s t 1 (wrap (-1)) := by
  have hlocal : isLocal (s.rx reg1).toNat = decide ((s.rx 1).toNat < 2 ^ 56) := rfl
  dsimp only
  split
  · next h =>
    obtain ⟨l, hl, hold, hnew⟩ := s.faultReqs_faultReq (s.rx 1).toNat s.me.cc
    have hservice : s.servicePageIn = ({ s with faultReqs := l } : State).wx 1 0 := by
      rw [State.servicePageIn, hlocal, decide_eq_true h, if_pos rfl]
      exact congrArg (fun u : State => u.wx 1 0) hl
    have hwrote := wroteX_wx { s with faultReqs := l } 1 0
    have hreqs : s.servicePageIn.faultReqs = l := by
      rw [hservice]
      simpa using congrArg State.faultReqs hwrote.rest
    rw [hreqs, hservice]
    exact ⟨hwrote, hold, hnew⟩
  · next h =>
    rw [State.servicePageIn, hlocal, decide_eq_false h]
    exact wroteX_wx ..

/-! ## Sound words of a local memory (R414) -/

theorem lmBad_sound {s : State} {cc off n : Nat} (h : LmSound s cc off n) : s.lmBad cc off n = false := by
  rw [State.lmBad, State.eccBad, List.any_eq_false]
  intro e he
  have := h e he
  simp only [Bool.and_eq_true, decide_eq_true_eq]
  omega

theorem lmCorrect_sound {s : State} {cc off n : Nat} (h : LmSound s cc off n) : s.lmCorrect cc off n = s := by
  have hnone : s.ecc.filter (fun e => e.2 == 1 && decide (e.1 * 8 < lmPa cc off + n) && decide (lmPa cc off < e.1 * 8 + 8)) = [] := by
    rw [List.filter_eq_nil_iff]
    intro e he
    have := h e he
    simp only [Bool.and_eq_true, decide_eq_true_eq]
    omega
  rw [State.lmCorrect, State.correct]
  dsimp only
  rw [hnone]
  rfl

theorem leBytes_leNat (bs : List Byte) : leBytes bs.length (leNat bs) = bs := by
  induction bs with
  | nil => rfl
  | cons b t ih =>
    rw [List.length_cons, leBytes, leNat, Nat.add_mul_div_left _ _ (by norm_num), Nat.div_eq_of_lt b.isLt, Nat.zero_add, ih]
    congr 1
    apply BitVec.eq_of_toNat_eq
    rw [BitVec.toNat_ofNat]
    have := b.isLt
    omega

theorem leNat_lt (bs : List Byte) : leNat bs < 256 ^ bs.length := by
  induction bs with
  | nil => exact Nat.one_pos
  | cons b t ih =>
    rw [leNat, List.length_cons, pow_succ]
    have := b.isLt
    omega

theorem checked_lm {s : State} {t : Thread} {r : Acc} {cc off : Nat} (h : r.place = .lm cc off) : s.checked t r = s := by
  rw [State.checked, h]

/-! ## The message posted (R305, R416) -/

theorem toNat_wordOf {n : Nat} {bs : List Byte} (h : bs.length = n) : (wordOf (8 * n) bs).toNat = leNat bs := by
  rw [wordOf, BitVec.toNat_ofNat, pow_mul]
  exact Nat.mod_eq_of_lt (h ▸ leNat_lt bs)

/-- The bytes of a memory as one number, and back. -/
theorem leBytes_wordOf_read (m : Memory) (a n : Nat) : leBytes n (wordOf (8 * n) (m.read a n)).toNat = m.read a n := by
  rw [toNat_wordOf (Memory.length_read ..)]
  simpa only [Memory.length_read] using leBytes_leNat (m.read a n)

section
variable {s : State} {i : Instr} {r : Acc} {cc off : Nat} (hc : s.check s.me (s.rx 1).toNat 64 64 .read = .ok r) (hp : r.place = .lm cc off) (hs : LmSound s cc off 64)
include hc hp hs

theorem servicePost_lm : s.servicePost i = if s.areaFull then s.wx 1 1 else (s.post (wordOf 512 (s.lmRead cc off 64))).wx 1 0 := by
  unfold State.servicePost
  simp only [reg1, hc, checked_lm hp, hp, lmBad_sound hs, lmCorrect_sound hs, Bool.false_eq_true, if_false]

theorem wroteX_servicePost (hh : s.heldEvents = []) : let t := s.servicePost i
    if s.returned + 256 ≤ s.writeIdx then WroteX s t 1 1
    else WroteX { s with
      hostMem := s.hostMem.write (s.areaBase + s.writeIdx % 256 * 64) ((s.coreCtx cc).lm.read off 64)
      writeIdx := s.writeIdx + 1, out := s.out ++ [.msix 0] } t 1 0 := by
  have hfull : s.areaFull = decide (s.returned + 256 ≤ s.writeIdx) := rfl
  dsimp only
  rw [servicePost_lm hc hp hs, hfull]
  split
  · next h =>
    rw [if_pos (decide_eq_true h)]
    exact wroteX_wx ..
  · next h =>
    have hroom : ¬ (s.areaFull || !s.heldEvents.isEmpty) = true := by simp [hfull, h, hh]
    rw [if_neg (by simpa using h), State.post, if_neg hroom, State.postEntry, State.lmRead, leBytes_wordOf_read (n := 64)]
    exact wroteX_wx ..
end

theorem runtimeServices : RuntimeServices := by
  refine ⟨fun i s hmode hr hi => ?_, fun s hmode hr => ⟨fun i hi => ?_, fun i hi => ?_, fun i r cc off hi hc hp hs hh => ?_, fun c h1 h2 h3 => ?_⟩⟩
  · obtain ⟨c, hc⟩ := exec_service hi
    exact ⟨_, _, hc.trans (State.trapBy_asks hmode hr c), ⟨_, by omega, rfl⟩, rfl⟩
  · have hexec : exec i s = .next s.servicePageIn := by
      rcases hi with rfl | rfl <;> exact State.trapBy_answered hmode hr 1
    exact ⟨_, hexec, wroteX_servicePageIn s⟩
  · have hexec : exec i s = .next s.serviceHold := by
      rcases hi with rfl | rfl <;> exact State.trapBy_answered hmode hr 2
    exact ⟨_, hexec, fatally_serviceHold s⟩
  · have hexec : exec i s = .next (s.servicePost (.trap 3)) := by
      rcases hi with rfl | rfl <;> exact State.trapBy_answered hmode hr 3
    exact ⟨_, hexec, wroteX_servicePost hc hp hs hh⟩
  · have hexec : exec (.trap c) s = .next (s.wx 1 (wrap (-1))) := by
      show s.trapBy c = _
      rw [State.trapBy_answered hmode hr, State.service, if_neg h1, if_neg h2, if_neg h3]
      rfl
    exact ⟨_, hexec, wroteX_wx ..⟩

/-- Settles O39: ERET by what `abandonOps` and the table of re-executed accesses leave, TRAP by the three services of `State.service`. -/
theorem servicesAndReturn : Obligations.ServicesAndReturn := ⟨returnFromUpcall, runtimeServices⟩

end Sys2Proof.Machine
end

section
/-! Instructions that wait or read status, where they complete by writing D alone (R98 to R130, R164 to R168). -/

namespace Sys2Proof.Machine
open Sys2Proof.Claims

theorem wrap_toNat {n : Nat} (x : BitVec n) : wrap (x.toNat : Int) = zx x := by rw [wrap_natCast, zx_eq]

theorem groupOf_rx (s : State) (a : SReg) : groupOf (s.rx a) = groupNow s a := by
  rw [groupOf, groupNow]
  exact BitVec.eq_of_toNat_eq (by rw [toNat_extractLsb', BitVec.toNat_setWidth, pow_zero, Nat.div_one])

/-! ## Each instruction, where it completes by writing D alone -/

section
variable {s : State} {d : SReg} {r : SReg × Word}

theorem exec_gcount_dOnly {a : SReg} (h : dOnly (.gcount d a) s = some r) : exec (.gcount d a) s = .next (s.wx r.1 r.2) := by
  obtain rfl := Option.some.inj h
  rw [countOf, wrap_toNat, ← groupOf_rx]
  rfl

theorem exec_join_dOnly {a : SReg} (h : dOnly (.join d a) s = some r) : exec (.join d a) s = .next (s.wx r.1 r.2) := by
  show execJoin d a s = _
  simp only [dOnly] at h
  unfold execJoin
  simp only [groupOf_rx, List.contains_eq_mem, decide_eq_true_eq]
  split at h
  · next hg =>
    obtain rfl := Option.some.inj h
    rw [if_pos hg, countOf, wrap_toNat]
    rfl
  · next hg =>
    split at h
    · next hfour =>
      obtain rfl := Option.some.inj h
      rw [if_neg hg, if_pos hfour]
      rfl
    · contradiction

theorem exec_leave_dOnly {a : SReg} (h : dOnly (.leave d a) s = some r) : exec (.leave d a) s = .next (s.wx r.1 r.2) := by
  show execLeave d a s = _
  simp only [dOnly] at h
  unfold execLeave
  simp only [groupOf_rx]
  split at h
  · contradiction
  · next hg =>
    obtain rfl := Option.some.inj h
    rw [if_pos (by simpa using hg)]
    rfl

theorem exec_sleep_dOnly {a : SReg} (h : dOnly (.sleep d a) s = some r) : exec (.sleep d a) s = .next (s.wx r.1 r.2) := by
  show execSleep d a s = _
  simp only [dOnly] at h
  unfold execSleep
  cases hr : s.me.reply with
  | some v =>
    rw [hr] at h
    obtain rfl := Option.some.inj h
    rfl
  | none =>
    rw [hr] at h
    dsimp only at h ⊢
    split at h
    · next hz => obtain rfl := Option.some.inj h; exact if_pos hz
    · contradiction

theorem exec_waitm_dOnly (h : dOnly (.waitm d) s = some r) : exec (.waitm d) s = .next (s.wx r.1 r.2) := by
  show execWaitm d s = _
  simp only [dOnly] at h
  unfold execWaitm
  cases hr : s.me.reply with
  | some v =>
    rw [hr] at h
    obtain rfl := Option.some.inj h
    rfl
  | none =>
    rw [hr] at h
    dsimp only at h ⊢
    split at h
    · contradiction
    · next hq =>
      obtain rfl := Option.some.inj h
      rw [wrap_natCast]
      exact if_neg (by simpa using hq)

theorem exec_waitt_dOnly {e : Eng} {a : SReg} (h : dOnly (.waitt e d a) s = some r) : exec (.waitt e d a) s = .next (s.wx r.1 r.2) := by
  show execWaitt e d a s = _
  simp only [dOnly] at h
  unfold execWaitt
  split at h
  · next hn =>
    obtain rfl := Option.some.inj h
    rw [wrap_natCast]
    exact if_pos hn
  · contradiction

theorem exec_qstat_dOnly (h : dOnly (.qstat d) s = some r) : exec (.qstat d) s = .next (s.wx r.1 r.2) := by
  obtain rfl := Option.some.inj h
  rw [wrap_natCast]
  rfl

theorem exec_bstat_dOnly {b : BitVec 7} {w : BitVec 2} (h : dOnly (.bstat d b w) s = some r) : exec (.bstat d b w) s = .next (s.wx r.1 r.2) := by
  obtain rfl := Option.some.inj h
  show Host.Outcome.next (s.wx d _) = _
  congr 2
  rcases (by decide : ∀ w : BitVec 2, w = 0 ∨ w = 1 ∨ w = 2 ∨ w = 3) w with rfl | rfl | rfl | rfl
  · exact (wrap_toNat (s.bar s.me.cc b).expected).symm
  · exact (wrap_toNat (s.bar s.me.cc b).arrived).symm
  · exact ((wrap_toNat (s.bar s.me.cc b).pending).trans (BitVec.setWidth_eq _)).symm
  · cases hp : (s.bar s.me.cc b).phase <;> rfl

theorem exec_dqsteal_dOnly {a : SReg} (h : dOnly (.dqsteal d a) s = some r) : exec (.dqsteal d a) s = .next (s.wx r.1 r.2) := by
  show execDqsteal d a s = _
  simp only [dOnly] at h
  unfold execDqsteal
  split at h
  · next hlt =>
    obtain ⟨v, hv, rfl⟩ := Option.map_eq_some_iff.mp h
    dsimp only
    rw [if_neg (by omega), hv]
    rfl
  · contradiction

theorem exec_wunmap_dOnly {w : BitVec 3} (h : dOnly (.wunmap d w) s = some r) : exec (.wunmap d w) s = .next (s.wx r.1 r.2) := by
  show execWunmap d w s = _
  simp only [dOnly] at h
  unfold execWunmap
  split at h
  · contradiction
  · next hw =>
    obtain rfl := Option.some.inj h
    have hfree : (!(s.win s.me.cc w.toNat).mapped || (s.win s.me.cc w.toNat).staged) = true := by
      cases hm : (s.win s.me.cc w.toNat).mapped
      · rfl
      · simpa [hm] using hw
    exact if_pos hfree

theorem exec_wstat_dOnly {w : BitVec 3} (h : dOnly (.wstat d w) s = some r) : exec (.wstat d w) s = .next (s.wx r.1 r.2) := by
  obtain rfl := Option.some.inj h
  rw [wrap_natCast]
  show Host.Outcome.next (s.wx d (s.win s.me.cc w.toNat).word) = _
  congr 2
  rw [Win.word]
  cases hm : (s.win s.me.cc w.toNat).mapped <;> rfl

theorem exec_lease_dOnly {e : Eng} {try_ : Bool} (h : dOnly (.lease e try_ d) s = some r) : exec (.lease e try_ d) s = .next (s.wx r.1 r.2) := by
  show execLease e try_ d s = _
  simp only [dOnly] at h
  unfold execLease State.tryLease
  split at h
  · next hh =>
    obtain rfl := Option.some.inj h
    dsimp only
    rw [if_pos hh]
    rfl
  · next hh =>
    split at h
    · next ht =>
      obtain ⟨htry, hbusy⟩ := ht
      obtain rfl := Option.some.inj h
      dsimp only
      rw [if_neg hh, if_neg, htry]
      · rfl
      · simp only [Bool.and_eq_true, Option.isNone_iff_eq_none, Bool.not_eq_true', EngUnit.others, List.any_eq_false, bne_iff_ne, ne_eq, not_not]
        rintro ⟨⟨hfree, hpass⟩, hothers⟩
        rcases hbusy with hne | hne | ⟨q, hq, hcc⟩
        exacts [hne hfree, hne hpass, hcc (hothers q hq)]
    · contradiction

/-- The live registers of a MEET without a mark of a faulted load. -/
theorem live_unmarked {w : Word} {xpf : BitVec 32} (h : ∀ k : Fin 32, k.val ≠ 0 → w.getLsbD k.val → xpf.getLsbD k.val = false) :
    (w.extractLsb' 0 32 &&& 0xFFFF_FFFE) &&& xpf = 0 := by
  apply BitVec.eq_of_getLsbD_eq
  intro k hk
  have hmask : (0xFFFF_FFFE : BitVec 32).getLsbD k = (decide (1 ≤ k) && decide (k < 1 + 31)) := getLsbD_ones (n := 31) (lo := 1) hk
  rw [BitVec.getLsbD_and, BitVec.getLsbD_and, hmask, BitVec.getLsbD_extractLsb', Nat.zero_add]
  refine Eq.trans ?_ BitVec.getLsbD_zero.symm
  by_cases h0 : k = 0
  · simp [h0]
  · cases hw : w.getLsbD k with
    | false => simp
    | true => simp [h ⟨k, hk⟩ h0 hw]

theorem exec_meet_dOnly {a b : SReg} {mid : BitVec 8} {win : BitVec 22} (h : dOnly (.meet d a b mid win) s = some r) :
    exec (.meet d a b mid win) s = .next (s.wx r.1 r.2) := by
  show execMeet d a b mid win s = _
  simp only [dOnly] at h
  unfold execMeet
  dsimp only
  cases hr : s.me.reply with
  | some v =>
    rw [hr] at h
    obtain rfl := Option.some.inj h
    rfl
  | none =>
    rw [hr] at h
    dsimp only at h ⊢
    split at h
    · next hc =>
      obtain ⟨huser, hg⟩ := hc
      obtain rfl := Option.some.inj h
      rw [groupOf_rx, if_neg, if_neg, if_pos (by simpa using hg)]
      · rfl
      · simp only [Bool.and_eq_true, decide_eq_true_eq, Bool.or_eq_true, Bool.not_eq_true', List.isEmpty_eq_false_iff, not_and, not_or, ne_eq, not_not]
        intro hm
        exact ⟨(huser hm).2.1, live_unmarked (huser hm).2.2⟩
      · simp only [Bool.and_eq_true, decide_eq_true_eq, not_and]
        intro hres hm
        exact hres (huser hm).1
    · contradiction
end

/-- An instruction that completes by writing D alone writes D (R112 to R130, R164 to R168). -/
theorem exec_of_dOnly {i : Instr} {s : State} {r : SReg × Word} (h : dOnly i s = some r) : exec i s = .next (s.wx r.1 r.2) := by
  cases i
  case gcount => exact exec_gcount_dOnly h
  case join => exact exec_join_dOnly h
  case leave => exact exec_leave_dOnly h
  case meet => exact exec_meet_dOnly h
  case sleep => exact exec_sleep_dOnly h
  case waitm => exact exec_waitm_dOnly h
  case waitt => exact exec_waitt_dOnly h
  case qstat => exact exec_qstat_dOnly h
  case bstat => exact exec_bstat_dOnly h
  case dqsteal => exact exec_dqsteal_dOnly h
  case wunmap => exact exec_wunmap_dOnly h
  case wstat => exact exec_wstat_dOnly h
  case lease => exact exec_lease_dOnly h
  all_goals exact absurd h (Option.some_ne_none r).symm

theorem waitAndStatusResult : WaitAndStatusResult := fun _ s d v h => ⟨s.wx d v, exec_of_dOnly h, wroteX_wx s d v⟩

/-! ## WAITR of a word of the own LM (R119) -/

theorem read_eq_map (m : Memory) (a n : Nat) : m.read a n = (List.range n).map (fun j => m.get (a + j)) := by
  apply List.ext_getElem
  · rw [Memory.length_read, List.length_map, List.length_range]
  · intro i h _
    rw [Memory.getElem_read, List.getElem_map, List.getElem_range]

theorem leNat_read (m : Memory) (a n : Nat) : leNat (m.read a n) = numAt m a n := by
  rw [read_eq_map, leNat_map_range]
  rfl

theorem waitrResult : WaitrResult := by
  intro d a b s off hblock hne
  obtain ⟨r, hcheck, hplace, ⟨hacq, hbusy, hsound⟩, -⟩ := hblock
  refine ⟨s.wx d (wrap (numAt (s.coreCtx s.me.cc).lm off 8 : Int)), ?_, wroteX_wx ..⟩
  have hword : wordOf 64 (s.lmRead s.me.cc off 8) = wrap (numAt (s.coreCtx s.me.cc).lm off 8 : Int) := by
    rw [wordOf, State.lmRead, leNat_read, wrap_natCast]
  have hdiff : wrap (numAt (s.coreCtx s.me.cc).lm off 8 : Int) ≠ s.rx b := by
    intro heq
    rw [← hword] at heq
    apply hne
    rw [← heq, ← leNat_read]
    exact (toNat_wordOf (n := 8) (Memory.length_read ..)).symm
  show execWaitr d a b s = _
  unfold execWaitr
  rw [hplace] at hbusy
  simp only [hcheck, checked_lm hplace, hacq, hplace, hbusy, Bool.or_self, Bool.false_eq_true, if_false, lmBad_sound (hsound _ _ hplace), lmCorrect_sound (hsound _ _ hplace), hword, if_neg hdiff]
  rfl

/-- Settles O40: an equation per instruction where `dOnly` gives a value, and the block of WAITR read from the own LM. -/
theorem waitsAndStatus : Obligations.WaitsAndStatus := ⟨waitAndStatusResult, waitrResult⟩

end Sys2Proof.Machine
end

section
/-! A scalar register of any thread written, and what stood in a shared one when the cycle began (R77 to R80, R139). -/

namespace Sys2Proof.Machine
open Sys2Proof.Claims

/-! ## The writers of a cycle (R79, R80) -/

theorem lookupWriter_cons (k : Nat) (w : Writer) (m : AMap Writer) (j : Nat) : lookupWriter ((k, w) :: m) j = if j = k then some w else lookupWriter m j := by
  rw [lookupWriter, List.find?_cons]
  by_cases h : j = k
  · subst h; simp
  · have : (k == j) = false := by simpa using Ne.symm h
    rw [if_neg h]
    simp only [this, lookupWriter]

theorem lookupWriter_put (m : AMap Writer) (n : Nat) (w : Writer) (j : Nat) : lookupWriter (m.put n w) j = if j = n then some w else lookupWriter m j := by
  induction m with
  | nil => exact lookupWriter_cons n w [] j
  | cons e m ih =>
    obtain ⟨k, v⟩ := e
    rw [AMap.put]
    split
    · next hk => subst hk; grind [lookupWriter_cons]
    · split <;> grind [lookupWriter_cons]

theorem hBefore_eq_startOf (s : State) (c : Nat) (n : Fin 32) :
    hBefore s c n = (startOf (s.coreCtx c).writers s.cycle n.val ((s.coreCtx c).h[n].zeroExtend 512)).truncate 64 := by
  rw [hBefore, startOf]
  cases lookupWriter (s.coreCtx c).writers n.val with
  | none => simp
  | some w => dsimp only; split <;> simp

/-! ## A scalar register of a thread written (R77 to R80, R139) -/

/-- An unshared scalar register written: its marks are gone. -/
def Thread.gotX (t : Thread) (f : SReg) (w : Word) : Thread :=
  { t with
    regs := { t.regs with x := t.regs.x.set (low5 f).val w }
    xpf := setMark t.xpf (low5 f) false
    xde := setMark t.xde (low5 f) false
    tok := t.tok.del (low5 f).val }

/-- The writer of a shared scalar register, as a write for thread k notes it. -/
def State.writerX (s : State) (k : Nat) (f : SReg) (issued : Nat) : Writer :=
  let c := s.coreCtx (s.thread k).cc
  { cycle := s.cycle, slot := (s.thread k).slot, issued := issued, was := startOf c.writers s.cycle (low5 f).val ((c.h[low5 f]).zeroExtend 512) }

def State.winsFor (s : State) (k : Nat) (f : SReg) (issued : Nat) : Bool :=
  wins (lookupWriter (s.coreCtx (s.thread k).cc).writers (low5 f).val) { cycle := s.cycle, slot := (s.thread k).slot, issued := issued }

theorem State.putX_zero (s : State) (k : Nat) (w : Word) (i : Nat) : s.putX k 0 w i = s := by simp [State.putX, isShared]

theorem State.putX_unshared {s : State} {f : SReg} (hs : isShared f = false) (h0 : f ≠ 0) (k : Nat) (w : Word) (i : Nat) :
    s.putX k f w i = s.setThread k ((s.thread k).gotX f w) := by
  simp only [State.putX, hs, Bool.false_eq_true, if_false, h0]
  rfl

/-- A shared scalar register written, with its writer noted. -/
def CoreCtx.gotX (c : CoreCtx) (f : SReg) (w : Word) (me : Writer) : CoreCtx := { c with h := c.h.set (low5 f).val w, writers := c.writers.put (low5 f).val me }

theorem CoreCtx.startOf_gotX (c : CoreCtx) (f : SReg) (w : Word) (me : Writer) (hme : me.was = startOf c.writers me.cycle (low5 f).val (c.h[low5 f].zeroExtend 512)) (n : Fin 32) :
    startOf (c.gotX f w me).writers me.cycle n.val ((c.gotX f w me).h[n].zeroExtend 512) = startOf c.writers me.cycle n.val (c.h[n].zeroExtend 512) := by
  rw [CoreCtx.gotX, vget_set, startOf, lookupWriter_put]
  by_cases h : n.val = (low5 f).val
  · obtain rfl : n = low5 f := Fin.ext h
    rw [if_pos rfl]
    exact (if_pos rfl).trans hme
  · rw [if_neg h, if_neg (Ne.symm h)]
    rfl

theorem State.coreCtx_setCoreCtx (s : State) (cc : Nat) (v : CoreCtx) (c : Nat) : (s.setCoreCtx cc v).coreCtx c = if c = cc then v else s.coreCtx c :=
  AMap.get_put _ s.ccs cc c v

theorem State.putX_shared {s : State} {f : SReg} (hs : isShared f = true) (k : Nat) (w : Word) (i : Nat) :
    s.putX k f w i = if s.winsFor k f i = true then s.setCoreCtx (s.thread k).cc ((s.coreCtx (s.thread k).cc).gotX f w (s.writerX k f i)) else s := by
  rw [State.putX, if_pos hs]
  rfl

/-- Everything a write of scalar register f of thread k does. -/
structure PutX (s t : State) (k : Nat) (f : SReg) (w : Word) (issued : Nat) : Prop where
  result : t.xOf k f = if isShared f then (if s.winsFor k f issued then w else s.xOf k f) else if f = 0 then 0 else w
  others : ∀ g, g ≠ f → t.xOf k g = s.xOf k g
  own : t.thread k = { s.thread k with
    regs := { (s.thread k).regs with x := (t.thread k).regs.x }, xpf := (t.thread k).xpf, xde := (t.thread k).xde, tok := (t.thread k).tok }
  threads : ∀ j, j ≠ k → t.thread j = s.thread j
  cores : ∀ c, t.coreCtx c = { s.coreCtx c with h := (t.coreCtx c).h, writers := (t.coreCtx c).writers }
  before : ∀ c n, hBefore t c n = hBefore s c n
  rest : { t with threads := s.threads, ccs := s.ccs } = s

theorem xOf_gotX (s : State) (k : Nat) {f : SReg} (hs : isShared f = false) (w : Word) (g : SReg) :
    (s.setThread k ((s.thread k).gotX f w)).xOf k g = if g = f ∧ f ≠ 0 then w else s.xOf k g := by
  simp only [State.xOf, State.thread_setThread_same]
  by_cases hg : isShared g = true
  · have hne : g ≠ f := by rintro rfl; simp [hs] at hg
    rw [if_pos hg, if_neg (fun h => hne h.1), if_pos hg]
    rfl
  · rw [Bool.not_eq_true] at hg
    simp only [hg, Bool.false_eq_true, if_false]
    by_cases h0 : g = 0
    · rw [if_pos h0, if_neg (fun h => h.2 (h.1 ▸ h0)), if_pos h0]
    · rw [if_neg h0, Thread.gotX, vget_set, if_neg h0]
      by_cases h : g = f
      · subst h; rw [if_pos rfl, if_pos ⟨rfl, h0⟩]
      · rw [if_neg (fun hl => h (low5_inj (hg.trans hs.symm) hl.symm)), if_neg (fun hh => h hh.1)]

theorem putX_putX (s : State) (k : Nat) (f : SReg) (w : Word) (i : Nat) : PutX s (s.putX k f w i) k f w i := by
  by_cases hs : isShared f = true
  · rw [State.putX_shared hs]
    split
    · next hw =>
      have hcc := s.coreCtx_setCoreCtx (s.thread k).cc ((s.coreCtx (s.thread k).cc).gotX f w (s.writerX k f i))
      refine ⟨?_, fun g hg => ?_, rfl, fun _ _ => rfl, fun c => ?_, fun c n => ?_, rfl⟩
      · rw [if_pos hs, if_pos hw, State.xOf, if_pos hs]
        show ((s.setCoreCtx _ _).coreCtx (s.thread k).cc).h[low5 f] = w
        rw [hcc, if_pos rfl, CoreCtx.gotX, vget_set, if_pos rfl]
      · rw [State.xOf, State.xOf]
        split
        · next hg' =>
          show ((s.setCoreCtx _ _).coreCtx (s.thread k).cc).h[low5 g] = _
          rw [hcc, if_pos rfl, CoreCtx.gotX, vget_set, if_neg (fun hl => hg (low5_inj (hg'.trans hs.symm) hl.symm))]
        · rfl
      · rw [hcc]
        split
        · next h => rw [h]; rfl
        · rfl
      · rw [hBefore_eq_startOf, hBefore_eq_startOf, hcc]
        by_cases h : c = (s.thread k).cc
        · subst h
          rw [if_pos rfl]
          exact congrArg (BitVec.truncate 64) (CoreCtx.startOf_gotX _ f w (s.writerX k f i) rfl n)
        · rw [if_neg h]; rfl
    · next hw => exact ⟨by rw [if_pos hs, if_neg hw], fun _ _ => rfl, rfl, fun _ _ => rfl, fun _ => rfl, fun _ _ => rfl, rfl⟩
  · rw [Bool.not_eq_true] at hs
    by_cases h0 : f = 0
    · subst h0
      rw [State.putX_zero]
      exact ⟨by simp [State.xOf, isShared], fun _ _ => rfl, rfl, fun _ _ => rfl, fun _ => rfl, fun _ _ => rfl, rfl⟩
    · rw [State.putX_unshared hs h0]
      refine ⟨?_, fun g hg => ?_, ?_, fun j hj => State.thread_setThread_ne _ _ _ _ hj, fun _ => rfl, fun _ _ => rfl, rfl⟩
      · rw [xOf_gotX s k hs, if_pos ⟨rfl, h0⟩, hs, if_neg Bool.false_ne_true, if_neg h0]
      · rw [xOf_gotX s k hs, if_neg (fun h => hg h.1)]
      · rw [State.thread_setThread_same]
        rfl

end Sys2Proof.Machine
end

section
/-! An operation in flight that ends: its thread goes on, and its value stands in its register (R98, R129). -/

namespace Sys2Proof.Machine
open Sys2Proof.Claims

/-! ## The end of an operation in flight: its thread, its register (R98) -/

/-- A thread that waits for operation id alone goes on. -/
def Thread.unparked (t : Thread) (id : Nat) : Thread := { t with wait := if t.wait = some (.access id) then none else t.wait }

theorem State.thread_unpark (s : State) (o : Op) (j : Nat) : (s.unpark o).thread j = if j = o.thr then (s.thread o.thr).unparked o.id else s.thread j := by
  rw [State.unpark, Thread.unparked]
  split
  · exact AMap.get_put _ s.threads o.thr j _
  · split
    · next h => rw [h]
    · rfl

theorem State.unpark_eq (s : State) (o : Op) : s.unpark o = { s with threads := (s.unpark o).threads } := by
  rw [State.unpark]
  split <;> rfl

/-- The state in which an operation that ends is gone, and its thread no longer waits for it. -/
def State.released (s : State) (o : Op) : State := (s.unpark o).dropOp o.id

theorem State.thread_released (s : State) (o : Op) (j : Nat) : (s.released o).thread j = if j = o.thr then (s.thread o.thr).unparked o.id else s.thread j := s.thread_unpark o j

theorem State.me_released (s : State) (o : Op) : (s.released o).thread o.thr = (s.thread o.thr).unparked o.id := (s.thread_released o _).trans (if_pos rfl)

theorem State.released_eq (s : State) (o : Op) : s.released o = { s with ops := s.ops.filter (fun x => x.id != o.id), threads := (s.released o).threads } :=
  congrArg (fun u : State => { u with ops := u.ops.filter (fun x => x.id != o.id) }) (s.unpark_eq o)

theorem State.coreCtx_released (s : State) (o : Op) (c : Nat) : (s.released o).coreCtx c = s.coreCtx c := by rw [s.released_eq]; rfl

theorem State.xOf_released (s : State) (o : Op) (f : SReg) : (s.released o).xOf o.thr f = s.xOf o.thr f := by
  simp only [State.xOf, s.me_released, s.coreCtx_released]
  rfl

theorem State.hBefore_released (s : State) (o : Op) (c : Nat) (n : Fin 32) : hBefore (s.released o) c n = hBefore s c n := by rw [s.released_eq]; rfl

theorem State.deliverX_scalar {s : State} {o : Op} {f : SReg} (h : o.dst = some (.s f)) (w : Word) : s.deliverX o w 0 = (s.released o).putX o.thr f w o.issued := by
  simp only [State.deliverX, h]
  rfl

theorem State.deliverX_other {s : State} {o : Op} (h : ∀ f, o.dst ≠ some (.s f)) (w : Word) : s.deliverX o w 0 = s.released o := by
  rw [State.deliverX]
  split
  next f heq => exact absurd heq (h f)
  next => rfl

theorem delivered_of_putX {s t : State} {o : Op} {f : SReg} {w : Word} (h : o.dst = some (.s f)) (hp : PutX (s.released o) t o.thr f w o.issued) : Delivered s t o w 0 := by
  obtain ⟨hresult, hothers, hown, hthreads, hcores, hbefore, hrest⟩ := hp
  have huniq {g : SReg} (hg : o.dst = some (.s g)) : g = f := by rw [h] at hg; cases hg; rfl
  have hrel := s.released_eq o
  refine ⟨?_, fun g hg hs => ?_, fun g hg hs => ?_, fun g hg => ?_, ?_, fun k hk => ?_, fun c => ?_, fun c n => (hbefore c n).trans (s.hBefore_released o c n), ?_, ?_⟩
  · exact (by simpa using congrArg State.ops hrest : t.ops = (s.released o).ops).trans (by rw [hrel])
  · rw [huniq hg] at hs ⊢
    rw [hresult, hs, if_neg Bool.false_ne_true]
  · rw [huniq hg] at hs ⊢
    rw [hresult, if_pos hs, s.xOf_released, State.winsFor, s.coreCtx_released, s.me_released, hrel]
    rfl
  · rw [hothers g (fun he => hg (he ▸ h)), s.xOf_released]
  · rw [hown, s.me_released]
    simp [Thread.unparked]
  · rw [hthreads k hk, s.thread_released, if_neg hk]
  · rw [hcores c, s.coreCtx_released]
  · have hm : t.mem = (s.released o).mem := by simpa using congrArg State.mem hrest
    have hh : t.hostMem = (s.released o).hostMem := by simpa using congrArg State.hostMem hrest
    rw [hrel] at hm hh
    exact sameBytes_of_eq hm hh
  · have := congrArg (fun u : State => { u with threads := s.threads, ccs := s.ccs, ops := s.ops }) hrest
    rw [hrel] at this
    exact this

theorem delivered_released {s : State} {o : Op} (h : ∀ f, o.dst ≠ some (.s f)) (w : Word) : Delivered s (s.released o) o w 0 := by
  have hrel := s.released_eq o
  refine ⟨by rw [hrel], fun g hg => absurd hg (h g), fun g hg => absurd hg (h g), fun g _ => s.xOf_released o g, ?_, fun k hk => ?_, fun c => ?_, fun c n => s.hBefore_released o c n, ?_, ?_⟩
  · rw [s.me_released]
    simp [Thread.unparked]
  · rw [s.thread_released, if_neg hk]
  · rw [s.coreCtx_released]
  · rw [hrel]; exact fun a => ⟨rfl, rfl⟩
  · rw [hrel]

theorem delivered_deliverX (s : State) (o : Op) (w : Word) : Delivered s (s.deliverX o w 0) o w 0 := by
  by_cases h : ∃ f, o.dst = some (.s f)
  · obtain ⟨f, h⟩ := h
    rw [State.deliverX_scalar h]
    exact delivered_of_putX h (putX_putX ..)
  · rw [not_exists] at h
    rw [State.deliverX_other h]
    exact delivered_released h w

end Sys2Proof.Machine
end

section
/-! Replies, copy tokens, and far accesses that are late (R98, R140, R141, R305, R375, R402). -/

namespace Sys2Proof.Machine
open Sys2Proof.Claims

/-! ## The mark of an unshared destination (R140, R141) -/

/-- A thread with the mark of uncorrectable data that an operation leaves on its unshared destination. -/
def Thread.markedFor (t : Thread) (o : Op) : Thread :=
  match o.dst with
  | some (.s f) => if isShared f || f = 0 then t else { t with xde := setMark t.xde (low5 f) true }
  | some (.v f) => if isShared f then t else { t with vde := setMark t.vde (low5 f) true }
  | _ => t

/-- Either the mark is set, or there is none to set. -/
theorem State.markError_cases (s : State) (o : Op) :
    s.markError o = s.setThread o.thr ((s.thread o.thr).markedFor o) ∨ s.markError o = s ∧ (s.thread o.thr).markedFor o = s.thread o.thr := by
  unfold State.markError Thread.markedFor
  cases o.dst with
  | none => exact .inr ⟨rfl, rfl⟩
  | some d =>
    cases d with
    | s f =>
      by_cases h : (isShared f || f = 0) = true
      · exact .inr ⟨if_pos h, if_pos h⟩
      · exact .inl ((if_neg h).trans (congrArg (s.setThread o.thr) (if_neg h).symm))
    | v f =>
      by_cases h : isShared f = true
      · exact .inr ⟨if_pos h, if_pos h⟩
      · exact .inl ((if_neg h).trans (congrArg (s.setThread o.thr) (if_neg h).symm))
    | p f => exact .inr ⟨rfl, rfl⟩
    | q f => exact .inr ⟨rfl, rfl⟩

theorem State.thread_markError (s : State) (o : Op) (j : Nat) : (s.markError o).thread j = if j = o.thr then (s.thread o.thr).markedFor o else s.thread j := by
  rcases s.markError_cases o with h | ⟨h, hm⟩
  · rw [h]
    exact AMap.get_put _ s.threads o.thr j _
  · rw [h, hm]
    split
    · next hj => rw [hj]
    · rfl

theorem State.markError_eq (s : State) (o : Op) : s.markError o = { s with threads := (s.markError o).threads } := by
  rcases s.markError_cases o with h | ⟨h, -⟩ <;> rw [h]
  rfl

theorem Thread.regs_markedFor (t : Thread) (o : Op) : (t.markedFor o).regs = t.regs := by
  unfold Thread.markedFor
  cases o.dst with
  | none => rfl
  | some d => cases d <;> dsimp only <;> split <;> rfl

theorem Thread.xde_markedFor {t : Thread} {o : Op} {f : SReg} (h : o.dst = some (.s f)) (hs : isShared f = false) (h0 : f ≠ 0) : (t.markedFor o).xde = setMark t.xde (low5 f) true := by
  rw [Thread.markedFor, h]
  exact congrArg Thread.xde (if_neg (by simpa [hs] using h0))

theorem Thread.vde_markedFor {t : Thread} {o : Op} {f : VRegF} (h : o.dst = some (.v f)) (hs : isShared f = false) : (t.markedFor o).vde = setMark t.vde (low5 f) true := by
  simp [Thread.markedFor, h, hs]

/-! ## Replies and copy tokens (R98, R305, R375) -/

theorem State.mergeGroup_alone {s : State} {o : Op} (h : s.mergeKey o = none) : s.mergeGroup o = [o] := by
  have : s.mates o = [] := if_pos (by rw [h]; rfl)
  rw [State.mergeGroup, this]
  rfl

theorem State.mergeKey_reply {s : State} {o : Op} (h : o.kind = .reply) : s.mergeKey o = none := by
  unfold State.mergeKey
  split
  · split
    · next heq => exact absurd (h.symm.trans heq) nofun
    · next heq => exact absurd (h.symm.trans heq) nofun
    · rfl
  · rfl

theorem exec_loadReturn_reply {s : State} {o : Op} (hfind : s.findOp o.id = some o) (hk : o.kind = .reply) (hp : s.performable o = true) (hfar : o.isFar = false) :
    exec (.loadReturn o.id none) s = .next (s.performOp o) := by
  have hreturn : s.returnOp o none = some (s.performOp o) := by
    rw [State.returnOp, hfar, hp, s.mergeGroup_alone (State.mergeKey_reply hk)]
    simp only [hk]
    rfl
  have hending : ¬o.kind.ending ≠ 0 := by rw [hk]; decide
  show s.endOp o.id 0 none "LOAD_RETURN" = _
  rw [State.endOp, hfind]
  simp only [hending, if_false, hreturn]
  rfl

theorem performOp_reply {s : State} {o : Op} (hk : o.kind = .reply) : s.performOp o =
    if (s.thread o.thr).wait = some (.message o.id) then (s.dropOp o.id).wake o.thr 0
    else if o.failed then (s.released o).markError o else s.deliverX o o.data 0 := by
  simp only [State.performOp, hk, beq_iff_eq]
  rfl

theorem regs_released (s : State) (o : Op) (k : Nat) : ((s.released o).thread k).regs = (s.thread k).regs := by
  rw [s.thread_released]
  split
  · next h => rw [h]; rfl
  · rfl

theorem regs_markError (s : State) (o : Op) (k : Nat) : ((s.markError o).thread k).regs = (s.thread k).regs := by
  rw [s.thread_markError]
  split
  · next h => rw [h, Thread.regs_markedFor]
  · rfl

theorem replyReaches {s : State} {o : Op} (hfind : s.findOp o.id = some o) (hk : o.kind = .reply) (hp : s.performable o = true) (hfar : o.isFar = false) :
    ((s.thread o.thr).wait ≠ some (.message o.id) → o.failed = false → ∃ t, exec (.loadReturn o.id none) s = .next t ∧ Delivered s t o o.data 0) ∧
    ((s.thread o.thr).wait ≠ some (.message o.id) → o.failed = true → ∃ t, exec (.loadReturn o.id none) s = .next t ∧
      t.ops = s.ops.filter (fun x => x.id != o.id) ∧
      (∀ f, o.dst = some (.s f) → isShared f = false → f ≠ 0 → (t.thread o.thr).xde = setMark (s.thread o.thr).xde (low5 f) true) ∧
      (∀ k, (t.thread k).regs = (s.thread k).regs) ∧ SameBytes s t) ∧
    ((s.thread o.thr).wait = some (.message o.id) → exec (.loadReturn o.id none) s = .next
      (({ s with ops := s.ops.filter (fun x => x.id != o.id) } : State).setThread o.thr (woken (s.thread o.thr) 0))) := by
  rw [exec_loadReturn_reply hfind hk hp hfar, performOp_reply hk]
  refine ⟨fun hw hf => ?_, fun hw hf => ?_, fun hw => ?_⟩
  · rw [if_neg hw, hf, if_neg Bool.false_ne_true]
    exact ⟨_, rfl, delivered_deliverX ..⟩
  · rw [if_neg hw, hf, if_pos rfl]
    refine ⟨_, rfl, ?_, fun f hd hs h0 => ?_, fun k => ?_, ?_⟩
    · rw [State.markError_eq, s.released_eq]
    · rw [State.thread_markError, if_pos rfl, Thread.xde_markedFor hd hs h0, s.me_released]
      rfl
    · rw [regs_markError, regs_released]
    · rw [State.markError_eq, s.released_eq]
      exact fun a => ⟨rfl, rfl⟩
  · rw [if_pos hw]
    rfl

theorem tokenReaches {s : State} {o : Op} (hfind : s.findOp o.id = some o) {ec num : Nat} (hk : o.kind = .token ec num) (hn : num ≤ (s.eng ec).completed) (hinfo : o.info ≠ 1) :
    ∃ t, exec (.copyToken o.id) s = .next t ∧ Delivered s t o (wrap (num : Int)) 0 := by
  have hready : s.tokenReady o = true := by
    simp only [State.tokenReady, hk, decide_eq_true_eq]
    exact hn
  refine ⟨s.deliverX o (BitVec.ofNat 64 num) 0, ?_, ?_⟩
  · show execCopyToken o.id s = _
    rw [execCopyToken, hfind]
    simp only [hk, hready, hinfo, Bool.not_true, Bool.false_eq_true, if_false]
    rfl
  · rw [wrap_natCast]
    exact delivered_deliverX ..

/-! ## A far access that is late (R402) -/

/-- A report changes what the host sees of the device, and nothing else (R415, R416). -/
def OnlyReported (s t : State) : Prop :=
  t = { s with hostMem := t.hostMem, writeIdx := t.writeIdx, heldEvents := t.heldEvents, droppedEvents := t.droppedEvents, out := t.out }

theorem onlyReported_post (s : State) (m : BitVec 512) : OnlyReported s (s.post m) := by
  unfold State.post
  split <;> rfl

theorem onlyReported_errorRecord (s : State) (cls unit pa ctx : Nat) : OnlyReported s (s.errorRecord cls unit pa ctx) := by
  unfold State.errorRecord
  dsimp only
  split
  · rfl
  · exact onlyReported_post ..

theorem onlyReported_reportData (s : State) (ctx va : Nat) : OnlyReported s (s.reportData ctx va) := by
  unfold State.reportData
  split
  · exact onlyReported_errorRecord ..
  · split
    · exact onlyReported_errorRecord ..
    · split
      · exact onlyReported_post ..
      · exact onlyReported_errorRecord ..
      · exact onlyReported_errorRecord ..

theorem State.dropPush_eq (s : State) (l : List Nat) : s.dropPush l = { s with ops := s.ops.filter (fun x => !l.contains x.id) } := by
  unfold State.dropPush
  induction l generalizing s with
  | nil => simp
  | cons n l ih =>
    rw [List.foldl_cons, ih, State.dropOp, List.filter_filter]
    congr 2
    funext x
    rw [List.contains_cons, Bool.not_or, Bool.and_comm]
    rfl

/-- The parts of the vector load that an operation belongs to, marked as failed. -/
def Op.failedWith (o x : Op) : Op := if x.thr = o.thr && x.issued = o.issued && x.kind == .vload && o.kind == .vload then { x with failed := true } else x

theorem Op.id_failedWith (o x : Op) : (o.failedWith x).id = x.id := by
  unfold Op.failedWith
  split <;> rfl

theorem State.dataFail_eq (s : State) (o : Op) (va : Nat) :
    s.dataFail o va = ((((s.released o).reportData (s.thread o.thr).ctx va).dropPush o.push).mapOps o.failedWith).markError o := rfl

theorem State.thread_dataFail (s : State) (o : Op) (va j : Nat) :
    (s.dataFail o va).thread j = if j = o.thr then ((s.thread o.thr).unparked o.id).markedFor o else s.thread j := by
  have hreport (k : Nat) : ((s.released o).reportData (s.thread o.thr).ctx va).thread k = if k = o.thr then (s.thread o.thr).unparked o.id else s.thread k := by
    rw [onlyReported_reportData (s.released o)]
    exact s.thread_released o k
  rw [State.dataFail_eq, State.dropPush_eq, State.thread_markError, State.thread_mapOps, State.thread_mapOps]
  split
  · exact congrArg (Thread.markedFor · o) ((hreport o.thr).trans (if_pos rfl))
  · next h => exact (hreport j).trans (if_neg h)

theorem State.ops_dataFail (s : State) (o : Op) (va : Nat) : (s.dataFail o va).ops =
    ((s.ops.filter (fun x => x.id != o.id)).filter (fun x => !o.push.contains x.id)).map o.failedWith := by
  rw [State.dataFail_eq, State.dropPush_eq, State.markError_eq, onlyReported_reportData (s.released o), s.released_eq]
  rfl

theorem State.mem_dataFail (s : State) (o : Op) (va : Nat) : (s.dataFail o va).mem = s.mem := by
  rw [State.dataFail_eq, State.dropPush_eq, State.markError_eq, onlyReported_reportData (s.released o), s.released_eq]
  rfl

theorem farFail_access {o : Op} (h : o.kind.isAccess = true) (s : State) : s.farFail o = s.dataFail o o.va := by
  unfold State.farFail
  split
  case h_5 => rfl
  all_goals (next heq => rw [heq] at h; exact absurd h Bool.false_ne_true)

theorem exec_farAccessTimeout {s : State} {o : Op} (hfind : s.findOp o.id = some o) (hfar : o.isFar = true) (hacc : o.kind.isAccess = true) (hsent : o.unsent = none)
    (hlate : s.upLinks = [] ∨ o.deadline ≤ s.tick) : exec (.farAccessTimeout o.id) s = .next (s.dataFail o o.va) := by
  have hl : s.farLate o = true := by simpa [State.farLate, hfar, hsent] using hlate
  show execFarAccessTimeout o.id s = _
  rw [execFarAccessTimeout, hfind]
  simp only [hl, if_true]
  rw [farFail_access hacc]
  rfl

theorem farAccessEnds {s : State} {o : Op} (hfind : s.findOp o.id = some o) (hfar : o.isFar = true) (hacc : o.kind.isAccess = true) (hsent : o.unsent = none)
    (hlate : s.upLinks = [] ∨ o.deadline ≤ s.tick) : ∃ t, exec (.farAccessTimeout o.id) s = .next t ∧ (∀ x ∈ t.ops, x.id ≠ o.id) ∧
      (∀ f, o.dst = some (.s f) → isShared f = false → f ≠ 0 → (t.thread o.thr).xde = setMark (s.thread o.thr).xde (low5 f) true) ∧
      (∀ f, o.dst = some (.v f) → isShared f = false → (t.thread o.thr).vde = setMark (s.thread o.thr).vde (low5 f) true) ∧
      (∀ k, k ≠ o.thr → t.thread k = s.thread k) ∧ t.mem = s.mem := by
  refine ⟨_, exec_farAccessTimeout hfind hfar hacc hsent hlate, fun x hx => ?_, fun f hd hs h0 => ?_, fun f hd hs => ?_, fun k hk => ?_, s.mem_dataFail o o.va⟩
  · rw [State.ops_dataFail] at hx
    obtain ⟨y, hy, rfl⟩ := List.mem_map.mp hx
    rw [Op.id_failedWith]
    simpa using (List.mem_filter.mp (List.mem_filter.mp hy).1).2
  · rw [State.thread_dataFail, if_pos rfl, Thread.xde_markedFor hd hs h0]
    rfl
  · rw [State.thread_dataFail, if_pos rfl, Thread.vde_markedFor hd hs]
    rfl
  · rw [State.thread_dataFail, if_neg hk]

end Sys2Proof.Machine
end

section
/-! Mesh operations: NRD, VNRD and VMAXX, and their time-outs (R129, R202, R203). -/

namespace Sys2Proof.Machine
open Sys2Proof.Claims

/-- An unshared vector register written. -/
def Thread.gotV (t : Thread) (f : VRegF) (v : VReg) : Thread := { t with regs := { t.regs with v := t.regs.v.set (low5 f).val v }, vde := setMark t.vde (low5 f) false }

/-- A predicate written: p0 discards. -/
def Thread.gotP (t : Thread) (p : PReg) (b : Bool) : Thread := if p = 0 then t else { t with regs := { t.regs with p := t.regs.p.set p.toNat b } }

/-- An unshared destination written, with its value or its vector. -/
def Thread.gotDst (t : Thread) (d : Option RegName) (w : Word) (v : VReg) : Thread :=
  match d with
  | some (.s f) => if f = 0 then t else t.gotX f w
  | some (.v f) => t.gotV f v
  | _ => t

theorem State.putV_unshared {s : State} {f : VRegF} (hs : isShared f = false) (k : Nat) (v : VReg) (i : Nat) : s.putV k f v i = s.setThread k ((s.thread k).gotV f v) := by
  rw [State.putV, hs]
  rfl

/-- Nothing of t but thread k differs from s, and it stands as given. -/
def OnlyThread (s : State) (k : Nat) (v : Thread) (t : State) : Prop := (∀ j, t.thread j = if j = k then v else s.thread j) ∧ t = { s with threads := t.threads }

theorem onlyThread_setThread (s : State) (k : Nat) (v : Thread) : OnlyThread s k v (s.setThread k v) := ⟨fun j => AMap.get_put _ s.threads k j v, rfl⟩

theorem onlyThread_self (s : State) (k : Nat) : OnlyThread s k (s.thread k) s := by
  refine ⟨fun j => ?_, rfl⟩
  split
  · next h => rw [h]
  · rfl

theorem OnlyThread.me {s t : State} {k : Nat} {v : Thread} (h : OnlyThread s k v t) : t.thread k = v := (h.1 k).trans (if_pos rfl)

theorem OnlyThread.other {s t : State} {k j : Nat} {v : Thread} (h : OnlyThread s k v t) (hj : j ≠ k) : t.thread j = s.thread j := (h.1 j).trans (if_neg hj)

theorem OnlyThread.trans {s t u : State} {k : Nat} {v w : Thread} (h : OnlyThread s k v t) (h' : OnlyThread t k w u) : OnlyThread s k w u := by
  refine ⟨fun j => ?_, ?_⟩
  · rw [h'.1]
    split
    · rfl
    · next hj => exact h.other hj
  · rw [h'.2, h.2]

theorem onlyThread_putP (s : State) (k : Nat) (p : PReg) (b : Bool) : OnlyThread s k ((s.thread k).gotP p b) (s.putP k p b) := by
  unfold State.putP Thread.gotP
  split
  · exact onlyThread_self ..
  · exact onlyThread_setThread ..

/-- The destination of an operation that ends, as finishOp writes it. -/
def State.putDst (s : State) (o : Op) (w : Word) (v : VReg) : State :=
  match o.dst with
  | some (.s f) => s.putX o.thr f w o.issued
  | some (.v f) => s.putV o.thr f v o.issued
  | _ => s

theorem onlyThread_putDst {s : State} {o : Op} (hx : ∀ f, o.dst = some (.s f) → isShared f = false) (hv : ∀ f, o.dst = some (.v f) → isShared f = false) (w : Word) (v : VReg) :
    OnlyThread s o.thr ((s.thread o.thr).gotDst o.dst w v) (s.putDst o w v) := by
  unfold State.putDst Thread.gotDst
  cases h : o.dst with
  | none => exact onlyThread_self ..
  | some d =>
    cases d with
    | s f =>
      by_cases h0 : f = 0
      · subst h0
        exact State.putX_zero s o.thr w o.issued ▸ onlyThread_self ..
      · dsimp only
        rw [State.putX_unshared (hx f h) h0, if_neg h0]
        exact onlyThread_setThread ..
    | v f =>
      dsimp only
      rw [State.putV_unshared (hv f h)]
      exact onlyThread_setThread ..
    | p f => exact onlyThread_self ..
    | q f => exact onlyThread_self ..

/-- A thread that a mesh operation has ended for. -/
def Thread.meshed (t : Thread) (o : Op) (w : Word) (v : VReg) (ok : Bool) : Thread := (t.gotDst o.dst w v).gotP o.pred ok

theorem finishOp_eq {s : State} {o : Op} (h : PrivateDst s o) (w : Word) (v : VReg) (ok : Bool) : s.finishOp o w v ok = ((s.dropOp o.id).putDst o w v).putP o.thr o.pred ok := by
  obtain ⟨hlife, hpush, -, -⟩ := h
  rw [State.finishOp, hpush]
  exact if_neg (not_not.mpr hlife)

theorem onlyThread_finishOp {s : State} {o : Op} (h : PrivateDst s o) (w : Word) (v : VReg) (ok : Bool) :
    OnlyThread (s.dropOp o.id) o.thr ((s.thread o.thr).meshed o w v ok) (s.finishOp o w v ok) := by
  rw [finishOp_eq h]
  obtain ⟨-, -, hx, hv⟩ := h
  have hdst := onlyThread_putDst (s := s.dropOp o.id) hx hv w v
  have hpred := onlyThread_putP ((s.dropOp o.id).putDst o w v) o.thr o.pred ok
  rw [hdst.me] at hpred
  exact hdst.trans hpred

theorem Thread.life_gotP (t : Thread) (p : PReg) (b : Bool) : (t.gotP p b).life = t.life := by
  unfold Thread.gotP
  split <;> rfl

theorem Thread.life_gotDst (t : Thread) (d : Option RegName) (w : Word) (v : VReg) : (t.gotDst d w v).life = t.life := by
  unfold Thread.gotDst
  split
  · split <;> rfl
  · rfl
  · rfl

theorem Thread.life_meshed (t : Thread) (o : Op) (w : Word) (v : VReg) (ok : Bool) : (t.meshed o w v ok).life = t.life :=
  (Thread.life_gotP ..).trans (Thread.life_gotDst ..)

theorem Thread.x_gotP (t : Thread) (p : PReg) (b : Bool) : (t.gotP p b).regs.x = t.regs.x := by
  unfold Thread.gotP
  split <;> rfl

theorem Thread.v_gotP (t : Thread) (p : PReg) (b : Bool) : (t.gotP p b).regs.v = t.regs.v := by
  unfold Thread.gotP
  split <;> rfl

theorem Thread.p_gotP (t : Thread) {p : PReg} (hp : p ≠ 0) (b : Bool) : (t.gotP p b).regs.p[p.toFin] = b := by
  rw [Thread.gotP, if_neg hp]
  exact Vector.getElem_set_self _

theorem xOf_meshed {t : State} {o : Op} {f : SReg} {a : Thread} {w : Word} {v : VReg} {ok : Bool} (hd : o.dst = some (.s f)) (hs : isShared f = false) (ht : t.thread o.thr = a.meshed o w v ok) :
    t.xOf o.thr f = if f = 0 then 0 else w := by
  rw [State.xOf, ht, hs, if_neg Bool.false_ne_true]
  split
  · rfl
  · next h0 =>
    rw [Thread.meshed, Thread.x_gotP, hd]
    simp only [Thread.gotDst, if_neg h0]
    exact (vget_set ..).trans (if_pos rfl)

theorem vOf_meshed {t : State} {o : Op} {f : VRegF} {a : Thread} {w : Word} {v : VReg} {ok : Bool} (hd : o.dst = some (.v f)) (hs : isShared f = false) (ht : t.thread o.thr = a.meshed o w v ok) :
    t.vOf o.thr f = v := by
  rw [State.vOf, ht, hs, if_neg Bool.false_ne_true, Thread.meshed, Thread.v_gotP, hd]
  exact (vget_set ..).trans (if_pos rfl)

theorem meshEnd_of_meshed {s t : State} {o : Op} (h : PrivateDst s o) {a : Thread} {w : Word} {v : VReg} {ok : Bool} (hops : t.ops = s.ops.filter (fun x => x.id != o.id))
    (hme : t.thread o.thr = a.meshed o w v ok) (hother : ∀ k, k ≠ o.thr → t.thread k = s.thread k) (hbytes : SameBytes s t) (hccs : t.ccs = s.ccs) : MeshEnd s t o w v ok := by
  obtain ⟨-, -, hx, hv⟩ := h
  exact ⟨hops, fun f hd => xOf_meshed hd (hx f hd) hme, fun f hd => vOf_meshed hd (hv f hd) hme, fun hp => by rw [hme]; exact Thread.p_gotP _ hp ok, hother, hbytes, hccs⟩

theorem meshEnd_finishOp {s : State} {o : Op} (h : PrivateDst s o) (w : Word) (v : VReg) (ok : Bool) : MeshEnd s (s.finishOp o w v ok) o w v ok := by
  have honly := onlyThread_finishOp h w v ok
  refine meshEnd_of_meshed h ?_ honly.me (fun k hk => honly.other hk) ?_ ?_ <;> rw [honly.2]
  · rfl
  · exact fun a => ⟨rfl, rfl⟩
  · rfl

/-! ## NRD and VNRD -/

theorem exec_loadReturn_near {s : State} {o : Op} (hfind : s.findOp o.id = some o) {dir : Dir} {n : BitVec 5} (hk : o.kind = .nrd dir n ∨ o.kind = .vnrd dir n)
    (hp : s.performable o = true) (hfar : o.isFar = false) (hans : s.answers (s.thread o.thr).kid = true) : exec (.loadReturn o.id none) s = .next (s.performNear o) := by
  have hreturn : s.returnOp o none = some (s.performNear o) := by
    rw [State.returnOp, hfar, hp]
    rcases hk with hk | hk <;> simp [hk, hans, State.performOp]
  have hending : ¬o.kind.ending ≠ 0 := by rcases hk with hk | hk <;> rw [hk] <;> simp [OpKind.ending]
  show s.endOp o.id 0 none "LOAD_RETURN" = _
  rw [State.endOp, hfind]
  simp only [hending, if_false, hreturn]
  rfl

theorem exec_neighbourTimeout {s : State} {o : Op} (hfind : s.findOp o.id = some o) {dir : Dir} {n : BitVec 5} (hk : o.kind = .nrd dir n ∨ o.kind = .vnrd dir n)
    (hlate : o.deadline ≤ s.tick) (hans : s.answers (s.thread o.thr).kid = false) : exec (.neighbourTimeout o.id) s = .next (s.finishOp o 0 0 false) := by
  have hl : s.nearLate o = true := by rcases hk with hk | hk <;> simp [State.nearLate, hk, hlate, hans]
  show execNeighbourTimeout o.id s = _
  rw [execNeighbourTimeout, hfind]
  simp only [hl, if_true]
  rfl

theorem answers_of_running {s : State} {kid : Nat} (h : (s.ctx (s.kernel kid).ctx).state = ctxRunning) : s.answers kid = true := decide_eq_true h

theorem answers_of_not_running {s : State} {kid : Nat} (h : (s.ctx (s.kernel kid).ctx).state ≠ ctxRunning) : s.answers kid = false := decide_eq_false h

theorem CoreCtx.getElem_hAt (s : State) (c : Nat) (n : Fin 32) : ((s.coreCtx c).hAt s.cycle)[n] = hBefore s c n := by
  rw [CoreCtx.hAt_eq_hBefore]
  exact Vector.getElem_ofFn _

theorem CoreCtx.getElem_wAt (s : State) (c : Nat) (n : Fin 32) : ((s.coreCtx c).wAt s.cycle)[n] = wBefore s c n := by
  rw [CoreCtx.wAt_eq_wBefore]
  exact Vector.getElem_ofFn _

theorem performNear_nrd {s : State} {o : Op} {dir : Dir} {n : BitVec 5} (hk : o.kind = .nrd dir n) :
    s.performNear o = s.finishOp o (hBefore s (ccKey (s.thread o.thr).kid ((s.kernel (s.thread o.thr).kid).neighbour dir (s.thread o.thr).core)) n.toFin) 0 true := by
  simp only [State.performNear, hk]
  exact congrArg (fun w => s.finishOp o w 0 true) (CoreCtx.getElem_hAt ..)

theorem performNear_vnrd {s : State} {o : Op} {dir : Dir} {n : BitVec 5} (hk : o.kind = .vnrd dir n) :
    s.performNear o = s.finishOp o 0 (wBefore s (ccKey (s.thread o.thr).kid ((s.kernel (s.thread o.thr).kid).neighbour dir (s.thread o.thr).core)) n.toFin) true := by
  simp only [State.performNear, hk]
  exact congrArg (fun v => s.finishOp o 0 v true) (CoreCtx.getElem_wAt ..)

/-! ## VMAXX -/

theorem privateDst_finishOp {s : State} {o : Op} (h : PrivateDst s o) (w : Word) (v : VReg) (ok : Bool) : PrivateDst (s.finishOp o w v ok) o := by
  obtain ⟨hlife, hrest⟩ := h
  refine ⟨?_, hrest⟩
  rw [(onlyThread_finishOp ⟨hlife, hrest⟩ w v ok).me, Thread.life_meshed, hlife]

/-- An operation that stands in flight more than once ends as if it stood there once. -/
theorem meshEnd_again {s t : State} {o : Op} {w : Word} {v : VReg} {ok : Bool} (h : MeshEnd s t o w v ok) (hp : PrivateDst t o) : MeshEnd s (t.finishOp o w v ok) o w v ok := by
  have h' := meshEnd_finishOp hp w v ok
  have hbytes : SameBytes s (t.finishOp o w v ok) := fun a => ⟨(h'.bytes a).1.trans (h.bytes a).1, (h'.bytes a).2.trans (h.bytes a).2⟩
  refine ⟨?_, h'.scalar, h'.vector, h'.pred, fun k hk => (h'.threads k hk).trans (h.threads k hk), hbytes, h'.cores.trans h.cores⟩
  rw [h'.gone, h.gone, List.filter_filter]
  simp only [Bool.and_self]

theorem meshEnd_foldl {s t : State} {o : Op} {w : Word} {ok : Bool} (value : Op → VReg) (h : MeshEnd s t o w (value o) ok) (hp : PrivateDst t o) (l : List Op) (hl : ∀ x ∈ l, x = o) :
    MeshEnd s (l.foldl (fun s x => s.finishOp x w (value x) ok) t) o w (value o) ok := by
  induction l generalizing t with
  | nil => exact h
  | cons x l ih =>
    obtain rfl : x = o := hl x List.mem_cons_self
    exact ih (meshEnd_again h hp) (privateDst_finishOp hp w _ ok) fun y hy => hl y (List.mem_cons_of_mem _ hy)

theorem meshEnd_vmaxxEnd {s t : State} {o : Op} {w : Word} {v : VReg} {ok : Bool} (h : MeshEnd s t o w v ok) (inst : Nat) : MeshEnd s (t.vmaxxEnd inst) o w v ok := by
  unfold State.vmaxxEnd
  split
  · exact ⟨h.gone, h.scalar, h.vector, h.pred, h.threads, h.bytes, h.cores⟩
  · exact h

theorem vmaxxReach {s : State} {o : Op} (hfind : s.findOp o.id = some o) {inst : Nat} (hk : o.kind = .vmaxx inst) (hpriv : PrivateDst s o) :
    let vs := s.vmaxxVals inst
    let k := s.kernel (instKid inst)
    let all := (if instCol inst then k.nrow else k.ncol) ≤ vs.length
    (all → (s.ctx k.ctx).state = ctxRunning → o.due ≤ s.cycle → (∀ x ∈ s.ops, x.kind = .vmaxx inst → x = o) →
      ∃ t, exec (.vmaxxResult inst) s = .next t ∧ MeshEnd s t o 0 (maxOf (decide (o.data = 1)) vs) true) ∧
    (o.deadline ≤ s.tick → ¬(all ∧ (s.ctx k.ctx).state = ctxRunning) →
      ∃ t, exec (.vmaxxTimeout o.id) s = .next t ∧ MeshEnd s t o 0 (maxOf (decide (o.data = 1)) vs) false) := by
  intro vs k all
  have hfull : s.vmaxxFull inst = decide all := rfl
  have hans : s.answers (instKid inst) = decide ((s.ctx k.ctx).state = ctxRunning) := rfl
  refine ⟨fun hall hrun hdue huniq => ?_, fun hlate hmissing => ?_⟩
  · have hready : s.vmaxxReady inst = s.ops.filter (fun x => x.kind == .vmaxx inst && decide (x.due ≤ s.cycle)) :=
      if_pos (by rw [hfull, hans, decide_eq_true hall, decide_eq_true hrun]; rfl)
    have hsame : ∀ x ∈ s.vmaxxReady inst, x = o := by
      intro x hx
      rw [hready, List.mem_filter, Bool.and_eq_true, beq_iff_eq] at hx
      exact huniq x hx.1 hx.2.1
    have ho : o ∈ s.vmaxxReady inst := by
      rw [hready, List.mem_filter, Bool.and_eq_true, beq_iff_eq]
      exact ⟨List.mem_of_find?_eq_some hfind, hk, decide_eq_true hdue⟩
    have hexec : exec (.vmaxxResult inst) s = .next (((s.vmaxxReady inst).foldl (fun s x => s.finishOp x 0 (maxOf (decide (x.data = 1)) vs) true) s).vmaxxEnd inst) := by
      show execVmaxxResult inst s = _
      unfold execVmaxxResult
      split
      next h => rw [h] at ho; exact absurd ho List.not_mem_nil
      next => rfl
    refine ⟨_, hexec, meshEnd_vmaxxEnd ?_ inst⟩
    match hos : s.vmaxxReady inst with
    | [] => rw [hos] at ho; exact absurd ho List.not_mem_nil
    | x :: rest =>
      rw [hos] at hsame
      obtain rfl : x = o := hsame x List.mem_cons_self
      have hrest := fun y hy => hsame y (List.mem_cons_of_mem _ hy)
      exact meshEnd_foldl (fun x => maxOf (decide (x.data = 1)) vs) (meshEnd_finishOp hpriv ..) (privateDst_finishOp hpriv ..) rest hrest
  · have hl : s.vmaxxLate o = true := by
      rw [State.vmaxxLate, hk]
      simp only [hfull, hans, hlate, decide_true, Bool.true_and, ← Bool.decide_and, decide_eq_false hmissing, Bool.not_false]
    refine ⟨_, ?_, meshEnd_vmaxxEnd (meshEnd_finishOp hpriv 0 _ false) inst⟩
    show execVmaxxTimeout o.id s = _
    rw [execVmaxxTimeout, hfind]
    simp only [hk, hl, if_true]
    rfl

end Sys2Proof.Machine
end

section
/-! Replies that arrive, and translations that are confirmed or recorded as faults (R138 to R140). -/

namespace Sys2Proof.Machine
open Sys2Proof.Claims

theorem repliesReach : RepliesReach := by
  intro s o hfind
  refine ⟨fun hk hp hfar => replyReaches hfind hk hp hfar, fun ec num hk hn hinfo => tokenReaches hfind hk hn hinfo, fun dir n hk hpriv => ⟨fun hp hfar hrun => ?_, fun hlate hrun => ?_⟩,
    fun dir n hk hpriv => ⟨fun hp hfar hrun => ?_, fun hlate hrun => ?_⟩, fun inst hk hpriv => vmaxxReach hfind hk hpriv,
    fun hfar hacc hsent hlate => farAccessEnds hfind hfar hacc hsent hlate⟩
  · rw [exec_loadReturn_near hfind (.inl hk) hp hfar (answers_of_running hrun), performNear_nrd hk]
    exact ⟨_, rfl, meshEnd_finishOp hpriv ..⟩
  · exact ⟨_, exec_neighbourTimeout hfind (.inl hk) hlate (answers_of_not_running hrun), meshEnd_finishOp hpriv ..⟩
  · rw [exec_loadReturn_near hfind (.inr hk) hp hfar (answers_of_running hrun), performNear_vnrd hk]
    exact ⟨_, rfl, meshEnd_finishOp hpriv ..⟩
  · exact ⟨_, exec_neighbourTimeout hfind (.inr hk) hlate (answers_of_not_running hrun), meshEnd_finishOp hpriv ..⟩

/-! ## Translations (R138 to R140) -/

/-- The state after a translation is confirmed: the access performs from the drawn cycle on. -/
def State.confirmed (s : State) (id : Nat) : State :=
  { s with ops := s.ops.map (fun x => if x.id = id then { x with conf := true, due := s.soon.1 } else x), drawn := s.drawn + 1 }

theorem exec_translationConfirm_lm {s : State} {o : Op} (hfind : s.findOp o.id = some o) (hc : s.confirmable o = true) {cc off : Nat} (hp : o.place = .lm cc off) :
    exec (.translationConfirm o.id) s = .next (s.confirmed o.id) := by
  show execTranslationConfirm o.id s = _
  rw [execTranslationConfirm, hfind]
  simp only [hc, hp, Bool.not_true, Bool.false_eq_true, if_false]
  rfl

theorem exec_translationConfirm_page {s : State} {o : Op} (hfind : s.findOp o.id = some o) (hc : s.confirmable o = true) {va : Nat} (hp : o.place = .glob va)
    (hloc : s.locate va ≠ .absent) (hframe : o.runtime = true ∨ (s.thread o.thr).frameHas o.va = false) : exec (.translationConfirm o.id) s = .next (s.confirmed o.id) := by
  have hf : (!o.runtime && (s.thread o.thr).frameHas o.va) = false := by rcases hframe with h | h <;> simp [h]
  show execTranslationConfirm o.id s = _
  rw [execTranslationConfirm, hfind]
  simp only [hc, hp, hf, Bool.not_true, Bool.false_eq_true, if_false]
  cases hl : s.locate va with
  | absent => exact absurd hl hloc
  | bad => rfl
  | at_ loc pa => rfl

theorem exec_translationConfirm_fault {s : State} {o : Op} (hfind : s.findOp o.id = some o) (hc : s.confirmable o = true) {va : Nat} (hp : o.place = .glob va)
    (hloc : s.locate va = .absent) (hmode : o.runtime = false) (hfar : o.far = false) (hwins : (s.coreCtx o.cc).wins = []) :
    exec (.translationConfirm o.id) s = .next (s.recordFault o va) := by
  have hstash : (s.stashLine o.cc va).isSome = false := by rw [State.stashLine, CoreCtx.stashOf, hwins]; rfl
  show execTranslationConfirm o.id s = _
  rw [execTranslationConfirm, hfind]
  simp only [hc, hp, hloc, hmode, hfar, hstash, Bool.not_true, Bool.not_false, Bool.true_and, Bool.or_self, Bool.false_eq_true, if_false]
  split <;> rfl

theorem frameHas_eq_false {t : Thread} {va : Nat} (h : ∀ r ∈ t.frame, r.va.toNat / 128 ≠ va / 128) : t.frameHas va = false := by
  rw [Thread.frameHas, List.any_eq_false]
  exact fun r hr => by simpa using h r hr

/-- A thread with the record of an access that faulted. -/
def Thread.faulted (t : Thread) (o : Op) : Thread :=
  { t with
    owed := t.owed ++ [o.id]
    frame := t.frame ++ [{ va := wrap (o.va : Int), data := o.data, data2 := o.data2, info := o.info }]
    xpf := (match o.dst with | some (.s f) => if isShared f || f = 0 then t.xpf else setMark t.xpf (low5 f) true | _ => t.xpf) }

/-- A later access of the thread to a line of one that faulted, to be confirmed anew (R138). -/
def Op.anew (o x : Op) : Op := if x.thr = o.thr ∧ o.id < x.id ∧ (∃ l ∈ x.lines, l ∈ o.lines) then { x with conf := false } else x

theorem anew_eq (o x : Op) : (if x.thr = o.thr && decide (o.id < x.id) && x.lines.any (fun l => o.lines.contains l) then { x with conf := false } else x) = o.anew x := by
  unfold Op.anew
  simp only [Bool.and_eq_true, decide_eq_true_eq, List.any_eq_true, List.contains_iff_mem, and_assoc]

theorem recordFault_eq {s : State} {o : Op} {va : Nat} (hlife : (s.thread o.thr).life = .resident) : ∃ l,
    s.recordFault o va = ({ s with ops := (s.ops.filter (fun x => x.id != o.id)).map o.anew, faultReqs := l } : State).setThread o.thr ((s.thread o.thr).faulted o) ∧
      (∀ q ∈ s.faultReqs, q ∈ l) ∧ (va / 65536 * 65536, o.cc) ∈ l := by
  obtain ⟨l, hl, hold, hnew⟩ := ((s.dropOp o.id).mapOps o.anew).faultReqs_faultReq va o.cc
  refine ⟨l, ?_, hold, hnew⟩
  rw [State.recordFault]
  simp only [anew_eq, hl]
  rw [Thread.faulted, wrap_natCast]
  exact if_neg (not_not.mpr hlife)

theorem translationConfirmed : TranslationConfirmed := by
  intro s o hfind hc
  refine ⟨fun hp => ⟨s.soon.1, by simp only [State.soon]; omega, ?_⟩, fun va hp hloc hmode hfar hwins hlife => ?_⟩
  · rcases hp with ⟨cc, off, hp⟩ | ⟨va, hp, hloc, hframe⟩
    · exact exec_translationConfirm_lm hfind hc hp
    · exact exec_translationConfirm_page hfind hc hp hloc (hframe.imp id frameHas_eq_false)
  · obtain ⟨l, hrec, hold, hnew⟩ := recordFault_eq (o := o) (va := va) hlife
    rw [exec_translationConfirm_fault hfind hc hp hloc hmode hfar hwins, hrec]
    exact ⟨_, rfl, rfl, hnew, hold, State.thread_setThread_same .., fun k hk => State.thread_setThread_ne _ _ _ _ hk, rfl⟩

/-- Settles O52: each event by the state in which the operation it names ends. -/
theorem repliesArrive : Obligations.RepliesArrive := ⟨translationConfirmed, repliesReach⟩

end Sys2Proof.Machine
end

section
/-! Bytes that the device writes leave every thread alone, but for its reservation (R149, R274). -/

namespace Sys2Proof.Machine
open Sys2Proof.Claims

/-- The threads of t are those of s, but for the reservations that a write takes away (R149). -/
def SameThreads (s t : State) : Prop := ∀ k, { t.thread k with resv := none } = { s.thread k with resv := none }

@[simp] theorem SameThreads.refl (s : State) : SameThreads s s := fun _ => rfl

theorem SameThreads.thread {s t : State} (h : SameThreads s t) (k : Nat) : t.thread k = { s.thread k with resv := (t.thread k).resv } :=
  congrArg (fun x : Thread => { x with resv := (t.thread k).resv }) (h k)

/-- A thread that a write to granule key has taken the reservation from, if it held that granule. -/
def Thread.without (t : Thread) (key : Nat) : Thread := if t.resv == some key then { t with resv := none } else t

theorem Thread.without_resv (t : Thread) (key : Nat) : { t.without key with resv := none } = { t with resv := none } := by
  unfold Thread.without
  split <;> rfl

theorem State.threads_loseResv (s : State) (key : Nat) :
    (s.loseResv key).threads = if s.threads.any (fun e => e.2.resv == some key) then s.threads.mapV (fun _ t => t.without key) else s.threads := by
  unfold State.loseResv
  dsimp only
  rw [apply_ite State.threads]
  split <;> rfl

section
variable (s t : State)

@[simp] theorem sameThreads_ite {c : Prop} [Decidable c] (a b : State) : SameThreads s (if c then a else b) ↔ if c then SameThreads s a else SameThreads s b := by split <;> rfl

theorem sameThreads_foldl {α : Type} {f : State → α → State} (h : ∀ t x, SameThreads s (f t x) ↔ SameThreads s t) (l : List α) : SameThreads s (l.foldl f t) ↔ SameThreads s t := by
  induction l generalizing t with
  | nil => rfl
  | cons x l ih => exact (ih _).trans (h t x)

/-! ## Bytes and reports -/

@[simp] theorem sameThreads_reportData (c va) : SameThreads s (t.reportData c va) ↔ SameThreads s t := by
  rw [onlyReported_reportData t]
  rfl
@[simp] theorem sameThreads_noteBad (va n) : SameThreads s (t.noteBad va n) ↔ SameThreads s t := sameThreads_foldl s t (fun t p => by simp) _
@[simp] theorem sameThreads_loseResv (key) : SameThreads s (t.loseResv key) ↔ SameThreads s t := by
  refine forall_congr' fun k => ?_
  rw [State.thread, State.threads_loseResv]
  split
  · rw [AMap.get_mapV (fun _ => rfl), Thread.without_resv]
    rfl
  · rfl
@[simp] theorem sameThreads_writePa (l p b) : SameThreads s (t.writePa l p b) ↔ SameThreads s t := by
  unfold State.writePa
  rw [sameThreads_foldl s _ (fun t x => sameThreads_loseResv s t _)]
  dsimp only
  split <;> split <;> rfl
@[simp] theorem sameThreads_writeVa (va b) : SameThreads s (t.writeVa va b) ↔ SameThreads s t := sameThreads_foldl s t (fun t p => by
  unfold State.writePiece
  split <;> simp) _

/-! ## Copies recalled (R165, R240, R274) -/

@[simp] theorem sameThreads_setCore (k v) : SameThreads s (t.setCore k v) ↔ SameThreads s t := .rfl
@[simp] theorem sameThreads_setCoreCtx (k v) : SameThreads s (t.setCoreCtx k v) ↔ SameThreads s t := .rfl
@[simp] theorem sameThreads_serve (k) : SameThreads s (t.serve k) ↔ SameThreads s t := .rfl
@[simp] theorem sameThreads_dropCopies (b k) : SameThreads s (t.dropCopies b k) ↔ SameThreads s t := by unfold State.dropCopies; dsimp only; split <;> rfl
@[simp] theorem sameThreads_l2Mark (va f) : SameThreads s (t.l2Mark va f) ↔ SameThreads s t := by
  unfold State.l2Mark
  split
  · dsimp only
    split <;> rfl
  · rfl
@[simp] theorem sameThreads_pageDue (va d) : SameThreads s (t.pageDue va d) ↔ SameThreads s t := by
  unfold State.pageDue
  split
  · split <;> rfl
  · rfl
@[simp] theorem sameThreads_markPage (va w) : SameThreads s (t.markPage va w) ↔ SameThreads s t := by
  unfold State.markPage
  split
  · dsimp only
    rw [sameThreads_ite]
    split <;> split <;> rfl
  · rfl
@[simp] theorem sameThreads_combineLine (u) : SameThreads s (t.combineLine u) ↔ SameThreads s t := by
  unfold State.combineLine
  rw [sameThreads_foldl s _ (fun t e => by simp [State.combineBytes]), sameThreads_foldl s _ (fun t e => by simp [State.combineBytes])]
@[simp] theorem sameThreads_returnU (pc k) : SameThreads s (t.returnU pc k) ↔ SameThreads s t := by
  unfold State.returnU
  split <;> simp
@[simp] theorem sameThreads_recallStash (cc n i) : SameThreads s (t.recallStash cc n i) ↔ SameThreads s t := by
  unfold State.recallStash
  split
  · rfl
  · split
    · rfl
    · simp [State.stashWrite]
@[simp] theorem sameThreads_recallStashes (k) : SameThreads s (t.recallStashes k) ↔ SameThreads s t :=
  sameThreads_foldl s t (fun t c => sameThreads_foldl s t (fun t w => sameThreads_foldl s t (fun t l => by split <;> simp) _) _) _
@[simp] theorem sameThreads_recallLine (k) : SameThreads s (t.recallLine k) ↔ SameThreads s t := by
  rw [State.recallLine, State.recallU, sameThreads_foldl s _ (fun t c => by simp), sameThreads_recallStashes]
@[simp] theorem sameThreads_settle (va n) : SameThreads s (t.settle va n) ↔ SameThreads s t := by
  unfold State.settle
  split
  · rfl
  · exact sameThreads_foldl s t (fun t l => by split <;> simp) _
@[simp] theorem sameThreads_l2Access (va l p h c k) : SameThreads s (t.l2Access va l p h c k).1 ↔ SameThreads s t := by
  have hsave (u : State) (a b) : SameThreads s { u with slices := a, glades := b } ↔ SameThreads s u := .rfl
  unfold State.l2Access
  dsimp only
  split
  · split
    · simp [hsave]
    · split <;> simp [hsave]
  · split
    · split <;> simp
    · split <;> split <;> simp [hsave, State.evictL2]
@[simp] theorem sameThreads_reachLines (va n h k) : SameThreads s (t.reachLines va n h k) ↔ SameThreads s t := sameThreads_foldl s t (fun t l => by split <;> simp) _
@[simp] theorem sameThreads_poke (va b) : SameThreads s (t.poke va b) ↔ SameThreads s t := by simp [State.poke]

end

end Sys2Proof.Machine
end

section
/-! What the time brings a thread: timers, results of fixed latency, upcalls (R96, R97, R306 to R311). -/

namespace Sys2Proof.Machine
open Sys2Proof.Claims

/-! ## Timers (R119, R130, R311) -/

theorem exec_sleepExpiry {s : State} {k n : Nat} (hlife : (s.thread k).life = .resident) (hw : (s.thread k).wait = some (.sleep n)) (hn : n ≤ s.tick) :
    exec (.sleepExpiry k) s = .next (wokenAt s k s.time) := by
  have hdue : s.sleepDue k = true := by simp [State.sleepDue, hlife, hw, hn]
  show execSleepExpiry k s = _
  rw [execSleepExpiry, if_pos hdue]
  rfl

theorem phaseAndTimeout (b : Bool) : (if b then 1 else 0 : Word) ||| 2 = if b then 3 else 2 := by cases b <;> rfl

theorem exec_bwaitTimeout {s : State} {k n : Nat} {b : BitVec 7} (hlife : (s.thread k).life = .resident) (hw : (s.thread k).wait = some (.bwait b (some n))) (hn : n ≤ s.tick) :
    exec (.bwaitTimeout k) s = .next (wokenAt s k (if (s.bar (s.thread k).cc b).phase then 3 else 2)) := by
  have hdue : s.bwaitDue k = true := by simp [State.bwaitDue, hlife, hw, hn]
  show execBwaitTimeout k s = _
  unfold execBwaitTimeout
  simp only [hw, hdue, if_true, phaseAndTimeout]
  rfl

theorem exec_timerExpiry {s : State} {k : Nat} (hlife : (s.thread k).life = .resident) (hp : (s.thread k).pend.getLsbD 8 = false) (hn : (s.thread k).tmcmp.toNat ≤ s.time.toNat) :
    exec (.timerExpiry k) s = .next (withThread s k (fun t => { t with pend := t.pend ||| 0x100, info := t.info.put 8 (s.time, 0) })) := by
  have hdue : s.timerDue k = true := by
    rw [State.timerDue, show causeTIMER = 8 from rfl, hp, hlife]
    exact decide_eq_true hn
  show execTimerExpiry k s = _
  rw [execTimerExpiry, if_pos hdue]
  rfl

/-! ## Results of fixed latency (R96, R172) -/

/-- A thread of which the results whose cycle has come are taken. -/
def Thread.taken (t : Thread) (cycle : Nat) : Thread := { t with late := t.late.filter (fun x => !decide (x.due ≤ cycle)) }

/-- A register with the bits of a mask replaced. -/
def maskedIn (mask new old : VReg) : VReg := (new &&& mask) ||| (old &&& ~~~mask)

theorem getLsbD_maskedIn (mask new old : VReg) {b : Nat} (hb : b < 512) : (maskedIn mask new old).getLsbD b = if mask.getLsbD b then new.getLsbD b else old.getLsbD b := by
  rw [maskedIn, BitVec.getLsbD_or, BitVec.getLsbD_and, BitVec.getLsbD_and, BitVec.getLsbD_not]
  cases mask.getLsbD b <;> simp [hb]

theorem State.setThread_setThread (s : State) (k : Nat) (t u : Thread) : (s.setThread k t).setThread k u = s.setThread k u :=
  congrArg (fun m => ({ s with threads := m } : State)) (AMap.put_put ..)

theorem exec_fixedLatencyResult {s : State} {k : Nat} {l : Late} {f : VRegF} (hlate : (s.thread k).late.filter (fun x => decide (x.due ≤ s.cycle)) = [l])
    (hreg : l.reg = .v f) (hs : isShared f = false) (hpush : l.push = []) :
    exec (.fixedLatencyResult k) s = .next (s.setThread k (((s.thread k).taken s.cycle).gotV f (maskedIn l.mask l.vv (s.thread k).regs.v[low5 f]))) := by
  have hdue : s.lateDue k = true := by
    have hl : l ∈ (s.thread k).late.filter (fun x => decide (x.due ≤ s.cycle)) := by rw [hlate]; exact List.mem_cons_self
    exact List.any_eq_true.mpr ⟨l, List.mem_filter.mp hl⟩
  have hwrite : (s.setThread k ((s.thread k).taken s.cycle)).writeLate k l = s.setThread k (((s.thread k).taken s.cycle).gotV f (maskedIn l.mask l.vv (s.thread k).regs.v[low5 f])) := by
    rw [State.writeLate, hreg]
    simp only [hpush, hs, State.putV_unshared hs, Bool.false_eq_true, if_false, State.thread_setThread_same]
    exact State.setThread_setThread ..
  show execFixedLatencyResult k s = _
  rw [execFixedLatencyResult, if_pos hdue]
  refine congrArg done (Eq.trans ?_ hwrite)
  exact congrArg (List.foldl (fun s l => s.writeLate k l) (s.setThread k ((s.thread k).taken s.cycle))) hlate

theorem lateResultsAreWritten : LateResultsAreWritten := by
  intro s k l f hlate hreg hs hpush
  have hnot : (fun x : Late => !decide (x.due ≤ s.cycle)) = fun x => decide (s.cycle < x.due) := by
    funext x
    rw [← decide_not, decide_eq_decide, Nat.not_le]
  refine ⟨_, exec_fixedLatencyResult hlate hreg hs hpush, fun b hb => ?_, fun g hg => ?_, ?_, fun j hj => State.thread_setThread_ne _ _ _ _ hj, rfl⟩
  · rw [← getLsbD_maskedIn _ _ _ hb, State.vOf, State.vOf, State.thread_setThread_same, hs]
    exact congrArg (fun v : VReg => v.getLsbD b) ((vget_set ..).trans (if_pos rfl))
  · rw [State.vOf, State.vOf, State.thread_setThread_same]
    by_cases hg' : isShared g = true
    · rw [if_pos hg', if_pos hg']
      rfl
    · rw [if_neg hg', if_neg hg']
      exact (vget_set ..).trans (if_neg fun h => hg (low5_inj ((Bool.eq_false_of_not_eq_true hg').trans hs.symm) h.symm))
  · rw [State.thread_setThread_same, ← hnot]
    rfl

/-! ## Upcalls (R306 to R311) -/

theorem enabledCause_of_lowest {t : Thread} {c : Nat} (h : LowestEnabled t c) : t.enabledCause = some c := by
  obtain ⟨h8, h13, hpend, hmask, hleast⟩ := h
  rw [Thread.enabledCause, List.find?_range_eq_some]
  refine ⟨?_, List.mem_range.mpr (by omega), fun b hb => ?_⟩
  · rw [decide_eq_true (by omega : 7 ≤ c), hpend, hmask, Bool.or_true]
    rfl
  · by_cases h7 : 7 ≤ b
    · have hno := hleast b h7 hb
      rw [Bool.not_eq_true', Bool.eq_false_iff]
      intro hall
      rw [Bool.and_eq_true, Bool.and_eq_true, Bool.or_eq_true, beq_iff_eq] at hall
      exact hno ⟨hall.1.2, hall.2⟩
    · rw [decide_eq_false h7]
      rfl

theorem atBoundary_of_abandonable {s : State} {t : Thread} (hr : t.reply = none) (hw : Abandonable t.wait) : s.atBoundary t = true := by
  rw [State.atBoundary, hr]
  rcases hw with h | h | h | h | h | h | ⟨n, h⟩ | ⟨b, n, h⟩ <;> rw [h] <;> rfl

/-- A thread whose parked instruction an upcall abandons (R100). -/
def Thread.abandoned (t : Thread) : Thread := { t with wait := none, reply := none, got := none, blocks := [], tile := none }

theorem abandon_eq {s : State} {k : Nat} (hw : Abandonable (s.thread k).wait) : s.abandon k = s.setThread k (s.thread k).abandoned := by
  unfold State.abandon
  rcases hw with h | h | h | h | h | h | ⟨n, h⟩ | ⟨b, n, h⟩ <;> simp only [h] <;> rfl

theorem exec_upcallDelivery {s : State} {k c : Nat} (hlife : (s.thread k).life = .resident) (hmode : (s.thread k).mode = .user) (hreply : (s.thread k).reply = none)
    (hw : Abandonable (s.thread k).wait) (hres : s.reservations k = 0) (hc : LowestEnabled (s.thread k) c) : exec (.upcallDelivery k) s = .next (s.deliver k c) := by
  have hen := enabledCause_of_lowest hc
  have hdel : s.deliverable k = true := by simp [State.deliverable, State.upcallDue, hlife, hmode, hen, atBoundary_of_abandonable hreply hw, hres]
  show execUpcallDelivery k s = _
  rw [execUpcallDelivery, hen]
  simp only [hdel, if_true]
  rfl

/-- The state in which thread k has given up what it waited for and the reservations its LRs would set. -/
def State.atUpcall (s : State) (k : Nat) : State := (s.setThread k (s.thread k).abandoned).cutLr k

theorem thread_atUpcall (s : State) (k : Nat) : (s.atUpcall k).thread k = (s.thread k).abandoned := State.thread_setThread_same ..

/-- A thread that takes cause c (R308 to R311). -/
def Thread.called (t : Thread) (c : Nat) (queued : Nat) : Thread :=
  let r := t.info.get (0, t.fva) c
  let u := { t with pend := t.pend &&& ~~~(1#14 <<< c) }
  let v := if c = 8 then { u with tmcmp := 0xFFFF_FFFF_FFFF_FFFF } else u
  enter v c (if c = 9 then BitVec.ofNat 64 queued else r.1) (fvaOf c r.2) v.pc

theorem deliver_called {s : State} {k c : Nat} (hw : Abandonable (s.thread k).wait) (hframe : (s.thread k).frame = []) (hc : 8 ≤ c) (hv : (s.thread k).upvec ≠ 0) :
    s.deliver k c = (s.atUpcall k).setThread k ((s.thread k).abandoned.called c (s.coreCtx (s.thread k).cc).rq.length) := by
  have hne : ((!(s.thread k).frame.isEmpty) || decide (c = 7)) = false := by rw [hframe]; simp; omega
  unfold State.deliver
  rw [abandon_eq hw]
  simp only [show ((s.setThread k (s.thread k).abandoned).cutLr k).thread k = _ from thread_atUpcall s k]
  rw [if_neg (by rw [show (s.thread k).abandoned.frame = (s.thread k).frame from rfl, hne]; decide)]
  rw [if_neg (show ¬(s.thread k).abandoned.upvec = 0 from hv)]
  rfl

theorem fvaOf_pending {c : Nat} (h8 : 8 ≤ c) (h13 : c ≤ 13) (w : Word) : fvaOf c w = if c = 12 then some w else none := by
  have : c = 8 ∨ c = 9 ∨ c = 10 ∨ c = 11 ∨ c = 12 ∨ c = 13 := by omega
  rcases this with rfl | rfl | rfl | rfl | rfl | rfl <;> rfl

theorem called_fields {t : Thread} {c : Nat} (hreply : t.reply = none) (h8 : 8 ≤ c) (h13 : c ≤ 13) (n : Nat) : t.abandoned.called c n = { t with
    upc := t.pc, ucause := BitVec.ofNat 8 c, mode := .runtime, pc := t.upvec &&& ~~~0xF, npc := t.upvec &&& ~~~0xF, resv := none, wait := none, got := none, blocks := [], tile := none
    finfo := (if c = 9 then wrap (n : Int) else (t.info.get (0, t.fva) c).1)
    fva := (if c = 12 then (t.info.get (0, t.fva) c).2 else t.fva)
    tmcmp := (if c = 8 then 0xFFFF_FFFF_FFFF_FFFF else t.tmcmp)
    pend := t.pend &&& ~~~(1#14 <<< c) } := by
  cases t
  dsimp only at hreply
  subst hreply
  rw [Thread.called, fvaOf_pending h8 h13, wrap_natCast]
  by_cases h : c = 8
  · subst h
    rfl
  · rw [if_neg h, if_neg h]
    by_cases h' : c = 12
    · subst h'
      rfl
    · rw [if_neg h', if_neg h']
      rfl

/-- The state in which PAGE has written the records of thread k into its save area. -/
def State.paged (s : State) (k : Nat) : State := ((s.atUpcall k).cutLr k).poke (frameAddr (s.thread k).abandoned) ((s.thread k).frame.flatMap FaultRec.bytes)

theorem thread_paged (s : State) (k : Nat) : (s.paged k).thread k = { (s.thread k).abandoned with resv := ((s.paged k).thread k).resv } := by
  have hsame : SameThreads ((s.atUpcall k).cutLr k) (s.paged k) := by simp [State.paged]
  conv_lhs => rw [hsame.thread k]
  exact congrArg (fun x : Thread => { x with resv := ((s.paged k).thread k).resv }) (thread_atUpcall s k)

theorem deliver_paged {s : State} {k c : Nat} (hw : Abandonable (s.thread k).wait) (hframe : (s.thread k).frame ≠ []) (hv : (s.thread k).upvec ≠ 0) :
    s.deliver k c = (s.paged k).setThread k { enter ((s.paged k).thread k) 7 (BitVec.ofNat 64 (s.thread k).frame.length) none (s.thread k).pc with
      frame := [], pend := (s.thread k).pend &&& ~~~(0x80 : BitVec 14) } := by
  have hpage : (!(s.thread k).abandoned.frame.isEmpty || decide (c = 7)) = true := by
    rw [show (s.thread k).abandoned.frame = (s.thread k).frame from rfl]
    simp [hframe]
  unfold State.deliver
  rw [abandon_eq hw]
  simp only [show ((s.setThread k (s.thread k).abandoned).cutLr k).thread k = _ from thread_atUpcall s k]
  rw [if_pos hpage, State.takePage]
  simp only [show ((s.setThread k (s.thread k).abandoned).cutLr k).thread k = _ from thread_atUpcall s k]
  rw [if_neg (show ¬(s.thread k).abandoned.upvec = 0 from hv)]
  rfl

theorem upcallsAreDelivered : UpcallsAreDelivered := by
  intro s k c t hlife hmode hreply hw hres hv hc
  have hexec := exec_upcallDelivery hlife hmode hreply hw hres hc
  obtain ⟨h8, h13, -⟩ := hc
  refine ⟨fun hframe => ⟨_, hexec, ?_⟩, fun hframe => ⟨_, hexec, ?_⟩⟩
  · rw [deliver_called hw hframe h8 hv]
    refine ⟨?_, fun j hj => ?_, ?_⟩
    · rw [State.thread_setThread_same]
      exact called_fields hreply h8 h13 _
    · rw [State.thread_setThread_ne _ _ _ _ hj]
      exact State.thread_setThread_ne _ _ _ _ hj
    · rfl
  · rw [deliver_paged hw hframe hv, State.thread_setThread_same, thread_paged, wrap_natCast]
    exact ⟨rfl, rfl, rfl, rfl, rfl, rfl, rfl, rfl, rfl⟩

/-- Settles O53: timers and upcalls by the thread each leaves, PAGE by what a write to the save area keeps of it. -/
theorem timedResultsAndUpcalls : Obligations.TimedResultsAndUpcalls :=
  ⟨fun _ _ hlife => ⟨fun _ hw hn => exec_sleepExpiry hlife hw hn, fun _ _ hw hn => exec_bwaitTimeout hlife hw hn, fun hp hn => exec_timerExpiry hlife hp hn⟩,
    lateResultsAreWritten, upcallsAreDelivered⟩

end Sys2Proof.Machine
end

section
/-! LEA and RAND (R103, R133), and the instructions of the mesh that put one operation in flight (R129, R202, R203). -/

namespace Sys2Proof.Machine

open Sys2Proof.Claims

/-! ## LEA and RAND -/

theorem decodeAF_lea {f : AF} (hop : f.op = 0x19) (hgrd : f.grd ≠ 8) :
    decodeAF f = small f.fn fun k => zeros (f.imm = 0) (.lea f.d f.s1 f.s2 k) := by
  rw [decodeAF, if_neg hgrd]
  simp [decA1, hop]

theorem decodeAF_rand {f : AF} (hop : f.op = 0x72) (hgrd : f.grd ≠ 8) : decodeAF f = f.ar0 (.rand f.d) := by
  rw [decodeAF, if_neg hgrd]
  simp [decA7, hop]

theorem decodeAF_guard {f : AF} {i : Instr} (h : decodeAF f = .ok i) : f.grd ≠ 8 := fun hg => by
  simp [decodeAF, hg] at h

/-- A field that names one of eight: the low three bits, where the others are zero. -/
theorem small_eq (b : BitVec 6) (k : BitVec 3 → Dec Instr) : small b k = if b.toNat < 8 then k (b.truncate 3) else .error .badField := by
  have hhigh : (b.extractLsb' 3 3 = 0) ↔ b.toNat < 8 := by
    revert b; decide
  simp only [small, hhigh]
  rfl

theorem ok_of_zeros {b : Bool} {i j : Instr} (h : zeros b i = .ok j) : b = true ∧ j = i := by
  unfold zeros at h
  split at h
  · next hb => exact ⟨hb, (Except.ok.inj h).symm⟩
  · cases h

end Sys2Proof.Machine

open Sys2Proof Sys2Proof.Machine Sys2Proof.Claims

/-- Settles O29: the one register write, and the row of the decoder, whose shift field takes 0 to 7. -/
theorem leaResult : Obligations.LeaResult := by
  refine ⟨fun s d a b k => ⟨_, rfl, wroteX_wx ..⟩, fun f hop => ⟨fun i hi => ?_, fun hfn hgrd himm => ?_⟩⟩
  · rw [decodeAF_lea hop (decodeAF_guard hi), small_eq] at hi
    split at hi
    · next hfn => exact ⟨hfn, (ok_of_zeros hi).2⟩
    · cases hi
  · rw [decodeAF_lea hop hgrd, small_eq, if_pos hfn, himm]
    rfl

/-- Settles O30: `advance` counts one draw, and the row of the decoder asks for zero fields. -/
theorem randResult : Obligations.RandResult := by
  refine ⟨fun s d => ⟨_, rfl, ?_⟩, fun f hop => ⟨fun i hi => ?_, fun hgrd h1 h2 hfn himm => ?_⟩⟩
  · rw [← advance_eq_drew]
    exact wroteX_wx ..
  · rw [decodeAF_rand hop (decodeAF_guard hi)] at hi
    obtain ⟨hzero, heq⟩ := ok_of_zeros hi
    simp only [Bool.and_eq_true, decide_eq_true_eq] at hzero
    obtain ⟨⟨⟨h1, h2⟩, -⟩, -⟩ := hzero
    exact ⟨h1, h2, heq⟩
  · rw [decodeAF_rand hop hgrd, AF.ar0, h1, h2, hfn, himm]
    rfl

namespace Sys2Proof.Machine

/-! ## Operations put in flight (R19, R261) -/

/-- What `launch` does: the operation is in flight under the next number, due in a later cycle, with its thread's %rper. -/
theorem sent_launch (s : State) (o : Op) : Sent s (s.launch o) o := ⟨s.cycle + 1 + Config.latency s.drawn % 512, by omega, rfl⟩

theorem rv_setCoreCtx {s : State} {cc : Nat} {c : CoreCtx} (h : c.w = (s.coreCtx cc).w) (f : VRegF) : (s.setCoreCtx cc c).rv f = s.rv f := by
  have hw : ((s.setCoreCtx cc c).coreCtx s.me.cc).w = (s.coreCtx s.me.cc).w := by
    rw [State.coreCtx_setCoreCtx]
    split
    · next hc => rw [h, hc]
    · rfl
  unfold State.rv
  rw [show (s.setCoreCtx cc c).me = s.me from rfl]
  dsimp only
  rw [hw]

end Sys2Proof.Machine

/-- Settles O12: each of the three ends in one `launch`; VMAXX has counted its instance and added its contribution before. -/
theorem meshInstructionsSent : Obligations.MeshInstructionsSent := by
  refine fun s => ⟨fun _ _ _ _ => ⟨_, rfl, sent_launch ..⟩, fun _ _ _ _ => ⟨_, rfl, sent_launch ..⟩, fun int col vd vs p => ⟨_, _, rfl, ?_, sent_launch ..⟩⟩
  rw [rv_setCoreCtx (by cases col <;> rfl)]
  rfl
end

section
/-! Branches and jumps, and the precise causes that an instruction raises at its bundle (R95, R108 to R110, R306 to R309). -/

namespace Sys2Proof.Machine

open Sys2Proof.Claims

/-! ## Where a branch goes (R108, R109) -/

theorem condHolds_eq_holds (c : Cond) (a b : Word) : condHolds c a b = holds c a b := by
  cases c
  case eq => exact decide_eq_decide.mpr BitVec.toNat_inj.symm
  case ne => simp [condHolds, holds, bne, BitVec.toNat_inj, Bool.beq_eq_decide_eq]
  case lt => rfl
  case ge => exact (decide_not).symm.trans (decide_eq_decide.mpr Int.not_lt)
  case ltu => rfl
  case geu => exact (decide_not).symm.trans (decide_eq_decide.mpr Nat.not_lt)

theorem nextPc_eq (s : State) : nextPc s = s.me.pc + 16 := by
  rw [nextPc, wrap, BitVec.ofInt_add, BitVec.ofInt_natCast, BitVec.ofNat_toNat, BitVec.setWidth_eq]
  rfl

theorem wrap_toNat_self (w : Word) : wrap (w.toNat : Int) = w := by
  rw [wrap_natCast, BitVec.ofNat_toNat, BitVec.setWidth_eq]

theorem wrap_pred (w : Word) : wrap (w.toInt - 1) = w - 1 := by
  rw [wrap, Int.sub_eq_add_neg, BitVec.ofInt_add, BitVec.ofInt_toInt, BitVec.sub_eq_add_neg]
  rfl

/-- A target lies in the canonical local space. -/
def Reachable (z : Int) : Prop := 0 ≤ z ∧ z < 2 ^ 56

theorem branchTo_reachable {z : Int} (h : Reachable z) (s : State) (i : Instr) : s.branchTo i z = going s (wrap z) := by
  obtain ⟨h0, h1⟩ := h
  rw [State.branchTo, if_neg (by simp; omega)]
  rfl

theorem branchTo_unreachable {z : Int} (h : ¬Reachable z) (s : State) (i : Instr) : s.branchTo i z = s.failCheck (opWord i) (causeADDRESS, wrap z) := by
  rw [State.branchTo, if_pos (by simp only [Bool.or_eq_true, decide_eq_true_eq]; unfold Reachable at h; omega)]
  rfl

/-- The register of a branch is written once the branch has not faulted. -/
theorem thenWx_done {s : State} (h : s.issue = .done) (d : SReg) (w : Word) : s.thenWx d w = s.wx d w := by
  rw [State.thenWx, State.trapped, h]
  rfl

theorem thenWx_trapped {s : State} {t : Trap} (h : s.issue = .trapped t) (d : SReg) (w : Word) : s.thenWx d w = s := by
  rw [State.thenWx, State.trapped, h]
  rfl

/-- Where the thread goes on, if a branch is taken to a target. -/
def goingTo (s : State) (i : Instr) : Option Int → State
  | some z => s.branchTo i z
  | none => s

/-- The same, to a target that can be reached. -/
def goingOr (s : State) : Option Int → State
  | some z => going s (wrap z)
  | none => s

/-- The register a branch writes after it has gone. -/
def linked (s : State) : Option (SReg × Word) → State
  | some (d, v) => s.thenWx d v
  | none => s

/-- What writing the register of a branch does. -/
def WroteLink (u t : State) : Option (SReg × Word) → Prop
  | none => t = u
  | some (d, v) => WroteX u t d v

/-- Every branch goes to its target, if it is taken, and then writes its register. -/
theorem exec_flow {i : Instr} {s : State} {link : Option (SReg × Word)} {target : Option Int} (h : flow i s = some (link, target)) :
    exec i s = .next (linked (goingTo s i target) link) := by
  have taken {n : Nat} (j : Instr) (b : Bool) (disp : BitVec n) :
      (if b = true then s.branchBy j disp else s) = goingTo s j (if b = true then some (bundleAt s disp) else none) := by cases b <;> rfl
  unfold flow at h
  split at h
  case h_1 c a b disp =>
    obtain ⟨rfl, rfl⟩ := Prod.mk.inj (Option.some.inj h)
    exact congrArg Host.Outcome.next (by rw [condHolds_eq_holds]; exact taken ..)
  case h_2 p neg disp =>
    obtain ⟨rfl, rfl⟩ := Prod.mk.inj (Option.some.inj h)
    exact congrArg Host.Outcome.next (taken ..)
  case h_3 disp =>
    obtain ⟨rfl, rfl⟩ := Prod.mk.inj (Option.some.inj h)
    rfl
  case h_4 d disp =>
    obtain ⟨rfl, rfl⟩ := Prod.mk.inj (Option.some.inj h)
    rw [nextPc_eq]
    rfl
  case h_5 d a =>
    split at h
    · next halign =>
      obtain ⟨rfl, rfl⟩ := Prod.mk.inj (Option.some.inj h)
      show execJr d a s = _
      dsimp only [execJr]
      rw [nextPc_eq]
      by_cases hfar : 2 ^ 56 ≤ (s.rx a).toNat
      · rw [if_pos hfar, linked, goingTo, branchTo_unreachable (fun hz => by unfold Reachable at hz; omega), wrap_toNat_self]
        rfl
      · rw [if_neg hfar, if_neg (not_not.mpr halign)]
        rfl
    · cases h
  case h_6 a disp =>
    obtain ⟨rfl, rfl⟩ := Prod.mk.inj (Option.some.inj h)
    show execDbnz a disp s = _
    dsimp only [execDbnz]
    rw [wrap_pred]
    by_cases hz : s.rx a - 1 = 0
    · rw [if_pos hz, if_neg (not_not.mpr hz)]; rfl
    · rw [if_neg hz, if_pos hz]; rfl
  case h_7 => cases h

end Sys2Proof.Machine

open Sys2Proof Sys2Proof.Machine Sys2Proof.Claims

/-- Settles O3: a reachable target only sets where the thread goes on, and then the register is written. -/
theorem branchResult : Obligations.BranchResult := by
  intro i s link target hdone hflow hreach
  have hgo : goingTo s i target = goingOr s target := by
    cases target with
    | none => rfl
    | some z => exact branchTo_reachable (hreach z rfl) s i
  have hissue : (goingTo s i target).issue = .done := by
    rw [hgo]
    cases target <;> exact hdone
  have hlink : WroteLink (goingTo s i target) (linked (goingTo s i target) link) link := by
    cases link with
    | none => rfl
    | some w =>
      rw [linked, thenWx_done hissue]
      exact wroteX_wx ..
  rw [hgo] at hlink
  exact ⟨_, exec_flow hflow, by rw [hgo]; exact hlink⟩
end

section
/-! Precise causes that an instruction raises at its bundle (R95, R108, R110, R306 to R309). -/

namespace Sys2Proof.Machine

open Sys2Proof.Claims

/-! ## Entering the runtime -/

/-- A precise cause in user mode, where nothing stands against it, enters the runtime and does nothing else. -/
theorem entered_raise {s : State} (hmay : MayEnter s) {cause : Nat} (hc : cause < 7) (info w upc : Word) :
    Entered s (s.raise { cause := cause, info := info, fva := w, upc := upc }) cause info (fvaOf cause w) upc := by
  obtain ⟨hmode, hres, hframe, hvec⟩ := hmay
  have hpage : cause ≠ causePAGE := by unfold causePAGE; omega
  have hraise := State.takeTrap_enters s s.cur { cause := cause, info := info, fva := w, upc := upc } (show cause < 14 by omega) hmode hres hframe hpage hvec
  unfold State.raise
  rw [hraise]
  have hme : ((((s.cutLr s.cur).setThread s.cur (enter (s.thread s.cur) cause info (fvaOf cause w) upc)).trap { cause := cause, info := info, fva := w, upc := upc }).me) =
      enter s.me cause info (fvaOf cause w) upc := State.thread_setThread_same ..
  exact
    { saved := by
        rw [hme]
        exact ⟨rfl, by simp [enter, BitVec.toNat_ofNat]; omega, rfl, rfl⟩
      goes := by
        rw [hme]
        refine ⟨rfl, ?_, rfl, rfl⟩
        rw [enter, and_not_fifteen, BitVec.toNat_ofNat, Nat.mod_eq_of_lt (by omega)]
      keeps := by rw [hme]; rfl
      threads := fun k hk => State.thread_setThread_ne _ _ _ _ hk
      accesses := rfl
      trapped := ⟨_, rfl, rfl⟩
      bytes := sameBytes_of_eq rfl rfl
      rest := rfl }

/-! ## Which instructions raise -/

/-- Exec raises a precise cause and does nothing else. -/
def RaisesNow (i : Instr) (s : State) (cause : Nat) (info : Word) (fva : Option Word) (upc : Word) : Prop :=
  ∃ w, cause < 7 ∧ fvaOf cause w = fva ∧ exec i s = .next (s.raise { cause := cause, info := info, fva := w, upc := upc })

/-- A branch whose target cannot be reached raises ADDRESS, and its register is not written. -/
theorem exec_unreachable {i : Instr} {s : State} {link : Option (SReg × Word)} {z : Int} (h : flow i s = some (link, some z)) (hz : ¬Reachable z) :
    exec i s = .next (s.raise { cause := 4, info := opWord i, fva := wrap z, upc := s.me.pc }) := by
  rw [exec_flow h, goingTo, branchTo_unreachable hz]
  cases link with
  | none => rfl
  | some w =>
    rw [linked, thenWx_trapped]
    rfl
    rfl

/-- A branch that raises has a target that cannot be reached. -/
theorem raisesNow_branch {i : Instr} {s : State} {cause : Nat} {info upc : Word} {fva : Option Word} (hop : opWord i = branchOp i)
    (h : (match flow i s with
      | some (_, some z) => if z < 0 ∨ 2 ^ 56 ≤ z then some (4, branchOp i, some (wrap z), s.me.pc) else none
      | _ => none) = some (cause, info, fva, upc)) : RaisesNow i s cause info fva upc := by
  split at h
  · next hflow =>
    split at h
    · next hz =>
      cases h
      exact ⟨_, by decide, rfl, by rw [← hop]; exact exec_unreachable hflow (fun ⟨h0, h1⟩ => by omega)⟩
    · cases h
  · cases h

theorem zx_eq_wrap (c : BitVec 16) : (zx c : Word) = wrap (c.toNat : Int) := by
  rw [wrap_natCast]
  apply BitVec.eq_of_toNat_eq
  simp [zx]

theorem nextPc_add (s : State) : s.me.pc + 16 = nextPc s := (nextPc_eq s).symm

/-- TRAP and the fixed upcalls in user mode (R110, R305). -/
theorem raisesNow_trapBy {i : Instr} {s : State} (hmode : s.me.mode = .user) {code : BitVec 16} {info : Word} (hexec : exec i s = s.trapBy code)
    (hinfo : zx code = info) : RaisesNow i s 0 info none (nextPc s) := by
  refine ⟨0, by decide, rfl, ?_⟩
  rw [hexec, State.trapBy, if_pos hmode, hinfo, nextPc_add]
  rfl

theorem illegalWord (op : BitVec 8) (slot : Bool) :
    (op.zeroExtend 64 ||| (if slot then 0x100 else 0) : Word) = wrap ((op.toNat + if slot then 256 else 0 : Nat) : Int) := by
  rw [wrap_natCast]
  revert op slot
  decide

/-- A register that SRD cannot name. -/
theorem special_none {s : State} {sel : BitVec 10} (h : 0x20 ≤ sel.toNat) (hi : BitVec 2) : s.special sel hi = none := by
  obtain ⟨n, hn⟩ := Nat.exists_eq_add_of_le' h
  unfold State.special
  rw [hn]
  split
  · rfl
  · rfl

/-- A register that SWR cannot write in any mode. -/
theorem swr_none (t : Thread) (cycle : Nat) {sel : Nat} (h : 0x20 ≤ sel ∨ sel < 0x00A ∨ sel = 0x00C ∨ 0x01B ≤ sel) (w : Word) : t.swr cycle sel w = none := by
  unfold Thread.swr
  split
  case h_17 => rfl
  all_goals omega

theorem runtimeOnly_iff (sel : Nat) : runtimeOnly sel = true ↔ sel = 0x00A ∨ sel = 0x00E ∨ sel = 0x011 := by
  simp [runtimeOnly, or_assoc]

theorem raisesNow_srd {s : State} {d : SReg} {sel : BitVec 10} {hi : BitVec 2} (h : 0x20 ≤ sel.toNat) : RaisesNow (.srd d sel hi) s 2 0x70 (some 0) s.me.pc :=
  ⟨0, by decide, rfl, by
    show execSrd d sel hi s = _
    rw [execSrd, special_none h]
    rfl⟩

theorem raisesNow_swr {s : State} {sel : BitVec 10} {hi : BitVec 2} {a : SReg}
    (h : 0x20 ≤ sel.toNat ∨ sel.toNat < 0x00A ∨ sel.toNat = 0x00C ∨ 0x01B ≤ sel.toNat ∨
      (s.me.mode = .user ∧ (sel.toNat = 0x00A ∨ sel.toNat = 0x00E ∨ sel.toNat = 0x011))) : RaisesNow (.swr sel hi a) s 2 0x71 (some 0) s.me.pc := by
  refine ⟨0, by decide, rfl, ?_⟩
  show execSwr sel hi a s = .next (s.illegal (.swr sel hi a))
  dsimp only [execSwr]
  by_cases hhi : (hi ≠ 0 && sel ≠ 0x01D) = true
  · rw [if_pos hhi]
    rfl
  rw [if_neg hhi]
  by_cases hrun : (runtimeOnly sel.toNat && decide (s.me.mode = .user)) = true
  · rw [if_pos hrun]
    rfl
  rw [if_neg hrun]
  rw [Bool.and_eq_true, runtimeOnly_iff, decide_eq_true_eq] at hrun
  rw [swr_none s.me s.cycle (by tauto) (s.rx a)]
  rfl

theorem raisesNow_jr {s : State} {d a : SReg} :
    (2 ^ 56 ≤ (s.rx a).toNat → RaisesNow (.jr d a) s 4 0x44 (some (s.rx a)) s.me.pc) ∧
    (¬2 ^ 56 ≤ (s.rx a).toNat → (s.rx a).toNat % 16 ≠ 0 → RaisesNow (.jr d a) s 5 0x44 (some (s.rx a)) s.me.pc) := by
  refine ⟨fun hfar => ⟨s.rx a, by decide, rfl, ?_⟩, fun hnear halign => ⟨s.rx a, by decide, rfl, ?_⟩⟩
  · show execJr d a s = _
    dsimp only [execJr]
    rw [if_pos hfar]
    rfl
  · show execJr d a s = _
    dsimp only [execJr]
    rw [if_neg hnear, if_pos halign]
    rfl

theorem raisesNow_spawn {s : State} {d a b : SReg} :
    ((s.rx a).toNat % 16 ≠ 0 → RaisesNow (.spawn d a b) s 5 0x50 (some (s.rx a)) s.me.pc) ∧
    (¬(s.rx a).toNat % 16 ≠ 0 → 2 ^ 56 ≤ (s.rx a).toNat → RaisesNow (.spawn d a b) s 4 0x50 (some (s.rx a)) s.me.pc) := by
  refine ⟨fun halign => ⟨s.rx a, by decide, rfl, ?_⟩, fun halign hfar => ⟨s.rx a, by decide, rfl, ?_⟩⟩
  · show execSpawn d a b s = _
    dsimp only [execSpawn]
    rw [if_pos halign]
    rfl
  · show execSpawn d a b s = _
    dsimp only [execSpawn]
    rw [if_neg halign, if_pos (by simpa [isLocal] using hfar)]
    rfl

theorem raisesNow_migr {s : State} {d a : SReg} (h : 1024 ≤ (s.rx a).toNat ∧ s.rx a ≠ wrap (-1)) : RaisesNow (.migr d a) s 4 0x5A (some (s.rx a)) s.me.pc := by
  refine ⟨s.rx a, by decide, rfl, ?_⟩
  show execMigr d a s = _
  dsimp only [execMigr]
  rw [if_pos (by rw [Bool.and_eq_true, decide_eq_true_eq, decide_eq_true_eq]; exact h)]
  rfl

theorem raisesNow_dqsteal {s : State} {d a : SReg} (h : (s.kernel s.me.kid).ncore ≤ (s.rx a).toNat) : RaisesNow (.dqsteal d a) s 4 0x69 (some (s.rx a)) s.me.pc := by
  refine ⟨s.rx a, by decide, rfl, ?_⟩
  show execDqsteal d a s = _
  dsimp only [execDqsteal]
  rw [if_pos h]
  rfl

theorem raisesNow_barr {s : State} {scp : Scope} {bar : BitVec 7} {remote : Bool} {a : SReg} (h : remote ∧ (s.kernel s.me.kid).ncore ≤ (s.rx a).toNat) :
    RaisesNow (.barr scp bar remote a) s 4 0x6C (some (s.rx a)) s.me.pc := by
  obtain ⟨rfl, hcore⟩ := h
  refine ⟨s.rx a, by decide, rfl, ?_⟩
  show execBarr scp bar true a s = _
  dsimp only [execBarr]
  rw [if_pos (by simpa using hcore)]
  rfl

/-- What the statement says an instruction raises is what it raises. -/
theorem raisesNow_of_raises {i : Instr} {s : State} (hmode : s.me.mode = .user) {cause : Nat} {info upc : Word} {fva : Option Word}
    (h : raises i s = some (cause, info, fva, upc)) : RaisesNow i s cause info fva upc := by
  have one {b : Prop} [Decidable b] {e : Nat × Word × Option Word × Word} {P : Prop} (hp : b → e = (cause, info, fva, upc) → P)
      (h : (if b then some e else none) = some (cause, info, fva, upc)) : P := by
    split at h
    · next hb => exact hp hb (Option.some.inj h)
    · cases h
  have never (hn : none = some (cause, info, fva, upc)) : RaisesNow i s cause info fva upc := nomatch hn
  cases i with
  | trap c => cases h; exact raisesNow_trapBy hmode rfl (zx_eq_wrap c)
  | pageInRequest => cases h; exact raisesNow_trapBy hmode rfl rfl
  | enterFaultHold => cases h; exact raisesNow_trapBy hmode rfl rfl
  | postToHostMailbox => cases h; exact raisesNow_trapBy hmode rfl rfl
  | brk c => cases h; exact ⟨0, by decide, rfl, by rw [← zx_eq_wrap]; rfl⟩
  | illegalBundle op slot => cases h; exact ⟨0, by decide, rfl, by rw [← illegalWord]; rfl⟩
  | eret => cases h; exact ⟨0, by decide, rfl, congrArg Host.Outcome.next (if_pos hmode)⟩
  | b => exact raisesNow_branch rfl h
  | bp => exact raisesNow_branch rfl h
  | j => exact raisesNow_branch rfl h
  | jal => exact raisesNow_branch rfl h
  | dbnz => exact raisesNow_branch rfl h
  | jr d a =>
    dsimp only [raises] at h
    split at h
    · next hfar => cases h; exact raisesNow_jr.1 hfar
    · next hnear => exact one (fun halign he => by cases he; exact raisesNow_jr.2 hnear halign) h
  | spawn d a b =>
    dsimp only [raises] at h
    split at h
    · next halign => cases h; exact raisesNow_spawn.1 halign
    · next halign => exact one (fun hfar he => by cases he; exact raisesNow_spawn.2 halign hfar) h
  | migr => exact one (fun hb he => by cases he; exact raisesNow_migr hb) h
  | dqsteal => exact one (fun hb he => by cases he; exact raisesNow_dqsteal hb) h
  | barr => exact one (fun hb he => by cases he; exact raisesNow_barr hb) h
  | srd => exact one (fun hb he => by cases he; exact raisesNow_srd hb) h
  | swr => exact one (fun hb he => by cases he; exact raisesNow_swr hb) h
  | _ => exact never h

end Sys2Proof.Machine

open Sys2Proof Sys2Proof.Machine Sys2Proof.Claims

/-- Settles O4: each such instruction only raises its cause, and in user mode a raise enters the runtime. -/
theorem takingAnException : Obligations.TakingAnException := by
  intro i s cause info upc fva hmay hraises
  obtain ⟨w, hcause, rfl, hexec⟩ := raisesNow_of_raises hmay.1 hraises
  exact ⟨_, hexec, entered_raise hmay hcause info w upc⟩
end

section
/-! Blocks of the own local memory that an instruction reads or writes (R121, R125, R131), and what a write to a local memory does. -/

namespace Sys2Proof.Machine

open Sys2Proof.Claims

/-! ## A block read or written by the bundle in issue -/

theorem readBlock_own {s : State} {a : SReg} {n off : Nat} (h : BlockAt s a n .read off) (i : Instr) :
    s.readBlock i (s.rx a).toNat n n = .ok ((s.coreCtx s.me.cc).lm.read off n, s) := by
  obtain ⟨r, hcheck, hplace, ⟨hacq, hbusy, hsound⟩, -⟩ := h
  rw [hplace] at hbusy
  unfold State.readBlock
  simp only [hcheck, checked_lm hplace, hacq, hplace, hbusy, Bool.or_self, Bool.false_eq_true, if_false, lmBad_sound (hsound _ _ hplace), lmCorrect_sound (hsound _ _ hplace)]
  rfl

theorem destBlock_own {s : State} {a : SReg} {n off : Nat} (h : BlockAt s a n .write off) (i : Instr) :
    ∃ r : Acc, r.place = .lm s.me.cc off ∧ s.destBlock i (s.rx a).toNat n n = .ok (r, s) := by
  obtain ⟨r, hcheck, hplace, ⟨hacq, hbusy, -⟩, -⟩ := h
  rw [hplace] at hbusy
  refine ⟨r, hplace, ?_⟩
  unfold State.destBlock
  simp only [hcheck, checked_lm hplace, hacq, hplace, hbusy, Bool.or_self, Bool.false_eq_true, if_false]

theorem wordOf_read (m : Memory) (a n w : Nat) : wordOf w (m.read a n) = BitVec.ofNat w (numAt m a n) := by
  rw [wordOf, leNat_read]

/-! ## Bytes written to a local memory (R149, R414) -/

/-- A thread that writes to some granules have taken the reservation from, if it held one of them. -/
def Thread.withoutAny (t : Thread) (keys : List Nat) : Thread := { t with resv := if keys.any (fun key => t.resv == some key) then none else t.resv }

theorem Thread.without_withoutAny (t : Thread) (key : Nat) (keys : List Nat) : (t.without key).withoutAny keys = t.withoutAny (key :: keys) := by
  cases h : t.resv == some key with
  | true => simp [Thread.without, Thread.withoutAny, h]
  | false => simp [Thread.without, Thread.withoutAny, h]

theorem State.thread_loseResv (s : State) (key k : Nat) : (s.loseResv key).thread k = (s.thread k).without key := by
  rw [State.thread, State.threads_loseResv]
  split
  · exact AMap.get_mapV (f := fun _ (t : Thread) => t.without key) (fun _ => rfl) ..
  · next h =>
    rw [Bool.not_eq_true, List.any_eq_false] at h
    have hnot : ¬((s.thread k).resv == some key) = true := AMap.get_of_forall (P := fun t : Thread => ¬(t.resv == some key) = true) (by simp) h k
    rw [Thread.without, if_neg hnot]
    rfl

theorem State.thread_loseAll (keys : List Nat) (s : State) (k : Nat) :
    (keys.foldl (fun s key => s.loseResv key) s).thread k = (s.thread k).withoutAny keys := by
  induction keys generalizing s with
  | nil => rfl
  | cons key keys ih => rw [List.foldl_cons, ih, State.thread_loseResv, Thread.without_withoutAny]

theorem mended_sound {s : State} {cc off n : Nat} (h : LmSound s cc off n) : s.mended (lmPa cc off) n = s := by
  have hall : s.ecc.filter (fun e => !(lmPa cc off ≤ e.1 * 8 && e.1 * 8 + 8 ≤ lmPa cc off + n)) = s.ecc := by
    rw [List.filter_eq_self]
    intro e he
    have := h e he
    simp only [Bool.not_eq_true', Bool.and_eq_false_iff, decide_eq_false_iff_not]
    omega
  rw [State.mended, hall]

theorem State.loseAll_rest (keys : List Nat) (s : State) :
    { keys.foldl (fun s key => s.loseResv key) s with threads := s.threads, farResv := s.farResv } = s := by
  induction keys generalizing s with
  | nil => rfl
  | cons key keys ih =>
    have hone : { s.loseResv key with threads := s.threads, farResv := s.farResv } = s := by
      unfold State.loseResv
      dsimp only
      split <;> split <;> rfl
    have := congrArg (fun u : State => { u with threads := s.threads, farResv := s.farResv }) (ih (s.loseResv key))
    exact this.trans hone

/-- The state of a sound write to a local memory, before it takes reservations. -/
def lmPutNow (s : State) (cc off : Nat) (bs : List Byte) : State := s.setCoreCtx cc { s.coreCtx cc with lm := (s.coreCtx cc).lm.write off bs }

theorem lmWrite_sound {s : State} {cc off : Nat} {bs : List Byte} (hheld : s.heldCc cc = false) (h : LmSound s cc off bs.length) :
    s.lmWrite cc off bs = ((lines off bs.length).map (fun l => lmKey cc (l * 128))).foldl (fun s key => s.loseResv key) (lmPutNow s cc off bs) := by
  rw [State.lmWrite, hheld, lmBad_sound h, State.lmPut, mended_sound h, List.foldl_map]
  rfl

theorem getD_eq_getElem_of_lt {bs : List Byte} {j : Nat} (h : j < bs.length) : bs.getD j 0 = bs[j] := by
  rw [List.getD_eq_getElem?_getD, List.getElem?_eq_getElem h, Option.getD_some]

/-- A byte after a write: a written one, or as it was. -/
theorem Memory.get_write (m : Memory) (off x : Nat) (bs : List Byte) :
    (m.write off bs).get x = if off ≤ x ∧ x < off + bs.length then bs.getD (x - off) 0 else m.get x := by
  split
  · next h =>
    obtain ⟨j, rfl⟩ := Nat.exists_eq_add_of_le h.1
    rw [Nat.add_sub_cancel_left, Memory.get_write_in (by omega), getD_eq_getElem_of_lt]
  · next h => exact Memory.get_write_out (by omega)

theorem lmWrote_lmWrite {s : State} {cc off : Nat} {bs : List Byte} (hheld : s.heldCc cc = false) (h : LmSound s cc off bs.length) :
    LmWrote s (s.lmWrite cc off bs) cc off bs := by
  have hspec := State.lmWrite_spec s cc off bs hheld (lmBad_sound h)
  obtain ⟨hown, hother, hmem, hhost⟩ := hspec
  exact
    { bytes := fun c x => by
        by_cases hc : c = cc
        · subst hc
          rw [hown, Memory.get_write]
          simp only [true_and]
        · rw [hother c hc, if_neg (fun hx => hc hx.1)]
      cores := fun c => by
        by_cases hc : c = cc
        · subst hc; rw [hown]
        · rw [hother c hc]
      threads := fun k => by
        rw [lmWrite_sound hheld h, State.thread_loseAll, Thread.withoutAny, List.any_map]
        rfl
      memory := sameBytes_of_eq hmem hhost
      rest := by
        rw [lmWrite_sound hheld h]
        exact congrArg (fun u : State => { u with threads := s.threads, ccs := s.ccs, farResv := s.farResv }) (State.loseAll_rest _ (lmPutNow s cc off bs)) }

theorem lmWrote_block {s : State} {a : SReg} {off : Nat} {bs : List Byte} (h : BlockAt s a bs.length .write off) : LmWrote s (s.lmWrite s.me.cc off bs) s.me.cc off bs := by
  obtain ⟨r, -, hplace, ⟨-, -, hsound⟩, hheld⟩ := h
  exact lmWrote_lmWrite hheld (hsound _ _ hplace)

end Sys2Proof.Machine
end

section
/-! Launch records from threads and from the host (R131, R325, R326, R329, R330). -/

namespace Sys2Proof.Machine

open Sys2Proof.Claims

/-! ## A record that meets a queue -/

/-- An open queue with one more record, taken in this cycle. -/
def LQueue.taking (u : LQueue) (record : BitVec 512) (cycle tick : Nat) : LQueue :=
  let recs := u.recs ++ [{ record := record, accepted := (u.accepted + 1).toNat }]
  { u with recs := recs, accepted := u.accepted + 1, acceptAt := cycle + 1, st := if recs.length = 64 then 2 else 1, headAt := if u.recs = [] then tick else u.headAt }

section
variable {s : State} {ctx q : Nat} (r : BitVec 512)

theorem enqueue_full (h : (s.lqueue ctx q).st = 2) : s.enqueue ctx q r = (s, .full) := if_pos h

theorem enqueue_closed (h1 : (s.lqueue ctx q).st ≠ 1) (h2 : (s.lqueue ctx q).st ≠ 2) : s.enqueue ctx q r = (s, .closed) :=
  (if_neg h2).trans (if_pos h1)

theorem enqueue_busy (h : (s.lqueue ctx q).st = 1) (hat : (s.lqueue ctx q).acceptAt = s.cycle + 1) : s.enqueue ctx q r = (s, .busy) := by
  rw [State.enqueue]
  simp only [h, lqFull, lqOpen, hat]
  rfl

theorem enqueue_open (h : (s.lqueue ctx q).st = 1) (hat : (s.lqueue ctx q).acceptAt ≠ s.cycle + 1) :
    s.enqueue ctx q r = (s.setLqueue ctx q ((s.lqueue ctx q).taking r s.cycle s.tick), .accepted) := by
  rw [State.enqueue]
  simp only [h, lqFull, lqOpen, if_neg hat, LQueue.taking, List.isEmpty_iff]
  rfl
end

/-! ## KLAUNCH (R131) -/

/-- What KLAUNCH answers, by what its record met. -/
def launched (s : State) (d : SReg) : State × Queued → Res
  | (s, .accepted) => done (s.wx d 1)
  | (s, .full) => done (s.wx d 0)
  | (s, .closed) => done (s.wx d (-1))
  | (_, .busy) => done (s.park .hold)

theorem exec_klaunch {d a b : SReg} {s : State} {off : Nat} (hrel : s.release .device = .ok s) (hblock : BlockAt s a 64 .read off) :
    exec (.klaunch d a b) s = if 8 ≤ (s.rx b).toNat then done (s.wx d (-1)) else
      launched s d (s.enqueue s.me.ctx (s.rx b).toNat (BitVec.ofNat 512 (numAt (s.coreCtx s.me.cc).lm off 64))) := by
  show execKlaunch d a b s = _
  unfold execKlaunch
  simp only [hrel, bind, Except.bind, readBlock_own hblock, wordOf_read]
  split
  · rfl
  · rcases s.enqueue s.me.ctx (s.rx b).toNat _ with ⟨t, m⟩
    cases m <;> rfl

theorem klaunchResult : KernelLaunchResult := by
  intro d a b s off hrel hblock
  dsimp only
  rw [exec_klaunch hrel hblock]
  by_cases h8 : 8 ≤ (s.rx b).toNat
  · rw [if_pos h8]
    exact ⟨_, rfl, by rw [if_pos (Or.inl h8)]; exact wroteX_wx ..⟩
  rw [if_neg h8]
  by_cases hfull : (s.lqueue s.me.ctx (s.rx b).toNat).st = 2
  · rw [enqueue_full _ hfull]
    exact ⟨_, rfl, by rw [if_neg (by omega), if_pos hfull]; exact wroteX_wx ..⟩
  by_cases hopen : (s.lqueue s.me.ctx (s.rx b).toNat).st = 1
  case neg =>
    rw [enqueue_closed _ hopen hfull]
    exact ⟨_, rfl, by rw [if_pos (Or.inr ⟨hopen, hfull⟩)]; exact wroteX_wx ..⟩
  by_cases hat : (s.lqueue s.me.ctx (s.rx b).toNat).acceptAt = s.cycle + 1
  · rw [enqueue_busy _ hopen hat]
    exact ⟨_, rfl, by rw [if_neg (by omega), if_neg hfull, if_pos hat]; rfl⟩
  · rw [enqueue_open _ hopen hat]
    exact ⟨_, rfl, by rw [if_neg (by omega), if_neg hfull, if_neg hat]; exact wroteX_wx ..⟩

/-! ## Launch records from the host (R325, R326) -/

theorem State.awake_eq_up (s : State) : s.awake = up s := by
  unfold State.awake up
  split
  · rfl
  · rfl

/-- A device with power takes a launch record, as it is once it is awake. -/
theorem exec_launchRecordWrite {s : State} (hpower : s.power ≠ .off) (off : Nat) (data : List Byte) :
    exec (.launchRecordWrite off data) s = .next ((up s).launchWrite off data) := by
  show execLaunchRecordWrite off data s = _
  rw [execLaunchRecordWrite, State.hosted, if_neg hpower, State.awake_eq_up]
  rfl

/-- What a launch record leaves, by what it met at its queue. -/
def launchAnswer (off : Nat) (data : List Byte) : State × Queued → State
  | (s, .accepted) => s.dmwr 0
  | (s, .full) => s.dmwr 1
  | (s, .busy) => s.holdHost { va := off, data := data, free := true, what := .launch }
  | (s, .closed) => (s.reportHost (barQueues + off) 3).dmwr 1

/-- A report of a write to the queue windows. -/
theorem reported_window (s : State) (off what : Nat) : Reported s .hostAccess (bytesOf 8 (2 ^ 52 + off) ++ bytesOf 8 what) (s.reportHost (barQueues + off) what) := by
  rw [State.reportHost, leBytes_eq_bytesOf, leBytes_eq_bytesOf]
  exact s.reported_report ..

theorem launchRecords : LaunchRecords := by
  intro s off data hpower
  dsimp only
  rw [exec_launchRecordWrite hpower]
  have hqueue : (up s).lqueue (off / 0x8000) (off / 0x1000 % 8) = s.lqueue (off / 2 ^ 15) (off / 2 ^ 12 % 8) := rfl
  have hword : wordOf 512 data = BitVec.ofNat 512 (leOf data) := by rw [wordOf, leNat_eq_leOf]
  have now (h : s.heldWrites = []) : (up s).launchWrite off data = (up s).launchNow off data := by
    rw [State.launchWrite, if_pos (by simp [up, h])]
  refine ⟨fun hheld => ?_, fun hheld hlen halign hrange => ?_, fun hheld hbad => ?_⟩
  · rw [State.launchWrite, if_neg (by simpa [up] using hheld)]
    rfl
  · have hlaunch : (up s).launchWrite off data = launchAnswer off data ((up s).enqueue (off / 0x8000) (off / 0x1000 % 8) (wordOf 512 data)) :=
      (now hheld).trans (if_neg (by simp only [Bool.or_eq_true, decide_eq_true_eq]; omega))
    rw [hlaunch, hword]
    refine ⟨fun hopen hat => ?_, fun hopen hat => ?_, fun hfull => ?_, fun h1 h2 => ?_⟩
    · rw [enqueue_busy _ (hqueue ▸ hopen) (hqueue ▸ hat)]
      simp only [launchAnswer, State.holdHost, up, hheld, List.nil_append]
    · rw [enqueue_open _ (hqueue ▸ hopen) (hqueue ▸ hat)]
      rfl
    · rw [enqueue_full _ (hqueue ▸ hfull)]
      rfl
    · rw [enqueue_closed _ (hqueue ▸ h1) (hqueue ▸ h2)]
      exact ⟨_, rfl, reported_window ..⟩
  · rw [now hheld, State.launchNow, if_pos (by simp only [Bool.or_eq_true, decide_eq_true_eq]; omega)]
    exact ⟨_, rfl, reported_window ..⟩

end Sys2Proof.Machine

open Sys2Proof Sys2Proof.Machine Sys2Proof.Claims

/-- Settles O47: what a record does is decided by what its queue answers to it. -/
theorem kernelLaunches : Obligations.KernelLaunches := ⟨klaunchResult, launchRecords⟩
end

section
/-! The range deque (R128). -/

namespace Sys2Proof.Machine

open Sys2Proof.Claims

/-! ## Packed ranges as numbers -/

theorem toNat_rangeLo (r : Word) : (rangeLo r).toNat = rangeB r := by simp [rangeLo, rangeB]

theorem toNat_rangeHi (r : Word) : (rangeHi r).toNat = rangeE r := by
  have := r.isLt
  rw [rangeHi, toNat_extractLsb', rangeE, Nat.mod_eq_of_lt (by omega)]

theorem packRange_eq (b e : BitVec 32) : packRange b e = packed b.toNat e.toNat := by
  rw [packRange, packed, wrap_natCast]
  apply BitVec.eq_of_toNat_eq
  have := b.isLt
  have := e.isLt
  rw [BitVec.toNat_append, BitVec.toNat_ofNat, Nat.mod_eq_of_lt (by omega), Nat.shiftLeft_eq, Nat.mul_comm, ← Nat.two_pow_add_eq_or_of_lt b.isLt]

/-- The middle of a range, where the upper half begins. -/
def middleOf (r : Word) : BitVec 32 := rangeLo r + (rangeHi r - rangeLo r) / 2

theorem toNat_middleOf (r : Word) : (middleOf r).toNat = middle r := by
  rw [middleOf, middle, BitVec.toNat_add, BitVec.toNat_udiv, BitVec.toNat_sub, toNat_rangeLo, toNat_rangeHi]
  have : rangeB r < 2 ^ 32 := Nat.mod_lt _ (by norm_num)
  rw [show 2 ^ 32 - rangeB r + rangeE r = rangeE r + 2 ^ 32 - rangeB r by omega]
  rfl

theorem splitRange_eq (r : Word) : splitRange r = (packed (rangeB r) (middle r), packed (middle r) (rangeE r)) := by
  show (packRange (rangeLo r) (middleOf r), packRange (middleOf r) (rangeHi r)) = _
  rw [packRange_eq, packRange_eq, toNat_middleOf, toNat_rangeLo, toNat_rangeHi]

theorem rangeLo_packRange (b e : BitVec 32) : rangeLo (packRange b e) = b := by simp [rangeLo, packRange]
theorem rangeHi_packRange (b e : BitVec 32) : rangeHi (packRange b e) = e := by simp [rangeHi, packRange]

/-! ## The deque unit -/

theorem State.setCoreCtx_setCoreCtx (s : State) (cc : Nat) (a b : CoreCtx) : (s.setCoreCtx cc a).setCoreCtx cc b = s.setCoreCtx cc b :=
  congrArg (fun m : AMap CoreCtx => { s with ccs := m }) (AMap.put_put ..)

theorem setDq_eq (s : State) (q : List Word) : s.setDq s.me.cc q = withDq s s.me.cc q := rfl

theorem setDq_setDq (s : State) (cc : Nat) (q q' : List Word) : (s.setDq cc q).setDq cc q' = withDq s cc q' := by
  rw [State.setDq, State.setDq, State.coreCtx_setCoreCtx_same, State.setCoreCtx_setCoreCtx]
  rfl

theorem stealFrom_none {s : State} {cc : Nat} (h : (s.coreCtx cc).dq.getLast? = none) : s.stealFrom cc = (0, withDq s cc (s.coreCtx cc).dq) := by
  unfold State.stealFrom
  simp only [h]
  rfl

/-- A thief takes the upper half of the top range. -/
theorem stealFrom_some {s : State} {cc : Nat} {r : Word} (h : (s.coreCtx cc).dq.getLast? = some r) :
    s.stealFrom cc = (packed (middle r) (rangeE r), withDq s cc (stolen (s.coreCtx cc).dq r)) := by
  have hlo : packed (rangeB r) (middle r) = packRange (rangeLo r) (middleOf r) := congrArg Prod.fst (splitRange_eq r).symm
  have hiff : rangeLo (packed (rangeB r) (middle r)) = rangeHi (packed (rangeB r) (middle r)) ↔ middle r = rangeB r := by
    rw [hlo, rangeLo_packRange, rangeHi_packRange, ← BitVec.toNat_inj, toNat_middleOf, toNat_rangeLo, eq_comm]
  unfold State.stealFrom
  simp only [h, splitRange_eq, hiff]
  rfl

theorem rangeLo_lt (x y : Word) : rangeLo x < rangeLo y ↔ x.toNat % 2 ^ 32 < y.toNat % 2 ^ 32 := by
  rw [BitVec.lt_def, toNat_rangeLo, toNat_rangeLo, rangeB, rangeB]

theorem exec_dqpush_room {d a b : SReg} {s : State} (h : ¬(s.rx b).toNat % 2 ^ 32 < (s.rx a).toNat % 2 ^ 32) : exec (.dqpush d a b) s =
    if (deque s).length < 64 then .next ((withDq s s.me.cc (packed ((s.rx a).toNat % 2 ^ 32) ((s.rx b).toNat % 2 ^ 32) :: deque s)).wx d 1)
    else .next ((withDq s s.me.cc (deque s)).wx d 0) := by
  show execDqpush d a b s = _
  dsimp only [execDqpush]
  rw [if_neg (mt (rangeLo_lt ..).mp h), setDq_setDq, packRange_eq, toNat_rangeLo, toNat_rangeLo]
  by_cases hroom : (deque s).length < 64
  · rw [if_pos hroom, if_neg (show ¬64 ≤ (s.coreCtx s.me.cc).dq.length from Nat.not_le.mpr hroom)]
    rfl
  · rw [if_neg hroom, if_pos (show 64 ≤ (s.coreCtx s.me.cc).dq.length from Nat.not_lt.mp hroom)]
    rfl

theorem exec_dqpop_nil {d : SReg} {s : State} (h : deque s = []) : exec (.dqpop d) s = .next ((withDq s s.me.cc []).wx d 0) := by
  show execDqpop d s = _
  unfold execDqpop
  rw [show (s.coreCtx s.me.cc).dq = [] from h] <;> rfl

theorem exec_dqpop_cons {d : SReg} {s : State} {r : Word} {q : List Word} (h : deque s = r :: q) : exec (.dqpop d) s = .next ((withDq s s.me.cc q).wx d r) := by
  show execDqpop d s = _
  unfold execDqpop
  rw [show (s.coreCtx s.me.cc).dq = r :: q from h] <;> rfl

theorem exec_dqsplit_none {d : SReg} {s : State} (h : (deque s).getLast? = none) : exec (.dqsplit d) s = .next ((withDq s s.me.cc (deque s)).wx d 0) := by
  show execDqsplit d s = _
  unfold execDqsplit
  dsimp only
  rw [show (s.coreCtx s.me.cc).dq.getLast? = none from h] <;> rfl

theorem exec_dqsplit_some {d : SReg} {s : State} {r : Word} (h : (deque s).getLast? = some r) : exec (.dqsplit d) s =
    if (deque s).length < 64 ∧ 2 ≤ (rangeE r + 2 ^ 32 - rangeB r) % 2 ^ 32 then
      .next ((withDq s s.me.cc (packed (middle r) (rangeE r) :: ((deque s).dropLast ++ [packed (rangeB r) (middle r)]))).wx d 1)
    else .next ((withDq s s.me.cc (deque s)).wx d 0) := by
  have hlen : (rangeHi r - rangeLo r).toNat = (rangeE r + 2 ^ 32 - rangeB r) % 2 ^ 32 := by
    have : rangeB r < 2 ^ 32 := Nat.mod_lt _ (by norm_num)
    rw [BitVec.toNat_sub, toNat_rangeLo, toNat_rangeHi, show 2 ^ 32 - rangeB r + rangeE r = rangeE r + 2 ^ 32 - rangeB r by omega]
  show execDqsplit d s = _
  unfold execDqsplit
  dsimp only
  rw [show (s.coreCtx s.me.cc).dq.getLast? = some r from h]
  dsimp only
  rw [splitRange_eq, hlen]
  dsimp only
  rw [show (s.setDq s.me.cc (s.coreCtx s.me.cc).dq).me.cc = s.me.cc from rfl, setDq_setDq]
  by_cases hsplit : (deque s).length < 64 ∧ 2 ≤ (rangeE r + 2 ^ 32 - rangeB r) % 2 ^ 32
  · rw [if_pos hsplit, if_pos (by rw [Bool.and_eq_true, decide_eq_true_eq, decide_eq_true_eq]; exact hsplit.symm)]
    rfl
  · rw [if_neg hsplit, if_neg (by rw [Bool.and_eq_true, decide_eq_true_eq, decide_eq_true_eq]; exact fun h => hsplit h.symm)]
    rfl

theorem exec_dqsteal_own {d a : SReg} {s : State} (hcore : (s.rx a).toNat < (s.kernel s.me.kid).ncore) (hreply : s.me.reply = none)
    (hown : ccKey s.me.kid (s.rx a).toNat = s.me.cc) : exec (.dqsteal d a) s = .next ((s.stealFrom s.me.cc).2.wx d (s.stealFrom s.me.cc).1) := by
  show execDqsteal d a s = _
  dsimp only [execDqsteal]
  rw [if_neg (Nat.not_le.mpr hcore), hreply]
  dsimp only
  rw [if_pos hown, hown]
  rfl

theorem exec_dqsteal_other {d a : SReg} {s : State} (hcore : (s.rx a).toNat < (s.kernel s.me.kid).ncore) (hreply : s.me.reply = none)
    (hother : ccKey s.me.kid (s.rx a).toNat ≠ s.me.cc) (hnone : ∀ o ∈ s.ops, o.thr = s.cur → o.kind ≠ .steal (ccKey s.me.kid (s.rx a).toNat)) :
    exec (.dqsteal d a) s = .next ((s.launch
      { id := 0, thr := s.cur, cc := s.me.cc, kind := .steal (ccKey s.me.kid (s.rx a).toNat), slot := s.me.slot, issued := s.me.issued }).park .hold) := by
  have hflight : s.ops.any (fun o => o.thr == s.cur && o.kind == .steal (ccKey s.me.kid (s.rx a).toNat)) = false := by
    rw [List.any_eq_false]
    intro o ho
    simpa only [Bool.and_eq_true, beq_iff_eq, not_and] using hnone o ho
  show execDqsteal d a s = _
  dsimp only [execDqsteal]
  rw [if_neg (Nat.not_le.mpr hcore), hreply]
  dsimp only
  rw [if_neg hother, hflight]
  rfl

/-- What a deque instruction gives, as the deque it leaves and D. -/
theorem exec_dequeNow {i : Instr} {s : State} {cc : Nat} {q : List Word} {d : SReg} {v : Word} (h : dequeNow i s = some (cc, q, d, v)) :
    exec i s = .next ((withDq s cc q).wx d v) := by
  unfold dequeNow at h
  dsimp only at h
  split at h
  case h_1 d a b =>
    split at h
    · cases h
    · next hord =>
      rw [exec_dqpush_room hord]
      split at h
      · next hroom => cases h; exact if_pos hroom
      · next hroom => cases h; exact if_neg hroom
  case h_2 d =>
    split at h
    · next hdq => cases h; rw [hdq]; exact exec_dqpop_nil hdq
    · next hdq => cases h; exact exec_dqpop_cons hdq
  case h_3 d =>
    split at h
    · next hlast => cases h; exact exec_dqsplit_none hlast
    · next hlast =>
      rw [exec_dqsplit_some hlast]
      split at h
      · next hsplit => cases h; exact if_pos hsplit
      · next hsplit => cases h; exact if_neg hsplit
  case h_4 d a =>
    split at h
    · next hc =>
      obtain ⟨hcore, hreply, hown⟩ := hc
      rw [exec_dqsteal_own hcore hreply hown]
      split at h
      · next hlast => cases h; rw [stealFrom_none hlast]; rfl
      · next hlast => cases h; rw [stealFrom_some hlast]; rfl
    · cases h
  case h_5 => cases h

/-! ## A range that ends before it begins -/

/-- The thread after a push of such a range: RANGE may pend. -/
def Thread.rangeNegative (t : Thread) (r : Word) : Thread :=
  { t with pend := if t.modeReg.getLsbD 1 then t.pend ||| 0x400 else t.pend, info := if t.modeReg.getLsbD 1 then t.info.put 10 (r, 0) else t.info }

theorem exec_dqpush_negative {d a b : SReg} {s : State} (h : (s.rx b).toNat % 2 ^ 32 < (s.rx a).toNat % 2 ^ 32) :
    exec (.dqpush d a b) s = .next (((withDq s s.me.cc (deque s)).setMe
      ((joinStat s.me s.cycle 0x20).rangeNegative (packed ((s.rx a).toNat % 2 ^ 32) ((s.rx b).toNat % 2 ^ 32)))).wx d 1) := by
  show execDqpush d a b s = _
  dsimp only [execDqpush]
  rw [if_pos ((rangeLo_lt ..).mpr h), packRange_eq, toNat_rangeLo, toNat_rangeLo]
  cases hmode : s.me.modeReg.getLsbD 1 with
  | false =>
    simp only [Thread.rangeNegative, show (joinStat s.me s.cycle 0x20).modeReg.getLsbD 1 = false from hmode, Bool.false_eq_true, if_false]
    rfl
  | true =>
    have hme : ((s.setDq s.me.cc (deque s)).orStat s.cur statRangeNeg).thread s.cur = joinStat s.me s.cycle 0x20 := State.thread_setThread_same ..
    simp only [Thread.rangeNegative, show (joinStat s.me s.cycle 0x20).modeReg.getLsbD 1 = true from hmode, if_true]
    show done ((((s.setDq s.me.cc (deque s)).orStat s.cur statRangeNeg).pendCause s.cur causeRANGE _ 0).wx d 1) = _
    rw [State.pendCause, hme, State.orStat, State.setThread_setThread]
    rfl

theorem dequeResult : DequeResult := by
  refine ⟨fun i s cc q d v h => ⟨_, exec_dequeNow h, wroteX_wx ..⟩, fun d a b s h => ⟨_, exec_dqpush_negative h, ?_⟩, fun d a s hcore hreply hother hnone =>
    ⟨_, _, exec_dqsteal_other hcore hreply hother hnone, sent_launch .., rfl⟩⟩
  have hme : (stuck (withDq s s.me.cc (deque s)) 0x20).me = joinStat s.me s.cycle 0x20 := State.me_setMe ..
  dsimp only
  rw [hme]
  have hset : (stuck (withDq s s.me.cc (deque s)) 0x20).setMe ((joinStat s.me s.cycle 0x20).rangeNegative (packed ((s.rx a).toNat % 2 ^ 32) ((s.rx b).toNat % 2 ^ 32))) =
      (withDq s s.me.cc (deque s)).setMe ((joinStat s.me s.cycle 0x20).rangeNegative (packed ((s.rx a).toNat % 2 ^ 32) ((s.rx b).toNat % 2 ^ 32))) :=
    State.setThread_setThread ..
  rw [← hset]
  exact wroteX_wx ..

end Sys2Proof.Machine
end

section
/-! Barriers (R130, R369 to R374): the completion check, arrivals, and the wait. -/

namespace Sys2Proof.Machine

open Sys2Proof.Claims

/-! ## Threads woken together -/

/-- The waiting threads of a core, by their entries. -/
theorem mem_waitersOf {s : State} {cc k : Nat} {f : Wait → Bool} : k ∈ s.waitersOf cc f ↔
    ∃ e ∈ s.threads, e.1 = k ∧ e.2.life = .resident ∧ e.2.cc = cc ∧ e.2.slot < 16 ∧ ∃ w, e.2.wait = some w ∧ f w = true := by
  have hwait (t : Thread) : (match t.wait with | some w => f w | none => false) = true ↔ ∃ w, t.wait = some w ∧ f w = true := by
    cases t.wait <;> simp
  unfold State.waitersOf
  simp only [List.mem_flatMap, List.mem_range, List.mem_map, List.mem_filter, Bool.and_eq_true, beq_iff_eq]
  constructor
  · rintro ⟨n, hn, e, ⟨⟨he, ⟨hlife, hcc⟩, hw⟩, hslot⟩, hk⟩
    exact ⟨e, he, hk, hlife, hcc, hslot ▸ hn, (hwait e.2).mp hw⟩
  · rintro ⟨e, he, hk, hlife, hcc, hslot, hw⟩
    exact ⟨_, hslot, e, ⟨⟨he, ⟨hlife, hcc⟩, (hwait e.2).mpr hw⟩, rfl⟩, hk⟩

theorem State.thread_wake (s : State) (j : Nat) (v : Word) (k : Nat) : (s.wake j v).thread k = if k = j then woken (s.thread k) v else s.thread k := by
  split
  · next h => subst h; exact State.thread_setThread_same ..
  · next h => exact State.thread_setThread_ne _ _ _ _ h

/-- Some threads are woken. -/
def State.wakeAll (s : State) (ks : List Nat) (v : Word) : State := ks.foldl (fun s k => s.wake k v) s

/-- Each of them is woken once, as often as it is named. -/
theorem State.thread_wakeAll (ks : List Nat) (v : Word) (s : State) (k : Nat) : (s.wakeAll ks v).thread k = if k ∈ ks then woken (s.thread k) v else s.thread k := by
  induction ks generalizing s with
  | nil => rfl
  | cons j ks ih =>
    rw [State.wakeAll, List.foldl_cons, ← State.wakeAll, ih, State.thread_wake]
    by_cases hk : k = j
    · subst hk
      rw [if_pos rfl, if_pos List.mem_cons_self]
      split <;> rfl
    · rw [if_neg hk]
      simp only [List.mem_cons, hk, false_or]

theorem State.wakeAll_eq (ks : List Nat) (v : Word) (s : State) : ∃ m, s.wakeAll ks v = { s with threads := m } := by
  induction ks generalizing s with
  | nil => exact ⟨s.threads, rfl⟩
  | cons j ks ih => exact (ih (s.wake j v)).imp fun _ h => h

/-! ## The completion check (R370) -/

/-- A barrier is complete. -/
def Bar.Complete (r : Bar) : Prop := r.expected.toNat ≤ r.arrived.toNat ∧ r.pending = 0

theorem barChecked_complete {r : Bar} (h : r.Complete) : barChecked r = { r with arrived := 0, phase := !r.phase } := by
  refine (if_pos h).trans ?_
  rw [h.2]

theorem barChecked_open {r : Bar} (h : ¬r.Complete) : barChecked r = r := if_neg h

/-- t is s after the completion check of barrier b of core-context cc, whose record is r. -/
structure BarCheckedFrom (s t : State) (cc : Nat) (b : BitVec 7) (r : Bar) : Prop where
  bar : t.bar cc b = barChecked r
  others : ∀ c x, c ≠ cc ∨ x ≠ b → t.bar c x = s.bar c x
  cores : ∀ c, t.coreCtx c = { s.coreCtx c with bars := (t.coreCtx c).bars }
  threads : ∀ k, t.thread k = s.thread k ∨ (r.Complete ∧ waitsOn s cc b k ∧ t.thread k = { s.thread k with wait := none, reply := some (if r.phase then 0 else 1) })
  bytes : SameBytes s t
  rest : { t with threads := s.threads, ccs := s.ccs } = s

theorem State.bar_setBar (s : State) (cc : Nat) (b : BitVec 7) (r : Bar) (c : Nat) (x : BitVec 7) : (s.setBar cc b r).bar c x = if c = cc ∧ x = b then r else s.bar c x := by
  rw [State.bar, State.setBar]
  rw [State.coreCtx_setCoreCtx]
  by_cases hc : c = cc
  · subst hc
    rw [if_pos rfl]
    dsimp only
    rw [AMap.get_put]
    simp only [BitVec.toNat_inj, true_and]
    rfl
  · rw [if_neg hc, if_neg (fun h => hc h.1)]
    rfl

theorem State.coreCtx_setBar (s : State) (cc : Nat) (b : BitVec 7) (r : Bar) (c : Nat) : (s.setBar cc b r).coreCtx c = { s.coreCtx c with bars := ((s.setBar cc b r).coreCtx c).bars } := by
  rw [State.setBar, State.coreCtx_setCoreCtx]
  split
  · next h => subst h; rfl
  · rfl

theorem State.setBar_setBar (s : State) (cc : Nat) (b : BitVec 7) (r r' : Bar) : (s.setBar cc b r).setBar cc b r' = s.setBar cc b r' := by
  rw [State.setBar, State.setBar, State.setBar]
  rw [State.coreCtx_setCoreCtx_same, State.setCoreCtx_setCoreCtx]
  rw [AMap.put_put]

/-- A thread parked on a barrier. -/
def onBar (b : BitVec 7) : Wait → Bool
  | .bwait x _ => x == b
  | _ => false

theorem onBar_iff {b : BitVec 7} {w : Wait} : onBar b w = true ↔ ∃ dl, w = .bwait b dl := by
  cases w <;> simp [onBar]

theorem mem_waitersOf_onBar {s : State} {cc k : Nat} {b : BitVec 7} : k ∈ s.waitersOf cc (onBar b) ↔ waitsOn s cc b k := by
  rw [mem_waitersOf]
  simp only [onBar_iff, waitsOn]
  constructor
  · rintro ⟨e, he, hk, hlife, hcc, hslot, w, hw, dl, rfl⟩
    exact ⟨e, he, hk, hlife, hcc, hslot, dl, hw⟩
  · rintro ⟨e, he, hk, hlife, hcc, hslot, dl, hw⟩
    exact ⟨e, he, hk, hlife, hcc, hslot, _, hw, dl, rfl⟩

theorem checkBar_open {s : State} {cc : Nat} {b : BitVec 7} (h : ¬(s.bar cc b).Complete) : s.checkBar cc b = s :=
  if_neg (by simp only [Bool.and_eq_true, decide_eq_true_eq]; exact fun hc => h ⟨BitVec.le_def.mp hc.1, hc.2⟩)

/-- A flip: the record is cleared, and who waits on the barrier is woken with the new phase. -/
theorem checkBar_complete {s : State} {cc : Nat} {b : BitVec 7} (h : (s.bar cc b).Complete) :
    s.checkBar cc b = (s.setBar cc b (barChecked (s.bar cc b))).wakeAll (s.waitersOf cc (onBar b)) (if (s.bar cc b).phase then 0 else 1) := by
  rw [barChecked_complete h]
  exact if_pos (by simp only [Bool.and_eq_true, decide_eq_true_eq]; exact ⟨BitVec.le_def.mpr h.1, h.2⟩)

/-- A barrier's new record and then its completion check. -/
theorem barCheckedFrom_setBar (s : State) (cc : Nat) (b : BitVec 7) (r : Bar) : BarCheckedFrom s ((s.setBar cc b r).checkBar cc b) cc b r := by
  have hbar : (s.setBar cc b r).bar cc b = r := by rw [State.bar_setBar, if_pos ⟨rfl, rfl⟩]
  have hset : BarCheckedFrom s (s.setBar cc b (barChecked r)) cc b r :=
    { bar := by rw [State.bar_setBar, if_pos ⟨rfl, rfl⟩]
      others := fun c x hx => by rw [State.bar_setBar, if_neg (by tauto)]
      cores := s.coreCtx_setBar cc b _
      threads := fun k => Or.inl rfl
      bytes := sameBytes_of_eq rfl rfl
      rest := rfl }
  by_cases h : r.Complete
  · rw [checkBar_complete (hbar.symm ▸ h), hbar, State.setBar_setBar]
    have hthread := State.thread_wakeAll ((s.setBar cc b r).waitersOf cc (onBar b)) (if r.phase then 0 else 1) (s.setBar cc b (barChecked r))
    obtain ⟨m, hm⟩ := State.wakeAll_eq ((s.setBar cc b r).waitersOf cc (onBar b)) (if r.phase then 0 else 1) (s.setBar cc b (barChecked r))
    rw [hm] at hthread ⊢
    exact
      { bar := hset.bar
        others := hset.others
        cores := hset.cores
        threads := fun k => by
          rw [hthread]
          split
          · next hk => exact Or.inr ⟨h, mem_waitersOf_onBar.mp hk, rfl⟩
          · exact Or.inl rfl
        bytes := hset.bytes
        rest := rfl }
  · rw [checkBar_open (hbar.symm ▸ h)]
    rwa [barChecked_open h] at hset

/-! ## BARM and BARR (R130, R374) -/

theorem barm_eq (bar : BitVec 7) (x y : SReg) (s : State) :
    exec (.barm bar x y) s = .next ((s.setBar s.me.cc bar { s.bar s.me.cc bar with expected := BitVec.ofNat 32 ((s.rx x).toNat % 2 ^ 32), pending := s.rx y }).checkBar s.me.cc bar) := by
  have hlow : (s.rx x).extractLsb' 0 32 = BitVec.ofNat 32 ((s.rx x).toNat % 2 ^ 32) := by
    apply BitVec.eq_of_toNat_eq
    rw [toNat_extractLsb', BitVec.toNat_ofNat, pow_zero, Nat.div_one, Nat.mod_mod]
  rw [← hlow]
  rfl

theorem barr_own {sc : Scope} {bar : BitVec 7} {remote : Bool} {x : SReg} {s : State}
    (hcore : remote → (s.rx x).toNat = s.me.core ∧ s.me.core < (s.kernel s.me.kid).ncore) (hsmall : s.me.core < 2 ^ 64) (hrel : s.release sc = .ok s) :
    exec (.barr sc bar remote x) s = .next (s.arriveBar s.me.cc bar s.me.mul.toNat) := by
  have hc : (if remote then s.rx x else BitVec.ofNat 64 s.me.core).toNat = s.me.core := by
    cases remote with
    | true => exact (hcore rfl).1
    | false => exact Nat.mod_eq_of_lt hsmall
  show execBarr sc bar remote x s = _
  dsimp only [execBarr]
  rw [hc, if_neg (by simp only [Bool.and_eq_true, decide_eq_true_eq, not_and, not_le]; exact fun hr => (hcore hr).2)]
  simp only [hrel, bind, Except.bind, if_pos]
  rfl

theorem barr_other {sc : Scope} {bar : BitVec 7} {x : SReg} {s : State} (hrel : s.release sc = .ok s) (hcore : (s.rx x).toNat < (s.kernel s.me.kid).ncore)
    (hother : (s.rx x).toNat ≠ s.me.core) : exec (.barr sc bar true x) s = .next (s.launch
      { id := 0, thr := s.cur, cc := ccKey s.me.kid (s.rx x).toNat, kind := .arrive (ccKey s.me.kid (s.rx x).toNat) bar, mul := s.me.mul.toNat, slot := s.me.slot,
        issued := s.me.issued, conf := true }) := by
  show execBarr sc bar true x s = _
  dsimp only [execBarr]
  rw [if_pos rfl, if_neg (by simpa only [Bool.true_and, decide_eq_true_eq, not_le] using hcore)]
  simp only [hrel, bind, Except.bind, if_neg hother]
  rfl

/-- BARM and an arrival at the own core set the record, and the completion check follows. -/
theorem exec_barNow {i : Instr} {s : State} {b : BitVec 7} {r : Bar} (h : barNow i s = some (b, r)) : exec i s = .next ((s.setBar s.me.cc b r).checkBar s.me.cc b) := by
  unfold barNow at h
  split at h
  · cases h
    exact barm_eq ..
  · split at h
    · next hc =>
      obtain ⟨hcore, hsmall, hrel⟩ := hc
      cases h
      exact barr_own hcore hsmall hrel
    · cases h
  · cases h

theorem barrierResult : BarrierResult := by
  refine ⟨fun i s b r h => ?_, fun sc b x s hrel hcore hother => ⟨_, barr_other hrel hcore hother, sent_launch ..⟩⟩
  obtain ⟨hbar, hothers, hcores, hthreads, hbytes, hrest⟩ := barCheckedFrom_setBar s s.me.cc b r
  refine ⟨_, exec_barNow h, hbar, hothers, hcores, fun k => ?_, hbytes, hrest⟩
  exact (hthreads k).imp_right (fun ⟨hcomplete, hwaits, hwoken⟩ => ⟨hcomplete.1, hcomplete.2, hwaits, hwoken⟩)

/-! ## BWAIT (R130) -/

/-- What a BWAIT was woken with: the phase, and whether it was a time-out. -/
def bwaitReply (phase changed : Bool) : Word := (if phase then 1 else 0) + (if changed then 0 else 2)

theorem bwaitReply_phase (phase changed : Bool) : bwaitReply phase changed &&& 1 = if phase then 1 else 0 := by cases phase <;> cases changed <;> rfl
theorem bwaitReply_changed (phase changed : Bool) : (bwaitReply phase changed).ult 2 = changed := by cases phase <;> cases changed <;> rfl

theorem exec_bwait_woken {sc : Scope} {d : SReg} {b : BitVec 7} {x y : SReg} {p : PReg} {s : State} {phase changed : Bool} (h : s.me.reply = some (bwaitReply phase changed)) :
    exec (.bwait sc d b x y p) s = .next ((s.wx d (if phase then 1 else 0)).wp p changed) := by
  show execBwait sc d b x y p s = _
  unfold execBwait
  simp only [h, bwaitReply_phase, bwaitReply_changed]
  rfl

theorem exec_bwait_changed {sc : Scope} {d : SReg} {b : BitVec 7} {x y : SReg} {p : PReg} {s : State} (hreply : s.me.reply = none)
    (hphase : (s.rx x).getLsbD 0 ≠ (s.bar s.me.cc b).phase) : exec (.bwait sc d b x y p) s = .next ((s.wx d (if (s.bar s.me.cc b).phase then 1 else 0)).wp p true) := by
  show execBwait sc d b x y p s = _
  unfold execBwait
  simp only [hreply, if_pos hphase.symm]
  rfl

theorem barrierWaitResult : BarrierWaitResult := by
  rintro sc d b x y p s phase changed (⟨hreply, rfl, hphase, rfl⟩ | hreply)
  · exact ⟨_, _, exec_bwait_changed hreply hphase, wroteX_wx .., wroteP_wp ..⟩
  · exact ⟨_, _, exec_bwait_woken hreply, wroteX_wx .., wroteP_wp ..⟩

end Sys2Proof.Machine

open Sys2Proof Sys2Proof.Machine Sys2Proof.Claims

/-- Settles O41: the deque by an equation per instruction, the barriers by the completion check after a new record. -/
theorem dequesAndBarriers : Obligations.DequesAndBarriers := ⟨dequeResult, barrierResult, barrierWaitResult⟩
end

section
/-! QSUM where the sources of its bundle are not latched (R79, R191). -/

namespace Sys2Proof.Machine

open Sys2Proof.Claims

/-- A message taken while parked, and a count of 2; the thread goes on at its next bundle, and no latch holds its sources. -/
def unlatchedQsum : State := Tests.State.with_ (Tests.withX Tests.oneMessage [(7, 2)]) (fun t => { t with npc := t.pc + 16 })

/-- The count that decides is read again after it was lowered: QSUM does not stay at its bundle. -/
theorem unlatchedQsum_goes : Tests.after (.qsum Tests.every 0 7) unlatchedQsum (fun t => decide (t.me.npc ≠ t.me.pc)) = true := by decide +kernel

theorem npc_going_pc (u : State) : (going u u.me.pc).me.npc = (going u u.me.pc).me.pc := by
  rw [going, State.me_setMe]

end Sys2Proof.Machine

open Sys2Proof Sys2Proof.Machine Sys2Proof.Claims

/-- Refutes O46: the statement has QSUM stay at its bundle where its count stands above 1 before it, in every state; the model judges the count after lowering it, which
is the same only where the thread's latch holds the sources of its bundle. Without one, QSUM with a count of 2 leaves its bundle. -/
theorem not_messagesSent : ¬ Obligations.MessagesSent := by
  rintro ⟨-, hsum⟩
  obtain ⟨t, u1, u2, v, hexec, -, -, -, ht⟩ := (hsum unlatchedQsum Tests.every 0 7).2 { payload := 1, hdr := 1 } [] (by decide +kernel) (Or.inl (by decide +kernel))
    (by unfold NoneBefore; decide +kernel)
  have hcount : unlatchedQsum.rx 7 ≠ 1 := by decide +kernel
  have hgoes := unlatchedQsum_goes
  rw [Tests.after, hexec] at hgoes
  rw [if_neg hcount] at ht
  rw [ht] at hgoes
  exact of_decide_eq_true hgoes (npc_going_pc u2)
end

section
/-! Threads that start in their slots, tasks that are dispatched or become ready, and threads that migrate (R111, R120, R126, R319, R331, R339, R345, R417). -/

namespace Sys2Proof.Machine

open Sys2Proof.Claims

/-! ## The spawn area (R319) -/

theorem noteSpawn_eq (s : State) (kid : Nat) : s.noteSpawn kid = spawnsNoted s kid := by
  unfold State.noteSpawn spawnsNoted
  dsimp only
  cases hd : (s.kernel kid).described with
  | false => rfl
  | true =>
    have hpoke : Untouched s (s.poke ((s.kernel kid).area kid 3) ((s.spawned kid).flatMap (fun t => t.image false))) := by simp
    have hkernel : (s.poke ((s.kernel kid).area kid 3) ((s.spawned kid).flatMap (fun t => t.image false))).kernel kid = s.kernel kid := by
      rw [State.kernel, hpoke.1]
      rfl
    simp only [Bool.not_true, Bool.false_eq_true, if_false, if_true, State.writeDesc, State.descAddr, hkernel]

/-- A thread that the launch record started has no record in the spawn area. -/
theorem readSpawned_initial {s : State} {kid k : Nat} (h : (s.thread k).tid.toNat < ((s.kernel kid).record.extractLsb' 32 32).toNat) : s.readSpawned kid k = s := by
  have hnone : (s.spawned kid).findIdx? (fun t => t.tid == (s.thread k).tid) = none := by
    rw [List.findIdx?_eq_none_iff]
    intro t ht
    unfold State.spawned at ht
    simp only [List.mem_map, List.mem_filter, Bool.and_eq_true, decide_eq_true_eq] at ht
    obtain ⟨e, ⟨-, -, hle⟩, rfl⟩ := ht
    rw [beq_eq_false_iff_ne]
    intro htid
    rw [htid] at hle
    omega
  unfold State.readSpawned
  dsimp only
  rw [hnone]
  split <;> rfl

/-! ## A waiting thread starts (R111, R339, R417) -/

theorem startAt_eq (s : State) (kid core : Nat) : s.startAt kid core = startsAt s kid core := rfl

/-- A thread that takes its slot and finds nothing held for it. -/
theorem coresAlike_started {s : State} {k cc : Nat} {v : Thread} (hheld : NothingHeld s cc) (hcc : v.cc = cc) : CoresAlike (s.setThread k v) ((s.setThread k v).giveHeld k) := by
  apply coresAlike_giveHeld
  rw [State.thread_setThread_same, hcc]
  exact hheld

theorem exec_threadPlacement {s : State} {cc slot k : Nat} (h : s.placeable cc slot = some k) : exec (.threadPlacement cc slot) s =
    .next (spawnsNoted (((s.readSpawned (cc / 1024) k).setThread k { (s.readSpawned (cc / 1024) k).thread k with
      life := .resident, next := startsAt (s.readSpawned (cc / 1024) k) (cc / 1024) (cc % 1024) }).giveHeld k) (cc / 1024)) := by
  show execThreadPlacement cc slot s = _
  unfold execThreadPlacement
  rw [h]
  dsimp only
  rw [noteSpawn_eq]
  rfl

theorem placementStarts {s : State} {cc slot k : Nat} (h : s.placeable cc slot = some k) :
    let b := s.readSpawned (cc / 1024) k
    NothingHeld b cc → (b.thread k).cc = cc →
    ∃ u, exec (.threadPlacement cc slot) s = .next (spawnsNoted u (cc / 1024)) ∧
      u.thread k = { b.thread k with life := .resident, next := startsAt b (cc / 1024) (cc % 1024) } ∧
      (∀ j, j ≠ k → u.thread j = b.thread j) ∧ (∀ c, u.coreCtx c = b.coreCtx c) ∧ { u with threads := b.threads, ccs := b.ccs } = b := by
  intro b hheld hcc
  have hsame := coresAlike_started (k := k) (v := { b.thread k with life := .resident, next := startsAt b (cc / 1024) (cc % 1024) }) hheld hcc
  refine ⟨_, exec_threadPlacement h, ?_, fun j hj => ?_, hsame.1, ?_⟩
  · rw [hsame.thread]
    exact State.thread_setThread_same ..
  · rw [hsame.thread]
    exact State.thread_setThread_ne _ _ _ _ hj
  · exact congrArg (fun v : State => { v with threads := b.threads }) hsame.2

/-! ## A task is dispatched (R126) -/

theorem taskUnit_empty {s : State} {cc : Nat} (h : (s.coreCtx cc).tq = []) : s.taskUnit cc = s := by
  unfold State.taskUnit
  dsimp only
  split
  · rfl
  · rw [h]
    rfl

theorem readyTask_single {c : CoreCtx} {r : Task} (htask : c.task = none) (hq : c.tq = [r]) (hr : taskRanged r.record = false) : c.readyTask = some (r, { c with tq := [] }) := by
  have hhead : taskHead [r] = some 0 := rfl
  unfold CoreCtx.readyTask
  simp only [htask, hq, hhead, List.getElem?_cons_zero, hr]
  rfl

theorem waitersOf_eq_nil {s : State} {cc : Nat} {f : Wait → Bool} (h : ∀ e ∈ s.threads, ∀ w, e.2.wait = some w → f w = false) : s.waitersOf cc f = [] := by
  rw [List.eq_nil_iff_forall_not_mem]
  intro k hk
  obtain ⟨e, he, -, -, -, -, w, hw, hf⟩ := mem_waitersOf.mp hk
  rw [h e he w hw] at hf
  cases hf

theorem isTaskd_iff {w : Wait} : isTaskd w = true ↔ w = .taskd := by cases w <;> simp [isTaskd]

/-- The thread that runs a dispatched task. -/
def taskThread (s : State) (cc slot : Nat) (r : Task) : Thread :=
  { s.newThread (cc / 1024) (s.kernel (cc / 1024)).nthread with
    core := cc % 1024, slot := slot, life := .resident, pc := taskPc r.record, npc := taskPc r.record, mul := r.mul,
    regs := { Regs.zero with x := Regs.zero.x.set 1 (taskArg r.record) }, upvec := s.runtimeVec (cc / 1024), rper := (s.coreCtx cc).rper, fromTask := true
    footed := taskRanged r.record, next := s.startAt (cc / 1024) (cc % 1024) }

theorem cc_taskThread (s : State) (cc slot : Nat) (r : Task) : (taskThread s cc slot r).cc = cc := by
  show cc / 1024 * 1024 + cc % 1024 = cc
  omega

theorem toNat_taskPc (r : BitVec 256) : (taskPc r).toNat = r.toNat % 2 ^ 56 / 2 ^ 4 * 2 ^ 4 := by
  apply Nat.eq_of_testBit_eq
  intro i
  rw [← BitVec.getLsbD, taskPc, BitVec.truncate_eq_setWidth, BitVec.getLsbD_setWidth, BitVec.getLsbD_and, Nat.testBit_mul_two_pow, Nat.testBit_div_two_pow, Nat.testBit_mod_two_pow]
  by_cases hi : i < 256
  · have hmask : (0xFF_FFFF_FFFF_FFF0 : BitVec 256).getLsbD i = (decide (4 ≤ i) && decide (i < 4 + 52)) := getLsbD_ones (n := 52) (lo := 4) hi
    rw [hmask]
    by_cases h4 : 4 ≤ i
    · rw [show i - 4 + 4 = i by omega, ← BitVec.getLsbD]
      by_cases h56 : i < 56
      · simp [h4, h56, show i < 64 by omega]
      · simp [h4, h56]
    · simp [h4]
  · simp [show ¬i < 64 by omega]
    omega

section
variable {s : State} {cc slot : Nat} {r : Task}

theorem dispatchable_single (hrun : (s.kernel (cc / 1024)).st = .running) (hslot : s.freeSlot (cc / 1024) (cc % 1024) = some slot) (htask : (s.coreCtx cc).task = none)
    (hq : (s.coreCtx cc).tq = [r]) (hr : taskRanged r.record = false) (hhold : taskHold r.record = false) (hwait : ∀ e ∈ s.threads, e.2.wait ≠ some .taskd)
    (hn : (s.kernel (cc / 1024)).nthread ≠ 2 ^ 32 - 1) : s.dispatchable cc = some (r, { s.coreCtx cc with tq := [] }, slot) := by
  have hnone : s.waitersOf cc isTaskd = [] := waitersOf_eq_nil fun e he w hw => by
    rw [Bool.eq_false_iff]
    exact fun hf => hwait e he (isTaskd_iff.mp hf ▸ hw)
  unfold State.dispatchable
  simp only [readyTask_single htask hq hr, hslot]
  rw [if_pos (by simp only [hrun, hhold, hnone, hn, ne_eq, not_false_eq_true, decide_true, Bool.not_false, Bool.and_self])]

/-- The state of a dispatch, before the thread takes what is held for it. -/
def dispatched (s : State) (cc slot : Nat) (r : Task) : State :=
  (((s.setCoreCtx cc { s.coreCtx cc with tq := [] }).setKernel (cc / 1024) { s.kernel (cc / 1024) with nthread := (s.kernel (cc / 1024)).nthread + 1 }).setThread
    (threadKey (cc / 1024) (s.kernel (cc / 1024)).nthread) (taskThread s cc slot r))

theorem exec_taskDispatch (h : s.dispatchable cc = some (r, { s.coreCtx cc with tq := [] }, slot)) (hheld : NothingHeld s cc) :
    ∃ t, exec (.taskDispatch cc) s = .next t ∧ CoresAlike (dispatched s cc slot r) t := by
  have hheld' : NothingHeld ((s.setCoreCtx cc { s.coreCtx cc with tq := [] }).setKernel (cc / 1024)
      { s.kernel (cc / 1024) with nthread := (s.kernel (cc / 1024)).nthread + 1 }) cc := by
    refine ⟨?_, hheld.2⟩
    exact (congrArg CoreCtx.held (State.coreCtx_setCoreCtx_same ..)).trans hheld.1
  have hsame := coresAlike_started (k := threadKey (cc / 1024) (s.kernel (cc / 1024)).nthread) hheld' (cc_taskThread s cc slot r)
  refine ⟨_, ?_, hsame⟩
  show execTaskDispatch cc s = _
  unfold execTaskDispatch
  rw [h]
  dsimp only
  have hempty : (((dispatched s cc slot r).giveHeld (threadKey (cc / 1024) (s.kernel (cc / 1024)).nthread)).coreCtx cc).tq = [] := by
    rw [dispatched, hsame.1]
    exact congrArg CoreCtx.tq (State.coreCtx_setCoreCtx_same ..)
  exact congrArg Host.Outcome.next (taskUnit_empty hempty)
end

/-! ## A task's ranges are staged (R126, R331) -/

theorem heard_nothing {s : State} {cc : Nat} (h : (s.coreCtx cc).noPage = []) (f : Nat → Bool) : s.heard cc f = s := by
  unfold State.heard
  dsimp only
  rw [h]
  rfl

theorem stageLine_pinned {s : State} {cc n i : Nat} (h : i ∈ (s.win cc n).pins) (k : Want) : s.stageLine cc n i k true = (s, none) := by
  unfold State.stageLine
  dsimp only
  rw [if_pos (by simp [h])]

theorem foldl_of_fixed {α β : Type} {f : α → β → α} {a : α} {l : List β} (h : ∀ i ∈ l, f a i = a) : l.foldl f a = a := by
  induction l with
  | nil => rfl
  | cons i l ih => rw [List.foldl_cons, h i List.mem_cons_self, ih fun j hj => h j (List.mem_cons_of_mem _ hj)]

theorem stageWin_pinned {s : State} {cc n : Nat} (hpage : (s.coreCtx cc).noPage = []) (h : ∀ i < (s.win cc n).gran.toNat * 32, i ∈ (s.win cc n).pins) (k : Want) :
    s.stageWin cc n k true = (s, none) := by
  have hall := foldl_of_fixed (l := List.range ((s.win cc n).gran.toNat * 32))
    (f := fun (r : State × Option Nat) i => match r with | (s, some va) => (s, some va) | (s, none) => s.stageLine cc n i k true) (a := (s, none))
    (fun i hi => stageLine_pinned (h i (List.mem_range.mp hi)) k)
  refine Eq.trans (congrArg (fun r : State × Option Nat => match r with | (u, none) => (u.heard cc (s.win cc n).pages, none) | r => r) hall) ?_
  exact congrArg (·, none) (heard_nothing hpage _)

theorem exec_taskStagingComplete {s : State} {cc : Nat} (htask : (s.coreCtx cc).task.isSome) (hready : (s.coreCtx cc).taskReady = false) (hdue : (s.coreCtx cc).taskDue ≤ s.cycle)
    (hpage : (s.coreCtx cc).noPage = []) (h : ∀ n, n = 6 ∨ n = 7 → (s.win cc n).staged → ∀ i < (s.win cc n).gran.toNat * 32, i ∈ (s.win cc n).pins) :
    exec (.taskStagingComplete cc) s = .next (s.setCoreCtx cc { s.coreCtx cc with taskReady := true }) := by
  have hstaging : s.stagingTask cc = true := by
    unfold State.stagingTask
    simp [htask, hready, hdue]
  have one (n : Nat) (hn : n = 6 ∨ n = 7) : (if (s.win cc n).staged then s.stageWin cc n (s.stageWant cc) true else (s, none)) = (s, none) := by
    split
    · next hs => exact stageWin_pinned hpage (h n hn hs) _
    · rfl
  show execTaskStagingComplete cc s = _
  unfold execTaskStagingComplete
  rw [hstaging]
  simp only [one 6 (Or.inl rfl), one 7 (Or.inr rfl)]
  rfl

/-! ## A thread migrates (R345) -/

theorem exec_hwMigration {s : State} {cc k core slot : Nat} (h : s.migrant cc = some (k, core, slot)) :
    ∃ t, exec (.hwMigration cc) s = .next t ∧ t.coreCtx cc = { s.coreCtx cc with movedAt := s.cycle + 1 } ∧ (∀ c, c ≠ cc → t.coreCtx c = s.coreCtx c) ∧
      t.thread k = { s.thread k with core := core, slot := slot, resv := none, next := max (s.thread k).next (startsAt s (cc / 1024) core), after := (t.ops.filter (fun o => o.thr == k && o.kind.isReturn)).map (·.id) } ∧
      (∀ j, j ≠ k → t.thread j = s.thread j) := by
  show ∃ t, execHwMigration cc s = _ ∧ _
  unfold execHwMigration
  rw [h]
  refine ⟨_, rfl, State.coreCtx_setCoreCtx_same .., fun c hc => State.coreCtx_setCoreCtx_ne _ _ _ _ hc, ?_, fun j hj => ?_⟩
  · rw [State.thread_setThread_same, State.moveThread, State.thread_setThread_same]
    rfl
  · rw [State.thread_setThread_ne _ _ _ _ hj, State.moveThread, State.thread_setThread_ne _ _ _ _ hj]
    rfl

end Sys2Proof.Machine

open Sys2Proof Sys2Proof.Machine Sys2Proof.Claims

/-- Settles O15: each event by the state in which it leaves the thread or the task it names. -/
theorem threadsStartAndMove : Obligations.ThreadsStartAndMove := by
  intro s
  refine ⟨fun cc slot k hplace hheld hcc => ⟨readSpawned_initial, placementStarts hplace hheld hcc⟩, ?_, fun cc => exec_taskStagingComplete, fun cc k core slot => exec_hwMigration⟩
  intro cc slot r kid k c hrun hslot htask hq hr hhold hwait hn hheld
  obtain ⟨t, hexec, hsame⟩ := exec_taskDispatch (dispatchable_single hrun hslot htask hq hr hhold hwait hn) hheld
  have hkernel : t.kernel kid = (dispatched s cc slot r).kernel kid := congrArg (fun m : AMap Kernel => AMap.get ({} : Kernel) m kid) hsame.kernels
  have hnew : t.thread (threadKey kid k.nthread) = taskThread s cc slot r := by
    rw [hsame.thread]
    exact State.thread_setThread_same ..
  refine ⟨t, hexec, hkernel.trans (State.kernel_setKernel_same ..), ?_, fun j hj => ?_, ?_⟩
  · rw [hsame.1]
    exact congrArg CoreCtx.tq (State.coreCtx_setCoreCtx_same ..)
  · rw [hsame.thread]
    exact State.thread_setThread_ne _ _ _ _ hj
  · rw [hnew]
    refine ⟨rfl, rfl, rfl, rfl, rfl, rfl, rfl, rfl, toNat_taskPc _, rfl, rfl, rfl, rfl, rfl, ?_, startAt_eq ..⟩
    rw [wrap_natCast]
    rfl
end

section
/-! The task queue (R124 to R127, R331, R332). -/

namespace Sys2Proof.Machine

open Sys2Proof.Claims

/-! ## Task records -/

theorem taskGran_eq (r : BitVec 256) (i : Nat) : taskGran r i = r.toNat / 2 ^ (128 + 64 * i) % 4096 := toNat_extractLsb' ..

theorem extractLsb'_eq_zero_iff {w : Nat} (r : BitVec w) (lo n : Nat) : r.extractLsb' lo n = 0 ↔ r.toNat / 2 ^ lo % 2 ^ n = 0 := by
  rw [← toNat_extractLsb', ← BitVec.toNat_inj, BitVec.ofNat_eq_ofNat, BitVec.toNat_ofNat, Nat.zero_mod]

theorem recordOk_eq (r : BitVec 256) : recordOk r.toNat = taskValid r := by
  unfold recordOk taskValid
  simp only [extractLsb'_eq_zero_iff, taskGran_eq, pow_zero, Nat.div_one]
  rfl

theorem toNat_record (m : Memory) (a : Nat) : (BitVec.ofNat 256 (numAt m a 32)).toNat = numAt m a 32 := by
  rw [BitVec.toNat_ofNat, ← leNat_read]
  have := leNat_lt (m.read a 32)
  rw [Memory.length_read] at this
  exact Nat.mod_eq_of_lt this

theorem taskRanged_truncate (w : BitVec 512) : taskRanged (w.truncate 256) = (decide (w.toNat / 2 ^ 128 % 4096 ≠ 0) || decide (w.toNat / 2 ^ 192 % 4096 ≠ 0)) := by
  have hfield {lo : Nat} (hlo : lo ≤ 192) : w.toNat % 2 ^ 256 / 2 ^ lo % 4096 = w.toNat / 2 ^ lo % 4096 := by
    rw [show (2 : Nat) ^ 256 = 2 ^ lo * 2 ^ (256 - lo) by rw [← pow_add]; congr 1; omega, Nat.mod_mul_right_div_self]
    exact Nat.mod_mod_of_dvd _ (pow_dvd_pow (a := 2) (m := 12) (by omega))
  unfold taskRanged
  rw [taskGran_eq, taskGran_eq, BitVec.truncate, BitVec.toNat_setWidth, hfield (by norm_num), hfield (by norm_num)]

/-- The low bytes of a number do not depend on what lies above them. -/
theorem leBytes_mod (n z : Nat) : leBytes n (z % 256 ^ n) = leBytes n z := by
  have h := leBytes_leNat (leBytes n z)
  rwa [length_leBytes, leNat_leBytes] at h

/-! ## Nothing to hand out -/

theorem readyTask_empty {c : CoreCtx} (htask : c.task = none) (hq : c.tq = []) : c.readyTask = none := by
  unfold CoreCtx.readyTask
  rw [htask, hq]
  rfl

theorem giveTasks_empty {s : State} {cc : Nat} (h : (s.coreCtx cc).readyTask = none) (ks : List Nat) : s.giveTasks cc ks = s := by
  cases ks with
  | nil => rfl
  | cons k ks =>
    rw [State.giveTasks, h]

/-! ## A thread written back as it is -/

theorem State.thread_setMe_me (s : State) (k : Nat) : (s.setMe s.me).thread k = s.thread k := by
  by_cases hk : k = s.cur
  · subst hk; exact State.me_setMe ..
  · exact State.thread_setMe_ne _ _ _ hk

theorem wroteX_setMe_me {s t : State} {d : SReg} {v : Word} (h : WroteX s t d v) : WroteX s (t.setMe t.me) d v := by
  have hcur : t.cur = s.cur := (congrArg State.cur h.rest :)
  have hx (k : Nat) (f : SReg) : (t.setMe t.me).xOf k f = t.xOf k f := by
    unfold State.xOf
    rw [State.thread_setMe_me]
    rfl
  have hme : (t.setMe t.me).me = t.me := State.me_setMe ..
  exact
    { result := by rw [hx]; exact h.result
      others := fun f hf => by rw [hx]; exact h.others f hf
      marks := by rw [hme]; exact h.marks
      own := by rw [hme]; exact h.own
      threads := fun k hk => by rw [State.thread_setMe_me]; exact h.threads k hk
      cores := h.cores
      otherCores := h.otherCores
      bytes := h.bytes
      rest := h.rest }

/-! ## TASKQ (R125) -/

theorem taskq_result {d a : SReg} {s : State} {off : Nat} (hblock : BlockAt s a 32 .read off) :
    let c := s.coreCtx s.me.cc
    let z := numAt c.lm off 32
    exec (.taskq d a) s = .next (
      if recordOk z = false then s.wx d (wrap (-1))
      else if 256 ≤ c.tq.length + (if c.task.isSome then 1 else 0) then s.wx d 0
      else ((withCore s (fun c => { c with tq := c.tq ++ [{ record := BitVec.ofNat 256 z, mul := s.me.mul }] })).taskUnit s.me.cc).wx d 1) := by
  intro c z
  have hvalid : taskValid (BitVec.ofNat 256 z) = recordOk z := by
    rw [← recordOk_eq, toNat_record]
  show execTaskq d a s = _
  unfold execTaskq
  simp only [bind, Except.bind, readBlock_own hblock, wordOf_read, hvalid, show s.coreCtx s.me.cc = c from rfl, show numAt c.lm off 32 = z from rfl]
  cases recordOk z with
  | false => rfl
  | true =>
    simp only [Bool.not_true, Bool.false_eq_true, if_false, Bool.true_eq_false]
    by_cases hfull : 256 ≤ c.tq.length + (if c.task.isSome then 1 else 0)
    · rw [if_pos hfull, if_pos hfull]
      rfl
    · rw [if_neg hfull, if_neg hfull]
      rfl

theorem taskq_wrote {d a : SReg} {s : State} {off : Nat} (hblock : BlockAt s a 32 .read off) :
    ∃ t, exec (.taskq d a) s = .next t ∧
      if recordOk (numAt (s.coreCtx s.me.cc).lm off 32) = false then WroteX s t d (wrap (-1))
      else if 256 ≤ (s.coreCtx s.me.cc).tq.length + (if (s.coreCtx s.me.cc).task.isSome then 1 else 0) then WroteX s t d 0
      else WroteX ((withCore s (fun c => { c with tq := c.tq ++ [{ record := BitVec.ofNat 256 (numAt (s.coreCtx s.me.cc).lm off 32), mul := s.me.mul }] })).taskUnit s.me.cc) t d 1 := by
  have hexec := taskq_result (d := d) hblock
  dsimp only at hexec
  rw [hexec]
  by_cases hok : recordOk (numAt (s.coreCtx s.me.cc).lm off 32) = false
  · exact ⟨_, congrArg Host.Outcome.next (if_pos hok), by rw [if_pos hok]; exact wroteX_wx ..⟩
  by_cases hfull : 256 ≤ (s.coreCtx s.me.cc).tq.length + (if (s.coreCtx s.me.cc).task.isSome then 1 else 0)
  · exact ⟨_, congrArg Host.Outcome.next ((if_neg hok).trans (if_pos hfull)), by rw [if_neg hok, if_pos hfull]; exact wroteX_wx ..⟩
  · exact ⟨_, congrArg Host.Outcome.next ((if_neg hok).trans (if_neg hfull)), by rw [if_neg hok, if_neg hfull]; exact wroteX_wx ..⟩

/-! ## TASKD (R127, R332) -/

theorem taskd_empty {d a : SReg} {s : State} (hq : (s.coreCtx s.me.cc).tq = []) (htask : (s.coreCtx s.me.cc).task = none) (hgot : s.me.got = none) :
    exec (.taskd d a) s = .next (s.wx d 0) := by
  show execTaskd d a s = _
  unfold execTaskd
  simp only [hgot, giveTasks_empty (readyTask_empty htask hq), hq, htask, ite_self]
  rfl

/-- A task record written to the own LM, with 1 in D. -/
def taskWritten (s : State) (d : SReg) (off : Nat) (record : BitVec 256) : State := (s.lmWrite s.me.cc off (leBytes 32 record.toNat)).wx d 1

/-- What TASKD leaves once it has a record: the record in the block, and the thread marked where the record has ranges. -/
def taskPut (s : State) (d : SReg) (off : Nat) (record : BitVec 256) : State :=
  (taskWritten s d off record).setMe { (taskWritten s d off record).me with footed := (taskWritten s d off record).me.footed || taskRanged record }

/-- A block's bytes are sound, and its local memory takes writes. -/
theorem sound_of_blockAt {s : State} {a : SReg} {n off : Nat} {need : Need} (h : BlockAt s a n need off) : s.heldCc s.me.cc = false ∧ LmSound s s.me.cc off n := by
  obtain ⟨r, -, hplace, ⟨-, -, hsound⟩, hheld⟩ := h
  exact ⟨hheld, hsound _ _ hplace⟩

section
variable {s : State} {off : Nat} (hheld : s.heldCc s.me.cc = false) (hsound : LmSound s s.me.cc off 32) (d : SReg) (record : BitVec 256)
include hheld hsound

theorem lmWrote_record : LmWrote s (s.lmWrite s.me.cc off (leBytes 32 record.toNat)) s.me.cc off (bytesOf 32 record.toNat) := by
  have hlen : (leBytes 32 record.toNat).length = 32 := length_leBytes ..
  rw [← leBytes_eq_bytesOf]
  exact lmWrote_lmWrite hheld (by rwa [hlen])

theorem tq_taskWritten (cc : Nat) : ((taskWritten s d off record).coreCtx cc).tq = (s.coreCtx cc).tq := by
  rw [taskWritten, (wroteX_wx ..).cores, (lmWrote_record hheld hsound record).cores]

theorem taskPut_unit (hq : (s.coreCtx s.me.cc).tq = []) : (taskPut s d off record).taskUnit s.me.cc = taskPut s d off record :=
  taskUnit_empty ((tq_taskWritten hheld hsound d record s.me.cc).trans hq)

end

/-- A record without ranges leaves the thread as it was. -/
theorem wroteX_taskPut (s : State) (off : Nat) (d : SReg) {record : BitVec 256} (hr : taskRanged record = false) : WroteX (s.lmWrite s.me.cc off (leBytes 32 record.toNat)) (taskPut s d off record) d 1 := by
  rw [taskPut, hr, Bool.or_false]
  exact wroteX_setMe_me (wroteX_wx ..)

theorem taskd_given {d a : SReg} {s : State} {off : Nat} {m : Msg} (hblock : BlockAt s a 32 .write off) (hgot : s.me.got = some m) (hq : (s.coreCtx s.me.cc).tq = []) :
    exec (.taskd d a) s = .next (taskPut s d off (m.payload.truncate 256)) := by
  obtain ⟨hheld, hsound⟩ := sound_of_blockAt hblock
  obtain ⟨r, hplace, hdest⟩ := destBlock_own hblock (.taskd d a)
  show execTaskd d a s = _
  unfold execTaskd
  simp only [hgot, Option.isSome_some, if_true, Option.isNone_some, Bool.false_and, Bool.false_eq_true, if_false, hdest, State.blockDone, hplace, State.putBlock]
  exact congrArg Host.Outcome.next (taskPut_unit hheld hsound d _ hq)

/-- The own core-context without its queued tasks. -/
def withoutTasks (s : State) : State := withCore s (fun c => { c with tq := [] })

theorem taskd_queued {d a : SReg} {s : State} {off : Nat} {r : Task} (hblock : BlockAt s a 32 .write off) (hgot : s.me.got = none) (htask : (s.coreCtx s.me.cc).task = none)
    (hq : (s.coreCtx s.me.cc).tq = [r]) (hr : taskRanged r.record = false) (hwait : ∀ e ∈ s.threads, e.1 ≠ s.cur → e.2.wait ≠ some .taskd) :
    exec (.taskd d a) s = .next (taskPut (withoutTasks s) d off r.record) := by
  obtain ⟨hheld, hsound⟩ := sound_of_blockAt hblock
  obtain ⟨x, hplace, hdest⟩ := destBlock_own hblock (.taskd d a)
  have hfirst (f : Nat → Bool) : (s.waitersOf s.me.cc isTaskd).filter (fun k => k != s.cur && f k) = [] := by
    rw [List.filter_eq_nil_iff]
    intro k hk
    obtain ⟨e, he, rfl, -, -, -, w, hw, hf⟩ := mem_waitersOf.mp hk
    have : e.1 = s.cur := by
      by_contra hne
      exact hwait e he hne (isTaskd_iff.mp hf ▸ hw)
    simp [this]
  have hempty : ((withoutTasks s).coreCtx s.me.cc).tq = [] := congrArg CoreCtx.tq (State.coreCtx_setCoreCtx_same ..)
  have hready := readyTask_single htask hq hr
  have hput := taskPut_unit (s := withoutTasks s) hheld hsound d r.record hempty
  rw [withoutTasks, withCore] at hput ⊢
  generalize ({ s.coreCtx s.me.cc with tq := [] } : CoreCtx) = c at hready hput ⊢
  show execTaskd d a s = _
  unfold execTaskd
  simp only [hgot, hfirst, State.giveTasks, ite_self, hq, hdest, hready, State.blockDone, hplace, State.putBlock, List.isEmpty_cons, Bool.and_false, Bool.false_and, Bool.false_eq_true, if_false]
  exact congrArg Host.Outcome.next hput

/-! ## TRET and EXIT with nothing staged (R127, R331) -/

theorem unstage_nothing {s : State} {cc : Nat} (h6 : (s.win cc 6).staged = false) (h7 : (s.win cc 7).staged = false) : s.unstage cc = .ok s := by
  unfold State.unstage
  simp only [h6, h7, Bool.not_false, Bool.true_or, if_true, bind, Except.bind]

section
variable {s : State} (h6 : (s.win s.me.cc 6).staged = false) (h7 : (s.win s.me.cc 7).staged = false) (hq : (s.coreCtx s.me.cc).tq = [])
include h6 h7 hq

theorem tret_unstaged : exec .tret s = if s.me.fromTask then exec .exit (s.setMe { s.me with footed := false }) else .next (s.setMe { s.me with footed := false }) := by
  have hme : (s.setMe { s.me with footed := false }).me = { s.me with footed := false } := State.me_setMe ..
  have hexit : exec .exit (s.setMe { s.me with footed := false }) = .next ((s.setMe { s.me with footed := false }).exitThread s.cur) := by
    show execExit _ = _
    unfold execExit
    rw [hme, if_pos (by simp)]
    rfl
  rw [hexit]
  show execTret s = _
  unfold execTret
  simp only [unstage_nothing h6 h7, bind, Except.bind]
  rw [taskUnit_empty (s := s.setMe { s.me with footed := false }) hq, hme]
  by_cases hfrom : s.me.fromTask = true
  · rw [if_pos hfrom, if_pos hfrom]
    rfl
  · rw [if_neg hfrom, if_neg hfrom]
    rfl

theorem exit_footed (htask : s.me.fromTask = true) (hfoot : s.me.footed = true) : exec .exit s = .next (s.exitThread s.cur) := by
  show execExit s = _
  unfold execExit
  rw [htask, hfoot, if_neg (by simp)]
  simp only [unstage_nothing h6 h7, bind, Except.bind, taskUnit_empty hq]
  rfl
end

end Sys2Proof.Machine

open Sys2Proof Sys2Proof.Machine Sys2Proof.Claims

/-- Settles O9: an equation per instruction, by what the queue holds. -/
theorem taskQueueResult : Obligations.TaskQueueResult := by
  intro d a s off c z
  refine ⟨taskq_wrote, fun hq htask hgot => ⟨_, taskd_empty hq htask hgot, wroteX_wx ..⟩, fun r hblock hgot htask hq h0 h1 hwait => ?_,
    fun m hblock hgot htask hq => ?_, fun h6 h7 hq => ⟨tret_unstaged h6 h7 hq, exit_footed h6 h7 hq⟩⟩
  · obtain ⟨hheld, hsound⟩ := sound_of_blockAt hblock
    have hr : taskRanged r.record = false := by simp [taskRanged, h0, h1]
    have hwrote := lmWrote_record (s := withoutTasks s) hheld hsound r.record
    exact ⟨taskPut (withoutTasks s) d off r.record, (withoutTasks s).lmWrite s.me.cc off (leBytes 32 r.record.toNat), taskd_queued hblock hgot htask hq hr hwait, hwrote,
      wroteX_taskPut (withoutTasks s) off d hr⟩
  · obtain ⟨hheld, hsound⟩ := sound_of_blockAt hblock
    have hbytes : bytesOf 32 (m.payload.truncate 256).toNat = bytesOf 32 m.payload.toNat := by
      rw [← leBytes_eq_bytesOf, ← leBytes_eq_bytesOf, BitVec.truncate, BitVec.toNat_setWidth]
      exact leBytes_mod 32 _
    refine ⟨_, _, taskWritten s d off (m.payload.truncate 256), taskd_given hblock hgot hq, hbytes ▸ lmWrote_record hheld hsound _, wroteX_wx .., ?_⟩
    rw [taskPut, taskRanged_truncate, ← Bool.or_assoc]
end

section
/-! SPAWN and MIGR (R111, R120, R319, R339). -/

namespace Sys2Proof.Machine

open Sys2Proof.Claims

/-! ## SPAWN (R111) -/

theorem sent_replyLater (s : State) (d : SReg) (w : Word) :
    Sent s (s.replyLater d w) { id := 0, thr := s.cur, cc := s.me.cc, kind := .reply, dst := some (.s d), data := w, slot := s.me.slot, issued := s.me.issued } := sent_launch ..

/-- The child that the thread in issue makes, entered at e with v in x1. -/
def childThread (s : State) (e v : Word) : Thread :=
  let t := s.me
  let n := (s.kernel t.kid).nthread
  { s.newThread t.kid n with
    pc := e, npc := e, regs := { Regs.zero with x := (Regs.zero.x.set 1 v).set 2 (zx t.tid) }, mul := t.mul, prin := t.prin, rper := t.rper, modeReg := t.modeReg, nto := t.nto
    umask := t.umask, upvec := t.upvec, tmcmp := 0, rkey := t.rkey ^^^ mix64 (BitVec.ofNat 64 n)
    after := (s.ops.filter (fun o => o.thr == s.cur && o.kind.isAccess)).map (·.id) ++ t.owed }

/-- The child stands in the thread table, counted in %nthread. -/
def withChild (s : State) (e v : Word) : State :=
  let k := s.kernel s.me.kid
  (s.setKernel s.me.kid { k with nthread := k.nthread + 1 }).setThread (threadKey s.me.kid k.nthread) (childThread s e v)

section
variable {d a b : SReg} {s : State} (halign : (s.rx a).toNat % 16 = 0) (hlocal : (s.rx a).toNat < 2 ^ 56)
include halign hlocal

theorem exec_spawn_full (hn : (s.kernel s.me.kid).nthread = 2 ^ 32 - 1) : exec (.spawn d a b) s = .next (s.replyLater d (wrap (-1))) := by
  show execSpawn d a b s = _
  dsimp only [execSpawn]
  rw [if_neg (not_not.mpr halign), if_neg (by simpa [isLocal] using hlocal), if_pos hn]
  rfl

theorem exec_spawn_child (hn : (s.kernel s.me.kid).nthread ≠ 2 ^ 32 - 1) : exec (.spawn d a b) s =
    .next (spawnsNoted ((withChild s (s.rx a) (s.rx b)).replyLater d (wrap ((s.kernel s.me.kid).nthread : Int))) s.me.kid) := by
  show execSpawn d a b s = _
  dsimp only [execSpawn]
  rw [if_neg (not_not.mpr halign), if_neg (by simpa [isLocal] using hlocal), if_neg hn, noteSpawn_eq, wrap_natCast]
  rfl
end

theorem eq_iff_low5 {f g : BitVec 6} (hf : isShared f = false) (hg : isShared g = false) : f = g ↔ (low5 f).val = (low5 g).val :=
  ⟨fun h => h ▸ rfl, low5_inj (hf.trans hg.symm)⟩

theorem xOf_child {s u : State} {j : Nat} {e v : Word} (h : u.thread j = childThread s e v) {f : BitVec 6} (hf : isShared f = false) :
    u.xOf j f = if f = 1 then v else if f = 2 then wrap (s.me.tid.toNat : Int) else 0 := by
  have htid : (zx s.me.tid : Word) = wrap (s.me.tid.toNat : Int) := by
    rw [wrap_natCast]
    apply BitVec.eq_of_toNat_eq
    simp [zx]
  have h1 : f = 1 ↔ (low5 f).val = 1 := eq_iff_low5 hf rfl
  have h2 : f = 2 ↔ (low5 f).val = 2 := eq_iff_low5 hf rfl
  have hx : (childThread s e v).regs.x[low5 f] = if (low5 f).val = 2 then zx s.me.tid else if (low5 f).val = 1 then v else 0 := by
    show (((Vector.replicate 32 (0 : Word)).set 1 v).set 2 (zx s.me.tid))[(low5 f).val] = _
    rw [Vector.getElem_set, Vector.getElem_set, Vector.getElem_replicate]
    simp only [eq_comm]
  rw [State.xOf, h]
  rw [if_neg (by simp [hf]), hx, ← htid]
  by_cases h0 : f = 0
  · subst h0; rfl
  · rw [if_neg h0]
    simp only [h1, h2]
    split
    · next h => rw [if_neg (by omega)]
    · rfl

theorem mem_after_child {s : State} {e v : Word} {x : Nat} :
    x ∈ (childThread s e v).after ↔ x ∈ s.me.owed ∨ ∃ o ∈ s.ops, o.thr = s.cur ∧ o.kind.isAccess = true ∧ o.id = x := by
  simp only [childThread, List.mem_append, List.mem_map, List.mem_filter, Bool.and_eq_true, beq_iff_eq, and_assoc, or_comm]

theorem spawnResult : SpawnResult := by
  intro d a b s halign hlocal k n
  by_cases hn : n = 2 ^ 32 - 1
  · exact ⟨_, exec_spawn_full halign hlocal hn, by rw [if_pos hn]; exact sent_replyLater ..⟩
  refine ⟨_, exec_spawn_child halign hlocal hn, ?_⟩
  rw [if_neg hn]
  have hchild : (withChild s (s.rx a) (s.rx b)).thread (threadKey s.me.kid n) = childThread s (s.rx a) (s.rx b) := State.thread_setThread_same ..
  refine ⟨withChild s (s.rx a) (s.rx b), _, sent_replyLater .., rfl, State.kernel_setKernel_same .., fun j hj => State.kernel_setKernel_ne _ _ _ _ hj,
    fun j hj => State.thread_setThread_ne _ _ _ _ hj, rfl, ?_⟩
  rw [hchild]
  refine ⟨rfl, rfl, BitVec.toNat_ofNat .., rfl, rfl, rfl, rfl, fun f hf => xOf_child hchild hf, rfl, rfl, rfl, rfl, rfl, rfl, rfl, ?_, rfl, rfl, rfl, rfl, fun x => mem_after_child⟩
  rw [wrap_natCast]
  rfl

/-! ## The idlest core of a cluster (R120, R345) -/

/-- The better of two, the earlier where neither is better. -/
def pick {α : Type} (better : α → α → Bool) : Option α → α → Option α
  | none, c => some c
  | some x, c => if better c x then some c else some x

section
variable {α : Type} {better : α → α → Bool}

theorem foldl_pick_mem {x : α} (l : List α) (h : l.foldl (pick better) none = some x) : x ∈ l := by
  induction l using List.reverseRecOn with
  | nil => cases h
  | append_singleton l y ih =>
    rw [List.foldl_append, List.foldl_cons, List.foldl_nil] at h
    rw [List.mem_append, List.mem_singleton]
    cases hl : l.foldl (pick better) none with
    | none =>
      rw [hl] at h
      exact Or.inr (Option.some.inj h).symm
    | some z =>
      rw [hl, pick] at h
      split at h
      · exact Or.inr (Option.some.inj h).symm
      · exact Or.inl (ih (hl.trans h))

/-- An element better than all before it, such that none after it is better, is taken. -/
theorem foldl_pick_split {c : α} {l r : List α} (hl : ∀ y ∈ l, better c y = true) (hr : ∀ y ∈ r, better y c = false) :
    (l ++ c :: r).foldl (pick better) none = some c := by
  have htake : pick better (l.foldl (pick better) none) c = some c := by
    cases h : l.foldl (pick better) none with
    | none => rfl
    | some x => exact if_pos (hl x (foldl_pick_mem l h))
  have hkeep : r.foldl (pick better) (some c) = some c := foldl_of_fixed fun y hy => if_neg (by rw [hr y hy]; exact Bool.false_ne_true)
  rw [List.foldl_append, List.foldl_cons, htake, hkeep]
end

theorem idlest_eq (s : State) (kid lc : Nat) : s.idlest kid lc =
    ((List.range 8).filterMap ((s.kernel kid).coreAt lc)).foldl (pick (fun c x => decide (s.readyCount kid c < s.readyCount kid x))) none := by
  have hstep : (fun (b : Option Nat) c => match b with | none => some c | some x => if s.readyCount kid c < s.readyCount kid x then some c else some x) =
      pick (fun c x => decide (s.readyCount kid c < s.readyCount kid x)) := by
    funext b c
    cases b with
    | none => rfl
    | some x => simp only [pick, decide_eq_true_eq]
  exact congrArg (fun f => List.foldl f none ((List.range 8).filterMap ((s.kernel kid).coreAt lc))) hstep

theorem idlest_of_isIdlest {s : State} {c : Nat} (h : IsIdlest s c) : s.idlest s.me.kid ((s.kernel s.me.kid).lcOf s.me.core) = some c := by
  obtain ⟨p, hp, hc, hmin⟩ := h
  obtain ⟨l, r, hrange⟩ := List.append_of_mem (List.mem_range.mpr hp)
  have hsorted : (l ++ p :: r).Pairwise (· < ·) := hrange ▸ List.pairwise_lt_range
  have hbefore : ∀ q ∈ l, q < p := fun q hq => (List.pairwise_append.mp hsorted).2.2 q hq p List.mem_cons_self
  have hlow : ∀ q ∈ l ++ p :: r, q < 8 := fun q hq => List.mem_range.mp (hrange ▸ hq)
  rw [idlest_eq, hrange, List.filterMap_append, List.filterMap_cons_some hc]
  refine foldl_pick_split (fun y hy => ?_) (fun y hy => ?_)
  · obtain ⟨q, hq, hy⟩ := List.mem_filterMap.mp hy
    exact decide_eq_true ((hmin q (hlow q (List.mem_append_left _ hq)) y hy).2 (hbefore q hq))
  · obtain ⟨q, hq, hy⟩ := List.mem_filterMap.mp hy
    exact decide_eq_false (Nat.not_lt.mpr (hmin q (hlow q (List.mem_append_right _ (List.mem_cons_of_mem _ hq))) y hy).1)

/-! ## MIGR (R120) -/

/-- The core that MIGR goes to. -/
def migrTarget (s : State) (a : SReg) : Option Nat :=
  if s.rx a = noThread then s.idlest s.me.kid ((s.kernel s.me.kid).lcOf s.me.core) else some (s.rx a).toNat

theorem migrTarget_of_names {s : State} {a : SReg} {c : Nat} (h : Names s a c) : migrTarget s a = some c := by
  unfold migrTarget
  rcases h with ⟨hw, hc⟩ | ⟨hw, hidle⟩
  · rw [if_neg (fun hall => by rw [hall] at hw; rw [← hw] at hc; exact absurd hc (by decide)), hw]
  · rw [if_pos (show s.rx a = noThread from hw), idlest_of_isIdlest hidle]

/-- What the model asks of a move to core c. -/
def mayMoveNow (s : State) (c : Nat) : Bool :=
  let t := s.me
  let k := s.kernel t.kid
  k.migOn && t.modeReg.getLsbD 3 && decide (c < k.ncore) && k.lcOf c == k.lcOf t.core && c != t.core && (s.freeSlot t.kid c).isSome && !t.streams.any (fun e => e.2.bound)

theorem mayMoveNow_iff {s : State} {c : Nat} : mayMoveNow s c = true ↔ MayMove s c := by
  unfold mayMoveNow MayMove Kernel.migOn
  simp only [Bool.and_eq_true, Bool.not_eq_true', decide_eq_true_eq, beq_iff_eq, bne_iff_ne, List.any_eq_false, Bool.not_eq_true, and_assoc]

theorem cutLr_nothing {s : State} {k : Nat} (h : ∀ o ∈ s.ops, o.thr = k → ¬o.kind.isReturn) : s.cutLr k = s := by
  have hops : s.ops.map (fun o => if o.thr = k then (match o.kind with | .lr sg => { o with kind := .load sg } | _ => o) else o) = s.ops := by
    conv_rhs => rw [← List.map_id s.ops]
    apply List.map_congr_left
    intro o ho
    split
    · next hk =>
      have := h o ho hk
      split
      · next hkind => rw [hkind] at this; exact absurd rfl this
      · rfl
    · rfl
  exact congrArg (fun l : List Op => { s with ops := l }) hops

section
variable {d a : SReg} {s : State} {c : Nat} (hnames : Names s a c)
include hnames

theorem exec_migr : exec (.migr d a) s =
    if mayMoveNow s c = true then
      if s.ops.any (fun o => o.thr == s.cur && o.kind.isReturn) then .next (s.park .hold)
      else .next ((s.moveThread s.cur c ((s.freeSlot s.me.kid c).getD 0)).wx d 1)
    else .next (s.wx d 0) := by
  have hin : ¬(decide (1024 ≤ (s.rx a).toNat) && decide (s.rx a ≠ noThread)) = true := by
    simp only [Bool.and_eq_true, decide_eq_true_eq, not_and, not_not]
    rcases hnames with ⟨hw, hc⟩ | ⟨hw, -⟩
    · intro h; omega
    · exact fun _ => hw
  have htarget := migrTarget_of_names hnames
  show execMigr d a s = _
  unfold execMigr
  dsimp only
  rw [if_neg hin, show (if s.rx a = noThread then s.idlest s.me.kid ((s.kernel s.me.kid).lcOf s.me.core) else some (s.rx a).toNat) = some c from htarget]
  show (if (!mayMoveNow s c) = true then done (s.wx d 0) else _) = _
  cases mayMoveNow s c <;> rfl

theorem migrates {slot : Nat} (hmay : MayMove s c) (hslot : s.freeSlot s.me.kid c = some slot) (hnone : ∀ o ∈ s.ops, o.thr = s.cur → ¬o.kind.isReturn) :
    exec (.migr d a) s = .next ((s.setMe { s.me with core := c, slot := slot, resv := none }).wx d 1) := by
  have hreturn : s.ops.any (fun o => o.thr == s.cur && o.kind.isReturn) = false := by
    rw [List.any_eq_false]
    intro o ho
    simpa only [Bool.and_eq_true, beq_iff_eq, not_and] using hnone o ho
  rw [exec_migr hnames, if_pos (mayMoveNow_iff.mpr hmay), hreturn, hslot, State.moveThread, cutLr_nothing hnone]
  rfl
end

theorem migrationResult : MigrationResult := by
  refine fun d a s c hnames => ⟨fun slot hmay hslot hnone => ⟨_, migrates hnames hmay hslot hnone, wroteX_wx ..⟩, fun hnot => ⟨s.wx d 0, ?_, wroteX_wx ..⟩⟩
  rw [exec_migr hnames, if_neg (mt mayMoveNow_iff.mp hnot)]

end Sys2Proof.Machine

open Sys2Proof Sys2Proof.Machine Sys2Proof.Claims

/-- Settles O43: the child is the thread that SPAWN enters, and MIGR goes to the first core of the lowest count. -/
theorem spawnAndMigration : Obligations.SpawnAndMigration := ⟨spawnResult, migrationResult⟩
end

section
/-! Meets that close, leases that pass, and the windows of %rper (R118, R168, R169, R214, R272, R359). -/

namespace Sys2Proof.Machine

open Sys2Proof.Claims

/-! ## A local entry is closed (R359) -/

theorem table_of_closes {s : State} {kid lc entry : Nat} {e : Meet} {i : Instr} (h : Closes s kid lc entry e i) : (kid * 1024 + lc) / 1024 = kid ∧ (kid * 1024 + lc) % 1024 = lc := by
  have := h.1
  omega

/-- The entry that find? gives stands in the table, under its number. -/
theorem any_of_find {m : AMap Meet} {n : Nat} {e : Meet} {p : Meet → Bool} (h : m.find? (fun x => x.1 == n) = some (n, e)) (hp : p e = true) :
    m.any (fun x => x.1 == n && p x.2) = true := by
  rw [List.any_eq_true]
  exact ⟨(n, e), List.mem_of_find?_eq_some h, by simp [hp]⟩

/-- A close that is due closes the entry. -/
theorem exec_closes {s : State} {kid lc entry : Nat} {e : Meet} {i : Instr} (h : Closes s kid lc entry e i) : exec i s = .next (s.closeLocal kid (lc * 256 + entry)) := by
  have htable := table_of_closes h
  obtain ⟨-, hfind, hhome, hkind⟩ := h
  rw [show lc * 256 + entry = meetKey lc entry from rfl] at hfind ⊢
  obtain ⟨rfl, hclosing, hdet, hdue⟩ | ⟨rfl, hclosing⟩ := hkind
  · show execMeetWindowExpiry (kid * 1024 + lc) entry s = _
    have hany := any_of_find (p := fun x => !x.home && !x.closing && decide (x.opened + x.win.toNat ≤ s.tick)) hfind (by simp [hhome, hclosing, hdue])
    unfold execMeetWindowExpiry
    rw [htable.1, htable.2]
    refine if_pos ?_
    unfold State.windowDue
    dsimp only
    rw [hdet]
    simpa only [Bool.not_false, Bool.true_and, Bool.and_assoc] using hany
  · show execMeetClose (kid * 1024 + lc) entry s = _
    have hany := any_of_find (p := fun x => !x.home && x.closing) hfind (by simp [hhome, hclosing])
    unfold execMeetClose
    rw [htable.1, htable.2]
    refine if_pos ?_
    simpa only [Bool.and_assoc] using hany

/-- The meets of a kernel once an entry is closed: the entry is gone, and the home's with the last of its generation. -/
def meetsWithout (m : AMap Meet) (n : Nat) (e : Meet) : AMap Meet :=
  let meets := m.del n
  if meets.any (fun x => !x.2.home && x.2.gid == e.gid && x.2.mid == e.mid && x.2.gen == e.gen) then meets
  else meets.filter (fun x => !(x.2.home && x.2.gid == e.gid && x.2.mid == e.mid && x.2.gen == e.gen))

theorem not_mem_meetsWithout {m : AMap Meet} {n : Nat} {e : Meet} : ∀ x ∈ meetsWithout m n e, x.1 ≠ n := by
  intro x hx
  have hdel : x ∈ m.del n := by
    unfold meetsWithout at hx
    dsimp only at hx
    split at hx
    · exact hx
    · exact List.mem_of_mem_filter hx
  simpa using (List.mem_filter.mp hdel).2

/-- s with an entry's meets gone. -/
def entryFreed (s : State) (kid n : Nat) (e : Meet) : State := s.setKernel kid { s.kernel kid with meets := meetsWithout (s.kernel kid).meets n e }

theorem closeLocal_eq {s : State} {kid n : Nat} {e : Meet} (h : (s.kernel kid).meets.find? (fun x => x.1 == n) = some (n, e)) :
    s.closeLocal kid n = ((classes (entryFreed s kid n e) (e.waiters.foldr (insertTid (entryFreed s kid n e)) [])).foldl State.releaseClass (entryFreed s kid n e)).lastThread kid := by
  unfold State.closeLocal
  dsimp only
  rw [h] <;> rfl

/-- A kernel's last thread may be gone: nothing else changes but that kernel's state. -/
theorem lastThread_eq (s : State) (kid : Nat) : ∃ st, s.lastThread kid = s ∨ s.lastThread kid = s.setKernel kid { s.kernel kid with st := st } := by
  unfold State.lastThread
  dsimp only
  split
  · exact ⟨_, Or.inr rfl⟩
  · exact ⟨.draining, Or.inl rfl⟩

/-- Threads changed by a release, and operations that an ended thread leaves; the entry is gone. -/
structure Released (s t : State) (kid n : Nat) : Prop where
  freed : ∀ x ∈ (t.kernel kid).meets, x.1 ≠ n
  cores : t.ccs = s.ccs
  bytes : SameBytes s t

theorem released_lastThread {s u : State} {kid n : Nat} {e : Meet} (h : { u with threads := s.threads, ops := s.ops } = entryFreed s kid n e) :
    Released s (u.lastThread kid) kid n ∧ ∀ k, (u.lastThread kid).thread k = u.thread k := by
  have hkernels : u.kernels = (entryFreed s kid n e).kernels := (congrArg State.kernels h :)
  have hccs : u.ccs = s.ccs := (congrArg State.ccs h :)
  have hmem : u.mem = s.mem := (congrArg State.mem h :)
  have hhost : u.hostMem = s.hostMem := (congrArg State.hostMem h :)
  have hmeets : (u.kernel kid).meets = meetsWithout (s.kernel kid).meets n e := by
    rw [State.kernel, hkernels]
    exact congrArg Kernel.meets (State.kernel_setKernel_same ..)
  obtain ⟨st, hlast | hlast⟩ := lastThread_eq u kid
  · rw [hlast]
    exact ⟨⟨by rw [hmeets]; exact not_mem_meetsWithout, hccs, sameBytes_of_eq hmem hhost⟩, fun _ => rfl⟩
  · rw [hlast]
    refine ⟨⟨?_, hccs, sameBytes_of_eq hmem hhost⟩, fun _ => rfl⟩
    rw [State.kernel_setKernel_same]
    dsimp only
    rw [hmeets]
    exact not_mem_meetsWithout

/-! ## One thread, and two equal ones (R118) -/

theorem closeLocal_single {s : State} {kid n : Nat} {e : Meet} {w : Waiter} (h : (s.kernel kid).meets.find? (fun x => x.1 == n) = some (n, e)) (hw : e.waiters = [w]) :
    s.closeLocal kid n = ((entryFreed s kid n e).wake w.thr 0).lastThread kid := by
  rw [closeLocal_eq h, hw]
  rfl

theorem sameState_of_alike {s : State} {x y : Waiter} (h : Alike s x y) : sameState s x y = true := by
  obtain ⟨hhash, hlive, hpc, hregs, hpreds, hgroups⟩ := h
  unfold sameState
  simp only [Bool.and_eq_true, beq_iff_eq, List.all_eq_true, List.mem_range, Bool.or_eq_true, Bool.not_eq_true', decide_eq_true_eq, List.contains_iff_mem]
  refine ⟨⟨⟨⟨⟨⟨hhash, hpc⟩, hlive⟩, fun i hi => ?_⟩, fun i hi => ?_⟩, fun g hg => (hgroups g).mp hg⟩, fun g hg => (hgroups g).mpr hg⟩
  · cases hbit : x.live.getLsbD i with
    | false => exact Or.inl rfl
    | true => exact Or.inr (hregs i hi hbit)
  · by_cases h0 : i = 0
    · exact Or.inl h0
    · refine Or.inr ?_
      have hp := hpreds ⟨i, hi⟩ (fun hz => h0 (congrArg Fin.val hz))
      rw [Nat.mod_eq_of_lt hi, getElem!_pos _ i hi, getElem!_pos _ i hi]
      exact hp

/-- Two waiting threads in order of %tid, whichever came first. -/
theorem sorted_pair {s : State} {x y : Waiter} (h : (s.thread x.thr).tid.toNat < (s.thread y.thr).tid.toNat) {l : List Waiter} (hl : l = [x, y] ∨ l = [y, x]) :
    l.foldr (insertTid s) [] = [x, y] := by
  rcases hl with rfl | rfl
  · show insertTid s x [y] = _
    rw [insertTid, if_pos (BitVec.le_def.mpr (Nat.le_of_lt h))]
  · show insertTid s y [x] = _
    rw [insertTid, if_neg (fun hle => absurd (BitVec.le_def.mp hle) (Nat.not_le.mpr h))]
    rfl

theorem classes_pair {s : State} {x y : Waiter} (h : sameState s x y = true) : classes s [x, y] = [[x, y]] := by
  have hfind : [[y]].findIdx? (fun c => c.any (fun z => sameState s x z)) = some 0 := by
    rw [List.findIdx?_cons, if_pos (by simp [h])]
  show (match [[y]].findIdx? (fun c => c.any (fun z => sameState s x z)) with | some i => [[y]].modify i (fun c => x :: c) | none => [x] :: [[y]]) = _
  rw [hfind] <;> rfl

/-- Two equal threads become the first, with m as its %mul and D = 1. -/
def merged (v : State) (x y : Nat) (m : BitVec 48) : State := ((v.setThread x { v.thread x with mul := m }).wake x 1).endThread y

section
variable {v : State} {x y : Nat} (m : BitVec 48)

/-- A merge changes threads, and the operations of the one that ends. -/
theorem rest_merged : { merged v x y m with threads := v.threads, ops := v.ops } = v := rfl

theorem thread_merged_kept (hne : x ≠ y) : (merged v x y m).thread x = { v.thread x with mul := m, wait := none, reply := some 1 } := by
  rw [merged, State.endThread, State.thread_setThread_ne _ _ _ _ hne]
  refine (State.thread_setThread_same ..).trans ?_
  rw [State.thread_setThread_same]

theorem thread_merged_ended (hne : x ≠ y) : (merged v x y m).thread y =
    { v.thread y with life := .ended, resv := none, frame := [], owed := [], streams := [], pend := 0, groups := [], wait := none } := by
  have hy : (((v.setThread x { v.thread x with mul := m }).wake x 1).orphan y).thread y = v.thread y :=
    (State.thread_setThread_ne _ _ _ _ hne.symm).trans (State.thread_setThread_ne _ _ _ _ hne.symm)
  rw [merged, State.endThread, State.thread_setThread_same, hy]

theorem thread_merged_other {j : Nat} (hx : j ≠ x) (hy : j ≠ y) : (merged v x y m).thread j = v.thread j := by
  rw [merged, State.endThread, State.thread_setThread_ne _ _ _ _ hy]
  exact (State.thread_setThread_ne _ _ _ _ hx).trans (State.thread_setThread_ne _ _ _ _ hx)
end

/-- A class of two whose multiplicities fit. -/
theorem releaseClass_pair {v : State} {x y : Waiter} (hsum : (v.thread x.thr).mul.toNat + (v.thread y.thr).mul.toNat < 2 ^ 48) :
    v.releaseClass [x, y] = merged v x.thr y.thr (BitVec.ofNat 48 ((v.thread x.thr).mul.toNat + (v.thread y.thr).mul.toNat)) := by
  have htotal : ([x, y].map (fun z => (v.thread z.thr).mul.toNat)).sum = (v.thread x.thr).mul.toNat + (v.thread y.thr).mul.toNat := by
    simp only [List.map_cons, List.map_nil, List.sum_cons, List.sum_nil, Nat.add_zero]
  unfold State.releaseClass
  dsimp only
  rw [htotal, if_neg (Nat.not_le.mpr hsum)]
  rfl

theorem thread_entryFreed (s : State) (kid n : Nat) (e : Meet) (k : Nat) : (entryFreed s kid n e).thread k = s.thread k := rfl

theorem closeLocal_pair {s : State} {kid n : Nat} {e : Meet} {x y : Waiter} (h : (s.kernel kid).meets.find? (fun z => z.1 == n) = some (n, e))
    (hw : e.waiters = [x, y] ∨ e.waiters = [y, x]) (htid : (s.thread x.thr).tid.toNat < (s.thread y.thr).tid.toNat) (halike : Alike s x y)
    (hsum : (s.thread x.thr).mul.toNat + (s.thread y.thr).mul.toNat < 2 ^ 48) : s.closeLocal kid n =
    (merged (entryFreed s kid n e) x.thr y.thr (BitVec.ofNat 48 ((s.thread x.thr).mul.toNat + (s.thread y.thr).mul.toNat))).lastThread kid := by
  rw [closeLocal_eq h]
  have hthreads := thread_entryFreed s kid n e
  have halike' : Alike (entryFreed s kid n e) x y := halike
  generalize entryFreed s kid n e = v at hthreads halike' ⊢
  rw [← hthreads, ← hthreads] at htid hsum ⊢
  rw [sorted_pair htid hw, classes_pair (sameState_of_alike halike'), List.foldl_cons, List.foldl_nil, releaseClass_pair hsum]

theorem meetsClose : MeetsClose := by
  intro s kid lc entry e i hcloses
  have hexec := exec_closes hcloses
  have hfind := hcloses.2.1
  refine ⟨fun w hw => ⟨_, hexec, ?_⟩, fun x y hw hne htid halike hsum => ?_⟩
  · rw [closeLocal_single hfind hw]
    obtain ⟨⟨hfreed, hcores, hbytes⟩, hthreads⟩ := released_lastThread (s := s) (kid := kid) (n := lc * 256 + entry) (e := e)
      (u := (entryFreed s kid (lc * 256 + entry) e).wake w.thr 0) rfl
    refine ⟨hfreed, ?_, fun j hj => ?_, hcores, hbytes⟩
    · rw [hthreads]
      exact State.thread_setThread_same ..
    · rw [hthreads]
      exact State.thread_setThread_ne _ _ _ _ hj
  · rw [closeLocal_pair hfind hw htid halike hsum] at hexec
    have hrest := rest_merged (v := entryFreed s kid (lc * 256 + entry) e) (x := x.thr) (y := y.thr) (BitVec.ofNat 48 ((s.thread x.thr).mul.toNat + (s.thread y.thr).mul.toNat))
    obtain ⟨⟨hfreed, hcores, hbytes⟩, hthreads⟩ := released_lastThread (s := s) hrest
    refine ⟨_, hexec, hfreed, ?_, ?_, fun j hx hy => ?_, hcores, hbytes⟩
    · rw [hthreads, thread_merged_kept _ hne]
      rfl
    · rw [hthreads, thread_merged_ended _ hne]
      rfl
    · rw [hthreads, thread_merged_other _ hx hy]
      rfl

/-! ## Leases (R168, R169, R214) -/

theorem State.unit_setUnit_same (s : State) (u : Nat) (r : EngUnit) : (s.setUnit u r).unit u = r := AMap.get_put_same ..

theorem State.setUnit_setUnit (s : State) (u : Nat) (a b : EngUnit) : (s.setUnit u a).setUnit u b = s.setUnit u b :=
  congrArg (fun m : AMap EngUnit => { s with units := m }) (AMap.put_put ..)

/-- A request that goes before another: of a higher priority, or as high and earlier. -/
def goesBefore (a b : LeaseReq) : Bool := decide (b.prio < a.prio) || (b.prio == a.prio && decide (a.seq < b.seq))

theorem bestReq_eq (l : List LeaseReq) : bestReq l = l.foldl (pick goesBefore) none := by
  have hstep : (fun (b : Option LeaseReq) r => match b with
      | none => some r
      | some x => if x.prio < r.prio || (x.prio == r.prio && decide (r.seq < x.seq)) then some r else some x) = pick goesBefore := by
    funext b r
    cases b <;> rfl
  exact congrArg (fun f => List.foldl f none l) hstep

theorem bestReq_of_best {l : List LeaseReq} {r : LeaseReq} (hr : r ∈ l) (hbest : ∀ x ∈ l, x ≠ r → x.prio < r.prio ∨ x.prio = r.prio ∧ r.seq < x.seq) : bestReq l = some r := by
  obtain ⟨before, after, rfl, hfirst⟩ := List.eq_append_cons_of_mem hr
  rw [bestReq_eq]
  refine foldl_pick_split (fun y hy => ?_) (fun y hy => ?_)
  · have := hbest y (List.mem_append_left _ hy) (fun h => hfirst (h ▸ hy))
    simpa [goesBefore] using this
  · by_cases hyr : y = r
    · simp [goesBefore, hyr]
    · have := hbest y (List.mem_append_right _ (List.mem_cons_of_mem _ hy)) hyr
      simp only [goesBefore, Bool.or_eq_false_iff, Bool.and_eq_false_iff, decide_eq_false_iff_not, beq_eq_false_iff_ne]
      omega

/-- Nothing to save or restore: the engine is taken at once. -/
theorem takeUnit_clean {s : State} {u cc : Nat} (hloaded : (s.unit u).loaded = none ∨ (s.unit u).loaded = some cc) (hbanks : (s.coreCtx cc).spilled = false)
    (hclause : (s.clause (engKey (s.kernel (cc / 1024)).ctx u)).spilled = false) : s.takeUnit u cc = s.setUnit u { s.unit u with loaded := some cc } := by
  have hspill : s.spillUnit u cc (some cc) = s := by
    unfold State.spillUnit
    dsimp only
    split
    · exact if_pos rfl
    · exact if_pos rfl
  have hload : (if u < 128 then s.loadBanks cc else s.loadClause (s.kernel (cc / 1024)).ctx u) = s := by
    split
    · rw [State.loadBanks, hbanks] <;> rfl
    · unfold State.loadClause
      dsimp only
      rw [hclause] <;> rfl
  unfold State.takeUnit
  rcases hloaded with h | h
  · simp only [h, hload]
  · simp only [h, hspill, hload]

/-- Only a clause array's lease is noted. -/
theorem noteArray_unnoted {s : State} {ctx u : Nat} (hu : u < 256) : s.noteArray ctx u = s := if_pos (by simp [hu])

theorem grantUnit_clean {s : State} {u cc : Nat} (hu : u < 256) (hloaded : (s.unit u).loaded = none ∨ (s.unit u).loaded = some cc) (hbanks : (s.coreCtx cc).spilled = false)
    (hclause : (s.clause (engKey (s.kernel (cc / 1024)).ctx u)).spilled = false) : s.grantUnit u cc = s.setUnit u { s.unit u with
      holder := some cc, loaded := some cc, passing := none, granted := 0, since := s.tick, expired := false, arb := (s.unit u).arb.filter (fun x => x.cc != cc) } := by
  unfold State.grantUnit
  dsimp only
  rw [takeUnit_clean hloaded hbanks hclause, State.unit_setUnit_same, State.setUnit_setUnit, noteArray_unnoted hu]
  rfl

section
variable {s : State} {u : Nat} (hdue : s.passageDue u = true)
include hdue

theorem exec_leasePassage_free {cc : Nat} (harb : (s.unit u).arb = []) (hpassing : (s.unit u).passing = some cc) (hruns : s.engRuns (s.kernel (cc / 1024)).ctx = true) :
    exec (.leasePassage u) s = .next (s.setUnit u { s.unit u with passing := none }) := by
  have hbest : bestReq (s.unit u).arb = none := by rw [harb]; rfl
  show execLeasePassage u s = _
  unfold execLeasePassage
  simp only [hdue, hbest, hpassing, hruns]
  rfl

theorem exec_leasePassage_taken {r : LeaseReq} (hbest : bestReq (s.unit u).arb = some r) : exec (.leasePassage u) s = .next (s.grantUnit u r.cc) := by
  show execLeasePassage u s = _
  unfold execLeasePassage
  simp only [hdue, hbest]
  rfl
end

theorem exec_grantExpiry {s : State} {u : Nat} (hholder : (s.unit u).holder.isSome) (hexpired : (s.unit u).expired = false)
    (hover : 64 ≤ (s.unit u).granted ∨ (s.unit u).since + 65536 ≤ s.tick) : exec (.grantExpiry u) s = .next (s.setUnit u { s.unit u with expired := true }) :=
  if_pos (by
    unfold State.grantOver
    simpa [hholder, hexpired] using hover)

/-! ## The measured %rper (R272) -/

theorem rperOf_short {ticks : Nat} (h : ticks < 4096) : rperOf ticks = 0 := if_pos h

theorem rperOf_between {ticks k : Nat} (hlo : 2 ^ k * 4096 ≤ ticks) (hhi : ticks < 2 ^ (k + 1) * 4096) : rperOf ticks = min 10 (if 3 * 2 ^ k * 4096 ≤ 2 * ticks then k + 1 else k) := by
  have hpos : 0 < 2 ^ k := by positivity
  have hlog : Nat.log2 (ticks / 4096) = k := by
    rw [Nat.log2_eq_iff (by omega)]
    omega
  unfold rperOf
  rw [if_neg (by omega), hlog]

/-- A thread whose %rper is the measured one. -/
def Thread.measured (t : Thread) (cc : Nat) (r : BitVec 4) : Thread := if (t.life == .resident || t.life == .waiting) && t.cc == cc && !t.rperSet then { t with rper := r } else t

theorem measured_eq {t : Thread} {cc : Nat} (r : BitVec 4) (hlife : t.life = .resident ∨ t.life = .waiting) (hcc : t.cc = cc) (hset : t.rperSet = false) : t.measured cc r = { t with rper := r } :=
  if_pos (by simpa [hcc, hset] using hlife)

theorem measured_keeps {t : Thread} {cc : Nat} (r : BitVec 4) (h : t.cc ≠ cc ∨ t.rperSet = true ∨ t.life ≠ .resident ∧ t.life ≠ .waiting) : t.measured cc r = t :=
  if_neg (by
    simp only [Bool.and_eq_true, Bool.or_eq_true, beq_iff_eq, Bool.not_eq_true']
    rintro ⟨⟨hlife, hcc⟩, hset⟩
    rcases h with h | h | h
    · exact h hcc
    · rw [h] at hset; cases hset
    · exact hlife.elim h.1 h.2)

/-- s as a window's end leaves it: the measured value r in the core-context and its threads. -/
def windowEnded (s : State) (cc : Nat) (r : BitVec 4) : State :=
  let v := s.setCoreCtx cc { s.coreCtx cc with rper := r, memOps := (s.coreCtx cc).memOps - 4096, winStart := s.tick }
  { v with threads := v.threads.mapV (fun _ t => t.measured cc r) }

theorem thread_windowEnded (s : State) (cc : Nat) (r : BitVec 4) (k : Nat) : (windowEnded s cc r).thread k = (s.thread k).measured cc r :=
  AMap.get_mapV (f := fun _ (t : Thread) => t.measured cc r) (fun _ => measured_keeps r (Or.inr (Or.inr ⟨by decide, by decide⟩))) _ k

theorem exec_rperWindowEnd {s : State} {cc : Nat} (h : 4096 ≤ (s.coreCtx cc).memOps) :
    exec (.rperWindowEnd cc) s = .next (windowEnded s cc (BitVec.ofNat 4 (rperOf (s.tick - (s.coreCtx cc).winStart)))) := by
  have hdue : s.rperDue cc = true := decide_eq_true h
  exact if_neg (by rw [hdue]; decide)

theorem leasesPassAndWindowsEnd : LeasesPassAndWindowsEnd := by
  intro s u
  refine ⟨fun hdue => ⟨fun cc => exec_leasePassage_free hdue, fun r hr hu hloaded hbanks hclause hbest => ?_⟩, exec_grantExpiry, fun hops => ?_⟩
  · rw [exec_leasePassage_taken hdue (bestReq_of_best hr hbest), grantUnit_clean hu hloaded hbanks hclause]
  · refine ⟨_, _, exec_rperWindowEnd hops, rperOf_short, fun k => rperOf_between, State.coreCtx_setCoreCtx_same .., fun e he hlife hcc hset hthis => ?_, fun k hk => ?_⟩
    · rw [thread_windowEnded, hthis, measured_eq _ hlife hcc hset]
    · rw [thread_windowEnded, measured_keeps _ hk]

end Sys2Proof.Machine

open Sys2Proof Sys2Proof.Machine Sys2Proof.Claims

/-- Settles O54: a close by the classes of its waiters, a passage by the request that goes before the others, a window by its ticks. -/
theorem meetsLeasesAndWindowsEnd : Obligations.MeetsLeasesAndWindowsEnd := ⟨meetsClose, leasesPassAndWindowsEnd⟩
end

section
/-! Bytes that the device writes leave the operations in flight, the cycle and the thread in issue alone (R149, R274). -/

namespace Sys2Proof.Machine

open Sys2Proof.Claims

/-- The operations in flight, the cycle and the thread in issue of t are those of s. -/
def SameOps (s t : State) : Prop := t.ops = s.ops ∧ t.cycle = s.cycle ∧ t.cur = s.cur

@[simp] theorem SameOps.refl (s : State) : SameOps s s := ⟨rfl, rfl, rfl⟩

section
variable (s t : State)

theorem sameOps_ite {c : Prop} [Decidable c] {a b : State} (ha : SameOps s a ↔ SameOps s t) (hb : SameOps s b ↔ SameOps s t) : SameOps s (if c then a else b) ↔ SameOps s t := by
  split
  · exact ha
  · exact hb

theorem sameOps_foldl {α : Type} {f : State → α → State} (h : ∀ t x, SameOps s (f t x) ↔ SameOps s t) (l : List α) : SameOps s (l.foldl f t) ↔ SameOps s t := by
  induction l generalizing t with
  | nil => rfl
  | cons x l ih => exact (ih _).trans (h t x)

/-! ## Bytes and reports -/

@[simp] theorem sameOps_reportData (c va) : SameOps s (t.reportData c va) ↔ SameOps s t := by
  rw [onlyReported_reportData t]
  rfl
@[simp] theorem sameOps_noteBad (va n) : SameOps s (t.noteBad va n) ↔ SameOps s t := sameOps_foldl s t (fun t _ => sameOps_ite s t (sameOps_reportData ..) .rfl) _
@[simp] theorem sameOps_loseResv (key) : SameOps s (t.loseResv key) ↔ SameOps s t := by
  unfold State.loseResv
  dsimp only
  split <;> split <;> rfl
@[simp] theorem sameOps_writePa (l p b) : SameOps s (t.writePa l p b) ↔ SameOps s t := by
  unfold State.writePa
  rw [sameOps_foldl s _ (fun t _ => sameOps_loseResv s t _)]
  dsimp only
  split <;> split <;> rfl
@[simp] theorem sameOps_writeVa (va b) : SameOps s (t.writeVa va b) ↔ SameOps s t := sameOps_foldl s t (fun t p => by
  unfold State.writePiece
  split <;> simp) _

/-! ## Copies recalled -/

@[simp] theorem sameOps_setCore (k v) : SameOps s (t.setCore k v) ↔ SameOps s t := .rfl
@[simp] theorem sameOps_setCoreCtx (k v) : SameOps s (t.setCoreCtx k v) ↔ SameOps s t := .rfl
@[simp] theorem sameOps_serve (k) : SameOps s (t.serve k) ↔ SameOps s t := .rfl
@[simp] theorem sameOps_dropCopies (b k) : SameOps s (t.dropCopies b k) ↔ SameOps s t := sameOps_ite s t .rfl .rfl
@[simp] theorem sameOps_l2Mark (va f) : SameOps s (t.l2Mark va f) ↔ SameOps s t := by
  unfold State.l2Mark
  split
  · dsimp only
    split <;> rfl
  · rfl
@[simp] theorem sameOps_pageDue (va d) : SameOps s (t.pageDue va d) ↔ SameOps s t := by
  unfold State.pageDue
  split
  · exact sameOps_ite s t .rfl .rfl
  · rfl
@[simp] theorem sameOps_markPage (va w) : SameOps s (t.markPage va w) ↔ SameOps s t := by
  unfold State.markPage
  split
  · exact sameOps_ite s t .rfl .rfl
  · rfl
@[simp] theorem sameOps_combineLine (u) : SameOps s (t.combineLine u) ↔ SameOps s t := by
  unfold State.combineLine
  have hbytes (t : State) (off n : Nat) (f : Nat → Nat) : SameOps s (t.combineBytes u off n f) ↔ SameOps s t := sameOps_ite s t (sameOps_reportData ..) (sameOps_writePa ..)
  rw [sameOps_foldl s _ (fun t _ => hbytes t ..), sameOps_foldl s _ (fun t _ => hbytes t ..)]
@[simp] theorem sameOps_returnU (pc k) : SameOps s (t.returnU pc k) ↔ SameOps s t := by
  unfold State.returnU
  split <;> simp
@[simp] theorem sameOps_recallStash (cc n i) : SameOps s (t.recallStash cc n i) ↔ SameOps s t := by
  have hwrite (w : Win) : SameOps s (t.stashWrite cc w i) ↔ SameOps s t := sameOps_ite s t (sameOps_reportData ..) (by simp)
  unfold State.recallStash
  split
  · rfl
  · split
    · rfl
    · dsimp only
      rw [sameOps_setCoreCtx, sameOps_l2Mark]
      exact sameOps_ite s t (hwrite _) .rfl
@[simp] theorem sameOps_recallStashes (k) : SameOps s (t.recallStashes k) ↔ SameOps s t :=
  sameOps_foldl s t (fun t c => sameOps_foldl s t (fun t w => sameOps_foldl s t (fun t l => by
    split
    · exact sameOps_ite s t (sameOps_recallStash ..) .rfl
    · rfl) _) _) _
@[simp] theorem sameOps_recallLine (k) : SameOps s (t.recallLine k) ↔ SameOps s t := by
  rw [State.recallLine, State.recallU, sameOps_foldl s _ (fun t _ => sameOps_ite s t (sameOps_returnU ..) .rfl), sameOps_recallStashes]
@[simp] theorem sameOps_settle (va n) : SameOps s (t.settle va n) ↔ SameOps s t :=
  sameOps_ite s t .rfl (sameOps_foldl s t (fun t l => by split <;> simp) _)
@[simp] theorem sameOps_l2Access (va l p h c k) : SameOps s (t.l2Access va l p h c k).1 ↔ SameOps s t := by
  have hsave (u : State) (a b) : SameOps s { u with slices := a, glades := b } ↔ SameOps s u := .rfl
  have hserve : SameOps s (if k.joined then t else t.serve (lineKey l p)) ↔ SameOps s t := sameOps_ite s t .rfl .rfl
  unfold State.l2Access
  dsimp only
  generalize (if k.joined then t else t.serve (lineKey l p)) = t' at hserve ⊢
  rw [← hserve]
  split
  · split
    · simp [hsave]
    · split <;> simp [hsave]
  · split
    · split <;> simp
    · split <;> split <;> simp [hsave, State.evictL2]
@[simp] theorem sameOps_reachLines (va n h k) : SameOps s (t.reachLines va n h k) ↔ SameOps s t := sameOps_foldl s t (fun t l => by split <;> simp) _
@[simp] theorem sameOps_poke (va b) : SameOps s (t.poke va b) ↔ SameOps s t := by simp [State.poke]

end

end Sys2Proof.Machine
end

section
/-! Groups: what JOIN, LEAVE and EXIT do to a group's record and to its open meets (R113, R352, R354, R358). -/

namespace Sys2Proof.Machine

open Sys2Proof.Claims

/-! ## The completion test of a group's meets (R358, R359) -/

/-- A generation of g that the completion test closes. -/
abbrev complete (g : BitVec 16) (x : Meet) : Prop := completes g 0 0 x

/-- An entry, numbered n, after the close of the generation of home entry c whose closes arrive at due. -/
def closedFor (g : BitVec 16) (due : Nat) (c : Nat × Meet) (n : Nat) (x : Meet) : Meet :=
  if n = c.1 then { x with closing := true }
  else if !x.home && x.gid = g && x.mid = c.2.mid && x.gen = c.2.gen then { x with closing := true, due := due }
  else x

/-- An entry belongs to a generation of g that l shows complete, at a cluster that a close is sent to. -/
def toClose (g : BitVec 16) (l : AMap Meet) (x : Meet) : Prop :=
  x.home = false ∧ x.gid = g ∧ ∃ c ∈ l, complete g c.2 ∧ c.2.mid = x.mid ∧ c.2.gen = x.gen

/-- y is entry x, numbered n, once the complete generations among the entries of l are closed. -/
def ClosedBy (cycle : Nat) (g : BitVec 16) (l : AMap Meet) (n : Nat) (x y : Meet) : Prop :=
  ((∃ c ∈ l, c.1 = n ∧ complete g c.2) → y = { x with closing := true, due := y.due }) ∧
  ((∀ c ∈ l, c.1 = n → ¬complete g c.2) → (toClose g l x → y = { x with closing := true, due := y.due } ∧ cycle < y.due) ∧ (¬toClose g l x → y = x))

theorem closedBy_nil (cycle : Nat) (g : BitVec 16) (n : Nat) (x : Meet) : ClosedBy cycle g [] n x x := by
  simp [ClosedBy, toClose]

section
variable {cycle n : Nat} {g : BitVec 16} {c : Nat × Meet} {l : AMap Meet} {x y : Meet}

theorem closedBy_cons_open (hc : ¬complete g c.2) (h : ClosedBy cycle g l n x y) : ClosedBy cycle g (c :: l) n x y := by
  have hclose : toClose g (c :: l) x ↔ toClose g l x := by simp [toClose, hc]
  simpa only [ClosedBy, hclose, List.mem_cons, exists_eq_or_imp, forall_eq_or_imp, hc, and_false, false_or, not_false_eq_true, implies_true, true_and] using h

/-- Whatever l closes of an entry that is already closing, it stays so. -/
theorem closing_of_closedBy (h : ClosedBy cycle g l n x y) (hx : x.closing = true) : y = { x with closing := true, due := y.due } := by
  obtain ⟨hhome, hrest⟩ := h
  by_cases hn : ∃ c ∈ l, c.1 = n ∧ complete g c.2
  · exact hhome hn
  · obtain ⟨hlocal, hother⟩ := hrest (fun c hc hcn hcc => hn ⟨c, hc, hcn, hcc⟩)
    by_cases hl : toClose g l x
    · exact (hlocal hl).1
    · rw [hother hl, ← hx]

/-- The close of a complete generation keeps who an entry is. -/
theorem toClose_closedFor (due : Nat) : toClose g l (closedFor g due c n x) ↔ toClose g l x := by
  unfold closedFor
  split
  · rfl
  · split <;> rfl

theorem closedBy_cons_closed {due : Nat} (hc : complete g c.2) (hdue : cycle < due) (h : ClosedBy cycle g l n (closedFor g due c n x) y) : ClosedBy cycle g (c :: l) n x y := by
  by_cases hn : n = c.1
  · have hx : closedFor g due c n x = { x with closing := true } := if_pos hn
    rw [hx] at h
    exact ⟨fun _ => (closing_of_closedBy h rfl :), fun hnone => absurd hc (hnone c List.mem_cons_self hn.symm)⟩
  · have hkey : ¬(c.1 = n) := fun h => hn h.symm
    by_cases hlocal : x.home = false ∧ x.gid = g ∧ x.mid = c.2.mid ∧ x.gen = c.2.gen
    · have hx : closedFor g due c n x = { x with closing := true, due := due } := by
        rw [closedFor, if_neg hn, if_pos (by simp [hlocal])]
      have hclose : toClose g (c :: l) x := ⟨hlocal.1, hlocal.2.1, c, List.mem_cons_self, hc, hlocal.2.2.1.symm, hlocal.2.2.2.symm⟩
      rw [hx] at h
      have hy : y = { x with closing := true, due := y.due } := (closing_of_closedBy h rfl :)
      refine ⟨fun _ => hy, fun hnone => ⟨fun _ => ⟨hy, ?_⟩, fun hno => absurd hclose hno⟩⟩
      obtain ⟨hyes, hno⟩ := h.2 (fun d hd => hnone d (List.mem_cons_of_mem _ hd))
      by_cases hl : toClose g l { x with closing := true, due := due }
      · exact (hyes hl).2
      · rw [hno hl]
        exact hdue
    · have hx : closedFor g due c n x = x := by
        rw [closedFor, if_neg hn, if_neg (by simpa [and_assoc] using hlocal)]
      have hclose : toClose g (c :: l) x ↔ toClose g l x := by
        refine ⟨fun ⟨hhome, hgid, d, hd, hdc, hmid, hgen⟩ => ⟨hhome, hgid, d, ?_, hdc, hmid, hgen⟩, fun ⟨hhome, hgid, d, hd, hrest⟩ => ⟨hhome, hgid, d, List.mem_cons_of_mem _ hd, hrest⟩⟩
        refine (List.mem_cons.mp hd).resolve_left fun hdc => hlocal ⟨hhome, hgid, ?_, ?_⟩
        · rw [← hmid, hdc]
        · rw [← hgen, hdc]
      rw [hx] at h
      simpa only [ClosedBy, hclose, List.mem_cons, exists_eq_or_imp, forall_eq_or_imp, hkey, false_and, false_or, false_implies, true_and] using h
end

/-- t is s with the meets of a kernel mapped by f, after draws of latencies. -/
structure MeetsMapped (s t : State) (kid : Nat) (f : Nat → Meet → Meet) : Prop where
  kernel : t.kernel kid = { s.kernel kid with meets := (s.kernel kid).meets.mapV f }
  kernels : ∀ k, k ≠ kid → t.kernel k = s.kernel k
  rest : { t with kernels := s.kernels, drawn := s.drawn } = s

theorem mapV_id {m : AMap Meet} : m.mapV (fun _ x => x) = m := List.map_id' m

theorem mapV_mapV (m : AMap Meet) (f f' : Nat → Meet → Meet) : (m.mapV f).mapV f' = m.mapV (fun n x => f' n (f n x)) := List.map_map ..

theorem MeetsMapped.refl (s : State) (kid : Nat) : MeetsMapped s s kid (fun _ x => x) := ⟨by rw [mapV_id], fun _ _ => rfl, rfl⟩

theorem MeetsMapped.cycle {s t : State} {kid : Nat} {f : Nat → Meet → Meet} (h : MeetsMapped s t kid f) : t.cycle = s.cycle := (congrArg State.cycle h.rest :)

theorem MeetsMapped.trans {s t u : State} {kid : Nat} {f f' : Nat → Meet → Meet} (h : MeetsMapped s t kid f) (h' : MeetsMapped t u kid f') :
    MeetsMapped s u kid (fun n x => f' n (f n x)) where
  kernel := by rw [h'.kernel, h.kernel, mapV_mapV]
  kernels k hk := by rw [h'.kernels k hk, h.kernels k hk]
  rest := (congrArg (fun v : State => { v with kernels := s.kernels, drawn := s.drawn }) h'.rest).trans h.rest

/-- The kernel's meets written, latencies drawn or not. -/
theorem meetsMapped_setKernel (s : State) (kid n : Nat) (f : Nat → Meet → Meet) :
    MeetsMapped s (({ s with drawn := n } : State).setKernel kid { s.kernel kid with meets := (s.kernel kid).meets.mapV f }) kid f :=
  ⟨State.kernel_setKernel_same .., fun _ hk => State.kernel_setKernel_ne _ _ _ _ hk, rfl⟩

/-- One entry of the completion test. -/
def testEntry (kid : Nat) (g : BitVec 16) (s : State) (e : Nat × Meet) : State :=
  if e.2.home && !e.2.closing && e.2.gid = g && e.2.need ≤ e.2.arr then
    s.later.2.setKernel kid { s.later.2.kernel kid with meets := (s.later.2.kernel kid).meets.mapV (closedFor g s.later.1 e) }
  else s

theorem testMeets_eq (s : State) (kid : Nat) (g : BitVec 16) : s.testMeets kid g = (s.kernel kid).meets.foldl (testEntry kid g) s := rfl

theorem testEntry_open {kid : Nat} {g : BitVec 16} {e : Nat × Meet} (s : State) (h : ¬complete g e.2) : testEntry kid g s e = s :=
  if_neg (by simpa [complete, completes, and_assoc] using h)

theorem testEntry_closed {kid : Nat} {g : BitVec 16} {e : Nat × Meet} (s : State) (h : complete g e.2) :
    MeetsMapped s (testEntry kid g s e) kid (closedFor g s.later.1 e) := by
  rw [testEntry, if_pos (by simpa [complete, completes, and_assoc] using h)]
  exact meetsMapped_setKernel s kid (s.drawn + 1) _

theorem cycle_lt_later (s : State) : s.cycle < s.later.1 := by
  show s.cycle < s.cycle + 1 + _
  omega

theorem testEntries_closedBy (kid : Nat) (g : BitVec 16) (l : AMap Meet) (s : State) :
    ∃ f, MeetsMapped s (l.foldl (testEntry kid g) s) kid f ∧ ∀ n x, ClosedBy s.cycle g l n x (f n x) := by
  induction l generalizing s with
  | nil => exact ⟨_, .refl s kid, fun n x => closedBy_nil s.cycle g n x⟩
  | cons e l ih =>
    rw [List.foldl_cons]
    by_cases he : complete g e.2
    · have hone := testEntry_closed (kid := kid) s he
      obtain ⟨f, hmapped, hclosed⟩ := ih (testEntry kid g s e)
      rw [hone.cycle] at hclosed
      exact ⟨_, hone.trans hmapped, fun n x => closedBy_cons_closed he (cycle_lt_later s) (hclosed n _)⟩
    · rw [testEntry_open s he]
      obtain ⟨f, hmapped, hclosed⟩ := ih s
      exact ⟨f, hmapped, fun n x => closedBy_cons_open he (hclosed n x)⟩

/-! ## ARR and NEED raised -/

/-- An entry of g with ARR and NEED raised, where it is an open home. -/
def raised (g : BitVec 16) (arr need : Nat) (x : Meet) : Meet :=
  if x.home = true ∧ x.closing = false ∧ x.gid = g then { x with arr := x.arr + arr, need := x.need + need } else x

theorem raised_ident (g : BitVec 16) (arr need : Nat) (x : Meet) : (raised g arr need x).home = x.home ∧ (raised g arr need x).closing = x.closing ∧
    (raised g arr need x).gid = x.gid ∧ (raised g arr need x).mid = x.mid ∧ (raised g arr need x).gen = x.gen := by
  unfold raised
  split <;> simp

theorem complete_raised (g : BitVec 16) (arr need : Nat) (x : Meet) : complete g (raised g arr need x) ↔ completes g arr need x := by
  unfold raised complete completes
  split
  · next h => simp [h]
  · next h =>
    simp only [Nat.add_zero]
    exact ⟨fun ⟨hhome, hopen, hgid, _⟩ => absurd ⟨hhome, hopen, hgid⟩ h, fun ⟨hhome, hopen, hgid, _⟩ => absurd ⟨hhome, hopen, hgid⟩ h⟩

theorem raised_zero (g : BitVec 16) (x : Meet) : raised g 0 0 x = x := ite_self _

theorem exists_complete_raised {g : BitVec 16} {arr need : Nat} {m : AMap Meet} (n : Nat) :
    (∃ c ∈ m.mapV (fun _ => raised g arr need), c.1 = n ∧ complete g c.2) ↔ ∃ x ∈ m, x.1 = n ∧ completes g arr need x.2 := by
  simp only [AMap.mapV, List.mem_map, exists_exists_and_eq_and, complete_raised]

theorem toClose_raised {g : BitVec 16} {arr need : Nat} {m : AMap Meet} (e : Meet) : toClose g (m.mapV (fun _ => raised g arr need)) e ↔
    e.home = false ∧ e.gid = g ∧ ∃ x ∈ m, completes g arr need x.2 ∧ x.2.mid = e.mid ∧ x.2.gen = e.gen := by
  simp only [toClose, AMap.mapV, List.mem_map, exists_exists_and_eq_and, complete_raised, raised_ident]

/-- What the closes say of the entries that were raised before the test. -/
theorem meetsCounted_of_closedBy {cycle : Nat} {g : BitVec 16} {arr need : Nat} {m : AMap Meet} {f : Nat → Meet → Meet}
    (h : ∀ n x, ClosedBy cycle g (m.mapV (fun _ => raised g arr need)) n x (f n x)) : MeetsCounted cycle m ((m.mapV (fun _ => raised g arr need)).mapV f) g arr need := by
  rw [mapV_mapV, MeetsCounted, AMap.mapV, List.forall₂_map_right_iff, List.forall₂_same]
  intro a _
  obtain ⟨hhome, hrest⟩ := h a.1 (raised g arr need a.2)
  rw [exists_complete_raised] at hhome
  rw [toClose_raised] at hrest
  refine ⟨rfl, hhome, fun hnone => hrest fun c hc hn hcc => ?_⟩
  obtain ⟨x, hx, hxn, hxc⟩ := (exists_complete_raised a.1).mp ⟨c, hc, hn, hcc⟩
  exact hnone x hx hxn hxc

/-- t is s with the meets of a kernel counted: ARR and NEED of the open generations of g raised, then the completion test. -/
structure CountedMeets (s t : State) (kid : Nat) (g : BitVec 16) (arr need : Nat) : Prop where
  mapped : ∃ f, MeetsMapped s t kid f
  counted : MeetsCounted s.cycle (s.kernel kid).meets (t.kernel kid).meets g arr need

theorem countedMeets_of_raised {s v : State} {kid : Nat} {g : BitVec 16} {arr need : Nat} (h : MeetsMapped s v kid (fun _ => raised g arr need)) :
    CountedMeets s (v.testMeets kid g) kid g arr need := by
  obtain ⟨f, hmapped, hclosed⟩ := testEntries_closedBy kid g (v.kernel kid).meets v
  rw [← testMeets_eq] at hmapped
  rw [h.cycle, h.kernel] at hclosed
  refine ⟨⟨_, h.trans hmapped⟩, ?_⟩
  rw [hmapped.kernel, h.kernel]
  exact meetsCounted_of_closedBy hclosed

theorem countedMeets_testMeets (s : State) (kid : Nat) (g : BitVec 16) : CountedMeets s (s.testMeets kid g) kid g 0 0 := by
  have hsame : (fun (_ : Nat) => raised g 0 0) = fun _ x => x := by
    funext n x
    exact raised_zero g x
  refine countedMeets_of_raised ?_
  rw [hsame]
  exact .refl s kid

theorem countedMeets_countMeets (s : State) (kid : Nat) (g : BitVec 16) (arr need : Nat) : CountedMeets s (s.countMeets kid g arr need) kid g arr need := by
  have hfun : raised g arr need = fun x => if x.home && !x.closing && x.gid = g then { x with arr := x.arr + arr, need := x.need + need } else x := by
    funext x
    simp [raised, and_assoc]
  refine countedMeets_of_raised ?_
  rw [hfun]
  exact meetsMapped_setKernel s kid s.drawn _

/-! ## The record of a group (R352) -/

theorem groupBytes_eq (r : Group) : r.bytes = (List.range 8).map (fun j => BitVec.ofNat 8 ((r.count.toNat + if r.live then 2 ^ 48 else 0) / 256 ^ j)) := by
  rw [Group.bytes, leBytes_eq_bytesOf]
  rfl

theorem setGroup_eq (s : State) (kid : Nat) (g : BitVec 16) (r : Group) : s.setGroup kid g r = withGroup s kid g r := by
  unfold State.setGroup
  dsimp only
  rw [groupBytes_eq]
  rfl

section
variable (s : State) (kid : Nat) (g : BitVec 16) (r : Group)

theorem withGroup_untouched : Untouched (s.setKernel kid { s.kernel kid with groups := (s.kernel kid).groups.put g.toNat r }) (withGroup s kid g r) := by
  unfold withGroup
  dsimp only
  split <;> simp

theorem withGroup_sameOps : SameOps s (withGroup s kid g r) := by
  have hkernel : SameOps s (s.setKernel kid { s.kernel kid with groups := (s.kernel kid).groups.put g.toNat r }) := ⟨rfl, rfl, rfl⟩
  unfold withGroup
  dsimp only
  split
  · rwa [sameOps_poke]
  · exact hkernel

theorem kernel_withGroup_same : (withGroup s kid g r).kernel kid = { s.kernel kid with groups := (s.kernel kid).groups.put g.toNat r } := by
  rw [State.kernel, (withGroup_untouched s kid g r).1]
  exact State.kernel_setKernel_same ..

theorem kernel_withGroup_ne {k : Nat} (hk : k ≠ kid) : (withGroup s kid g r).kernel k = s.kernel k := by
  rw [State.kernel, (withGroup_untouched s kid g r).1]
  exact State.kernel_setKernel_ne _ _ _ _ hk
end

/-- Groups and meets of a kernel, once a group's record is written and its meets are counted. -/
theorem groupChange_of_counted {s t : State} {kid : Nat} {g : BitVec 16} {r : Group} {arr need : Nat} (h : CountedMeets (withGroup s kid g r) t kid g arr need) :
    GroupChange s t kid g r ∧ MeetsCounted s.cycle (s.kernel kid).meets (t.kernel kid).meets g arr need := by
  obtain ⟨⟨f, hkernel, hkernels, -⟩, hcounted⟩ := h
  rw [(withGroup_sameOps s kid g r).2.1, kernel_withGroup_same] at hcounted
  have hgroups : (t.kernel kid).groups = (s.kernel kid).groups.put g.toNat r := by rw [hkernel, kernel_withGroup_same]
  refine ⟨⟨?_, fun x hx => ?_, ?_, fun k hk => ?_⟩, hcounted⟩
  · rw [Kernel.group, hgroups, AMap.get_put_same]
  · rw [Kernel.group, hgroups, AMap.get_put_ne _ _ _ _ _ (fun hxg => hx (BitVec.eq_of_toNat_eq hxg))]
    rfl
  · rw [hkernel, kernel_withGroup_same]
  · rw [hkernels k hk, kernel_withGroup_ne s kid g r hk]

theorem CountedMeets.rest {s t : State} {kid : Nat} {g : BitVec 16} {arr need : Nat} (h : CountedMeets s t kid g arr need) :
    t = { s with kernels := t.kernels, drawn := t.drawn } := by
  obtain ⟨f, hmapped⟩ := h.mapped
  exact congrArg (fun v : State => { v with kernels := t.kernels, drawn := t.drawn }) hmapped.rest

/-! ## JOIN and LEAVE (R113, R354) -/

theorem kernels_of_wroteX {s t : State} {d : SReg} {v : Word} (h : WroteX s t d v) : t.kernels = s.kernels := (congrArg State.kernels h.rest :)

theorem drawn_of_wroteX {s t : State} {d : SReg} {v : Word} (h : WroteX s t d v) : t.drawn = s.drawn := (congrArg State.drawn h.rest :)

theorem kernel_of_kernels {s t : State} (h : t.kernels = s.kernels) (k : Nat) : t.kernel k = s.kernel k := congrArg (fun m : AMap Kernel => m.get _ k) h

theorem groupChange_of_kernels {s v t : State} {kid : Nat} {g : BitVec 16} {r : Group} (h : GroupChange s v kid g r) (hk : t.kernels = v.kernels) : GroupChange s t kid g r := by
  have hkernel := kernel_of_kernels hk
  obtain ⟨hrecord, hothers, hself, hkernels⟩ := h
  refine ⟨?_, fun x hx => ?_, ?_, fun k hkid => ?_⟩
  · rw [hkernel, hrecord]
  · rw [hkernel, hothers x hx]
  · rw [hkernel, ← hself]
  · rw [hkernel, hkernels k hkid]

theorem exec_join {d a : SReg} {s : State} (hnew : groupNow s a ∉ s.me.groups) (hfew : s.me.groups.length < 4) (hsum : countOf s (groupNow s a) + s.me.mul.toNat < 2 ^ 48) :
    let v := (withGroup s s.me.kid (groupNow s a) { count := BitVec.ofNat 48 (countOf s (groupNow s a) + s.me.mul.toNat), live := true }).countMeets s.me.kid (groupNow s a) 0 s.me.mul.toNat
    exec (.join d a) s = .next ((v.setMe { v.me with groups := s.me.groups ++ [groupNow s a] }).wx d (wrap ((countOf s (groupNow s a) + s.me.mul.toNat : Nat) : Int))) := by
  have hcount : ((s.kernel s.me.kid).group (groupNow s a)).count + s.me.mul = BitVec.ofNat 48 (countOf s (groupNow s a) + s.me.mul.toNat) := by
    rw [BitVec.ofNat_add, countOf, BitVec.ofNat_toNat, BitVec.ofNat_toNat]
    simp
  have hword : zx (BitVec.ofNat 48 (countOf s (groupNow s a) + s.me.mul.toNat)) = wrap ((countOf s (groupNow s a) + s.me.mul.toNat : Nat) : Int) := by
    rw [← wrap_toNat, BitVec.toNat_ofNat, Nat.mod_eq_of_lt hsum]
  show execJoin d a s = _
  unfold execJoin
  simp only [groupOf_rx]
  rw [if_neg (by simpa using hnew), if_neg (Nat.not_le.mpr hfew), if_neg (Nat.not_le.mpr (show ((s.kernel s.me.kid).group (groupNow s a)).count.toNat + s.me.mul.toNat < 2 ^ 48 from hsum)), hcount, hword, setGroup_eq]
  rfl

/-- LEAVE's new record (R354). -/
theorem leaveGroup_eq {s : State} {kid : Nat} {g : BitVec 16} {m : BitVec 48} (hm : m.toNat ≤ ((s.kernel kid).group g).count.toNat) :
    s.leaveGroup kid g m = (withGroup s kid g (recordLeft s kid g m.toNat)).countMeets kid g m.toNat 0 := by
  have hrecord : (if ((s.kernel kid).group g).count - m = 0 then ({} : Group) else { (s.kernel kid).group g with count := ((s.kernel kid).group g).count - m }) = recordLeft s kid g m.toNat := by
    have hsub : ((s.kernel kid).group g).count - m = BitVec.ofNat 48 (((s.kernel kid).group g).count.toNat - m.toNat) := by bv_omega
    have hzero : ((s.kernel kid).group g).count - m = 0 ↔ ((s.kernel kid).group g).count.toNat = m.toNat := by bv_omega
    unfold recordLeft
    dsimp only
    rw [← hsub]
    simp only [hzero]
  unfold State.leaveGroup
  dsimp only
  rw [hrecord, setGroup_eq]

theorem exec_leave {d a : SReg} {s : State} (hin : groupNow s a ∈ s.me.groups) (hm : s.me.mul.toNat ≤ countOf s (groupNow s a)) :
    let s' := s.setMe { s.me with groups := s.me.groups.filter (· != groupNow s a) }
    exec (.leave d a) s = .next (((withGroup s' s.me.kid (groupNow s a) (recordLeft s s.me.kid (groupNow s a) s.me.mul.toNat)).countMeets s.me.kid (groupNow s a) s.me.mul.toNat 0).wx d
      (wrap ((countOf s (groupNow s a) - s.me.mul.toNat : Nat) : Int))) := by
  have hword : zx (((s.kernel s.me.kid).group (groupNow s a)).count - s.me.mul) = wrap ((countOf s (groupNow s a) - s.me.mul.toNat : Nat) : Int) := by
    rw [← wrap_toNat, BitVec.toNat_sub_of_le (BitVec.le_def.mpr hm)]
    rfl
  have hleft := leaveGroup_eq (s := s.setMe { s.me with groups := s.me.groups.filter (· != groupNow s a) }) (kid := s.me.kid) (g := groupNow s a) (m := s.me.mul) hm
  show execLeave d a s = _
  unfold execLeave
  simp only [groupOf_rx]
  rw [if_neg (by simpa using hin), hword, hleft]
  rfl

theorem setMe_of_rest {u v : State} (h : v = { u with kernels := v.kernels, drawn := v.drawn }) (gs : List (BitVec 16)) :
    v.setMe { v.me with groups := gs } = { u.setMe { u.me with groups := gs } with kernels := v.kernels, drawn := v.drawn } := by
  generalize v.kernels = K, v.drawn = D at h
  subst h
  rfl

/-- The write of D that follows a change of kernels and latencies alone. -/
theorem wroteX_of_rest {u v : State} (h : v = { u with kernels := v.kernels, drawn := v.drawn }) (d : SReg) (w : Word) :
    WroteX { u with kernels := (v.wx d w).kernels, drawn := (v.wx d w).drawn } (v.wx d w) d w := by
  have hwrote := wroteX_wx v d w
  rwa [kernels_of_wroteX hwrote, drawn_of_wroteX hwrote, ← h]

/-- What stands in a kernel after a record is written, its meets are counted and D is written. -/
theorem wrote_of_counted {s v : State} {kid : Nat} {g : BitVec 16} {r : Group} {arr need : Nat} (x : Thread) (h : CountedMeets (withGroup (s.setMe x) kid g r) v kid g arr need)
    {t : State} (ht : t.kernels = v.kernels) : GroupChange s t kid g r ∧ MeetsCounted s.cycle (s.kernel kid).meets (t.kernel kid).meets g arr need := by
  obtain ⟨⟨hrecord, hothers, hself, hkernels⟩, hmeets⟩ := groupChange_of_counted h
  refine ⟨groupChange_of_kernels ⟨hrecord, hothers, hself, hkernels⟩ ht, ?_⟩
  rw [kernel_of_kernels ht]
  exact hmeets

theorem groupMembership : GroupMembership := by
  intro d a s
  refine ⟨fun hnew hfew hsum => ?_, fun hin hm => ?_⟩
  · refine ⟨_, _, exec_join hnew hfew hsum, rfl, ?_⟩
    have hcounted := countedMeets_countMeets (withGroup s s.me.kid (groupNow s a) { count := BitVec.ofNat 48 (countOf s (groupNow s a) + s.me.mul.toNat), live := true })
      s.me.kid (groupNow s a) 0 s.me.mul.toNat
    generalize State.countMeets _ _ _ _ _ = v at hcounted ⊢
    obtain ⟨hchange, hmeets⟩ := groupChange_of_counted hcounted
    have hkernels := kernels_of_wroteX (wroteX_wx (v.setMe { v.me with groups := s.me.groups ++ [groupNow s a] }) d (wrap ((countOf s (groupNow s a) + s.me.mul.toNat : Nat) : Int)))
    refine ⟨groupChange_of_kernels hchange hkernels, ?_, wroteX_of_rest (setMe_of_rest hcounted.rest _) d _⟩
    rw [kernel_of_kernels hkernels]
    exact hmeets
  · refine ⟨_, _, exec_leave hin hm, rfl, ?_⟩
    have hcounted := countedMeets_countMeets (withGroup (s.setMe { s.me with groups := s.me.groups.filter (· != groupNow s a) }) s.me.kid (groupNow s a)
      (recordLeft s s.me.kid (groupNow s a) s.me.mul.toNat)) s.me.kid (groupNow s a) s.me.mul.toNat 0
    generalize State.countMeets _ _ _ _ _ = v at hcounted ⊢
    obtain ⟨hchange, hmeets⟩ := wrote_of_counted _ hcounted (kernels_of_wroteX (wroteX_wx v d (wrap ((countOf s (groupNow s a) - s.me.mul.toNat : Nat) : Int))))
    exact ⟨hchange, hmeets, wroteX_of_rest hcounted.rest d _⟩

end Sys2Proof.Machine
end

section
/-! The end of a thread (R112, R199, R335). -/

namespace Sys2Proof.Machine

open Sys2Proof.Claims

/-- Kinds of operation that still perform after their thread has ended (R112). -/
def OpKind.outlives (k : OpKind) : Prop := k.isWrite = true ∨ ∃ c b n e, k = .decrement c b n ∨ k = .arrive c b ∨ k = .fetch e ∨ k = .engWrite e

/-- Whether orphan keeps an operation: another thread's, a push, or one that outlives its thread. -/
def keptBy (k : Nat) (o : Op) : Bool :=
  o.thr != k || !o.push.isEmpty || (match o.kind with | .store | .sc | .amo _ _ | .cas _ | .xacc | .xclr | .vstore | .feset _ | .decrement _ _ _ | .arrive _ _ | .fetch _ | .engWrite _ => true | _ => false)

/-- An operation whose result is discarded, where it is thread k's. -/
def discarded (k : Nat) (o : Op) : Op := if o.thr = k then { o with dst := none, pred := 0, acq := false } else o

theorem ops_orphan (s : State) (k : Nat) : (s.orphan k).ops = (s.ops.filter (keptBy k)).map (discarded k) := rfl

theorem discarded_thr (k : Nat) (o : Op) : (discarded k o).thr = o.thr := by
  unfold discarded
  split <;> rfl

theorem discarded_own {k : Nat} {o : Op} (h : o.thr = k) : discarded k o = { o with dst := none, pred := 0, acq := false } := if_pos h

theorem keptBy_of_isWrite {k : Nat} {o : Op} (h : o.kind.isWrite = true) : keptBy k o = true := by
  unfold keptBy
  cases hkind : o.kind <;> simp_all [OpKind.isWrite]

theorem outlives_of_keptBy {k : Nat} {o : Op} (h : keptBy k o = true) (hthr : o.thr = k) (hpush : o.push = []) : o.kind.outlives := by
  unfold keptBy at h
  cases hkind : o.kind <;> simp_all [OpKind.outlives, OpKind.isWrite]

theorem discarded_of_mem_orphan {s : State} {k : Nat} {o : Op} (ho : o ∈ (s.orphan k).ops) (hthr : o.thr = k) : o.dst = none ∧ o.pred = 0 ∧ o.acq = false ∧ (o.push = [] → o.kind.outlives) := by
  rw [ops_orphan, List.mem_map] at ho
  obtain ⟨x, hx, rfl⟩ := ho
  rw [discarded_thr] at hthr
  rw [discarded_own hthr]
  exact ⟨rfl, rfl, rfl, outlives_of_keptBy (List.mem_filter.mp hx).2 hthr⟩

theorem write_survives_orphan {s : State} (k : Nat) {o : Op} (ho : o ∈ s.ops) (hwrite : o.kind.isWrite = true) :
    ∃ x ∈ (s.orphan k).ops, x.id = o.id ∧ x.kind = o.kind ∧ x.place = o.place ∧ x.data = o.data := by
  refine ⟨discarded k o, ?_, ?_⟩
  · rw [ops_orphan]
    exact List.mem_map_of_mem (List.mem_filter.mpr ⟨ho, keptBy_of_isWrite hwrite⟩)
  · unfold discarded
    split <;> exact ⟨rfl, rfl, rfl, rfl⟩

/-! ## The thread's slot, and its kernel -/

theorem thread_endThread_same (s : State) (k : Nat) : (s.endThread k).thread k =
    { s.thread k with life := .ended, resv := none, frame := [], owed := [], streams := [], pend := 0, groups := [], wait := none } := State.thread_setThread_same ..

theorem thread_endThread_ne (s : State) {k j : Nat} (h : j ≠ k) : (s.endThread k).thread j = s.thread j := State.thread_setThread_ne _ _ _ _ h

theorem ops_endThread (s : State) (k : Nat) : (s.endThread k).ops = (s.orphan k).ops := rfl

theorem rest_endThread (s : State) (k : Nat) : { s.endThread k with threads := s.threads, ops := s.ops } = s := rfl

/-- What lastThread leaves: all but the state of one kernel. -/
structure LastThread (s t : State) (kid : Nat) : Prop where
  kernel : t.kernel kid = { s.kernel kid with st := (t.kernel kid).st }
  rest : { t with kernels := s.kernels } = s

theorem lastThread_keeps (s : State) (kid : Nat) : LastThread s (s.lastThread kid) kid := by
  obtain ⟨st, h | h⟩ := lastThread_eq s kid
  · rw [h]
    exact ⟨rfl, rfl⟩
  · rw [h]
    exact ⟨by rw [State.kernel_setKernel_same], rfl⟩

theorem LastThread.threads {s t : State} {kid : Nat} (h : LastThread s t kid) : t.threads = s.threads := (congrArg State.threads h.rest :)
theorem LastThread.ops {s t : State} {kid : Nat} (h : LastThread s t kid) : t.ops = s.ops := (congrArg State.ops h.rest :)
theorem LastThread.cur {s t : State} {kid : Nat} (h : LastThread s t kid) : t.cur = s.cur := (congrArg State.cur h.rest :)

/-- A running kernel drains where no thread of it is left (R335). -/
theorem draining_lastThread {s : State} {kid : Nat} (h : (s.kernel kid).st = .running) :
    ((s.lastThread kid).kernel kid).st = .draining ↔ ∀ e ∈ s.threads, e.2.kid = kid → e.2.life ≠ .resident ∧ e.2.life ≠ .waiting := by
  have hgone : (!s.threads.any (fun e => e.2.kid == kid && (e.2.life == .resident || e.2.life == .waiting))) = true ↔
      ∀ e ∈ s.threads, e.2.kid = kid → e.2.life ≠ .resident ∧ e.2.life ≠ .waiting := by
    simp
  rw [← hgone]
  unfold State.lastThread
  dsimp only
  rw [h]
  split
  · next hnone => simpa using hnone
  · next hsome => simpa [h] using hsome

/-! ## Leaving the thread's groups -/

theorem leaveGroup_keeps (s : State) (kid : Nat) (g : BitVec 16) (m : BitVec 48) : SameOps s (s.leaveGroup kid g m) ∧ ((s.leaveGroup kid g m).kernel kid).st = (s.kernel kid).st := by
  unfold State.leaveGroup
  dsimp only
  rw [setGroup_eq]
  generalize (if ((s.kernel kid).group g).count - m = 0 then ({} : Group) else { (s.kernel kid).group g with count := ((s.kernel kid).group g).count - m }) = r
  obtain ⟨⟨f, hkernel, -, hrest⟩, -⟩ := countedMeets_countMeets (withGroup s kid g r) kid g m.toNat 0
  generalize (withGroup s kid g r).countMeets kid g m.toNat 0 = v at hkernel hrest ⊢
  obtain ⟨hops, hcycle, hcur⟩ := withGroup_sameOps s kid g r
  refine ⟨⟨(congrArg State.ops hrest :).trans hops, (congrArg State.cycle hrest :).trans hcycle, (congrArg State.cur hrest :).trans hcur⟩, ?_⟩
  rw [hkernel, kernel_withGroup_same]

theorem leaveGroups_keeps (kid : Nat) (m : BitVec 48) (gs : List (BitVec 16)) (s : State) :
    SameOps s (gs.foldl (fun v g => v.leaveGroup kid g m) s) ∧ ((gs.foldl (fun v g => v.leaveGroup kid g m) s).kernel kid).st = (s.kernel kid).st := by
  induction gs generalizing s with
  | nil => exact ⟨.refl s, rfl⟩
  | cons g gs ih =>
    obtain ⟨hsame, hst⟩ := leaveGroup_keeps s kid g m
    obtain ⟨hsame', hst'⟩ := ih (s.leaveGroup kid g m)
    exact ⟨⟨hsame'.1.trans hsame.1, hsame'.2.1.trans hsame.2.1, hsame'.2.2.trans hsame.2.2⟩, hst'.trans hst⟩

theorem exec_exit {s : State} (h : ¬(s.me.fromTask ∧ s.me.footed)) :
    exec .exit s = .next (((s.me.groups.foldl (fun v g => v.leaveGroup s.me.kid g s.me.mul) s).endThread s.cur).lastThread s.me.kid) :=
  if_pos (by simpa [imp_iff_not_or] using h)

theorem exitResult : ExitResult := by
  intro s htask
  refine ⟨_, _, exec_exit htask, rfl, ?_⟩
  obtain ⟨⟨hops, -, hcur⟩, hst⟩ := leaveGroups_keeps s.me.kid s.me.mul s.me.groups s
  have hone (g : BitVec 16) (hg : s.me.groups = [g]) : s.me.groups.foldl (fun v g => v.leaveGroup s.me.kid g s.me.mul) s = s.leaveGroup s.me.kid g s.me.mul := by
    rw [hg]
    rfl
  generalize s.me.groups.foldl (fun v g => v.leaveGroup s.me.kid g s.me.mul) s = u at hops hcur hst hone ⊢
  have hlast := lastThread_keeps (u.endThread s.cur) s.me.kid
  have hdrain := draining_lastThread (s := u.endThread s.cur) (kid := s.me.kid)
  generalize (u.endThread s.cur).lastThread s.me.kid = t at hlast hdrain ⊢
  have hthread (k : Nat) : t.thread k = (u.endThread s.cur).thread k := congrArg (fun m : AMap Thread => m.get _ k) hlast.threads
  refine ⟨?_, fun k hk => ?_, fun o ho hthr => ?_, fun o ho hwrite => ?_, fun hrun => ?_, fun g hg hm => ?_, ?_, ?_⟩
  · rw [State.me, hlast.cur, hthread]
    show (u.endThread s.cur).thread u.cur = { u.thread u.cur with life := .ended, resv := none, frame := [], owed := [], streams := [], pend := 0, groups := [], wait := none }
    rw [hcur, thread_endThread_same]
  · rw [hthread, thread_endThread_ne u hk]
  · exact discarded_of_mem_orphan (by rwa [hlast.ops, ops_endThread] at ho) hthr
  · rw [hlast.ops, ops_endThread]
    exact write_survives_orphan s.cur (by rwa [hops]) hwrite
  · rw [hlast.threads]
    exact hdrain (hst.trans hrun)
  · have hleft := (hone g hg).trans (leaveGroup_eq hm)
    obtain ⟨hchange, hmeets⟩ := groupChange_of_counted (countedMeets_countMeets (withGroup s s.me.kid g (recordLeft s s.me.kid g s.me.mul.toNat)) s.me.kid g s.me.mul.toNat 0)
    rw [← hleft] at hchange hmeets
    rw [hlast.kernel]
    exact ⟨hchange.record, hmeets⟩
  · exact sameBytes_of_eq (congrArg State.mem hlast.rest :) (congrArg State.hostMem hlast.rest :)
  · exact congrArg (fun v : State => { v with threads := u.threads, ops := u.ops, kernels := u.kernels }) hlast.rest

end Sys2Proof.Machine
end

section
/-! MEET: arriving in a local entry (R114, R115, R117, R356 to R358). -/

namespace Sys2Proof.Machine

open Sys2Proof.Claims

/-! ## The first entry with a number -/

section
variable {m : AMap Meet} {n : Nat} {x : Meet}

theorem entryAt_cons (e : Nat × Meet) (t : AMap Meet) (j : Nat) : entryAt (e :: t) j = if e.1 = j then some e.2 else entryAt t j := by
  unfold entryAt
  rw [List.find?_cons]
  by_cases h : e.1 = j
  · rw [if_pos h, show (e.1 == j) = true by simp [h]] <;> rfl
  · rw [if_neg h, show (e.1 == j) = false by simp [h]]

theorem entryAt_put (m : AMap Meet) (n : Nat) (x : Meet) (j : Nat) : entryAt (m.put n x) j = if j = n then some x else entryAt m j := by
  induction m with
  | nil => rw [AMap.put, entryAt_cons, if_congr (eq_comm (a := n) (b := j)) rfl rfl]
  | cons e t ih =>
    rw [AMap.put]
    split
    · next hkn => grind [entryAt_cons]
    · next hkn =>
      split
      · grind [entryAt_cons]
      · grind [entryAt_cons]

theorem entryAt_mapV (m : AMap Meet) (f : Nat → Meet → Meet) (j : Nat) : entryAt (m.mapV f) j = (entryAt m j).map (f j) := by
  induction m with
  | nil => rfl
  | cons e t ih =>
    show entryAt ((e.1, f e.1 e.2) :: AMap.mapV t f) j = _
    rw [entryAt_cons, entryAt_cons, ih]
    split
    · next h => rw [← h, Option.map_some]
    · rfl

theorem get_of_entryAt (d : Meet) (h : entryAt m n = some x) : m.get d n = x := by
  induction m with
  | nil => exact absurd h (by simp [entryAt])
  | cons e t ih =>
    rw [entryAt_cons] at h
    rw [AMap.get]
    split
    · next hn => rwa [if_pos hn, Option.some.injEq] at h
    · next hn => exact ih (by rwa [if_neg hn] at h)

/-- The entry that findMeet finds is the first with its number, where no number stands twice. -/
theorem entryAt_of_findKey {f : Nat → Meet → Bool} (hnodup : (m.map (·.1)).Nodup) (h : m.findKey f = some n) : ∃ x, entryAt m n = some x ∧ f n x = true := by
  unfold AMap.findKey at h
  rw [Option.map_eq_some_iff] at h
  obtain ⟨⟨n', x⟩, hfind, rfl⟩ := h
  have hmem := List.mem_of_find?_eq_some hfind
  refine ⟨x, ?_, by simpa using List.find?_some hfind⟩
  obtain ⟨y, hy⟩ : ∃ y, m.find? (fun e => e.1 == n') = some y := by
    rw [← Option.isSome_iff_exists, List.find?_isSome]
    exact ⟨_, hmem, by simp⟩
  have hkey : y.1 = n' := by simpa using List.find?_some hy
  have hyx : y = (n', x) := List.inj_on_of_nodup_map hnodup (List.mem_of_find?_eq_some hy) hmem hkey
  rw [entryAt, hy, hyx]
  rfl

theorem has_put (m : AMap Meet) (n : Nat) (x : Meet) (j : Nat) : (m.put n x).has j = true ↔ m.has j = true ∨ j = n := by
  have hhas (m : AMap Meet) : m.has j = true ↔ (entryAt m j).isSome = true := by
    rw [entryAt, Option.isSome_map, List.find?_isSome, AMap.has, List.any_eq_true]
  rw [hhas, hhas, entryAt_put]
  split
  · next h => simp [h]
  · next h => simp [h]
end

theorem freeMeet_some {k : Kernel} {lc n : Nat} (h : k.freeMeet lc = some n) : n < 256 ∧ k.meets.has (lc * 256 + n) = false ∧ ∀ j < n, k.meets.has (lc * 256 + j) = true := by
  unfold Kernel.freeMeet at h
  rw [List.find?_range_eq_some] at h
  obtain ⟨hfree, hn, hbefore⟩ := h
  exact ⟨List.mem_range.mp hn, by simpa [meetKey] using hfree, fun j hj => by simpa [meetKey] using hbefore j hj⟩

theorem freeMeet_none {k : Kernel} {lc : Nat} (h : k.freeMeet lc = none) : ∀ j < 256, k.meets.has (lc * 256 + j) = true := by
  unfold Kernel.freeMeet at h
  rw [List.find?_range_eq_none] at h
  exact fun j hj => by simpa [meetKey] using h j hj

/-! ## Arrival (R357) -/

section
variable {s : State} {g : BitVec 16} {mid : BitVec 8} {win : BitVec 22} {live : BitVec 32} {hash : BitVec 16}

/-- s with the meets and generations of the kernel of the thread in issue. -/
def kernelMeets (s : State) (meets : AMap Meet) (gens : AMap (BitVec 16)) : Kernel := { s.kernel s.me.kid with meets := meets, gens := gens }

theorem kernelMeets_meets (s : State) (meets : AMap Meet) (gens : AMap (BitVec 16)) : (kernelMeets s meets gens).meets = meets := rfl

theorem arrive_joins {le : Nat} {e : Meet} (hfind : (s.kernel s.me.kid).findMeet ((s.kernel s.me.kid).lcOf s.me.core) false g mid = some le) (he : entryAt (s.kernel s.me.kid).meets le = some e) :
    s.arrive g mid win live hash = some (s.setKernel s.me.kid (kernelMeets s
      (((s.kernel s.me.kid).meets.put le { e with waiters := e.waiters ++ [{ thr := s.cur, hash := hash, live := live }] }).mapV (fun _ x =>
        if x.home && x.gid = g && x.mid = mid && x.gen = e.gen then { x with arr := x.arr + s.me.mul.toNat } else x)) (s.kernel s.me.kid).gens), le) := by
  unfold State.arrive
  dsimp only
  rw [hfind]
  dsimp only
  rw [get_of_entryAt _ he]
  rfl

theorem arrive_full (hfind : (s.kernel s.me.kid).findMeet ((s.kernel s.me.kid).lcOf s.me.core) false g mid = none)
    (hfree : (s.kernel s.me.kid).freeMeet ((s.kernel s.me.kid).lcOf s.me.core) = none) : s.arrive g mid win live hash = none := by
  unfold State.arrive
  dsimp only
  rw [hfind, hfree]

theorem arrive_opens {n he : Nat} {x : Meet} (hfind : (s.kernel s.me.kid).findMeet ((s.kernel s.me.kid).lcOf s.me.core) false g mid = none)
    (hfree : (s.kernel s.me.kid).freeMeet ((s.kernel s.me.kid).lcOf s.me.core) = some n)
    (hhome : (s.kernel s.me.kid).findMeet ((s.kernel s.me.kid).homeOf g) true g mid = some he) (hx : entryAt (s.kernel s.me.kid).meets he = some x) :
    s.arrive g mid win live hash = some (s.setKernel s.me.kid (kernelMeets s
      (((s.kernel s.me.kid).meets.put he { x with arr := x.arr + s.me.mul.toNat }).put ((s.kernel s.me.kid).lcOf s.me.core * 256 + n)
        (openedAt s g mid x.gen win { thr := s.cur, hash := hash, live := live })) (s.kernel s.me.kid).gens), (s.kernel s.me.kid).lcOf s.me.core * 256 + n) := by
  unfold State.arrive
  dsimp only
  rw [hfind, hfree, hhome]
  dsimp only
  rw [get_of_entryAt _ hx]
  rfl

/-- The thread's kernel with a local entry opened at a generation. -/
def withOpened (s : State) (g : BitVec 16) (mid : BitVec 8) (win : BitVec 22) (w : Waiter) (n : Nat) : AMap Meet :=
  (s.kernel s.me.kid).meets.put ((s.kernel s.me.kid).lcOf s.me.core * 256 + n) (openedAt s g mid ((s.kernel s.me.kid).gens.get 0 (g.toNat * 256 + mid.toNat) + 1) win w)

theorem arrive_homeless {n : Nat} (hfind : (s.kernel s.me.kid).findMeet ((s.kernel s.me.kid).lcOf s.me.core) false g mid = none)
    (hfree : (s.kernel s.me.kid).freeMeet ((s.kernel s.me.kid).lcOf s.me.core) = some n)
    (hhome : (s.kernel s.me.kid).findMeet ((s.kernel s.me.kid).homeOf g) true g mid = none)
    (hnone : (kernelMeets s (withOpened s g mid win { thr := s.cur, hash := hash, live := live } n) (s.kernel s.me.kid).gens).freeMeet ((s.kernel s.me.kid).homeOf g) = none) :
    s.arrive g mid win live hash = none := by
  unfold State.arrive
  dsimp only
  rw [hfind, hfree, hhome]
  dsimp only
  unfold kernelMeets withOpened openedAt at hnone
  simp only [meetKey, genKey, reduceIte, Bool.false_eq_true]
  rw [hnone]

theorem arrive_creates {n h : Nat} (hfind : (s.kernel s.me.kid).findMeet ((s.kernel s.me.kid).lcOf s.me.core) false g mid = none)
    (hfree : (s.kernel s.me.kid).freeMeet ((s.kernel s.me.kid).lcOf s.me.core) = some n)
    (hhome : (s.kernel s.me.kid).findMeet ((s.kernel s.me.kid).homeOf g) true g mid = none)
    (hnew : (kernelMeets s (withOpened s g mid win { thr := s.cur, hash := hash, live := live } n) (s.kernel s.me.kid).gens).freeMeet ((s.kernel s.me.kid).homeOf g) = some h) :
    s.arrive g mid win live hash = some (s.setKernel s.me.kid (kernelMeets s
      ((withOpened s g mid win { thr := s.cur, hash := hash, live := live } n).put ((s.kernel s.me.kid).homeOf g * 256 + h)
        (homeOpened g mid ((s.kernel s.me.kid).gens.get 0 (g.toNat * 256 + mid.toNat) + 1) (countOf s g) s.me.mul.toNat))
      ((s.kernel s.me.kid).gens.put (g.toNat * 256 + mid.toNat) ((s.kernel s.me.kid).gens.get 0 (g.toNat * 256 + mid.toNat) + 1))),
      (s.kernel s.me.kid).lcOf s.me.core * 256 + n) := by
  unfold State.arrive
  dsimp only
  rw [hfind, hfree, hhome]
  dsimp only
  unfold kernelMeets withOpened openedAt at hnew
  simp only [meetKey, genKey, reduceIte, Bool.false_eq_true]
  rw [hnew] <;> rfl

/-- With a waiter and no numbers twice: an arrival finds no entry, or arrives. -/
theorem arrive_cases (s : State) (g : BitVec 16) (mid : BitVec 8) (win : BitVec 22) (live : BitVec 32) (hash : BitVec 16) (hnodup : ((s.kernel s.me.kid).meets.map (·.1)).Nodup) :
    (NoEntry s g mid ∧ s.arrive g mid win live hash = none) ∨
      ∃ K le, s.arrive g mid win live hash = some (s.setKernel s.me.kid K, le) ∧ Arrived s g mid win { thr := s.cur, hash := hash, live := live } K le := by
  cases hfind : (s.kernel s.me.kid).findMeet ((s.kernel s.me.kid).lcOf s.me.core) false g mid with
  | some le =>
    obtain ⟨e, he, htest⟩ := entryAt_of_findKey hnodup hfind
    have hhome : e.home = false := by
      simp only [Bool.and_eq_true, beq_iff_eq] at htest
      exact htest.1.1.1.2
    refine Or.inr ⟨_, _, arrive_joins hfind he, rfl, Or.inl ⟨e, hfind, he, rfl, fun n => ?_⟩⟩
    rw [kernelMeets_meets, entryAt_mapV, entryAt_put]
    split
    · rw [Option.map_some, hhome]
      rfl
    · unfold arrivedAt
      simp only [Bool.and_eq_true, decide_eq_true_eq, and_assoc]
  | none =>
    cases hfree : (s.kernel s.me.kid).freeMeet ((s.kernel s.me.kid).lcOf s.me.core) with
    | none => exact Or.inl ⟨⟨hfind, Or.inl hfree⟩, arrive_full hfind hfree⟩
    | some n =>
      cases hhome : (s.kernel s.me.kid).findMeet ((s.kernel s.me.kid).homeOf g) true g mid with
      | some he =>
        obtain ⟨x, hx, -⟩ := entryAt_of_findKey hnodup hhome
        refine Or.inr ⟨_, _, arrive_opens hfind hfree hhome hx, rfl, Or.inr (Or.inl ⟨he, x, hfind, by rw [hfree]; rfl, hhome, hx, rfl, fun j => ?_⟩)⟩
        rw [kernelMeets_meets, entryAt_put, entryAt_put]
      | none =>
        have hhas (j : Nat) := has_put (s.kernel s.me.kid).meets ((s.kernel s.me.kid).lcOf s.me.core * 256 + n)
          (openedAt s g mid ((s.kernel s.me.kid).gens.get 0 (g.toNat * 256 + mid.toNat) + 1) win { thr := s.cur, hash := hash, live := live }) j
        cases hnew : (kernelMeets s (withOpened s g mid win { thr := s.cur, hash := hash, live := live } n) (s.kernel s.me.kid).gens).freeMeet ((s.kernel s.me.kid).homeOf g) with
        | none =>
          refine Or.inl ⟨⟨hfind, Or.inr ⟨hhome, n, hfree, fun j hj => (hhas _).mp (freeMeet_none hnew j hj)⟩⟩, arrive_homeless hfind hfree hhome hnew⟩
        | some h =>
          obtain ⟨hlt, hunused, hbefore⟩ := freeMeet_some hnew
          have hfresh := (not_congr (hhas ((s.kernel s.me.kid).homeOf g * 256 + h))).mp (by rw [Bool.not_eq_true]; exact hunused)
          rw [not_or, Bool.not_eq_true] at hfresh
          refine Or.inr ⟨_, _, arrive_creates hfind hfree hhome hnew, rfl, Or.inr (Or.inr ⟨h, hfind, by rw [hfree]; rfl, hhome, hlt, hfresh.2, hfresh.1,
            fun j hj => (hhas _).mp (hbefore j hj), rfl, fun j => ?_⟩)⟩
          rw [kernelMeets_meets, entryAt_put, withOpened, entryAt_put]
          rfl

/-- A thread that arrives found an entry. -/
theorem not_noEntry_of_arrived {w : Waiter} {K : Kernel} {le : Nat} (h : Arrived s g mid win w K le) : ¬NoEntry s g mid := by
  rintro ⟨hnone, hfull⟩
  obtain ⟨-, ⟨e, hfind, -⟩ | ⟨he, x, -, hfree, hhome, -⟩ | ⟨n, -, hfree, -, hn, hne, hunused, -⟩⟩ := h
  · rw [hnone] at hfind
    cases hfind
  · obtain hfull | ⟨hno, -⟩ := hfull
    · rw [hfull] at hfree
      cases hfree
    · rw [hno] at hhome
      cases hhome
  · obtain hfull | ⟨-, m, hm, hall⟩ := hfull
    · rw [hfull] at hfree
      cases hfree
    · rw [hm, Option.map_some, Option.some.injEq] at hfree
      rcases hall n hn with hused | hkey
      · rw [hunused] at hused
        cases hused
      · exact hne (hkey.trans hfree)
end

/-! ## The bundle (R114, R115) -/

theorem orStat_eq_stuck (s : State) (b : Word) : s.orStat s.cur b = stuck s b := rfl

theorem meetHash_eq (s : State) (mid : BitVec 8) (live : BitVec 32) : s.meetHash mid live = hashOf s mid live := by
  have hmid : mid.zeroExtend 16 = BitVec.ofNat 16 mid.toNat := (BitVec.ofNat_toNat ..).symm
  have hpc : s.me.pc.extractLsb' 4 16 = BitVec.ofNat 16 (s.me.pc.toNat / 16 % 2 ^ 16) := by
    apply BitVec.eq_of_toNat_eq
    rw [toNat_extractLsb', BitVec.toNat_ofNat]
    norm_num
  unfold State.meetHash hashOf
  rw [hmid, hpc]

theorem liveRegs_eq (w : Word) : w.extractLsb' 0 32 &&& 0xFFFF_FFFE = BitVec.ofNat 32 (w.toNat / 2 * 2 % 2 ^ 32) := by
  apply BitVec.eq_of_getLsbD_eq
  intro i hi
  have hmask : (0xFFFF_FFFE : BitVec 32) = ~~~1#32 := by decide
  have heven : (w.toNat / 2 * 2).testBit i = (decide (1 ≤ i) && w.toNat.testBit i) := by
    rw [← Nat.shiftRight_one, ← Nat.pow_one 2, ← Nat.shiftLeft_eq, Nat.testBit_shiftLeft, Nat.testBit_shiftRight]
    by_cases h : 1 ≤ i
    · rw [Nat.add_sub_cancel' h]
    · simp [h]
  rw [BitVec.getLsbD_and, hmask, BitVec.getLsbD_not, BitVec.getLsbD_one, BitVec.getLsbD_extractLsb', BitVec.getLsbD_ofNat, Nat.testBit_mod_two_pow, heven, ← BitVec.getLsbD]
  cases i <;> simp [hi]

theorem and_eq_zero_of_bits {x y : BitVec 32} (h : ∀ k < 32, x.getLsbD k = true → y.getLsbD k = false) : x &&& y = 0 := by
  apply BitVec.eq_of_getLsbD_eq
  intro k hk
  rw [BitVec.getLsbD_and]
  cases hx : x.getLsbD k with
  | false => simp
  | true => simp [h k hk hx]

theorem exec_meet {d a b : SReg} {mid : BitVec 8} {win : BitVec 22} {s : State} (h : MayMeet s (groupNow s a) (BitVec.ofNat 32 ((s.rx b).toNat / 2 * 2 % 2 ^ 32))) :
    let g := groupNow s a
    let live := BitVec.ofNat 32 ((s.rx b).toNat / 2 * 2 % 2 ^ 32)
    (s.arrive g mid win live (hashOf s mid live) = none → exec (.meet d a b mid win) s = .next ((stuck s 0x100).wx d 0)) ∧
    (∀ K le, s.arrive g mid win live (hashOf s mid live) = some (s.setKernel s.me.kid K, le) →
      let p := ((s.setKernel s.me.kid K).park (.meet (K.lcOf s.me.core) le)).testMeets s.me.kid g
      exec (.meet d a b mid win) s = .next (if win = 0 && !K.det then p.closeLocal s.me.kid le else p)) := by
  obtain ⟨hreply, hmember, huser, hnone⟩ := h
  intro g live
  have hany : (List.range 32).any (fun i => live.getLsbD i && s.ops.any (fun o => o.thr == s.cur && o.dst == some (.s (BitVec.ofNat 6 i)))) = false := by
    rw [List.any_eq_false]
    intro i hi
    rw [Bool.and_eq_true, List.any_eq_true]
    rintro ⟨hlive, o, ho, hwrites⟩
    rw [Bool.and_eq_true, beq_iff_eq, beq_iff_eq] at hwrites
    exact hnone o ho hwrites.1 i (List.mem_range.mp hi) hlive hwrites.2
  have hwaits : (s.reservations s.cur ≠ 0 && s.me.mode = .user) = true → False := by
    intro hw
    simp only [Bool.and_eq_true, decide_eq_true_eq] at hw
    exact hw.1 (huser hw.2).1
  have hfaults : (s.me.mode = .user && (!s.me.frame.isEmpty || live &&& s.me.xpf ≠ 0)) = true → False := by
    intro hf
    simp only [Bool.and_eq_true, Bool.or_eq_true, decide_eq_true_eq, Bool.not_eq_true', List.isEmpty_eq_false_iff] at hf
    obtain ⟨-, hframe, hmarks⟩ := huser hf.1
    exact hf.2.elim (fun h => h hframe) (fun h => h (and_eq_zero_of_bits hmarks))
  refine ⟨fun hfull => ?_, fun K le harrived => ?_⟩
  · show execMeet d a b mid win s = _
    unfold execMeet
    dsimp only
    rw [hreply]
    dsimp only
    rw [groupOf_rx, liveRegs_eq, if_neg hwaits, if_neg hfaults, if_neg (by simpa using hmember), hany, if_neg Bool.false_ne_true, meetHash_eq, hfull]
    rfl
  · show execMeet d a b mid win s = _
    unfold execMeet
    dsimp only
    rw [hreply]
    dsimp only
    rw [groupOf_rx, liveRegs_eq, if_neg hwaits, if_neg hfaults, if_neg (by simpa using hmember), hany, if_neg Bool.false_ne_true, meetHash_eq, harrived]
    dsimp only
    rw [State.kernel_setKernel_same] <;> rfl

theorem meetArrival : MeetArrival := by
  intro d a b mid win s kid g live hmay hnodup
  obtain ⟨hfull, hnext⟩ := exec_meet (d := d) (a := a) (b := b) (mid := mid) (win := win) hmay
  obtain ⟨hentry, hnone⟩ | ⟨K, le, hsome, harrived⟩ := arrive_cases s g mid win live (hashOf s mid live) hnodup
  · exact ⟨fun _ => ⟨_, hfull hnone, wroteX_wx _ d 0⟩, fun h => absurd hentry h⟩
  · refine ⟨fun h => absurd h (not_noEntry_of_arrived harrived), fun _ => ?_⟩
    have hexec := hnext K le hsome
    have hdet : K.det = (s.kernel kid).det := by rw [harrived.1] <;> rfl
    have hclose : (win = 0 && !K.det) = true ↔ win = 0 ∧ ¬(s.kernel kid).det = true := by simp [hdet]
    obtain ⟨⟨f, hkernel, hkernels, hrest⟩, hmeets⟩ := countedMeets_testMeets ((s.setKernel kid K).park (.meet (K.lcOf s.me.core) le)) kid g
    have hK : ((s.setKernel kid K).park (.meet (K.lcOf s.me.core) le)).kernel kid = K := State.kernel_setKernel_same ..
    rw [hK] at hkernel hmeets
    dsimp only at hexec
    generalize State.testMeets _ _ _ = p at hexec hkernel hkernels hrest hmeets
    refine ⟨K, le, p, harrived, ?_, fun k hk => ?_, (congrArg State.issue hrest :), ?_, fun k hk => ?_, hmeets, ?_, ?_, ?_⟩
    · exact (congrArg State.me hrest :).trans (State.me_setMe (s.setKernel kid K) _)
    · exact (congrArg (State.thread · k) hrest :).trans (State.thread_setMe_ne (s.setKernel kid K) _ k hk)
    · rw [hkernel]
    · exact (hkernels k hk).trans (State.kernel_setKernel_ne _ _ _ _ hk)
    · exact sameBytes_of_eq (congrArg State.mem hrest :) (congrArg State.hostMem hrest :)
    · exact congrArg (fun v : State => { v with threads := s.threads, kernels := s.kernels, issue := s.issue, drawn := s.drawn }) hrest
    · rw [hexec, if_congr hclose rfl rfl]

end Sys2Proof.Machine

open Sys2Proof Sys2Proof.Machine Sys2Proof.Claims

/-- Settles O42: each by the completion test, which closes a complete generation and no other. -/
theorem groupsAndExit : Obligations.GroupsAndExit := ⟨groupMembership, meetArrival, exitResult⟩
end

section
/-! What reaches a core: messages, thefts, requests for full/empty words, decrements and arrivals (R121, R128, R147, R310, R333, R369 to R374). -/

namespace Sys2Proof.Machine

open Sys2Proof.Claims

/-! ## Messages (R310, R333) -/

theorem AMap.mem_put_of_ne {α : Type} {m : AMap α} {n : Nat} {w : α} {e : Nat × α} (he : e ∈ m) (hn : e.1 ≠ n) : e ∈ m.put n w := by
  induction m with
  | nil => cases he
  | cons x t ih =>
    rw [AMap.put]
    rw [List.mem_cons] at he
    split
    · next hx =>
      have hex : e ≠ x := fun h => hn (h ▸ hx)
      exact List.mem_cons_of_mem _ (he.resolve_left hex)
    · split
      · exact List.mem_cons_of_mem _ (List.mem_cons.mpr he)
      · exact List.mem_cons.mpr (he.imp_right ih)

/-- The queue of a core with a message more. -/
def withMsg (s : State) (cc : Nat) (m : Msg) : State := s.setCoreCtx cc { s.coreCtx cc with rq := (s.coreCtx cc).rq ++ [m], rqAt := s.cycle + 1 }

theorem mem_of_messageTaker {s : State} {cc k : Nat} (h : s.messageTaker cc = some k) : ∃ e ∈ s.threads, e.2.life = .resident ∧ e.2.cc = cc ∧ e.2.umask.getLsbD 1 = true := by
  have hmem := List.mem_of_mem_head? h
  simp only [List.mem_flatMap, List.mem_map, List.mem_filter, Bool.and_eq_true, beq_iff_eq] at hmem
  obtain ⟨n, -, e, ⟨⟨he, ⟨hlife, hcc⟩, hmask⟩, -⟩, -⟩ := hmem
  exact ⟨e, he, hlife, hcc, hmask⟩

/-- A message alone, or with MESSAGE pending in a thread that enables it, where nobody waits. -/
theorem pushMsg_cases (s : State) (cc : Nat) (m : Msg) : s.pushMsg cc m = withMsg s cc m ∨
    ∃ k, (withMsg s cc m).messageTaker cc = some k ∧ (withMsg s cc m).waitersOf cc isRecv = [] ∧ (withMsg s cc m).waitersOf cc isWaitm = [] ∧
      s.pushMsg cc m = (withMsg s cc m).pendCause k causeMESSAGE 0 0 := by
  unfold State.pushMsg
  extract_lets c w
  rw [show withMsg s cc m = w from rfl]
  clear_value w
  split
  · exact Or.inl rfl
  · next hnone =>
    simp only [Bool.or_eq_true, decide_eq_true_eq, not_or, not_not] at hnone
    split
    · next k htaker =>
      split
      · exact Or.inl rfl
      · exact Or.inr ⟨k, htaker, hnone.1, hnone.2, rfl⟩
    · exact Or.inl rfl

/-- The state in which a message enters its queue: its operation is gone, and its sender goes on. -/
def sentNow (s : State) (o : Op) : State := if o.thr = noticeSender then s.dropOp o.id else (s.dropOp o.id).wake o.thr 0

theorem exec_messageArrival {s : State} {o : Op} {cc : Nat} {p : VReg} {h : Word} (hfind : s.findOp o.id = some o) (hk : o.kind = .message cc p h)
    (hroom : s.queued cc < 64) (hfirst : (s.coreCtx cc).rqAt ≠ s.cycle + 1) : exec (.messageArrival o.id) s = .next ((sentNow s o).pushMsg cc { payload := p, hdr := h }) := by
  have hready : s.messageReady o = true := by
    unfold State.messageReady
    simp only [hk, hroom, decide_true, Bool.true_and, bne_iff_ne, ne_eq]
    exact hfirst
  show execMessageArrival o.id s = _
  unfold execMessageArrival
  simp only [hfind, hk, hready, if_true]
  rfl

theorem thread_sentNow (s : State) (o : Op) (k : Nat) : (sentNow s o).thread k = if k = o.thr ∧ o.thr ≠ noticeSender then woken (s.thread k) 0 else s.thread k := by
  unfold sentNow
  split
  · next h => rw [if_neg (fun hk => hk.2 h)] <;> rfl
  · next h =>
    rw [State.thread_wake]
    simp only [h, ne_eq, not_false_eq_true, and_true]
    rfl

theorem rest_sentNow (s : State) (o : Op) : { sentNow s o with threads := s.threads } = s.dropOp o.id := by
  unfold sentNow
  split <;> rfl

/-- What is true of every thread, whether it waits or not, is true once the sender goes on. -/
theorem forall_threads_sentNow {P : Thread → Prop} {s : State} {o : Op} (hdefault : P {}) (hwake : ∀ t v, P t → P (woken t v)) (h : ∀ e ∈ s.threads, P e.2) :
    ∀ e ∈ (sentNow s o).threads, P e.2 := by
  unfold sentNow
  split
  · exact h
  · exact AMap.forall_put h (hwake _ _ (AMap.get_of_forall hdefault h o.thr))

/-- Another thread's entry stays. -/
theorem mem_threads_sentNow {s : State} {o : Op} {e : Nat × Thread} (he : e ∈ s.threads) (hne : e.1 ≠ o.thr) : e ∈ (sentNow s o).threads := by
  unfold sentNow
  split
  · exact he
  · exact AMap.mem_put_of_ne he hne

/-- A thread of the core that enables MESSAGE, or waits for one. -/
def Thread.hears (t : Thread) (cc : Nat) : Prop := t.cc = cc ∧ t.life = .resident ∧ t.umask.getLsbD 1 = true

theorem pushMsg_deaf {s : State} {cc : Nat} {m : Msg} (h : ∀ e ∈ s.threads, ¬e.2.hears cc) : s.pushMsg cc m = withMsg s cc m := by
  refine (pushMsg_cases s cc m).resolve_right ?_
  rintro ⟨k, htaker, -⟩
  obtain ⟨e, he, hlife, hcc, hmask⟩ := mem_of_messageTaker htaker
  exact h e he ⟨hcc, hlife, hmask⟩

theorem pushMsg_waited {s : State} {cc : Nat} {m : Msg} {e : Nat × Thread} (he : e ∈ s.threads) (hcc : e.2.cc = cc) (hlife : e.2.life = .resident) (hslot : e.2.slot < 16)
    (hwait : e.2.wait = some .recv ∨ e.2.wait = some .qsum ∨ e.2.wait = some .waitm) : s.pushMsg cc m = withMsg s cc m := by
  refine (pushMsg_cases s cc m).resolve_right ?_
  rintro ⟨k, -, hrecv, hwaitm, -⟩
  have hwaits {f : Wait → Bool} {w : Wait} (hw : e.2.wait = some w) (hf : f w = true) : e.1 ∈ (withMsg s cc m).waitersOf cc f :=
    mem_waitersOf.mpr ⟨e, he, rfl, hlife, hcc, hslot, w, hw, hf⟩
  obtain hw | hw | hw := hwait
  · exact List.not_mem_nil (hrecv ▸ hwaits hw rfl)
  · exact List.not_mem_nil (hrecv ▸ hwaits hw rfl)
  · exact List.not_mem_nil (hwaitm ▸ hwaits hw rfl)

theorem thread_pendCause (s : State) (j cause : Nat) (x y : Word) (k : Nat) :
    (s.pendCause j cause x y).thread k = { s.thread k with pend := ((s.pendCause j cause x y).thread k).pend, info := ((s.pendCause j cause x y).thread k).info } := by
  unfold State.pendCause
  by_cases hk : k = j
  · subst hk
    rw [State.thread_setThread_same]
  · rw [State.thread_setThread_ne _ _ _ _ hk]

/-- All that a message changes: its queue, and what pends in a thread. -/
theorem pushMsg_keeps (s : State) (cc : Nat) (m : Msg) : (∀ k, (s.pushMsg cc m).thread k = { s.thread k with pend := ((s.pushMsg cc m).thread k).pend, info := ((s.pushMsg cc m).thread k).info }) ∧
    { s.pushMsg cc m with threads := s.threads } = withMsg s cc m := by
  obtain h | ⟨k, -, -, -, h⟩ := pushMsg_cases s cc m
  · rw [h]
    exact ⟨fun _ => rfl, rfl⟩
  · rw [h]
    exact ⟨thread_pendCause (withMsg s cc m) k causeMESSAGE 0 0, rfl⟩

/-- All but the threads, once a message has entered. -/
theorem rest_messageArrival (s : State) (o : Op) (cc : Nat) (m : Msg) : { (sentNow s o).pushMsg cc m with threads := s.threads } = withMsg (s.dropOp o.id) cc m := by
  have hrest := (pushMsg_keeps (sentNow s o) cc m).2
  calc { (sentNow s o).pushMsg cc m with threads := s.threads }
    _ = withMsg { sentNow s o with threads := s.threads } cc m := congrArg (fun u : State => { u with threads := s.threads }) hrest
    _ = withMsg (s.dropOp o.id) cc m := by rw [rest_sentNow]

/-! ## Operations that a switch does not merge -/

theorem mergeKey_eq_none {s : State} {o : Op} (hload : ∀ sg, o.kind ≠ .load sg) (hamo : ∀ x y, o.kind ≠ .amo x y) : s.mergeKey o = none := by
  unfold State.mergeKey
  split
  · split
    · next hk => exact absurd hk (hload _)
    · next hk => exact absurd hk (hamo _ _)
    · rfl
  · rfl

/-- An operation that ends by itself. -/
def OpKind.alone : OpKind → Bool
  | .steal _ | .feReq _ _ _ | .arrive _ _ => true
  | _ => false

theorem returnOp_alone {s : State} {o : Op} (hk : o.kind.alone = true) (hp : s.performable o = true) (hfar : o.isFar = false) : s.returnOp o none = some (s.performOp o) := by
  have hgroup : s.mergeGroup o = [o] := s.mergeGroup_alone (mergeKey_eq_none (fun _ h => by rw [h] at hk; cases hk) (fun _ _ h => by rw [h] at hk; cases hk))
  rw [State.returnOp, hfar, hp, hgroup]
  split
  · next h => cases h
  · split
    · next h => cases h
    · split
      · next h => rw [h] at hk; cases hk
      · next h => rw [h] at hk; cases hk
      · rfl

theorem endOp_alone {s : State} {o : Op} (hfind : s.findOp o.id = some o) (hk : o.kind.alone = true) (hp : s.performable o = true) (hfar : o.isFar = false) (name : String) :
    s.endOp o.id o.kind.ending none name = .next (s.performOp o) := by
  rw [State.endOp, hfind]
  dsimp only
  rw [if_neg (not_not.mpr rfl), returnOp_alone hk hp hfar] <;> rfl

theorem exec_loadReturn_alone {s : State} {o : Op} (hfind : s.findOp o.id = some o) (hk : o.kind.alone = true) (hending : o.kind.ending = 0) (hp : s.performable o = true)
    (hfar : o.isFar = false) : exec (.loadReturn o.id none) s = .next (s.performOp o) := by
  have hend := endOp_alone hfind hk hp hfar "LOAD_RETURN"
  rwa [hending] at hend

/-! ## Thefts (R128) -/

theorem performOp_steal {s : State} {o : Op} {cc : Nat} (hk : o.kind = .steal cc) {v : Word} {q : List Word} (h : (s.dropOp o.id).stealFrom cc = (v, withDq (s.dropOp o.id) cc q)) :
    s.performOp o = (withDq (s.dropOp o.id) cc q).wake o.thr v := by
  simp only [State.performOp, hk, h]

/-- The victim's deque and the thief after a theft. -/
theorem stolen_ends (s : State) (o : Op) (cc : Nat) (v : Word) (q : List Word) : let t := (withDq (s.dropOp o.id) cc q).wake o.thr v
    t.ops = s.ops.filter (fun x => x.id != o.id) ∧ t.coreCtx cc = { s.coreCtx cc with dq := q, dqAt := s.cycle + 1 } ∧ (∀ c, c ≠ cc → t.coreCtx c = s.coreCtx c) ∧
      (∀ k, t.thread k = if k = o.thr then woken (s.thread k) v else s.thread k) ∧ { t with ops := s.ops, ccs := s.ccs, threads := s.threads } = s :=
  ⟨rfl, State.coreCtx_setCoreCtx_same .., fun _ hc => State.coreCtx_setCoreCtx_ne _ _ _ _ hc, State.thread_wake (withDq (s.dropOp o.id) cc q) o.thr v, rfl⟩

/-! ## Full/empty words (R147) -/

theorem bytesOf_getD {n z j : Nat} (h : j < n) : (bytesOf n z).getD j 0 = byteAt z j := by
  rw [bytesOf, List.getD_eq_getElem?_getD, List.getElem?_map, List.getElem?_range h]
  rfl

theorem length_leBytes_eight (z : Nat) : (leBytes 8 z).length = 8 := by
  rw [leBytes_eq_bytesOf, bytesOf, List.length_map, List.length_range]

/-- A request for a full/empty word is served: its word, its bit and its thread. -/
structure FeServed (s t : State) (cc : Nat) (q : FeReq) : Prop where
  thread : t.thread q.thr = { woken (s.thread q.thr) (if q.kind = 1 then 0 else wrap ((numAt (s.coreCtx cc).lm (8 * q.word) 8 : Nat) : Int)) with resv := (t.thread q.thr).resv }
  queue : (t.coreCtx cc).feq = (s.coreCtx cc).feq.filter (fun x => !(x.thr == q.thr && x.word == q.word))
  full : (t.coreCtx cc).full.get false q.word = decide (q.kind ≠ 0)
  lm : ∀ x, (t.coreCtx cc).lm.get x = if q.kind = 1 ∧ 8 * q.word ≤ x ∧ x < 8 * q.word + 8 then byteAt q.data.toNat (x - 8 * q.word) else (s.coreCtx cc).lm.get x
  regs : ∀ k, k ≠ q.thr → (t.thread k).regs = (s.thread k).regs
  ops : t.ops = s.ops
  bytes : SameBytes s t

section
variable {s : State} {cc : Nat} {q : FeReq}

/-- The owner's record once a request has left its queue and set its bit. -/
def feLeft (c : CoreCtx) (q : FeReq) (full : AMap Bool) : CoreCtx := { c with feq := c.feq.filter (fun x => !(x.thr == q.thr && x.word == q.word)), full := full }

theorem feServed_store (hkind : q.kind = 1) (hheld : s.heldCc cc = false) (hsound : LmSound s cc (8 * q.word) 8) : FeServed s (s.feServe cc q) cc q := by
  have hserve : s.feServe cc q = ((s.setCoreCtx cc (feLeft (s.coreCtx cc) q ((s.coreCtx cc).full.put q.word true))).lmWrite cc (8 * q.word) (leBytes 8 q.data.toNat)).wake q.thr 0 := by
    unfold State.feServe
    dsimp only
    rw [if_pos hkind, hheld]
    rfl
  have hwrote : LmWrote (s.setCoreCtx cc (feLeft (s.coreCtx cc) q ((s.coreCtx cc).full.put q.word true)))
      ((s.setCoreCtx cc (feLeft (s.coreCtx cc) q ((s.coreCtx cc).full.put q.word true))).lmWrite cc (8 * q.word) (leBytes 8 q.data.toNat)) cc (8 * q.word) (leBytes 8 q.data.toNat) :=
    lmWrote_lmWrite hheld (by rw [length_leBytes_eight]; exact hsound)
  rw [hserve]
  generalize State.lmWrite _ _ _ _ = u at hwrote ⊢
  obtain ⟨hlm, hcores, hthreads, hbytes, hrest⟩ := hwrote
  have hcore := hcores cc
  rw [State.coreCtx_setCoreCtx_same] at hcore
  refine ⟨?_, ?_, ?_, fun x => ?_, fun k hk => ?_, (congrArg State.ops hrest :), hbytes⟩
  · rw [State.thread_wake, if_pos rfl, if_pos hkind, hthreads]
    rfl
  · exact (congrArg CoreCtx.feq hcore :)
  · have hfull : (u.coreCtx cc).full = (s.coreCtx cc).full.put q.word true := (congrArg CoreCtx.full hcore :)
    show (u.coreCtx cc).full.get false q.word = _
    rw [hfull, AMap.get_put_same, hkind]
    rfl
  · refine (hlm cc x).trans ?_
    rw [length_leBytes_eight, State.coreCtx_setCoreCtx_same, leBytes_eq_bytesOf]
    simp only [hkind, true_and]
    split
    · next hx => exact bytesOf_getD (by omega)
    · rfl
  · rw [State.thread_wake, if_neg hk, hthreads]
    rfl

theorem feServed_load (hkind : q.kind ≠ 1) (hfull : (s.coreCtx cc).full.get false q.word = true) (hsound : LmSound s cc (8 * q.word) 8) : FeServed s (s.feServe cc q) cc q := by
  have hserve : s.feServe cc q = (s.setCoreCtx cc (feLeft (s.coreCtx cc) q (if q.kind = 0 then (s.coreCtx cc).full.put q.word false else (s.coreCtx cc).full))).wake q.thr
      (wordOf 64 ((s.coreCtx cc).lm.read (8 * q.word) 8)) := by
    unfold State.feServe
    dsimp only
    rw [if_neg hkind, lmCorrect_sound hsound, lmBad_sound hsound, if_neg Bool.false_ne_true]
    split <;> rfl
  rw [hserve, wordOf_read, ← wrap_natCast]
  refine ⟨?_, ?_, ?_, fun x => ?_, fun k hk => ?_, rfl, sameBytes_of_eq rfl rfl⟩
  · rw [State.thread_wake, if_pos rfl, if_neg hkind]
    rfl
  · exact congrArg CoreCtx.feq (State.coreCtx_setCoreCtx_same s cc _)
  · refine (congrArg (fun c : CoreCtx => c.full.get false q.word) (State.coreCtx_setCoreCtx_same s cc _)).trans ?_
    dsimp only [feLeft]
    split
    · next h0 => rw [AMap.get_put_same, h0] <;> rfl
    · next h0 => rw [hfull, decide_eq_true h0]
  · exact (congrArg (fun c : CoreCtx => c.lm.get x) (State.coreCtx_setCoreCtx_same s cc _)).trans (if_neg (fun hx => hkind hx.1)).symm
  · rw [State.thread_wake, if_neg hk]
    rfl

theorem feServed_feServe (hadmits : if q.kind = 1 then (s.coreCtx cc).full.get false q.word = false else (s.coreCtx cc).full.get false q.word = true)
    (hheld : s.heldCc cc = false) (hsound : LmSound s cc (8 * q.word) 8) : FeServed s (s.feServe cc q) cc q := by
  by_cases hkind : q.kind = 1
  · exact feServed_store hkind hheld hsound
  · exact feServed_load hkind (by rwa [if_neg hkind] at hadmits) hsound

theorem feAdmits_iff (full : Bool) (kind : Nat) : feAdmits full kind = true ↔ if kind = 1 then full = false else full = true := by
  unfold feAdmits
  split <;> simp

theorem feRun_idle {n word : Nat} (h : (s.coreCtx cc).feq.find? (fun q => q.word == word && feAdmits ((s.coreCtx cc).full.get false word) q.kind) = none) : State.feRun n s cc word = s := by
  cases n with
  | zero => rfl
  | succ n =>
    unfold State.feRun
    dsimp only
    rw [h]

theorem feRun_serve {n word : Nat} (h : (s.coreCtx cc).feq.find? (fun q => q.word == word && feAdmits ((s.coreCtx cc).full.get false word) q.kind) = some q) :
    State.feRun (n + 1) s cc word = State.feRun n (s.feServe cc q) cc word := by
  rw [State.feRun, h]

/-- A request that finds nobody waiting: it waits alone. -/
def feWaiting (s : State) (cc : Nat) (q : FeReq) : State := s.setCoreCtx cc { s.coreCtx cc with feq := [q] }

theorem coreCtx_feWaiting (s : State) (cc : Nat) (q : FeReq) : (feWaiting s cc q).coreCtx cc = { s.coreCtx cc with feq := [q] } := State.coreCtx_setCoreCtx_same ..

theorem feArrive_eq (hidle : (s.coreCtx cc).feq = []) : s.feArrive cc q = State.feRun 2 (feWaiting s cc q) cc q.word := by
  have hlen : ((feWaiting s cc q).coreCtx cc).feq.length + 1 = 2 := by rw [coreCtx_feWaiting]; rfl
  rw [← hlen, State.feArrive, hidle]
  rfl

theorem feArrive_waits (hidle : (s.coreCtx cc).feq = []) (hno : ¬if q.kind = 1 then (s.coreCtx cc).full.get false q.word = false else (s.coreCtx cc).full.get false q.word = true) :
    s.feArrive cc q = feWaiting s cc q := by
  rw [feArrive_eq hidle]
  refine feRun_idle ?_
  rw [← feAdmits_iff, Bool.not_eq_true] at hno
  rw [coreCtx_feWaiting]
  simp [hno]

theorem feArrive_served (hidle : (s.coreCtx cc).feq = []) (hadmits : if q.kind = 1 then (s.coreCtx cc).full.get false q.word = false else (s.coreCtx cc).full.get false q.word = true)
    (hheld : s.heldCc cc = false) (hsound : LmSound s cc (8 * q.word) 8) : FeServed (feWaiting s cc q) (s.feArrive cc q) cc q ∧ ((s.feArrive cc q).coreCtx cc).feq = [] := by
  have hserved : FeServed (feWaiting s cc q) ((feWaiting s cc q).feServe cc q) cc q := feServed_feServe (by rwa [coreCtx_feWaiting]) hheld hsound
  have hqueue : (((feWaiting s cc q).feServe cc q).coreCtx cc).feq = [] := by
    rw [hserved.queue, coreCtx_feWaiting]
    simp
  have hfirst : ((feWaiting s cc q).coreCtx cc).feq.find? (fun x => x.word == q.word && feAdmits (((feWaiting s cc q).coreCtx cc).full.get false q.word) x.kind) = some q := by
    rw [← feAdmits_iff] at hadmits
    rw [coreCtx_feWaiting]
    simp [hadmits]
  rw [feArrive_eq hidle, feRun_serve hfirst, feRun_idle (by rw [hqueue]; rfl)]
  exact ⟨hserved, hqueue⟩
end

/-! ## Decrements and arrivals (R370 to R372) -/

/-- A completion check leaves registers and flags alone. -/
theorem barChecked_thread {s t : State} {cc : Nat} {b : BitVec 7} {r : Bar} (h : BarCheckedFrom s t cc b r) (k : Nat) :
    (t.thread k).stat = (s.thread k).stat ∧ (t.thread k).regs = (s.thread k).regs := by
  obtain hk | ⟨-, -, hk⟩ := h.threads k
  · rw [hk]
    exact ⟨rfl, rfl⟩
  · rw [hk]
    exact ⟨rfl, rfl⟩

/-- s without the decrement, its thread marked where it counts more than is pending. -/
def decremented (s : State) (o : Op) (cc : Nat) (b : BitVec 7) (n : Nat) : State :=
  if n ≤ (s.bar cc b).pending.toNat || (s.thread o.thr).life ≠ .resident then s.dropOp o.id else (s.dropOp o.id).orStat o.thr statBarUnder

/-- A barrier's record with n bytes fewer pending, at least 0. -/
def Bar.less (r : Bar) (n : Nat) : Bar := { r with pending := wrap ((r.pending.toNat - n : Nat) : Int) }

theorem pending_less (p : Word) (n : Nat) : (if n ≤ p.toNat then p - BitVec.ofNat 64 n else 0) = wrap ((p.toNat - n : Nat) : Int) := by
  rw [wrap_natCast]
  split
  · next h =>
    apply BitVec.eq_of_toNat_eq
    rw [BitVec.toNat_sub, BitVec.toNat_ofNat, BitVec.toNat_ofNat]
    omega
  · next h => rw [Nat.sub_eq_zero_of_le (by omega)] <;> rfl

theorem not_needing {s : State} {o : Op} (hops : ∀ x ∈ s.ops, x.id ∉ o.needs) (howed : ∀ e ∈ s.threads, ∀ n ∈ e.2.owed, n ∉ o.needs) : s.needing o = false := by
  rw [State.needing, List.any_eq_false]
  intro n hn
  rw [State.awaits, Bool.or_eq_true, List.any_eq_true, List.any_eq_true]
  rintro (⟨x, hx, hid⟩ | ⟨e, he, hmem⟩)
  · exact hops x hx (by rwa [eq_of_beq hid])
  · exact howed e he n (by simpa using hmem) hn

theorem exec_pendingDecrement {s : State} {o : Op} {cc n : Nat} {b : BitVec 7} (hfind : s.findOp o.id = some o) (hk : o.kind = .decrement cc b n) (hneed : s.needing o = false) :
    exec (.pendingDecrement o.id) s = .next (((decremented s o cc b n).setBar cc b ((s.bar cc b).less n)).checkBar cc b) := by
  have hmark (r : Bar) : (decremented s o cc b n).setBar cc b r =
      if n ≤ (s.bar cc b).pending.toNat || (s.thread o.thr).life ≠ .resident then (s.dropOp o.id).setBar cc b r else ((s.dropOp o.id).setBar cc b r).orStat o.thr statBarUnder := by
    unfold decremented
    split <;> rfl
  show execPendingDecrement o.id s = _
  unfold execPendingDecrement
  simp only [hfind, hneed, hk, Bool.false_eq_true, if_false]
  rw [hmark, Bar.less, ← pending_less]
  rfl

theorem stat_decremented (s : State) (o : Op) (cc : Nat) (b : BitVec 7) (n : Nat) : ((decremented s o cc b n).thread o.thr).stat =
    if (s.bar cc b).pending.toNat < n ∧ (s.thread o.thr).life = .resident then (s.thread o.thr).stat ||| 0x200 else (s.thread o.thr).stat := by
  unfold decremented
  split
  · next h => rw [if_neg (by simpa [imp_iff_not_or] using h)] <;> rfl
  · next h =>
    rw [if_pos (by simpa using h), State.orStat, State.thread_setThread_same]
    rfl

theorem regs_decremented (s : State) (o : Op) (cc : Nat) (b : BitVec 7) (n k : Nat) : ((decremented s o cc b n).thread k).regs = (s.thread k).regs := by
  unfold decremented
  split
  · rfl
  · rw [State.orStat]
    by_cases hk : k = o.thr
    · subst hk
      rw [State.thread_setThread_same]
      rfl
    · rw [State.thread_setThread_ne _ _ _ _ hk]
      rfl

theorem decremented_cores (s : State) (o : Op) (cc : Nat) (b : BitVec 7) (n : Nat) : (decremented s o cc b n).ccs = s.ccs ∧ SameBytes s (decremented s o cc b n) := by
  unfold decremented
  split <;> exact ⟨rfl, sameBytes_of_eq rfl rfl⟩

theorem exec_writeAcceptance_arrive {s : State} {o : Op} {cc : Nat} {b : BitVec 7} (hfind : s.findOp o.id = some o) (hk : o.kind = .arrive cc b) (hp : s.performable o = true)
    (hfar : o.isFar = false) (hheld : s.heldCc cc = false) : exec (.writeAcceptance o.id none) s = .next ((s.dropOp o.id).arriveBar cc b o.mul) := by
  have hend := endOp_alone hfind (by rw [hk]; rfl) hp hfar "WRITE_ACCEPTANCE"
  have hperform : s.performOp o = (s.dropOp o.id).arriveBar cc b o.mul := by
    simp only [State.performOp, hk, hheld, Bool.false_eq_true, if_false]
  show execWriteAcceptance o.id none s = _
  unfold execWriteAcceptance
  simp only [hfind, hk]
  rw [← hperform, ← hend, hk]
  rfl

theorem exec_writeAcceptance_feset {s : State} {o : Op} {cc off : Nat} {full : Bool} (hfind : s.findOp o.id = some o) (hk : o.kind = .feset full) (hplace : o.place = .lm cc off)
    (hp : s.performable o = true) (hidle : (s.coreCtx cc).feq = []) (hheld : s.heldCc cc = false) : exec (.writeAcceptance o.id none) s = .next
      ((s.dropOp o.id).setCoreCtx cc { s.coreCtx cc with full := (s.coreCtx cc).full.put (off / 8) full }) := by
  have hheld' : (s.dropOp o.id).heldCc cc = false := hheld
  show execWriteAcceptance o.id none s = _
  unfold execWriteAcceptance
  simp only [hfind, hk, hplace, hp, if_true]
  unfold State.feSet State.feAll
  rw [hheld', if_neg Bool.false_ne_true]
  dsimp only
  rw [feRun_idle (by rw [State.coreCtx_setCoreCtx_same]; exact congrArg (List.find? _) hidle)]
  rfl

end Sys2Proof.Machine

open Sys2Proof Sys2Proof.Machine Sys2Proof.Claims

/-- Settles O14: each arrival by what it does to the core it reaches. -/
theorem messagesAndArrivals : Obligations.MessagesAndArrivals := by
  intro s o hfind
  refine ⟨fun cc p h hk hroom hfirst => ?_, fun cc hk hp hfar => ?_, fun cc word kind hk hp hfar hidle hheld hsound => ?_, fun cc b n hk hops howed => ?_,
    fun cc b hk hp hfar hheld => ?_, fun full cc off hk hplace hp hidle hheld => exec_writeAcceptance_feset hfind hk hplace hp hidle hheld⟩
  · intro x
    have hx (k : Nat) : (sentNow s o).thread k = x k := thread_sentNow s o k
    have hrest := rest_messageArrival s o cc { payload := p, hdr := h }
    have hcore (c : Nat) : ((sentNow s o).pushMsg cc { payload := p, hdr := h }).coreCtx c = (withMsg (s.dropOp o.id) cc { payload := p, hdr := h }).coreCtx c :=
      (congrArg (State.coreCtx · c) hrest :)
    refine ⟨_, exec_messageArrival hfind hk hroom hfirst, (congrArg State.ops hrest :), ?_, fun c hc => ?_, fun k => ?_, fun hdeaf k => ?_, ?_, ?_⟩
    · rw [hcore]
      exact State.coreCtx_setCoreCtx_same ..
    · rw [hcore]
      exact State.coreCtx_setCoreCtx_ne _ _ _ _ hc
    · rw [← hx]
      exact (pushMsg_keeps (sentNow s o) cc _).1 k
    · rw [pushMsg_deaf (forall_threads_sentNow (P := fun t => ¬t.hears cc) (fun ht => absurd ht.2.1 (by decide)) (fun _ _ ht => ht) fun e he ht => ?_)]
      · exact hx k
      · obtain ⟨hcc, hlife, hmask⟩ := ht
        rw [(hdeaf e he hcc hlife).1] at hmask
        cases hmask
    · rintro ⟨e, he, hne, hcc, hlife, hslot, hwait⟩ k
      rw [pushMsg_waited (mem_threads_sentNow he hne) hcc hlife hslot hwait]
      exact hx k
    · exact (congrArg (fun u : State => { u with ops := s.ops, ccs := s.ccs, threads := s.threads }) hrest :)
  · have hexec := exec_loadReturn_alone hfind (by rw [hk]; rfl) (by rw [hk]; rfl) hp hfar
    dsimp only
    cases hq : (s.coreCtx cc).dq.getLast? with
    | none =>
      rw [performOp_steal hk (stealFrom_none (s := s.dropOp o.id) hq)] at hexec
      exact ⟨_, hexec, stolen_ends s o cc _ _⟩
    | some r =>
      rw [performOp_steal hk (stealFrom_some (s := s.dropOp o.id) hq)] at hexec
      exact ⟨_, hexec, stolen_ends s o cc _ _⟩
  · intro full
    have hexec := exec_loadReturn_alone hfind (by rw [hk]; rfl) (by rw [hk]; rfl) hp hfar
    have hperform : s.performOp o = (s.dropOp o.id).feArrive cc { thr := o.thr, word := word, kind := kind, data := o.data, cycle := s.cycle } := by
      simp only [State.performOp, hk]
    rw [hperform] at hexec
    by_cases hadmits : if kind = 1 then full = false else full = true
    · obtain ⟨⟨hthread, -, hbit, hlm, hregs, hops, hbytes⟩, hempty⟩ := feArrive_served (s := s.dropOp o.id)
        (q := { thr := o.thr, word := word, kind := kind, data := o.data, cycle := s.cycle }) hidle hadmits hheld hsound
      rw [coreCtx_feWaiting] at hthread hlm
      refine ⟨_, hexec, hops, ?_, hregs, hbytes⟩
      rw [if_pos hadmits]
      exact ⟨hthread, hempty, hbit, hlm⟩
    · rw [feArrive_waits (s := s.dropOp o.id) (q := { thr := o.thr, word := word, kind := kind, data := o.data, cycle := s.cycle }) hidle hadmits] at hexec
      refine ⟨_, hexec, rfl, ?_, fun _ _ => rfl, sameBytes_of_eq rfl rfl⟩
      rw [if_neg hadmits]
      exact ⟨rfl, coreCtx_feWaiting ..⟩
  · have hchecked := barCheckedFrom_setBar (decremented s o cc b n) cc b ((s.bar cc b).less n)
    obtain ⟨hccs, hbytes⟩ := decremented_cores s o cc b n
    refine ⟨_, exec_pendingDecrement hfind hk (not_needing hops howed), hchecked.bar, fun c x hx => ?_, ?_, fun k => ?_, fun a => ?_⟩
    · rw [hchecked.others c x hx, State.bar, State.coreCtx, hccs]
      rfl
    · rw [(barChecked_thread hchecked o.thr).1, stat_decremented]
    · rw [(barChecked_thread hchecked k).2, regs_decremented]
    · rw [(hchecked.bytes a).1, (hchecked.bytes a).2]
      exact hbytes a
  · have hchecked := barCheckedFrom_setBar (s.dropOp o.id) cc b { s.bar cc b with arrived := BitVec.ofNat 32 (min ((s.bar cc b).arrived.toNat + o.mul) (2 ^ 32 - 1)) }
    exact ⟨_, exec_writeAcceptance_arrive hfind hk hp hfar hheld, hchecked.bar, hchecked.others, fun k => (barChecked_thread hchecked k).2, hchecked.bytes⟩
end
